-- ==== Sys2Proof/Word.lean ====
section
/-! DEFINITION. The word types of the machine (R3, R4, R41, R270). -/

namespace Sys2Proof

/-- One byte. -/
abbrev Byte := BitVec 8

/-- One scalar register, one virtual address (R9, R270). -/
abbrev Word := BitVec 64

/-- The bits `hi` down to `lo` of a number (R3). -/
def bits (n hi lo : Nat) : Nat := n / 2 ^ lo % 2 ^ (hi + 1 - lo)

end Sys2Proof
end

