-- ==== Sys2Proof/Config.lean ====
section
/-! DEFINITION. What the NC-512L fixes once (R1, R2), and the values the manual leaves open. -/

namespace Sys2Proof.Config

/-- Granules of 4 KiB in one 64 GiB stack (R79). -/
def granulesPerStack : Nat := 2 ^ 24

/-- Slots of the hole queue of a core (R164). -/
def holeSlots : Nat := 256

/-- Entries of a vector instruction queue (R149). -/
def viqSlots : Nat := 32

/-- Entries of a synchronising read queue and of an ARIT (R110, R145, R150). -/
def syncSlots : Nat := 8
def aritSlots : Nat := 16

/-- Distinct pages of one segment of the run-ahead pipeline (R25). -/
def segmentPages : Nat := 64

/-- Copies that a scratchpad tracks (R69). -/
def trackSlots : Nat := 8

/-- Fill records a scratchpad keeps (R66). -/
def fillRecords : Nat := 16

/-- Stream slots of a vector hart (R62). -/
def streamSlots : Nat := 8

/-- Banks of the gather TLB, and entries of each (R23). -/
def tlbBanks : Nat := 8
def tlbWays : Nat := 64

/-- Scalar-core cycles of one reference tick: 2.0 GHz against 100 MHz (R2, R6, R184). -/
def cyclesPerTick : Nat := 20

/-- First address of the gang window and of the core-local window, and the first address
that is not a window slot any more (R9). -/
def gangBase : Nat := 0x00FFFE0000000000
def gangEnd : Nat := 0x00FFFE0003000000
def localBase : Nat := 0x00FFFF0000000000
def localEnd : Nat := 0x00FFFF0001000000

/-- Sizes of a scratchpad and of a scalar data memory (R50, R56). -/
def spadBytes : Nat := 0x200000
def sdmBytes : Nat := 0x10000

/-- Device physical regions (R20). -/
def devEnd : Nat := 0x8000000000
def regBase : Nat := 0x2000000000000
def regEnd : Nat := 0x2000100000000
def remoteBase : Nat := 0x4000000000000
def hostBase : Nat := 0x8000000000000
def physEnd : Nat := 0x10000000000000

/-- The partition service blocks and the debug units' register blocks (R402, R418). -/
def serviceBase : Nat := 0x2000008000000
def debugBase : Nat := 0x2000010000000

/-- FREE VALUE (log 7). The plinth number a status or fault word reports where the manual
fixes none: R74 and R377 name "the plinth that reported it". No body: nothing can be proved of it. -/
opaque freePlinth : Nat → BitVec 3

/-- FREE VALUE (log 7). A 64-bit value the manual leaves open, one per number drawn. -/
opaque freeWord : Nat → Word

/-- FREE VALUE (log 7). Bytes that no rule fixes, one per number drawn: what the entropy source delivers (R411, R428). -/
opaque freeByte : Nat → Byte

/-- FREE VALUE (log 7). The value of a measurement register, byte by byte, that SHA-384 gives for the digests extended into it (R423), and
the byte of the device key's two signatures over a quote, for what the entropy source gave (R424, R427): the model computes neither. -/
opaque measureByte : List Byte → Nat → Byte
opaque signByte : List Byte → List Byte → Nat → Byte

/-- FREE VALUE (log 7). The boot record (R423): no rule gives its layout. It is made of the retired stacks, and for every core its
retired lane, row and column groups. -/
opaque bootRecord : Nat → List (Nat × Nat × Nat) → List Byte

/-- FREE VALUE (log 15). The ciphertext of a sector: the partition whose key encrypts it, the sector's number and its
512 bytes (R18, R40). AES-256-XTS is named by the manual, the key is not. -/
opaque cipher : Nat → Nat → List Byte → Nat → Byte

/-- IMPLEMENTATION VALUE (log 7). Where the steward's built-in fill routines lie (R262, R347):
the manual gives no address. -/
opaque builtinPc : Word

/-- IMPLEMENTATION VALUE (log 7). The element a full gather TLB bank gives up: R23 says the
choice is not architectural. -/
opaque tlbVictim : Nat → Fin 64

/-- IMPLEMENTATION VALUE (log 7). Where memwalk.RATE lies in the plinth register blocks (R84, R85), the deadline of the steward's
policy (R88), the rate of a port's policer (R420) and the firmware's targets for voltage, current and temperature (R422): the manual
gives no addresses. -/
opaque plinthRate : Nat
opaque returnDeadline : Nat
opaque policerOf : Nat → Option (Fin 64)
opaque targetOf : Nat → Option (Fin 3)

/-- FREE VALUE (log 53). How many moves, at least, the walker has started when a copy completes, and which of the moves in flight
it is that completes: R90 allows up to 512 at a time, in any order. -/
opaque movesStarted : Nat → Nat
opaque moveEnding : Nat → Nat

/-- FREE VALUE (log 55). How many single-bit errors have been corrected between two health messages (R209): they are physical
events, of which the opcode table has no row. -/
opaque correctedErrors : Nat → Nat

/-- FREE VALUE (log 55). The body of a health message that carries the count of corrected errors and the FAILING flags (R424): no
rule gives its layout. -/
opaque healthByte : Nat → Nat → Nat → Byte

end Sys2Proof.Config
end

