-- ==== Sys2Proof/Vocabulary.lean ====
section
/-! DEFINITION. The vocabulary of the syntax: types, causes of traps, and the operands of device events. -/

namespace Sys2Proof

/-- The type codes (R247). `res` is the reserved code 15. -/
inductive Ty where
  | i8 | i16 | i32 | i64 | n8 | n16 | n32 | n64 | bf16 | f32 | e4m3 | e5m2 | mx4 | d64 | f64 | res
  deriving DecidableEq, Repr

/-- A register number, 0 to 31 (R245). -/
abbrev Reg := Fin 32

/-- The causes of a trap (R191). -/
inductive Cause where
  | none | ill | priv | align | page | perm | memcap | remote | access | fpx | decx | poison
  | fut2 | pattern | ue | mismatch | bar | svc | break_
  deriving DecidableEq, Repr

/-- What a trap writes into its bank besides the state of the hart (R191, R195, R196). -/
structure TrapInfo where
  cause : Cause
  /-- tsub bits 3:0. -/
  sub   : Nat := 0
  /-- tsub bits 7:4. -/
  level : Nat := 0
  /-- tsub bits 15:8: for POISON the recorded cause code. -/
  orig  : Nat := 0
  treg  : Nat := 0x3F
  telem : Nat := 0
  taddr : Nat := 0
  /-- The device address of an uncorrectable codeword that raised the trap: its plinth raises FAILING (R86). -/
  media : Option Nat := none
  deriving DecidableEq, Repr

/-- What an access needs of a page (R16). -/
inductive Access where
  | load | store | atomic | fetch
  deriving DecidableEq, Repr

/-- The functions of the atomics (R387, R388). -/
inductive AmoFn where
  | ld | st | swap | cas | add | and | or | xor | min | max
  deriving DecidableEq, Repr

/-- An atomic that a request asks for (R76): the function, the type, what cas compares with, and the operand. -/
structure AmoReq where
  fn  : AmoFn
  ty  : Ty
  cmp : Nat
  y   : Nat
  deriving DecidableEq, Repr

/-- A request that reaches a target (R35, R36): the identifier of its master, the device physical
address, and the bytes it writes, or how many it reads, or the atomic it asks for. `spad`: the address is an offset in the
scratchpad of a core (R55). -/
structure Request where
  master : Nat
  addr   : Nat
  write  : Option (List Byte)
  len    : Nat
  amo    : Option AmoReq := none
  spad   : Option Nat := none
  deriving DecidableEq, Repr

/-- The reasons a gang is killed (R218). -/
inductive KillReason where
  | double | state | request | partition | fence | noHandler
  deriving DecidableEq, Repr

/-- Why the device kills a gang: the reason, and the hart whose fault it is where there is one (R218). -/
structure KillCause where
  reason : KillReason
  hart   : Option Nat := none
  deriving DecidableEq, Repr

/-- A management command that the steward takes (R425 to R427): its block, bytes 0 to 64 + PLEN - 1, where it came through the management
port (on the host link the block lies in host memory, at the address written to CMD), and whether both signatures of the operator key
verify: the keys and the algorithms are no part of the model (log 7). -/
structure Command where
  port   : Option (List Byte)
  signed : Bool
  deriving DecidableEq, Repr

/-- What a command block asks for, once its OPCODE, PLEN and payload are read (R425, R426). -/
inductive CmdOp where
  | retire (stack : Nat)
  | create (part clusters ports : Nat) (ranges : List (Nat × Nat))
  | destroy (part : Nat)
  | reset (part : Nat)
  | quote (nonce : List Byte)
  | challenge
  | unlock (challenge : List Byte)
  | record
  deriving DecidableEq, Repr

/-- What a write TLP through BAR 2 carries (R414): bytes, or an AtomicOp of `len` bytes. -/
inductive HostData where
  | bytes (b : List Byte)
  | atomic (q : AmoReq) (len : Nat)
  deriving DecidableEq, Repr

/-- What a read TLP of a function names (R415): an offset in the window of BAR 2, or of BAR 0. -/
inductive HostAddr where
  | window (off : Nat)
  | register (off : Nat)
  deriving DecidableEq, Repr

/-- What boot finds when it checks a stage (R423): the SHA-384 digest of the stage, whether each of its signatures verifies, and its
security version. -/
structure StageCheck where
  digest  : List Byte := []
  rsa     : Bool := true
  slh     : Bool := true
  version : Nat := 0
  deriving DecidableEq, Repr

/-- The stages before the images: boot ROM, steward firmware, hypervisor. -/
structure BootChain where
  rom      : StageCheck := {}
  firmware : StageCheck := {}
  hypervisor : StageCheck := {}
  deriving DecidableEq, Repr

/-- What the signed load request of a partition's image has the steward do once the image has passed boot (R423, R443): the
bytes it loads by device physical address, the pattern indices that its words name (R269), the roots of the tables, and the
first task with its gang. -/
structure LoadRequest where
  part   : Nat
  bytes  : List (Nat × List Byte)
  patts  : List Nat
  root2  : Nat
  ptbase : BitVec 64
  tvec   : BitVec 64
  entry  : BitVec 64
  arg    : BitVec 64
  die    : Nat
  cls    : Nat
  cores  : Nat
  nv     : Nat
  nh     : Nat
  np     : Nat
  check  : StageCheck := {}
  deriving DecidableEq, Repr

/-- What a recording holds of an event (R411): a TLP of a host function, a request of a fabric port, a command through the management
port with what the checks of its signatures gave, a draw from the entropy source, the measured boot image. -/
inductive Arrived where
  | write (fn off : Nat) (d : HostData)
  | read (fn : Nat) (a : HostAddr) (len : Nat)
  | register (fn off value : Nat)
  | port (n : Nat) (r : Request)
  | command (block : List Byte) (signed vendor : Bool)
  | entropy (b : List Byte)
  | boot (images : List LoadRequest)
  deriving DecidableEq, Repr

/-- An entry of a log (R411): the reftime, and the event with its source and payload. -/
structure Arrival where
  tick : Nat
  what : Arrived
  deriving DecidableEq, Repr

/-- Where a recorded event comes from (R411). -/
inductive LogSource where
  | host | port (n : Nat) | management | entropy
  deriving DecidableEq, Repr

/-- The source of a log entry; the measured boot image is the steward's own (DESIGN CHOICE, log 82: counted to the management port). -/
def Arrived.source (a : Arrived) : LogSource :=
  match a with
  | .write .. | .read .. | .register .. => .host
  | .port n _ => .port n
  | .command .. | .boot _ => .management
  | .entropy _ => .entropy

end Sys2Proof
end

