-- ==== Sys2Proof/Syntax.lean ====
section
/-! DEFINITION. The syntax: one constructor of `Instr` for each row of spec/opcode_table.json.
The first 276 are instruction words (R243 to R249). The last 65 are the rows that have no word:
the device's events, with the operands their rules name. -/

namespace Sys2Proof

/-- The instructions and the device events: one constructor per row of the opcode table. -/
inductive Instr where
  | ill (x : BitVec 26)  -- ILL, R251
  | ill3f (x : BitVec 26)  -- ILL_3F, R251
  | aluAdd (d : Reg) (a : Reg) (b : Reg) (t : Ty)  -- ALU_ADD, R272
  | aluSub (d : Reg) (a : Reg) (b : Reg) (t : Ty)  -- ALU_SUB, R272
  | aluAdds (d : Reg) (a : Reg) (b : Reg) (t : Ty)  -- ALU_ADDS, R272
  | aluSubs (d : Reg) (a : Reg) (b : Reg) (t : Ty)  -- ALU_SUBS, R272
  | aluMul (d : Reg) (a : Reg) (b : Reg) (t : Ty)  -- ALU_MUL, R272
  | aluMulh (d : Reg) (a : Reg) (b : Reg) (t : Ty)  -- ALU_MULH, R272
  | aluDiv (d : Reg) (a : Reg) (b : Reg) (t : Ty)  -- ALU_DIV, R272
  | aluRem (d : Reg) (a : Reg) (b : Reg) (t : Ty)  -- ALU_REM, R272
  | aluAnd (d : Reg) (a : Reg) (b : Reg) (t : Ty)  -- ALU_AND, R272
  | aluOr (d : Reg) (a : Reg) (b : Reg) (t : Ty)  -- ALU_OR, R272
  | aluXor (d : Reg) (a : Reg) (b : Reg) (t : Ty)  -- ALU_XOR, R272
  | aluAndn (d : Reg) (a : Reg) (b : Reg) (t : Ty)  -- ALU_ANDN, R272
  | aluShl (d : Reg) (a : Reg) (b : Reg) (t : Ty)  -- ALU_SHL, R272
  | aluShr (d : Reg) (a : Reg) (b : Reg) (t : Ty)  -- ALU_SHR, R272
  | aluMin (d : Reg) (a : Reg) (b : Reg) (t : Ty)  -- ALU_MIN, R272
  | aluMax (d : Reg) (a : Reg) (b : Reg) (t : Ty)  -- ALU_MAX, R272
  | aluSlt (d : Reg) (a : Reg) (b : Reg) (t : Ty)  -- ALU_SLT, R272
  | aluSeq (d : Reg) (a : Reg) (b : Reg) (t : Ty)  -- ALU_SEQ, R272
  | aluPcnt (d : Reg) (a : Reg) (t : Ty)  -- ALU_PCNT, R272
  | aluClz (d : Reg) (a : Reg) (t : Ty)  -- ALU_CLZ, R272
  | aluCtz (d : Reg) (a : Reg) (t : Ty)  -- ALU_CTZ, R272
  | aluiAdd (d : Reg) (a : Reg) (imm : BitVec 12)  -- ALUI_ADD, R273
  | aluiAnd (d : Reg) (a : Reg) (imm : BitVec 12)  -- ALUI_AND, R273
  | aluiOr (d : Reg) (a : Reg) (imm : BitVec 12)  -- ALUI_OR, R273
  | aluiXor (d : Reg) (a : Reg) (imm : BitVec 12)  -- ALUI_XOR, R273
  | aluiShl (d : Reg) (a : Reg) (imm : BitVec 6)  -- ALUI_SHL, R273
  | aluiShr (d : Reg) (a : Reg) (imm : BitVec 6)  -- ALUI_SHR, R273
  | aluiSra (d : Reg) (a : Reg) (imm : BitVec 6)  -- ALUI_SRA, R273
  | aluiSlt (d : Reg) (a : Reg) (imm : BitVec 12)  -- ALUI_SLT, R273
  | aluiSltu (d : Reg) (a : Reg) (imm : BitVec 12)  -- ALUI_SLTU, R273
  | hi (d : Reg) (a : Reg) (imm : BitVec 16)  -- HI, R274
  | ld (d : Reg) (a : Reg) (t : Ty) (off : BitVec 12)  -- LD, R275
  | st (d : Reg) (a : Reg) (t : Ty) (off : BitVec 12)  -- ST, R275
  | brEq (a : Reg) (b : Reg) (off : BitVec 13)  -- BR_EQ, R277
  | brNe (a : Reg) (b : Reg) (off : BitVec 13)  -- BR_NE, R277
  | brLt (a : Reg) (b : Reg) (off : BitVec 13)  -- BR_LT, R277
  | brGe (a : Reg) (b : Reg) (off : BitVec 13)  -- BR_GE, R277
  | brLtu (a : Reg) (b : Reg) (off : BitVec 13)  -- BR_LTU, R277
  | brGeu (a : Reg) (b : Reg) (off : BitVec 13)  -- BR_GEU, R277
  | jmp (off : BitVec 26)  -- JMP, R278
  | jrGo (a : Reg)  -- JR_GO, R279
  | jrCall (d : Reg) (a : Reg)  -- JR_CALL, R279
  | fpuAdd (d : Reg) (a : Reg) (b : Reg) (t : Ty)  -- FPU_ADD, R285
  | fpuSub (d : Reg) (a : Reg) (b : Reg) (t : Ty)  -- FPU_SUB, R285
  | fpuMul (d : Reg) (a : Reg) (b : Reg) (t : Ty)  -- FPU_MUL, R285
  | fpuDiv (d : Reg) (a : Reg) (b : Reg) (t : Ty)  -- FPU_DIV, R285
  | fpuSqrt (d : Reg) (a : Reg) (t : Ty)  -- FPU_SQRT, R285
  | fpuFma (d : Reg) (a : Reg) (b : Reg) (t : Ty)  -- FPU_FMA, R285
  | fpuMin (d : Reg) (a : Reg) (b : Reg) (t : Ty)  -- FPU_MIN, R286
  | fpuMax (d : Reg) (a : Reg) (b : Reg) (t : Ty)  -- FPU_MAX, R286
  | fpuEq (d : Reg) (a : Reg) (b : Reg) (t : Ty)  -- FPU_EQ, R285
  | fpuLt (d : Reg) (a : Reg) (b : Reg) (t : Ty)  -- FPU_LT, R285
  | fpuLe (d : Reg) (a : Reg) (b : Reg) (t : Ty)  -- FPU_LE, R285
  | fpuUnord (d : Reg) (a : Reg) (b : Reg) (t : Ty)  -- FPU_UNORD, R285
  | fpuNeg (d : Reg) (a : Reg) (t : Ty)  -- FPU_NEG, R285
  | fpuAbs (d : Reg) (a : Reg) (t : Ty)  -- FPU_ABS, R285
  | fpuRcp (d : Reg) (a : Reg) (t : Ty)  -- FPU_RCP, R285
  | fpuRsq (d : Reg) (a : Reg) (t : Ty)  -- FPU_RSQ, R285
  | fpuTof32 (d : Reg) (a : Reg) (t : Ty)  -- FPU_TOF32, R287
  | fpuTof64 (d : Reg) (a : Reg) (t : Ty)  -- FPU_TOF64, R287
  | fpuTod64 (d : Reg) (a : Reg) (t : Ty)  -- FPU_TOD64, R287
  | fpuTobf16 (d : Reg) (a : Reg) (t : Ty)  -- FPU_TOBF16, R287
  | fpuTobf16sr (d : Reg) (a : Reg)  -- FPU_TOBF16SR, R287
  | fpuToi64 (d : Reg) (a : Reg) (t : Ty)  -- FPU_TOI64, R287
  | fpuToi64z (d : Reg) (a : Reg) (t : Ty)  -- FPU_TOI64Z, R287
  | fpuTon64 (d : Reg) (a : Reg) (t : Ty)  -- FPU_TON64, R287
  | fpuFromi64 (d : Reg) (a : Reg) (t : Ty)  -- FPU_FROMI64, R287
  | fpuFromn64 (d : Reg) (a : Reg) (t : Ty)  -- FPU_FROMN64, R287
  | fpuQuant (d : Reg) (a : Reg) (b : Reg)  -- FPU_QUANT, R288
  | ctlRd (d : Reg) (num : BitVec 12)  -- CTL_RD, R281
  | ctlWr (a : Reg) (num : BitVec 12)  -- CTL_WR, R281
  | ctlSet (a : Reg) (num : BitVec 12)  -- CTL_SET, R281
  | ctlClr (a : Reg) (num : BitVec 12)  -- CTL_CLR, R281
  | svc (n : BitVec 4)  -- SVC, R290
  | tret  -- TRET, R291
  | idle (d : Reg) (a : Reg)  -- IDLE, R292
  | brk (code : BitVec 12)  -- BRK, R293
  | id (d : Reg)  -- ID, R294
  | csave (d : Reg) (a : Reg) (slots : BitVec 8) (keep : Bool) (coreBit : Bool)  -- CSAVE, R295
  | crest (a : Reg) (go : Bool)  -- CREST, R296
  | tlbinvPage (a : Reg) (scope : BitVec 2)  -- TLBINV_PAGE, R297
  | tlbinvAsid (a : Reg) (scope : BitVec 2)  -- TLBINV_ASID, R297
  | tlbinvAll (scope : BitVec 2)  -- TLBINV_ALL, R297
  | halt  -- HALT, R298
  | amoLd (d : Reg) (a : Reg) (t : Ty) (sys : Bool) (ord : BitVec 2)  -- AMO_LD, R387
  | amoSt (a : Reg) (b : Reg) (t : Ty) (sys : Bool) (ord : BitVec 2)  -- AMO_ST, R387
  | amoSwap (d : Reg) (a : Reg) (b : Reg) (t : Ty) (sys : Bool) (ord : BitVec 2)  -- AMO_SWAP, R387
  | amoCas (d : Reg) (a : Reg) (b : Reg) (t : Ty) (sys : Bool) (ord : BitVec 2)  -- AMO_CAS, R387
  | amoAdd (d : Reg) (a : Reg) (b : Reg) (t : Ty) (sys : Bool) (ord : BitVec 2)  -- AMO_ADD, R387
  | amoAnd (d : Reg) (a : Reg) (b : Reg) (t : Ty) (sys : Bool) (ord : BitVec 2)  -- AMO_AND, R387
  | amoOr (d : Reg) (a : Reg) (b : Reg) (t : Ty) (sys : Bool) (ord : BitVec 2)  -- AMO_OR, R387
  | amoXor (d : Reg) (a : Reg) (b : Reg) (t : Ty) (sys : Bool) (ord : BitVec 2)  -- AMO_XOR, R387
  | amoMin (d : Reg) (a : Reg) (b : Reg) (t : Ty) (sys : Bool) (ord : BitVec 2)  -- AMO_MIN, R387
  | amoMax (d : Reg) (a : Reg) (b : Reg) (t : Ty) (sys : Bool) (ord : BitVec 2)  -- AMO_MAX, R387
  | amoCas2 (d : Reg) (a : Reg) (b : Reg) (sys : Bool) (ord : BitVec 2)  -- AMO_CAS2, R387
  | amoVadd (d : Reg) (a : Reg) (b : Reg) (t : Ty) (sys : Bool) (ord : BitVec 2)  -- AMO_VADD, R388
  | amoVmin (d : Reg) (a : Reg) (b : Reg) (t : Ty) (sys : Bool) (ord : BitVec 2)  -- AMO_VMIN, R388
  | amoVmax (d : Reg) (a : Reg) (b : Reg) (t : Ty) (sys : Bool) (ord : BitVec 2)  -- AMO_VMAX, R388
  | amoVswap (d : Reg) (a : Reg) (b : Reg) (t : Ty) (sys : Bool) (ord : BitVec 2)  -- AMO_VSWAP, R388
  | fenAll (scope : BitVec 3)  -- FEN_ALL, R121
  | fenLoad (scope : BitVec 3)  -- FEN_LOAD, R121
  | fenStore (scope : BitVec 3)  -- FEN_STORE, R121
  | fenEng (scope : BitVec 3)  -- FEN_ENG, R389
  | fenPhase (d : Reg) (a : Reg)  -- FEN_PHASE, R102
  | barInit (d : Reg) (a : Reg)  -- BAR_INIT, R392
  | barArrive (d : Reg) (a : Reg)  -- BAR_ARRIVE, R392
  | barWait (d : Reg) (a : Reg)  -- BAR_WAIT, R392
  | barSync (d : Reg) (a : Reg)  -- BAR_SYNC, R392
  | futInit (d : Reg) (a : Reg)  -- FUT_INIT, R396
  | futReg (d : Reg) (a : Reg)  -- FUT_REG, R396
  | futRes (d : Reg) (a : Reg)  -- FUT_RES, R396
  | futFail (d : Reg) (a : Reg)  -- FUT_FAIL, R396
  | futGet (d : Reg) (a : Reg)  -- FUT_GET, R396
  | futGetTry (d : Reg) (a : Reg)  -- FUT_GET_TRY, R396
  | taskSpawn (d : Reg) (a : Reg)  -- TASK_SPAWN, R398
  | taskSpawnHold (d : Reg) (a : Reg)  -- TASK_SPAWN_HOLD, R398
  | taskExit  -- TASK_EXIT, R399
  | taskYield (d : Reg)  -- TASK_YIELD, R400
  | hqTake  -- HQ_TAKE, R344
  | hqFill (a : Reg) (b : Reg)  -- HQ_FILL, R346
  | hqFail (a : Reg) (b : Reg)  -- HQ_FAIL, R346
  | setvl (d : Reg) (a : Reg) (wid : BitVec 2)  -- SETVL, R307
  | setrows (d : Reg) (a : Reg)  -- SETROWS, R308
  | vwhile (d : Reg) (a : Reg) (cond : BitVec 3) (off : BitVec 9) (t3 : BitVec 3)  -- VWHILE, R309
  | vvAdd (d : Reg) (a : Reg) (b : Reg) (t : Ty)  -- VV_ADD, R311
  | vvSub (d : Reg) (a : Reg) (b : Reg) (t : Ty)  -- VV_SUB, R311
  | vvAdds (d : Reg) (a : Reg) (b : Reg) (t : Ty)  -- VV_ADDS, R311
  | vvSubs (d : Reg) (a : Reg) (b : Reg) (t : Ty)  -- VV_SUBS, R311
  | vvMul (d : Reg) (a : Reg) (b : Reg) (t : Ty)  -- VV_MUL, R311
  | vvMulh (d : Reg) (a : Reg) (b : Reg) (t : Ty)  -- VV_MULH, R311
  | vvDiv (d : Reg) (a : Reg) (b : Reg) (t : Ty)  -- VV_DIV, R311
  | vvRem (d : Reg) (a : Reg) (b : Reg) (t : Ty)  -- VV_REM, R311
  | vvAnd (d : Reg) (a : Reg) (b : Reg) (t : Ty)  -- VV_AND, R311
  | vvOr (d : Reg) (a : Reg) (b : Reg) (t : Ty)  -- VV_OR, R311
  | vvXor (d : Reg) (a : Reg) (b : Reg) (t : Ty)  -- VV_XOR, R311
  | vvAndn (d : Reg) (a : Reg) (b : Reg) (t : Ty)  -- VV_ANDN, R311
  | vvShl (d : Reg) (a : Reg) (b : Reg) (t : Ty)  -- VV_SHL, R311
  | vvShr (d : Reg) (a : Reg) (b : Reg) (t : Ty)  -- VV_SHR, R311
  | vvMin (d : Reg) (a : Reg) (b : Reg) (t : Ty)  -- VV_MIN, R311
  | vvMax (d : Reg) (a : Reg) (b : Reg) (t : Ty)  -- VV_MAX, R311
  | vvPcnt (d : Reg) (a : Reg) (t : Ty)  -- VV_PCNT, R311
  | vvClz (d : Reg) (a : Reg) (t : Ty)  -- VV_CLZ, R311
  | vvCtz (d : Reg) (a : Reg) (t : Ty)  -- VV_CTZ, R311
  | vvMv (d : Reg) (b : Reg) (t : Ty)  -- VV_MV, R311
  | vvNeg (d : Reg) (a : Reg) (t : Ty)  -- VV_NEG, R328
  | vvAbs (d : Reg) (a : Reg) (t : Ty)  -- VV_ABS, R328
  | vvQuant (d : Reg) (a : Reg) (b : Reg)  -- VV_QUANT, R328
  | vxAdd (d : Reg) (a : Reg) (b : Reg) (t : Ty)  -- VX_ADD, R311
  | vxSub (d : Reg) (a : Reg) (b : Reg) (t : Ty)  -- VX_SUB, R311
  | vxAdds (d : Reg) (a : Reg) (b : Reg) (t : Ty)  -- VX_ADDS, R311
  | vxSubs (d : Reg) (a : Reg) (b : Reg) (t : Ty)  -- VX_SUBS, R311
  | vxMul (d : Reg) (a : Reg) (b : Reg) (t : Ty)  -- VX_MUL, R311
  | vxMulh (d : Reg) (a : Reg) (b : Reg) (t : Ty)  -- VX_MULH, R311
  | vxDiv (d : Reg) (a : Reg) (b : Reg) (t : Ty)  -- VX_DIV, R311
  | vxRem (d : Reg) (a : Reg) (b : Reg) (t : Ty)  -- VX_REM, R311
  | vxAnd (d : Reg) (a : Reg) (b : Reg) (t : Ty)  -- VX_AND, R311
  | vxOr (d : Reg) (a : Reg) (b : Reg) (t : Ty)  -- VX_OR, R311
  | vxXor (d : Reg) (a : Reg) (b : Reg) (t : Ty)  -- VX_XOR, R311
  | vxAndn (d : Reg) (a : Reg) (b : Reg) (t : Ty)  -- VX_ANDN, R311
  | vxShl (d : Reg) (a : Reg) (b : Reg) (t : Ty)  -- VX_SHL, R311
  | vxShr (d : Reg) (a : Reg) (b : Reg) (t : Ty)  -- VX_SHR, R311
  | vxMin (d : Reg) (a : Reg) (b : Reg) (t : Ty)  -- VX_MIN, R311
  | vxMax (d : Reg) (a : Reg) (b : Reg) (t : Ty)  -- VX_MAX, R311
  | vxMv (d : Reg) (b : Reg) (t : Ty)  -- VX_MV, R311
  | vxQuant (d : Reg) (a : Reg) (b : Reg)  -- VX_QUANT, R328
  | viAdd (d : Reg) (a : Reg) (imm : BitVec 5) (t : Ty)  -- VI_ADD, R311
  | viSub (d : Reg) (a : Reg) (imm : BitVec 5) (t : Ty)  -- VI_SUB, R311
  | viAdds (d : Reg) (a : Reg) (imm : BitVec 5) (t : Ty)  -- VI_ADDS, R311
  | viSubs (d : Reg) (a : Reg) (imm : BitVec 5) (t : Ty)  -- VI_SUBS, R311
  | viMul (d : Reg) (a : Reg) (imm : BitVec 5) (t : Ty)  -- VI_MUL, R311
  | viMulh (d : Reg) (a : Reg) (imm : BitVec 5) (t : Ty)  -- VI_MULH, R311
  | viDiv (d : Reg) (a : Reg) (imm : BitVec 5) (t : Ty)  -- VI_DIV, R311
  | viRem (d : Reg) (a : Reg) (imm : BitVec 5) (t : Ty)  -- VI_REM, R311
  | viAnd (d : Reg) (a : Reg) (imm : BitVec 5) (t : Ty)  -- VI_AND, R311
  | viOr (d : Reg) (a : Reg) (imm : BitVec 5) (t : Ty)  -- VI_OR, R311
  | viXor (d : Reg) (a : Reg) (imm : BitVec 5) (t : Ty)  -- VI_XOR, R311
  | viAndn (d : Reg) (a : Reg) (imm : BitVec 5) (t : Ty)  -- VI_ANDN, R311
  | viShl (d : Reg) (a : Reg) (imm : BitVec 5) (t : Ty)  -- VI_SHL, R311
  | viShr (d : Reg) (a : Reg) (imm : BitVec 5) (t : Ty)  -- VI_SHR, R311
  | viMin (d : Reg) (a : Reg) (imm : BitVec 5) (t : Ty)  -- VI_MIN, R311
  | viMax (d : Reg) (a : Reg) (imm : BitVec 5) (t : Ty)  -- VI_MAX, R311
  | viMv (d : Reg) (imm : BitVec 5) (t : Ty)  -- VI_MV, R311
  | vqFma (d : Reg) (a : Reg) (b : Reg) (c : Reg) (t3 : BitVec 3)  -- VQ_FMA, R332
  | vqFms (d : Reg) (a : Reg) (b : Reg) (c : Reg) (t3 : BitVec 3)  -- VQ_FMS, R332
  | vqFnma (d : Reg) (a : Reg) (b : Reg) (c : Reg) (t3 : BitVec 3)  -- VQ_FNMA, R332
  | vqFnms (d : Reg) (a : Reg) (b : Reg) (c : Reg) (t3 : BitVec 3)  -- VQ_FNMS, R332
  | vqSfma (d : Reg) (a : Reg) (b : Reg) (c : Reg) (t3 : BitVec 3)  -- VQ_SFMA, R332
  | vqSfms (d : Reg) (a : Reg) (b : Reg) (c : Reg) (t3 : BitVec 3)  -- VQ_SFMS, R332
  | vqSfnma (d : Reg) (a : Reg) (b : Reg) (c : Reg) (t3 : BitVec 3)  -- VQ_SFNMA, R332
  | vqSfnms (d : Reg) (a : Reg) (b : Reg) (c : Reg) (t3 : BitVec 3)  -- VQ_SFNMS, R332
  | vcmp (d : Reg) (a : Reg) (b : Reg) (t : Ty) (cond : BitVec 3)  -- VCMP, R312
  | vcmpX (d : Reg) (a : Reg) (b : Reg) (t : Ty) (cond : BitVec 3)  -- VCMP_X, R312
  | vcmpI (d : Reg) (a : Reg) (imm : BitVec 5) (t : Ty) (cond : BitVec 3)  -- VCMP_I, R312
  | vcmpMand (d : Reg) (a : Reg) (b : Reg)  -- VCMP_MAND, R314
  | vcmpMor (d : Reg) (a : Reg) (b : Reg)  -- VCMP_MOR, R314
  | vcmpMxor (d : Reg) (a : Reg) (b : Reg)  -- VCMP_MXOR, R314
  | vcmpMandn (d : Reg) (a : Reg) (b : Reg)  -- VCMP_MANDN, R314
  | vcmpMset (d : Reg)  -- VCMP_MSET, R314
  | vcmpMclr (d : Reg)  -- VCMP_MCLR, R314
  | vredSum (d : Reg) (a : Reg) (b : Reg) (t : Ty)  -- VRED_SUM, R315
  | vredMin (d : Reg) (a : Reg) (b : Reg) (t : Ty)  -- VRED_MIN, R315
  | vredMax (d : Reg) (a : Reg) (b : Reg) (t : Ty)  -- VRED_MAX, R315
  | vredAnd (d : Reg) (a : Reg) (b : Reg) (t : Ty)  -- VRED_AND, R315
  | vredOr (d : Reg) (a : Reg) (b : Reg) (t : Ty)  -- VRED_OR, R315
  | vredXor (d : Reg) (a : Reg) (b : Reg) (t : Ty)  -- VRED_XOR, R315
  | vredMinidx (d : Reg) (a : Reg) (b : Reg) (t : Ty)  -- VRED_MINIDX, R316
  | vredMaxidx (d : Reg) (a : Reg) (b : Reg) (t : Ty)  -- VRED_MAXIDX, R316
  | vredMpop (d : Reg) (a : Reg)  -- VRED_MPOP, R315
  | vredMfirst (d : Reg) (a : Reg)  -- VRED_MFIRST, R315
  | vpermSlup (d : Reg) (a : Reg) (b : Reg) (t : Ty)  -- VPERM_SLUP, R317
  | vpermSldn (d : Reg) (a : Reg) (b : Reg) (t : Ty)  -- VPERM_SLDN, R317
  | vpermPerm (d : Reg) (a : Reg) (b : Reg) (t : Ty)  -- VPERM_PERM, R317
  | vpermCompress (d : Reg) (a : Reg) (t : Ty)  -- VPERM_COMPRESS, R317
  | vpermXtr (d : Reg) (a : Reg) (b : Reg) (t : Ty)  -- VPERM_XTR, R317
  | vpermIns (d : Reg) (a : Reg) (b : Reg) (t : Ty)  -- VPERM_INS, R317
  | vpermIota (d : Reg) (b : Reg) (t : Ty)  -- VPERM_IOTA, R317
  | vpermHold (d : Reg) (a : Reg) (b : Reg) (t : Ty)  -- VPERM_HOLD, R318
  | vpermDrain (d : Reg) (t : Ty)  -- VPERM_DRAIN, R319
  | vsfuRcp (d : Reg) (a : Reg) (t : Ty)  -- VSFU_RCP, R337
  | vsfuRcpe (d : Reg) (a : Reg) (t : Ty)  -- VSFU_RCPE, R339
  | vsfuRsq (d : Reg) (a : Reg) (t : Ty)  -- VSFU_RSQ, R337
  | vsfuSqrt (d : Reg) (a : Reg) (t : Ty)  -- VSFU_SQRT, R337
  | vsfuExp2 (d : Reg) (a : Reg) (t : Ty)  -- VSFU_EXP2, R337
  | vsfuLog2 (d : Reg) (a : Reg) (t : Ty)  -- VSFU_LOG2, R337
  | vsfuSin (d : Reg) (a : Reg) (t : Ty)  -- VSFU_SIN, R337
  | vsfuCos (d : Reg) (a : Reg) (t : Ty)  -- VSFU_COS, R337
  | vsfuTanh (d : Reg) (a : Reg) (t : Ty)  -- VSFU_TANH, R337
  | vsfuSilu (d : Reg) (a : Reg) (t : Ty)  -- VSFU_SILU, R337
  | vsfuSigm (d : Reg) (a : Reg) (t : Ty)  -- VSFU_SIGM, R337
  | vldUnit (d : Reg) (a : Reg) (t : Ty)  -- VLD_UNIT, R322
  | vldStride (d : Reg) (a : Reg) (t : Ty)  -- VLD_STRIDE, R322
  | vldIndex (d : Reg) (a : Reg) (b : Reg) (t : Ty)  -- VLD_INDEX, R322
  | vldElem (d : Reg) (a : Reg) (b : Reg) (t : Ty)  -- VLD_ELEM, R322
  | vstUnit (d : Reg) (a : Reg) (t : Ty)  -- VST_UNIT, R323
  | vstUnitu (d : Reg) (a : Reg) (t : Ty)  -- VST_UNITU, R323
  | vstStride (d : Reg) (a : Reg) (t : Ty)  -- VST_STRIDE, R323
  | vstStrideu (d : Reg) (a : Reg) (t : Ty)  -- VST_STRIDEU, R323
  | vstIndex (d : Reg) (a : Reg) (b : Reg) (t : Ty)  -- VST_INDEX, R323
  | vstIndexu (d : Reg) (a : Reg) (b : Reg) (t : Ty)  -- VST_INDEXU, R323
  | vstElem (d : Reg) (a : Reg) (b : Reg) (t : Ty)  -- VST_ELEM, R323
  | vstElemu (d : Reg) (a : Reg) (b : Reg) (t : Ty)  -- VST_ELEMU, R323
  | vstmBind (d : Reg) (a : Reg)  -- VSTM_BIND, R62
  | vstmUnbind (d : Reg)  -- VSTM_UNBIND, R68
  | vstmSpill (d : Reg) (a : Reg) (b : Reg)  -- VSTM_SPILL, R48
  | vstmFill (d : Reg) (a : Reg)  -- VSTM_FILL, R326
  | vsettle (a : Reg)  -- VSETTLE, R341
  | vpresPresent (d : Reg) (a : Reg) (t : Ty)  -- VPRES_PRESENT, R340
  | vpresPoisoned (d : Reg) (a : Reg) (t : Ty)  -- VPRES_POISONED, R340
  | vpresHeal (d : Reg) (b : Reg) (t : Ty)  -- VPRES_HEAL, R342
  | vcvt (d : Reg) (a : Reg) (b : Reg) (t : Ty) (src : Ty) (rnd : BitVec 3)  -- VCVT, R334
  | mxMode (d : Reg) (a : Reg) (b : Reg)  -- MX_MODE, R355
  | mxTshape (d : Reg) (a : Reg) (b : Reg) (t : Ty)  -- MX_TSHAPE, R357
  | mxOp (d : Reg) (a : Reg) (b : Reg) (t : Ty)  -- MX_OP, R359
  | mxZero (d : Reg)  -- MX_ZERO, R360
  | mxMv (d : Reg) (a : Reg)  -- MX_MV, R360
  | mxRdrow (d : Reg) (a : Reg) (b : Reg)  -- MX_RDROW, R361
  | mxRdcol (d : Reg) (a : Reg) (b : Reg)  -- MX_RDCOL, R361
  | mxWrrow (d : Reg) (a : Reg) (b : Reg)  -- MX_WRROW, R361
  | mxWrcol (d : Reg) (a : Reg) (b : Reg)  -- MX_WRCOL, R361
  | mxSpill (d : Reg) (a : Reg)  -- MX_SPILL, R362
  | mxFill (d : Reg) (a : Reg)  -- MX_FILL, R362
  | spEval (d : Reg) (a : Reg) (t : Ty)  -- SP_EVAL, R369
  | spGrad (a : Reg) (b : Reg) (t : Ty)  -- SP_GRAD, R370
  | spDx (d : Reg) (a : Reg) (b : Reg) (t : Ty)  -- SP_DX, R370
  | spRefine  -- SP_REFINE, R372
  | spPair (a : Reg)  -- SP_PAIR, R366
  | spGzero  -- SP_GZERO, R373
  | spGspill (a : Reg)  -- SP_GSPILL, R373
  | spGfill (a : Reg)  -- SP_GFILL, R373
  | engCopy (d : Reg) (a : Reg) (b : Reg) (k : BitVec 4)  -- ENG_COPY, R381
  | engMcast (d : Reg) (a : Reg) (b : Reg) (k : BitVec 4)  -- ENG_MCAST, R382
  | engGather (d : Reg) (a : Reg) (b : Reg) (k : BitVec 4)  -- ENG_GATHER, R383
  | engPatt (d : Reg) (a : Reg)  -- ENG_PATT, R384
  | engColl (a : Reg) (k : BitVec 4)  -- ENG_COLL, R385
  | trapEntry (t : TrapInfo)  -- TRAP_ENTRY, R198: of the hart whose turn it is
  | tableWalk (va : Word) (acc : Access)  -- TABLE_WALK, R15: for the hart whose turn it is
  | accessPerform (r : Request)  -- ACCESS_PERFORM, R104
  | targetFaultReport (hart : Nat) (elem row : Nat) (t : TrapInfo)  -- TARGET_FAULT_REPORT, R29
  | replCopyUpdate (die : Fin 4) (k : Nat)  -- REPL_COPY_UPDATE, R125: the k-th waiting update
  | streamReadAhead (hart : Nat) (slot : Nat)  -- STREAM_READ_AHEAD, R67
  | engCompletion (hart : Nat) (kind : BitVec 4) (block : Word) (status : Word)  -- ENG_COMPLETION, R378
  | collTimeout (hart : Nat)  -- COLL_TIMEOUT, R385
  | hqTakeDispatch (hart : Nat)  -- HQ_TAKE_DISPATCH, R344
  | idleWake (hart : Nat)  -- IDLE_WAKE, R292
  | placementPass (die : Fin 4)  -- PLACEMENT_PASS, R173
  | preempt (gang : Nat)  -- PREEMPT, R176
  | preemptWaitExpiry (die : Fin 4) (cls : Fin 4)  -- PREEMPT_WAIT_EXPIRY, R175
  | remoteStopTimeout (hart : Nat) (t : TrapInfo)  -- REMOTE_STOP_TIMEOUT, R177
  | hostStopTimeout (hart : Nat) (t : TrapInfo)  -- HOST_STOP_TIMEOUT, R177
  | gangKill (gang : Nat) (why : KillCause)  -- GANG_KILL, R218
  | dieFence (die : Fin 4)  -- DIE_FENCE, R219
  | laneGroupRetire (core : Nat) (group : Fin 8)  -- LANE_GROUP_RETIRE, R216
  | governorSample (die : Fin 4) (percent : Nat)  -- GOVERNOR_SAMPLE, R183
  | thermalOver (die : Fin 4)  -- THERMAL_OVER, R184
  | thermalStepDown (die : Fin 4)  -- THERMAL_STEP_DOWN, R184
  | thermalRecover (die : Fin 4)  -- THERMAL_RECOVER, R184
  | thermalStepUp (die : Fin 4)  -- THERMAL_STEP_UP, R184
  | boostIntervalEnd (die : Fin 4)  -- BOOST_INTERVAL_END, R186
  | linkDown (port : Fin 64)  -- LINK_DOWN, R34
  | linkUp (port : Fin 64)  -- LINK_UP, R33
  | peerReset (port : Fin 64)  -- PEER_RESET, R33
  | fabricInboundRequest (port : Fin 64) (r : Request)  -- FABRIC_INBOUND_REQUEST, R420
  | hostInboundWrite (fn : Fin 4) (off : Nat) (data : HostData)  -- HOST_INBOUND_WRITE, R133
  | hostInboundRead (fn : Fin 4) (off : HostAddr) (len : Nat)  -- HOST_INBOUND_READ, R133
  | plinthFailing (stack : Fin 8)  -- PLINTH_FAILING, R86
  | retireDrop (stack : Fin 8)  -- RETIRE_DROP, R87
  | rangeReturn (part : Fin 4)  -- RANGE_RETURN, R88
  | partitionDeadline (part : Fin 4)  -- PARTITION_DEADLINE, R88
  | walkStart  -- WALK_START, R89
  | granuleMove  -- GRANULE_MOVE, R90
  | copyBroadcast (requester : Nat)  -- COPY_BROADCAST, R94
  | hangWatchdog (hart : Nat)  -- HANG_WATCHDOG, R429
  | stewardWatchdog  -- STEWARD_WATCHDOG, R429
  | packageReset (replay : Option (List Arrival)) (chain : BootChain) (images : List LoadRequest)  -- PACKAGE_RESET, R423
  | energyUpdate (microjoules : Nat)  -- ENERGY_UPDATE, R430
  | energyLoRead (fn : Fin 4)  -- ENERGY_LO_READ, R430
  | mbtailWrite (fn : Fin 4) (value : Word)  -- MBTAIL_WRITE, R415
  | winbaseWrite (fn : Fin 4) (value : Word)  -- WINBASE_WRITE, R416
  | hostSpawn (fn : Fin 4) (value : Word)  -- HOST_SPAWN, R444
  | dmbaseWrite (part : Fin 4) (value : Word)  -- DMBASE_WRITE, R418
  | dmtailWrite (part : Fin 4) (value : Word)  -- DMTAIL_WRITE, R418
  | registerWrite (master : Nat) (addr : Nat) (value : Word)  -- REGISTER_WRITE, R36
  | retire (c : Command) (stack : Fin 8)  -- RETIRE, R425
  | partCreate (c : Command) (part : Fin 4) (clusters ports : Nat) (ranges : List (Nat × Nat))  -- PART_CREATE, R421
  | partDestroy (c : Command) (part : Fin 4)  -- PART_DESTROY, R421
  | reset (c : Command) (part : Fin 4)  -- RESET, R425
  | quote (c : Command) (nonce : List Byte)  -- QUOTE, R424
  | unlockChallenge (c : Command)  -- UNLOCK_CHALLENGE, R428
  | unlock (c : Command) (challenge : List Byte) (vendorSigned : Bool)  -- UNLOCK, R428
  | record (c : Command)  -- RECORD, R411
  | dbgHalt (hart : Nat)  -- DBG_HALT, R409
  | dbgResume (hart : Nat)  -- DBG_RESUME, R409
  | dbgStepInstruction (hart : Nat) (count : Nat)  -- DBG_STEP_INSTRUCTION, R410
  | dbgStepElements (hart : Nat) (count : Nat)  -- DBG_STEP_ELEMENTS, R410
  | breakpointHit (hart : Nat) (k : Fin 4)  -- BREAKPOINT_HIT, R408
  | traceSample (core : Nat)  -- TRACE_SAMPLE, R407
  | replayInject (a : Arrival)  -- REPLAY_INJECT, R412
  | arrayRowGroupRetirement (core : Nat) (column : Bool) (group : Fin 4)  -- ARRAY_ROW_GROUP_RETIREMENT, R217
  | packagePowerOff  -- PACKAGE_POWER_OFF, R1
  deriving DecidableEq, Repr

end Sys2Proof
end

