-- ==== Sys2Proof/WellFormed.lean ====
section
/-! DEFINITION. Which sub-field values R250 lets an instruction hold. An instruction that is not well
formed traps ILL, subcode ENCODING, at commit. A device event is well formed when its numbers name
something the device has. -/

namespace Sys2Proof

namespace Ty

/-- The code of a type (R247). -/
def code : Ty → Nat
  | i8 => 0 | i16 => 1 | i32 => 2 | i64 => 3 | n8 => 4 | n16 => 5 | n32 => 6 | n64 => 7
  | bf16 => 8 | f32 => 9 | e4m3 => 10 | e5m2 => 11 | mx4 => 12 | d64 => 13 | f64 => 14 | res => 15

/-- The type of a code (R247). -/
def ofCode (n : Nat) : Ty :=
  match n with
  | 0 => i8 | 1 => i16 | 2 => i32 | 3 => i64 | 4 => n8 | 5 => n16 | 6 => n32 | 7 => n64
  | 8 => bf16 | 9 => f32 | 10 => e4m3 | 11 => e5m2 | 12 => mx4 | 13 => d64 | 14 => f64 | _ => res

/-- Bits of an element of the type (R41, R247). -/
def width : Ty → Nat
  | i8 | n8 | e4m3 | e5m2 => 8
  | i16 | n16 | bf16 => 16
  | i32 | n32 | f32 => 32
  | i64 | n64 | d64 | f64 | res => 64
  | mx4 => 4

/-- Bytes of a scalar or an element access of the type (R275, R321). -/
def size (t : Ty) : Nat := (t.width + 7) / 8

/-- Types 0 to 7. -/
def isInt (t : Ty) : Bool := t.code < 8

/-- The two's complement types. -/
def isSigned (t : Ty) : Bool := t.code < 4

/-- bf16, f32 and d64: the types the lanes compute (R328). -/
def isLane (t : Ty) : Bool := t == bf16 || t == f32 || t == d64

/-- The types of the scalar floating-point unit (R282). -/
def isFpu (t : Ty) : Bool := t.isLane || t == f64

/-- The type a ty3 field names (R248); none for 7. -/
def ofCode3 (n : Nat) : Option Ty :=
  match n with
  | 0 => some bf16 | 1 => some f32 | 2 => some d64 | 3 => some i32 | 4 => some i64
  | 5 => some n32 | 6 => some n64 | _ => none

/-- The type a vwhile's fn names (R309). -/
def ofWhile (n : Nat) : Ty :=
  match n with
  | 0 => i32 | 1 => i64 | 2 => n32 | 3 => n64 | 4 => i16 | 5 => bf16 | 6 => f32 | _ => d64

end Ty

/-- The types of an integer function of vv, vx and vi that has no float form. -/
def intOnly (t : Ty) : Bool := t.isInt

/-- The types of a function that also has a float or decimal form (R328). -/
def intOrLane (t : Ty) : Bool := t.isInt || t.isLane

/-- The legal pairs and roundings of vcvt (R333), its b field included. -/
def cvtWf (src dst : Ty) (rnd b : Nat) : Bool :=
  let pair :=
    match src with
    | .bf16 => dst.isInt || dst == .f32 || dst == .e4m3 || dst == .e5m2 || dst == .mx4
    | .f32 => dst.isInt || dst == .bf16 || dst == .e4m3 || dst == .e5m2 || dst == .mx4 || dst == .d64
    | .e4m3 => dst == .bf16 || dst == .f32 || dst == .e5m2
    | .e5m2 => dst == .bf16 || dst == .f32 || dst == .e4m3
    | .mx4 => dst == .bf16 || dst == .f32
    | .d64 => dst.isInt || dst == .f32
    | .f64 | .res => false
    | _ => dst.isLane
  let binFloatSrc := src == .bf16 || src == .f32 || src == .e4m3 || src == .e5m2 || src == .mx4
  let rounding :=
    match rnd with
    | 0 => dst != .mx4
    | 1 => true
    | 2 | 3 | 4 => dst != .mx4
    | 5 => binFloatSrc && (dst == .bf16 || dst == .e4m3 || dst == .e5m2 || dst == .mx4)
    | 6 => dst == .d64
    | _ => false
  let half := if src == .mx4 || dst == .mx4 then b < 2 else b == 0
  pair && rounding && half

/-- The types of ld and st (R247). -/
def ldTy (t : Ty) : Bool := t.isInt || t == .f32 || t == .d64 || t == .f64

/-- Types 2, 3, 6, 7 and 9: the atomics that add or compare (R386). -/
def amoTy (t : Ty) : Bool := t == .i32 || t == .i64 || t == .n32 || t == .n64 || t == .f32

/-- Types 2, 3, 6 and 7: the bitwise atomics (R386). -/
def amoIntTy (t : Ty) : Bool := t == .i32 || t == .i64 || t == .n32 || t == .n64

/-- The types a permute moves (R317). -/
def permTy (t : Ty) : Bool := t.code < 14 && t != .mx4

/-- The types of the index reductions (R315). -/
def idxTy (t : Ty) : Bool :=
  t == .i8 || t == .i16 || t == .i32 || t == .n8 || t == .n16 || t == .n32

/-- The types of hold and drain, and their destination (R318, R319). -/
def holdWf (t : Ty) (d : Reg) : Bool :=
  (t == .i32 || t == .i64 || t == .n32 || t == .n64 || t == .f32 || t == .d64) &&
  d.val % 2 == 0 && d.val ≥ 2

/-- The value types of a matrix product (R354). -/
def mxTy (t : Ty) : Bool := t == .bf16 || t == .e4m3 || t == .e5m2 || t == .mx4

/-- The input types of a relief instruction (R354). -/
def spTy (t : Ty) : Bool := t == .bf16 || t == .f32

/-- A ty value that fits: mx4 moves in unit mode only (R321). -/
def vmemTy (t : Ty) (unit : Bool) : Bool := t.code < 14 && (unit || t != .mx4)

/-- Rows of harts, cores, gangs and the like that exist (R145). -/
def hartOk (h : Nat) : Bool := h < 384 * 8
def coreOk (c : Nat) : Bool := c < 384

/-- Whether R250 lets the instruction's sub-fields stand. -/
def Instr.wf (i : Instr) : Bool :=
  match i with
  | .ill _ | .ill3f _ => false
  | .aluAdd _ _ _ t => t.isInt
  | .aluSub _ _ _ t => t.isInt
  | .aluAdds _ _ _ t => t.isInt
  | .aluSubs _ _ _ t => t.isInt
  | .aluMul _ _ _ t => t.isInt
  | .aluMulh _ _ _ t => t.isInt
  | .aluDiv _ _ _ t => t.isInt
  | .aluRem _ _ _ t => t.isInt
  | .aluAnd _ _ _ t => t.isInt
  | .aluOr _ _ _ t => t.isInt
  | .aluXor _ _ _ t => t.isInt
  | .aluAndn _ _ _ t => t.isInt
  | .aluShl _ _ _ t => t.isInt
  | .aluShr _ _ _ t => t.isInt
  | .aluMin _ _ _ t => t.isInt
  | .aluMax _ _ _ t => t.isInt
  | .aluSlt _ _ _ t => t.isInt
  | .aluSeq _ _ _ t => t.isInt
  | .aluPcnt _ _ t => t.isInt
  | .aluClz _ _ t => t.isInt
  | .aluCtz _ _ t => t.isInt
  | .aluiAdd _ _ _ => true
  | .aluiAnd _ _ _ => true
  | .aluiOr _ _ _ => true
  | .aluiXor _ _ _ => true
  | .aluiShl _ _ _ => true
  | .aluiShr _ _ _ => true
  | .aluiSra _ _ _ => true
  | .aluiSlt _ _ _ => true
  | .aluiSltu _ _ _ => true
  | .hi _ _ _ => true
  | .ld _ _ t _ => ldTy t
  | .st _ _ t _ => ldTy t
  | .brEq _ _ _ => true
  | .brNe _ _ _ => true
  | .brLt _ _ _ => true
  | .brGe _ _ _ => true
  | .brLtu _ _ _ => true
  | .brGeu _ _ _ => true
  | .jmp _ => true
  | .jrGo _ => true
  | .jrCall _ _ => true
  | .fpuAdd _ _ _ t => t.isFpu
  | .fpuSub _ _ _ t => t.isFpu
  | .fpuMul _ _ _ t => t.isFpu
  | .fpuDiv _ _ _ t => t.isFpu
  | .fpuSqrt _ _ t => t.isFpu
  | .fpuFma _ _ _ t => t.isFpu
  | .fpuMin _ _ _ t => t.isFpu
  | .fpuMax _ _ _ t => t.isFpu
  | .fpuEq _ _ _ t => t.isFpu
  | .fpuLt _ _ _ t => t.isFpu
  | .fpuLe _ _ _ t => t.isFpu
  | .fpuUnord _ _ _ t => t.isFpu
  | .fpuNeg _ _ t => t.isFpu
  | .fpuAbs _ _ t => t.isFpu
  | .fpuRcp _ _ t => t == .bf16 || t == .f32 || t == .f64
  | .fpuRsq _ _ t => t == .bf16 || t == .f32 || t == .f64
  | .fpuTof32 _ _ t => t == .bf16 || t == .d64 || t == .f64
  | .fpuTof64 _ _ t => t == .bf16 || t == .f32 || t == .d64
  | .fpuTod64 _ _ t => t == .bf16 || t == .f32 || t == .f64
  | .fpuTobf16 _ _ t => t == .f32 || t == .f64
  | .fpuTobf16sr _ _ => true
  | .fpuToi64 _ _ t => t.isFpu
  | .fpuToi64z _ _ t => t.isFpu
  | .fpuTon64 _ _ t => t.isFpu
  | .fpuFromi64 _ _ t => t.isFpu
  | .fpuFromn64 _ _ t => t.isFpu
  | .fpuQuant _ _ _ => true
  | .ctlRd _ _ => true
  | .ctlWr _ _ => true
  | .ctlSet _ _ => true
  | .ctlClr _ _ => true
  | .svc _ => true
  | .tret => true
  | .idle _ _ => true
  | .brk _ => true
  | .id _ => true
  | .csave _ _ slots _ coreBit => slots != 0 || coreBit
  | .crest _ _ => true
  | .tlbinvPage _ scope => scope != 3
  | .tlbinvAsid _ scope => scope != 3
  | .tlbinvAll scope => scope != 3
  | .halt => true
  | .amoLd _ _ t _ ord => amoTy t && (ord == 0 || ord == 1)
  | .amoSt _ _ t _ ord => amoTy t && (ord == 0 || ord == 2)
  | .amoSwap _ _ _ t _ _ => amoTy t
  | .amoCas _ _ _ t _ _ => amoTy t
  | .amoAdd _ _ _ t _ _ => amoTy t
  | .amoAnd _ _ _ t _ _ => amoIntTy t
  | .amoOr _ _ _ t _ _ => amoIntTy t
  | .amoXor _ _ _ t _ _ => amoIntTy t
  | .amoMin _ _ _ t _ _ => amoTy t
  | .amoMax _ _ _ t _ _ => amoTy t
  | .amoCas2 d _ b _ _ => d.val % 2 == 0 && b.val % 2 == 0
  | .amoVadd _ _ _ t _ _ => amoTy t
  | .amoVmin _ _ _ t _ _ => amoTy t
  | .amoVmax _ _ _ t _ _ => amoTy t
  | .amoVswap _ _ _ t _ _ => amoTy t
  | .fenAll scope => scope.toNat < 6
  | .fenLoad scope => scope.toNat < 6
  | .fenStore scope => scope.toNat < 6
  | .fenEng scope => scope.toNat < 6
  | .fenPhase _ _ => true
  | .barInit _ _ => true
  | .barArrive _ _ => true
  | .barWait _ _ => true
  | .barSync _ _ => true
  | .futInit _ _ => true
  | .futReg _ _ => true
  | .futRes _ _ => true
  | .futFail _ _ => true
  | .futGet _ _ => true
  | .futGetTry _ _ => true
  | .taskSpawn _ _ => true
  | .taskSpawnHold _ _ => true
  | .taskExit => true
  | .taskYield _ => true
  | .hqTake => true
  | .hqFill _ _ => true
  | .hqFail _ _ => true
  | .setvl _ _ _ => true
  | .setrows _ _ => true
  | .vwhile _ _ cond off _ => cond.toNat < 6 && off != 0
  | .vvAdd _ _ _ t => intOrLane t
  | .vvSub _ _ _ t => intOrLane t
  | .vvAdds _ _ _ t => intOnly t
  | .vvSubs _ _ _ t => intOnly t
  | .vvMul _ _ _ t => intOrLane t
  | .vvMulh _ _ _ t => intOnly t
  | .vvDiv _ _ _ t => intOrLane t
  | .vvRem _ _ _ t => intOnly t
  | .vvAnd _ _ _ t => intOnly t
  | .vvOr _ _ _ t => intOnly t
  | .vvXor _ _ _ t => intOnly t
  | .vvAndn _ _ _ t => intOnly t
  | .vvShl _ _ _ t => intOnly t
  | .vvShr _ _ _ t => intOnly t
  | .vvMin _ _ _ t => intOrLane t
  | .vvMax _ _ _ t => intOrLane t
  | .vvPcnt _ _ t => intOnly t
  | .vvClz _ _ t => intOnly t
  | .vvCtz _ _ t => intOnly t
  | .vvMv _ _ t => intOrLane t
  | .vvNeg _ _ t => t.isLane
  | .vvAbs _ _ t => t.isLane
  | .vvQuant _ _ _ => true
  | .vxAdd _ _ _ t => intOrLane t
  | .vxSub _ _ _ t => intOrLane t
  | .vxAdds _ _ _ t => intOnly t
  | .vxSubs _ _ _ t => intOnly t
  | .vxMul _ _ _ t => intOrLane t
  | .vxMulh _ _ _ t => intOnly t
  | .vxDiv _ _ _ t => intOrLane t
  | .vxRem _ _ _ t => intOnly t
  | .vxAnd _ _ _ t => intOnly t
  | .vxOr _ _ _ t => intOnly t
  | .vxXor _ _ _ t => intOnly t
  | .vxAndn _ _ _ t => intOnly t
  | .vxShl _ _ _ t => intOnly t
  | .vxShr _ _ _ t => intOnly t
  | .vxMin _ _ _ t => intOrLane t
  | .vxMax _ _ _ t => intOrLane t
  | .vxMv _ _ t => intOrLane t
  | .vxQuant _ _ _ => true
  | .viAdd _ _ _ t => intOnly t
  | .viSub _ _ _ t => intOnly t
  | .viAdds _ _ _ t => intOnly t
  | .viSubs _ _ _ t => intOnly t
  | .viMul _ _ _ t => intOnly t
  | .viMulh _ _ _ t => intOnly t
  | .viDiv _ _ _ t => intOnly t
  | .viRem _ _ _ t => intOnly t
  | .viAnd _ _ _ t => intOnly t
  | .viOr _ _ _ t => intOnly t
  | .viXor _ _ _ t => intOnly t
  | .viAndn _ _ _ t => intOnly t
  | .viShl _ _ _ t => intOnly t
  | .viShr _ _ _ t => intOnly t
  | .viMin _ _ _ t => intOnly t
  | .viMax _ _ _ t => intOnly t
  | .viMv _ _ t => intOnly t
  | .vqFma _ _ _ _ t3 => (Ty.ofCode3 t3.toNat).isSome
  | .vqFms _ _ _ _ t3 => (Ty.ofCode3 t3.toNat).isSome
  | .vqFnma _ _ _ _ t3 => (Ty.ofCode3 t3.toNat).isSome
  | .vqFnms _ _ _ _ t3 => (Ty.ofCode3 t3.toNat).isSome
  | .vqSfma _ _ _ _ t3 => (Ty.ofCode3 t3.toNat).isSome
  | .vqSfms _ _ _ _ t3 => (Ty.ofCode3 t3.toNat).isSome
  | .vqSfnma _ _ _ _ t3 => (Ty.ofCode3 t3.toNat).isSome
  | .vqSfnms _ _ _ _ t3 => (Ty.ofCode3 t3.toNat).isSome
  | .vcmp _ _ _ t cond => intOrLane t && cond.toNat < 6
  | .vcmpX _ _ _ t cond => intOrLane t && cond.toNat < 6
  | .vcmpI _ _ _ t cond => t.isInt && cond.toNat < 6
  | .vcmpMand _ _ _ => true
  | .vcmpMor _ _ _ => true
  | .vcmpMxor _ _ _ => true
  | .vcmpMandn _ _ _ => true
  | .vcmpMset _ => true
  | .vcmpMclr _ => true
  | .vredSum _ _ _ t => intOrLane t
  | .vredMin _ _ _ t => intOrLane t
  | .vredMax _ _ _ t => intOrLane t
  | .vredAnd _ _ _ t => t.isInt
  | .vredOr _ _ _ t => t.isInt
  | .vredXor _ _ _ t => t.isInt
  | .vredMinidx _ _ _ t => idxTy t
  | .vredMaxidx _ _ _ t => idxTy t
  | .vredMpop _ _ => true
  | .vredMfirst _ _ => true
  | .vpermSlup _ _ _ t => permTy t
  | .vpermSldn _ _ _ t => permTy t
  | .vpermPerm _ _ _ t => permTy t
  | .vpermCompress _ _ t => permTy t
  | .vpermXtr _ _ _ t => permTy t
  | .vpermIns _ _ _ t => permTy t
  | .vpermIota _ _ t => t.isInt
  | .vpermHold d _ _ t => holdWf t d
  | .vpermDrain d t => holdWf t d
  | .vsfuRcp _ _ t => spTy t
  | .vsfuRcpe _ _ t => spTy t
  | .vsfuRsq _ _ t => spTy t
  | .vsfuSqrt _ _ t => spTy t
  | .vsfuExp2 _ _ t => spTy t
  | .vsfuLog2 _ _ t => spTy t
  | .vsfuSin _ _ t => spTy t
  | .vsfuCos _ _ t => spTy t
  | .vsfuTanh _ _ t => spTy t
  | .vsfuSilu _ _ t => spTy t
  | .vsfuSigm _ _ t => spTy t
  | .vldUnit _ _ t => vmemTy t true
  | .vldStride _ _ t => vmemTy t false
  | .vldIndex _ _ _ t => vmemTy t false
  | .vldElem _ _ _ t => vmemTy t false
  | .vstUnit _ _ t => vmemTy t true
  | .vstUnitu _ _ t => vmemTy t true
  | .vstStride _ _ t => vmemTy t false
  | .vstStrideu _ _ t => vmemTy t false
  | .vstIndex _ _ _ t => vmemTy t false
  | .vstIndexu _ _ _ t => vmemTy t false
  | .vstElem _ _ _ t => vmemTy t false
  | .vstElemu _ _ _ t => vmemTy t false
  | .vstmBind _ _ => true
  | .vstmUnbind _ => true
  | .vstmSpill _ _ _ => true
  | .vstmFill _ _ => true
  | .vsettle _ => true
  | .vpresPresent _ _ t => t.code < 14
  | .vpresPoisoned _ _ t => t.code < 14
  | .vpresHeal _ _ t => t.code < 14
  | .vcvt d _ b t src rnd => cvtWf src t rnd.toNat b.val && (t != .mx4 || d != 1)
  | .mxMode _ _ _ => true
  | .mxTshape _ _ _ t => mxTy t || t == .i8
  | .mxOp d _ _ t => mxTy t && d.val < 16
  | .mxZero d => d.val < 16
  | .mxMv d a => d.val < 16 && a.val < 16
  | .mxRdrow _ a _ => a.val < 16
  | .mxRdcol _ a _ => a.val < 16
  | .mxWrrow d _ _ => d.val < 16
  | .mxWrcol d _ _ => d.val < 16
  | .mxSpill d _ => d.val < 16
  | .mxFill d _ => d.val < 16
  | .spEval _ _ t => spTy t
  | .spGrad _ _ t => spTy t
  | .spDx _ _ _ t => spTy t
  | .spRefine => true
  | .spPair _ => true
  | .spGzero => true
  | .spGspill _ => true
  | .spGfill _ => true
  | .engCopy _ _ b k => k.toNat < 4 && (k == 0 || b.val != 31)
  | .engMcast _ _ b k => k.toNat < 4 && (k == 0 || b.val != 31)
  | .engGather _ _ b k => k.toNat < 4 && (k == 0 || b.val != 31)
  | .engPatt _ _ => true
  | .engColl _ k => k.toNat < 4
  | .trapEntry _ => true
  | .tableWalk _ _ => true
  | .accessPerform _ => true
  | .targetFaultReport hart _ _ _ => hartOk hart
  | .replCopyUpdate _ _ => true
  | .streamReadAhead hart _ => hartOk hart
  | .engCompletion hart _ _ _ => hartOk hart
  | .collTimeout hart => hartOk hart
  | .hqTakeDispatch hart => hartOk hart
  | .idleWake hart => hartOk hart
  | .placementPass _ => true
  | .preempt _ => true
  | .preemptWaitExpiry _ _ => true
  | .remoteStopTimeout hart _ => hartOk hart
  | .hostStopTimeout hart _ => hartOk hart
  | .gangKill _ why => why.hart.all hartOk
  | .dieFence _ => true
  | .laneGroupRetire core _ => coreOk core
  | .governorSample _ _ => true
  | .thermalOver _ => true
  | .thermalStepDown _ => true
  | .thermalRecover _ => true
  | .thermalStepUp _ => true
  | .boostIntervalEnd _ => true
  | .linkDown _ => true
  | .linkUp _ => true
  | .peerReset _ => true
  | .fabricInboundRequest _ _ => true
  | .hostInboundWrite _ _ _ => true
  | .hostInboundRead _ _ _ => true
  | .plinthFailing _ => true
  | .retireDrop _ => true
  | .rangeReturn _ => true
  | .partitionDeadline _ => true
  | .walkStart => true
  | .granuleMove => true
  | .copyBroadcast _ => true
  | .hangWatchdog hart => hartOk hart
  | .stewardWatchdog => true
  | .packageReset _ _ _ => true
  | .energyUpdate _ => true
  | .energyLoRead _ => true
  | .mbtailWrite _ _ => true
  | .winbaseWrite _ _ => true
  | .hostSpawn _ _ => true
  | .dmbaseWrite _ _ => true
  | .dmtailWrite _ _ => true
  | .registerWrite _ _ _ => true
  | .retire _ _ => true
  | .partCreate _ _ _ _ _ => true
  | .partDestroy _ _ => true
  | .reset _ _ => true
  | .quote _ _ => true
  | .unlockChallenge _ => true
  | .unlock _ _ _ => true
  | .record _ => true
  | .dbgHalt hart => hartOk hart
  | .dbgResume hart => hartOk hart
  | .dbgStepInstruction hart _ => hartOk hart
  | .dbgStepElements hart _ => hartOk hart
  | .breakpointHit hart _ => hartOk hart
  | .traceSample core => coreOk core
  | .replayInject _ => true
  | .arrayRowGroupRetirement core _ _ => coreOk core
  | .packagePowerOff => true

end Sys2Proof
end

