-- ==== Sys2Proof/Decode.lean ====
section
/-! DEFINITION. The decoder, total on any bytes, and the encoder (R243 to R251).
A word that matches a row of the opcode table in every bit the row fixes decodes to that row's
instruction, whatever its sub-fields hold; `Instr.wf` refuses the sub-field values that R250 makes
trap. A word of no row is rejected by name. -/

namespace Sys2Proof

/-- Why bytes hold no instruction. -/
inductive Reject where
  /-- Fewer than four bytes. -/
  | noWord
  /-- A major that R249 leaves reserved. -/
  | reservedMajor
  /-- A function, mode or unused field that no row of the major allows (R250). -/
  | reservedForm
  deriving DecidableEq, Repr

/-- A register field. -/
def regOf (n : Nat) : Reg := Fin.ofNat 32 n

/-- A one-bit field. -/
def boolOf (n : Nat) : Bool := n % 2 == 1

noncomputable section

/-- Major 0x00 (R249). -/
def decIll (n : Nat) : Option Instr :=
  some (.ill (.ofNat _ (bits n 25 0)))

/-- Major 0x3F (R249). -/
def decIll3f (n : Nat) : Option Instr :=
  some (.ill3f (.ofNat _ (bits n 25 0)))

/-- Major 0x01 (R249). -/
def decAlu (n : Nat) : Option Instr :=
  if bits n 6 0 = 0 then some (.aluAdd (regOf (bits n 25 21)) (regOf (bits n 20 16)) (regOf (bits n 15 11)) (Ty.ofCode (bits n 10 7))) else
  if bits n 6 0 = 1 then some (.aluSub (regOf (bits n 25 21)) (regOf (bits n 20 16)) (regOf (bits n 15 11)) (Ty.ofCode (bits n 10 7))) else
  if bits n 6 0 = 2 then some (.aluAdds (regOf (bits n 25 21)) (regOf (bits n 20 16)) (regOf (bits n 15 11)) (Ty.ofCode (bits n 10 7))) else
  if bits n 6 0 = 3 then some (.aluSubs (regOf (bits n 25 21)) (regOf (bits n 20 16)) (regOf (bits n 15 11)) (Ty.ofCode (bits n 10 7))) else
  if bits n 6 0 = 4 then some (.aluMul (regOf (bits n 25 21)) (regOf (bits n 20 16)) (regOf (bits n 15 11)) (Ty.ofCode (bits n 10 7))) else
  if bits n 6 0 = 5 then some (.aluMulh (regOf (bits n 25 21)) (regOf (bits n 20 16)) (regOf (bits n 15 11)) (Ty.ofCode (bits n 10 7))) else
  if bits n 6 0 = 6 then some (.aluDiv (regOf (bits n 25 21)) (regOf (bits n 20 16)) (regOf (bits n 15 11)) (Ty.ofCode (bits n 10 7))) else
  if bits n 6 0 = 7 then some (.aluRem (regOf (bits n 25 21)) (regOf (bits n 20 16)) (regOf (bits n 15 11)) (Ty.ofCode (bits n 10 7))) else
  if bits n 6 0 = 8 then some (.aluAnd (regOf (bits n 25 21)) (regOf (bits n 20 16)) (regOf (bits n 15 11)) (Ty.ofCode (bits n 10 7))) else
  if bits n 6 0 = 9 then some (.aluOr (regOf (bits n 25 21)) (regOf (bits n 20 16)) (regOf (bits n 15 11)) (Ty.ofCode (bits n 10 7))) else
  if bits n 6 0 = 0xa then some (.aluXor (regOf (bits n 25 21)) (regOf (bits n 20 16)) (regOf (bits n 15 11)) (Ty.ofCode (bits n 10 7))) else
  if bits n 6 0 = 0xb then some (.aluAndn (regOf (bits n 25 21)) (regOf (bits n 20 16)) (regOf (bits n 15 11)) (Ty.ofCode (bits n 10 7))) else
  if bits n 6 0 = 0xc then some (.aluShl (regOf (bits n 25 21)) (regOf (bits n 20 16)) (regOf (bits n 15 11)) (Ty.ofCode (bits n 10 7))) else
  if bits n 6 0 = 0xd then some (.aluShr (regOf (bits n 25 21)) (regOf (bits n 20 16)) (regOf (bits n 15 11)) (Ty.ofCode (bits n 10 7))) else
  if bits n 6 0 = 0xe then some (.aluMin (regOf (bits n 25 21)) (regOf (bits n 20 16)) (regOf (bits n 15 11)) (Ty.ofCode (bits n 10 7))) else
  if bits n 6 0 = 0xf then some (.aluMax (regOf (bits n 25 21)) (regOf (bits n 20 16)) (regOf (bits n 15 11)) (Ty.ofCode (bits n 10 7))) else
  if bits n 6 0 = 0x10 then some (.aluSlt (regOf (bits n 25 21)) (regOf (bits n 20 16)) (regOf (bits n 15 11)) (Ty.ofCode (bits n 10 7))) else
  if bits n 6 0 = 0x11 then some (.aluSeq (regOf (bits n 25 21)) (regOf (bits n 20 16)) (regOf (bits n 15 11)) (Ty.ofCode (bits n 10 7))) else
  if bits n 6 0 = 0x12 ∧ bits n 15 11 = 0 then some (.aluPcnt (regOf (bits n 25 21)) (regOf (bits n 20 16)) (Ty.ofCode (bits n 10 7))) else
  if bits n 6 0 = 0x13 ∧ bits n 15 11 = 0 then some (.aluClz (regOf (bits n 25 21)) (regOf (bits n 20 16)) (Ty.ofCode (bits n 10 7))) else
  if bits n 6 0 = 0x14 ∧ bits n 15 11 = 0 then some (.aluCtz (regOf (bits n 25 21)) (regOf (bits n 20 16)) (Ty.ofCode (bits n 10 7))) else
  none

/-- Major 0x02 (R249). -/
def decAlui (n : Nat) : Option Instr :=
  if bits n 15 12 = 0 then some (.aluiAdd (regOf (bits n 25 21)) (regOf (bits n 20 16)) (.ofNat _ (bits n 11 0))) else
  if bits n 15 12 = 1 then some (.aluiAnd (regOf (bits n 25 21)) (regOf (bits n 20 16)) (.ofNat _ (bits n 11 0))) else
  if bits n 15 12 = 2 then some (.aluiOr (regOf (bits n 25 21)) (regOf (bits n 20 16)) (.ofNat _ (bits n 11 0))) else
  if bits n 15 12 = 3 then some (.aluiXor (regOf (bits n 25 21)) (regOf (bits n 20 16)) (.ofNat _ (bits n 11 0))) else
  if bits n 15 6 = 0x100 then some (.aluiShl (regOf (bits n 25 21)) (regOf (bits n 20 16)) (.ofNat _ (bits n 5 0))) else
  if bits n 15 6 = 0x140 then some (.aluiShr (regOf (bits n 25 21)) (regOf (bits n 20 16)) (.ofNat _ (bits n 5 0))) else
  if bits n 15 6 = 0x180 then some (.aluiSra (regOf (bits n 25 21)) (regOf (bits n 20 16)) (.ofNat _ (bits n 5 0))) else
  if bits n 15 12 = 7 then some (.aluiSlt (regOf (bits n 25 21)) (regOf (bits n 20 16)) (.ofNat _ (bits n 11 0))) else
  if bits n 15 12 = 8 then some (.aluiSltu (regOf (bits n 25 21)) (regOf (bits n 20 16)) (.ofNat _ (bits n 11 0))) else
  none

/-- Major 0x03 (R249). -/
def decHi (n : Nat) : Option Instr :=
  some (.hi (regOf (bits n 25 21)) (regOf (bits n 20 16)) (.ofNat _ (bits n 15 0)))

/-- Major 0x05 (R249). -/
def decLd (n : Nat) : Option Instr :=
  some (.ld (regOf (bits n 25 21)) (regOf (bits n 20 16)) (Ty.ofCode (bits n 15 12)) (.ofNat _ (bits n 11 0)))

/-- Major 0x06 (R249). -/
def decSt (n : Nat) : Option Instr :=
  some (.st (regOf (bits n 25 21)) (regOf (bits n 20 16)) (Ty.ofCode (bits n 15 12)) (.ofNat _ (bits n 11 0)))

/-- Major 0x07 (R249). -/
def decBr (n : Nat) : Option Instr :=
  if bits n 15 13 = 0 then some (.brEq (regOf (bits n 25 21)) (regOf (bits n 20 16)) (.ofNat _ (bits n 12 0))) else
  if bits n 15 13 = 1 then some (.brNe (regOf (bits n 25 21)) (regOf (bits n 20 16)) (.ofNat _ (bits n 12 0))) else
  if bits n 15 13 = 2 then some (.brLt (regOf (bits n 25 21)) (regOf (bits n 20 16)) (.ofNat _ (bits n 12 0))) else
  if bits n 15 13 = 3 then some (.brGe (regOf (bits n 25 21)) (regOf (bits n 20 16)) (.ofNat _ (bits n 12 0))) else
  if bits n 15 13 = 4 then some (.brLtu (regOf (bits n 25 21)) (regOf (bits n 20 16)) (.ofNat _ (bits n 12 0))) else
  if bits n 15 13 = 5 then some (.brGeu (regOf (bits n 25 21)) (regOf (bits n 20 16)) (.ofNat _ (bits n 12 0))) else
  none

/-- Major 0x08 (R249). -/
def decJmp (n : Nat) : Option Instr :=
  some (.jmp (.ofNat _ (bits n 25 0)))

/-- Major 0x09 (R249). -/
def decJr (n : Nat) : Option Instr :=
  if bits n 15 0 = 0 ∧ bits n 25 21 = 0 then some (.jrGo (regOf (bits n 20 16))) else
  if bits n 15 0 = 1 then some (.jrCall (regOf (bits n 25 21)) (regOf (bits n 20 16))) else
  none

/-- Major 0x04 (R249). -/
def decFpu (n : Nat) : Option Instr :=
  if bits n 6 0 = 0 then some (.fpuAdd (regOf (bits n 25 21)) (regOf (bits n 20 16)) (regOf (bits n 15 11)) (Ty.ofCode (bits n 10 7))) else
  if bits n 6 0 = 1 then some (.fpuSub (regOf (bits n 25 21)) (regOf (bits n 20 16)) (regOf (bits n 15 11)) (Ty.ofCode (bits n 10 7))) else
  if bits n 6 0 = 2 then some (.fpuMul (regOf (bits n 25 21)) (regOf (bits n 20 16)) (regOf (bits n 15 11)) (Ty.ofCode (bits n 10 7))) else
  if bits n 6 0 = 3 then some (.fpuDiv (regOf (bits n 25 21)) (regOf (bits n 20 16)) (regOf (bits n 15 11)) (Ty.ofCode (bits n 10 7))) else
  if bits n 6 0 = 4 ∧ bits n 15 11 = 0 then some (.fpuSqrt (regOf (bits n 25 21)) (regOf (bits n 20 16)) (Ty.ofCode (bits n 10 7))) else
  if bits n 6 0 = 5 then some (.fpuFma (regOf (bits n 25 21)) (regOf (bits n 20 16)) (regOf (bits n 15 11)) (Ty.ofCode (bits n 10 7))) else
  if bits n 6 0 = 6 then some (.fpuMin (regOf (bits n 25 21)) (regOf (bits n 20 16)) (regOf (bits n 15 11)) (Ty.ofCode (bits n 10 7))) else
  if bits n 6 0 = 7 then some (.fpuMax (regOf (bits n 25 21)) (regOf (bits n 20 16)) (regOf (bits n 15 11)) (Ty.ofCode (bits n 10 7))) else
  if bits n 6 0 = 8 then some (.fpuEq (regOf (bits n 25 21)) (regOf (bits n 20 16)) (regOf (bits n 15 11)) (Ty.ofCode (bits n 10 7))) else
  if bits n 6 0 = 9 then some (.fpuLt (regOf (bits n 25 21)) (regOf (bits n 20 16)) (regOf (bits n 15 11)) (Ty.ofCode (bits n 10 7))) else
  if bits n 6 0 = 0xa then some (.fpuLe (regOf (bits n 25 21)) (regOf (bits n 20 16)) (regOf (bits n 15 11)) (Ty.ofCode (bits n 10 7))) else
  if bits n 6 0 = 0xb then some (.fpuUnord (regOf (bits n 25 21)) (regOf (bits n 20 16)) (regOf (bits n 15 11)) (Ty.ofCode (bits n 10 7))) else
  if bits n 6 0 = 0xc ∧ bits n 15 11 = 0 then some (.fpuNeg (regOf (bits n 25 21)) (regOf (bits n 20 16)) (Ty.ofCode (bits n 10 7))) else
  if bits n 6 0 = 0xd ∧ bits n 15 11 = 0 then some (.fpuAbs (regOf (bits n 25 21)) (regOf (bits n 20 16)) (Ty.ofCode (bits n 10 7))) else
  if bits n 6 0 = 0xe ∧ bits n 15 11 = 0 then some (.fpuRcp (regOf (bits n 25 21)) (regOf (bits n 20 16)) (Ty.ofCode (bits n 10 7))) else
  if bits n 6 0 = 0xf ∧ bits n 15 11 = 0 then some (.fpuRsq (regOf (bits n 25 21)) (regOf (bits n 20 16)) (Ty.ofCode (bits n 10 7))) else
  if bits n 6 0 = 0x10 ∧ bits n 15 11 = 0 then some (.fpuTof32 (regOf (bits n 25 21)) (regOf (bits n 20 16)) (Ty.ofCode (bits n 10 7))) else
  if bits n 6 0 = 0x11 ∧ bits n 15 11 = 0 then some (.fpuTof64 (regOf (bits n 25 21)) (regOf (bits n 20 16)) (Ty.ofCode (bits n 10 7))) else
  if bits n 6 0 = 0x12 ∧ bits n 15 11 = 0 then some (.fpuTod64 (regOf (bits n 25 21)) (regOf (bits n 20 16)) (Ty.ofCode (bits n 10 7))) else
  if bits n 6 0 = 0x13 ∧ bits n 15 11 = 0 then some (.fpuTobf16 (regOf (bits n 25 21)) (regOf (bits n 20 16)) (Ty.ofCode (bits n 10 7))) else
  if bits n 15 0 = 0x494 then some (.fpuTobf16sr (regOf (bits n 25 21)) (regOf (bits n 20 16))) else
  if bits n 6 0 = 0x15 ∧ bits n 15 11 = 0 then some (.fpuToi64 (regOf (bits n 25 21)) (regOf (bits n 20 16)) (Ty.ofCode (bits n 10 7))) else
  if bits n 6 0 = 0x16 ∧ bits n 15 11 = 0 then some (.fpuToi64z (regOf (bits n 25 21)) (regOf (bits n 20 16)) (Ty.ofCode (bits n 10 7))) else
  if bits n 6 0 = 0x17 ∧ bits n 15 11 = 0 then some (.fpuTon64 (regOf (bits n 25 21)) (regOf (bits n 20 16)) (Ty.ofCode (bits n 10 7))) else
  if bits n 6 0 = 0x18 ∧ bits n 15 11 = 0 then some (.fpuFromi64 (regOf (bits n 25 21)) (regOf (bits n 20 16)) (Ty.ofCode (bits n 10 7))) else
  if bits n 6 0 = 0x19 ∧ bits n 15 11 = 0 then some (.fpuFromn64 (regOf (bits n 25 21)) (regOf (bits n 20 16)) (Ty.ofCode (bits n 10 7))) else
  if bits n 10 0 = 0x69a then some (.fpuQuant (regOf (bits n 25 21)) (regOf (bits n 20 16)) (regOf (bits n 15 11))) else
  none

/-- Major 0x0A (R249). -/
def decCtl (n : Nat) : Option Instr :=
  if bits n 3 0 = 0 ∧ bits n 20 16 = 0 then some (.ctlRd (regOf (bits n 25 21)) (.ofNat _ (bits n 15 4))) else
  if bits n 3 0 = 1 ∧ bits n 25 21 = 0 then some (.ctlWr (regOf (bits n 20 16)) (.ofNat _ (bits n 15 4))) else
  if bits n 3 0 = 2 ∧ bits n 25 21 = 0 then some (.ctlSet (regOf (bits n 20 16)) (.ofNat _ (bits n 15 4))) else
  if bits n 3 0 = 3 ∧ bits n 25 21 = 0 then some (.ctlClr (regOf (bits n 20 16)) (.ofNat _ (bits n 15 4))) else
  none

/-- Major 0x0B (R249). -/
def decSys (n : Nat) : Option Instr :=
  if bits n 3 0 = 0 ∧ bits n 25 8 = 0 then some (.svc (.ofNat _ (bits n 7 4))) else
  if bits n 25 0 = 1 then some .tret else
  if bits n 15 0 = 2 then some (.idle (regOf (bits n 25 21)) (regOf (bits n 20 16))) else
  if bits n 3 0 = 3 ∧ bits n 25 16 = 0 then some (.brk (.ofNat _ (bits n 15 4))) else
  if bits n 20 0 = 4 then some (.id (regOf (bits n 25 21))) else
  if bits n 3 0 = 5 ∧ bits n 7 6 = 0 then some (.csave (regOf (bits n 25 21)) (regOf (bits n 20 16)) (.ofNat _ (bits n 15 8)) (boolOf (bits n 5 5)) (boolOf (bits n 4 4))) else
  if bits n 3 0 = 6 ∧ bits n 15 5 = 0 ∧ bits n 25 21 = 0 then some (.crest (regOf (bits n 20 16)) (boolOf (bits n 4 4))) else
  if bits n 11 0 = 7 ∧ bits n 15 14 = 0 ∧ bits n 25 21 = 0 then some (.tlbinvPage (regOf (bits n 20 16)) (.ofNat _ (bits n 13 12))) else
  if bits n 11 0 = 7 ∧ bits n 15 14 = 1 ∧ bits n 25 21 = 0 then some (.tlbinvAsid (regOf (bits n 20 16)) (.ofNat _ (bits n 13 12))) else
  if bits n 11 0 = 7 ∧ bits n 25 14 = 2 then some (.tlbinvAll (.ofNat _ (bits n 13 12))) else
  if bits n 25 0 = 8 then some .halt else
  none

/-- Major 0x0C (R249). -/
def decAmo (n : Nat) : Option Instr :=
  if bits n 3 0 = 0 ∧ bits n 15 11 = 0 then some (.amoLd (regOf (bits n 25 21)) (regOf (bits n 20 16)) (Ty.ofCode (bits n 10 7)) (boolOf (bits n 6 6)) (.ofNat _ (bits n 5 4))) else
  if bits n 3 0 = 1 ∧ bits n 25 21 = 0 then some (.amoSt (regOf (bits n 20 16)) (regOf (bits n 15 11)) (Ty.ofCode (bits n 10 7)) (boolOf (bits n 6 6)) (.ofNat _ (bits n 5 4))) else
  if bits n 3 0 = 2 then some (.amoSwap (regOf (bits n 25 21)) (regOf (bits n 20 16)) (regOf (bits n 15 11)) (Ty.ofCode (bits n 10 7)) (boolOf (bits n 6 6)) (.ofNat _ (bits n 5 4))) else
  if bits n 3 0 = 3 then some (.amoCas (regOf (bits n 25 21)) (regOf (bits n 20 16)) (regOf (bits n 15 11)) (Ty.ofCode (bits n 10 7)) (boolOf (bits n 6 6)) (.ofNat _ (bits n 5 4))) else
  if bits n 3 0 = 4 then some (.amoAdd (regOf (bits n 25 21)) (regOf (bits n 20 16)) (regOf (bits n 15 11)) (Ty.ofCode (bits n 10 7)) (boolOf (bits n 6 6)) (.ofNat _ (bits n 5 4))) else
  if bits n 3 0 = 5 then some (.amoAnd (regOf (bits n 25 21)) (regOf (bits n 20 16)) (regOf (bits n 15 11)) (Ty.ofCode (bits n 10 7)) (boolOf (bits n 6 6)) (.ofNat _ (bits n 5 4))) else
  if bits n 3 0 = 6 then some (.amoOr (regOf (bits n 25 21)) (regOf (bits n 20 16)) (regOf (bits n 15 11)) (Ty.ofCode (bits n 10 7)) (boolOf (bits n 6 6)) (.ofNat _ (bits n 5 4))) else
  if bits n 3 0 = 7 then some (.amoXor (regOf (bits n 25 21)) (regOf (bits n 20 16)) (regOf (bits n 15 11)) (Ty.ofCode (bits n 10 7)) (boolOf (bits n 6 6)) (.ofNat _ (bits n 5 4))) else
  if bits n 3 0 = 8 then some (.amoMin (regOf (bits n 25 21)) (regOf (bits n 20 16)) (regOf (bits n 15 11)) (Ty.ofCode (bits n 10 7)) (boolOf (bits n 6 6)) (.ofNat _ (bits n 5 4))) else
  if bits n 3 0 = 9 then some (.amoMax (regOf (bits n 25 21)) (regOf (bits n 20 16)) (regOf (bits n 15 11)) (Ty.ofCode (bits n 10 7)) (boolOf (bits n 6 6)) (.ofNat _ (bits n 5 4))) else
  if bits n 3 0 = 0xa ∧ bits n 10 7 = 7 then some (.amoCas2 (regOf (bits n 25 21)) (regOf (bits n 20 16)) (regOf (bits n 15 11)) (boolOf (bits n 6 6)) (.ofNat _ (bits n 5 4))) else
  if bits n 3 0 = 0xc then some (.amoVadd (regOf (bits n 25 21)) (regOf (bits n 20 16)) (regOf (bits n 15 11)) (Ty.ofCode (bits n 10 7)) (boolOf (bits n 6 6)) (.ofNat _ (bits n 5 4))) else
  if bits n 3 0 = 0xd then some (.amoVmin (regOf (bits n 25 21)) (regOf (bits n 20 16)) (regOf (bits n 15 11)) (Ty.ofCode (bits n 10 7)) (boolOf (bits n 6 6)) (.ofNat _ (bits n 5 4))) else
  if bits n 3 0 = 0xe then some (.amoVmax (regOf (bits n 25 21)) (regOf (bits n 20 16)) (regOf (bits n 15 11)) (Ty.ofCode (bits n 10 7)) (boolOf (bits n 6 6)) (.ofNat _ (bits n 5 4))) else
  if bits n 3 0 = 0xf then some (.amoVswap (regOf (bits n 25 21)) (regOf (bits n 20 16)) (regOf (bits n 15 11)) (Ty.ofCode (bits n 10 7)) (boolOf (bits n 6 6)) (.ofNat _ (bits n 5 4))) else
  none

/-- Major 0x0D (R249). -/
def decFen (n : Nat) : Option Instr :=
  if bits n 3 0 = 0 ∧ bits n 25 7 = 0 then some (.fenAll (.ofNat _ (bits n 6 4))) else
  if bits n 3 0 = 0 ∧ bits n 25 7 = 2 then some (.fenLoad (.ofNat _ (bits n 6 4))) else
  if bits n 3 0 = 0 ∧ bits n 25 7 = 4 then some (.fenStore (.ofNat _ (bits n 6 4))) else
  if bits n 3 0 = 1 ∧ bits n 25 7 = 0 then some (.fenEng (.ofNat _ (bits n 6 4))) else
  if bits n 15 0 = 7 then some (.fenPhase (regOf (bits n 25 21)) (regOf (bits n 20 16))) else
  none

/-- Major 0x0E (R249). -/
def decBar (n : Nat) : Option Instr :=
  if bits n 15 0 = 0 then some (.barInit (regOf (bits n 25 21)) (regOf (bits n 20 16))) else
  if bits n 15 0 = 1 then some (.barArrive (regOf (bits n 25 21)) (regOf (bits n 20 16))) else
  if bits n 15 0 = 2 then some (.barWait (regOf (bits n 25 21)) (regOf (bits n 20 16))) else
  if bits n 15 0 = 3 then some (.barSync (regOf (bits n 25 21)) (regOf (bits n 20 16))) else
  none

/-- Major 0x0F (R249). -/
def decFut (n : Nat) : Option Instr :=
  if bits n 15 0 = 0 then some (.futInit (regOf (bits n 25 21)) (regOf (bits n 20 16))) else
  if bits n 15 0 = 1 then some (.futReg (regOf (bits n 25 21)) (regOf (bits n 20 16))) else
  if bits n 15 0 = 2 then some (.futRes (regOf (bits n 25 21)) (regOf (bits n 20 16))) else
  if bits n 15 0 = 3 then some (.futFail (regOf (bits n 25 21)) (regOf (bits n 20 16))) else
  if bits n 15 0 = 4 then some (.futGet (regOf (bits n 25 21)) (regOf (bits n 20 16))) else
  if bits n 15 0 = 0x14 then some (.futGetTry (regOf (bits n 25 21)) (regOf (bits n 20 16))) else
  none

/-- Major 0x10 (R249). -/
def decTask (n : Nat) : Option Instr :=
  if bits n 15 0 = 0 then some (.taskSpawn (regOf (bits n 25 21)) (regOf (bits n 20 16))) else
  if bits n 15 0 = 0x10 then some (.taskSpawnHold (regOf (bits n 25 21)) (regOf (bits n 20 16))) else
  if bits n 25 0 = 1 then some .taskExit else
  if bits n 20 0 = 2 then some (.taskYield (regOf (bits n 25 21))) else
  none

/-- Major 0x11 (R249). -/
def decHq (n : Nat) : Option Instr :=
  if bits n 25 0 = 0 then some .hqTake else
  if bits n 10 0 = 1 ∧ bits n 25 21 = 0 then some (.hqFill (regOf (bits n 20 16)) (regOf (bits n 15 11))) else
  if bits n 10 0 = 2 ∧ bits n 25 21 = 0 then some (.hqFail (regOf (bits n 20 16)) (regOf (bits n 15 11))) else
  none

/-- Major 0x18 (R249). -/
def decVcfg (n : Nat) : Option Instr :=
  if bits n 3 0 = 0 ∧ bits n 15 6 = 0 then some (.setvl (regOf (bits n 25 21)) (regOf (bits n 20 16)) (.ofNat _ (bits n 5 4))) else
  if bits n 15 0 = 1 then some (.setrows (regOf (bits n 25 21)) (regOf (bits n 20 16))) else
  if bits n 3 3 = 1 then some (.vwhile (regOf (bits n 25 21)) (regOf (bits n 20 16)) (.ofNat _ (bits n 15 13)) (.ofNat _ (bits n 12 4)) (.ofNat _ (bits n 2 0))) else
  none

/-- Major 0x19 (R249). -/
def decVv (n : Nat) : Option Instr :=
  if bits n 6 0 = 0 then some (.vvAdd (regOf (bits n 25 21)) (regOf (bits n 20 16)) (regOf (bits n 15 11)) (Ty.ofCode (bits n 10 7))) else
  if bits n 6 0 = 1 then some (.vvSub (regOf (bits n 25 21)) (regOf (bits n 20 16)) (regOf (bits n 15 11)) (Ty.ofCode (bits n 10 7))) else
  if bits n 6 0 = 2 then some (.vvAdds (regOf (bits n 25 21)) (regOf (bits n 20 16)) (regOf (bits n 15 11)) (Ty.ofCode (bits n 10 7))) else
  if bits n 6 0 = 3 then some (.vvSubs (regOf (bits n 25 21)) (regOf (bits n 20 16)) (regOf (bits n 15 11)) (Ty.ofCode (bits n 10 7))) else
  if bits n 6 0 = 4 then some (.vvMul (regOf (bits n 25 21)) (regOf (bits n 20 16)) (regOf (bits n 15 11)) (Ty.ofCode (bits n 10 7))) else
  if bits n 6 0 = 5 then some (.vvMulh (regOf (bits n 25 21)) (regOf (bits n 20 16)) (regOf (bits n 15 11)) (Ty.ofCode (bits n 10 7))) else
  if bits n 6 0 = 6 then some (.vvDiv (regOf (bits n 25 21)) (regOf (bits n 20 16)) (regOf (bits n 15 11)) (Ty.ofCode (bits n 10 7))) else
  if bits n 6 0 = 7 then some (.vvRem (regOf (bits n 25 21)) (regOf (bits n 20 16)) (regOf (bits n 15 11)) (Ty.ofCode (bits n 10 7))) else
  if bits n 6 0 = 8 then some (.vvAnd (regOf (bits n 25 21)) (regOf (bits n 20 16)) (regOf (bits n 15 11)) (Ty.ofCode (bits n 10 7))) else
  if bits n 6 0 = 9 then some (.vvOr (regOf (bits n 25 21)) (regOf (bits n 20 16)) (regOf (bits n 15 11)) (Ty.ofCode (bits n 10 7))) else
  if bits n 6 0 = 0xa then some (.vvXor (regOf (bits n 25 21)) (regOf (bits n 20 16)) (regOf (bits n 15 11)) (Ty.ofCode (bits n 10 7))) else
  if bits n 6 0 = 0xb then some (.vvAndn (regOf (bits n 25 21)) (regOf (bits n 20 16)) (regOf (bits n 15 11)) (Ty.ofCode (bits n 10 7))) else
  if bits n 6 0 = 0xc then some (.vvShl (regOf (bits n 25 21)) (regOf (bits n 20 16)) (regOf (bits n 15 11)) (Ty.ofCode (bits n 10 7))) else
  if bits n 6 0 = 0xd then some (.vvShr (regOf (bits n 25 21)) (regOf (bits n 20 16)) (regOf (bits n 15 11)) (Ty.ofCode (bits n 10 7))) else
  if bits n 6 0 = 0xe then some (.vvMin (regOf (bits n 25 21)) (regOf (bits n 20 16)) (regOf (bits n 15 11)) (Ty.ofCode (bits n 10 7))) else
  if bits n 6 0 = 0xf then some (.vvMax (regOf (bits n 25 21)) (regOf (bits n 20 16)) (regOf (bits n 15 11)) (Ty.ofCode (bits n 10 7))) else
  if bits n 6 0 = 0x12 ∧ bits n 15 11 = 0 then some (.vvPcnt (regOf (bits n 25 21)) (regOf (bits n 20 16)) (Ty.ofCode (bits n 10 7))) else
  if bits n 6 0 = 0x13 ∧ bits n 15 11 = 0 then some (.vvClz (regOf (bits n 25 21)) (regOf (bits n 20 16)) (Ty.ofCode (bits n 10 7))) else
  if bits n 6 0 = 0x14 ∧ bits n 15 11 = 0 then some (.vvCtz (regOf (bits n 25 21)) (regOf (bits n 20 16)) (Ty.ofCode (bits n 10 7))) else
  if bits n 6 0 = 0x15 ∧ bits n 20 16 = 0 then some (.vvMv (regOf (bits n 25 21)) (regOf (bits n 15 11)) (Ty.ofCode (bits n 10 7))) else
  if bits n 6 0 = 0x18 ∧ bits n 15 11 = 0 then some (.vvNeg (regOf (bits n 25 21)) (regOf (bits n 20 16)) (Ty.ofCode (bits n 10 7))) else
  if bits n 6 0 = 0x19 ∧ bits n 15 11 = 0 then some (.vvAbs (regOf (bits n 25 21)) (regOf (bits n 20 16)) (Ty.ofCode (bits n 10 7))) else
  if bits n 10 0 = 0x69a then some (.vvQuant (regOf (bits n 25 21)) (regOf (bits n 20 16)) (regOf (bits n 15 11))) else
  none

/-- Major 0x1A (R249). -/
def decVx (n : Nat) : Option Instr :=
  if bits n 6 0 = 0 then some (.vxAdd (regOf (bits n 25 21)) (regOf (bits n 20 16)) (regOf (bits n 15 11)) (Ty.ofCode (bits n 10 7))) else
  if bits n 6 0 = 1 then some (.vxSub (regOf (bits n 25 21)) (regOf (bits n 20 16)) (regOf (bits n 15 11)) (Ty.ofCode (bits n 10 7))) else
  if bits n 6 0 = 2 then some (.vxAdds (regOf (bits n 25 21)) (regOf (bits n 20 16)) (regOf (bits n 15 11)) (Ty.ofCode (bits n 10 7))) else
  if bits n 6 0 = 3 then some (.vxSubs (regOf (bits n 25 21)) (regOf (bits n 20 16)) (regOf (bits n 15 11)) (Ty.ofCode (bits n 10 7))) else
  if bits n 6 0 = 4 then some (.vxMul (regOf (bits n 25 21)) (regOf (bits n 20 16)) (regOf (bits n 15 11)) (Ty.ofCode (bits n 10 7))) else
  if bits n 6 0 = 5 then some (.vxMulh (regOf (bits n 25 21)) (regOf (bits n 20 16)) (regOf (bits n 15 11)) (Ty.ofCode (bits n 10 7))) else
  if bits n 6 0 = 6 then some (.vxDiv (regOf (bits n 25 21)) (regOf (bits n 20 16)) (regOf (bits n 15 11)) (Ty.ofCode (bits n 10 7))) else
  if bits n 6 0 = 7 then some (.vxRem (regOf (bits n 25 21)) (regOf (bits n 20 16)) (regOf (bits n 15 11)) (Ty.ofCode (bits n 10 7))) else
  if bits n 6 0 = 8 then some (.vxAnd (regOf (bits n 25 21)) (regOf (bits n 20 16)) (regOf (bits n 15 11)) (Ty.ofCode (bits n 10 7))) else
  if bits n 6 0 = 9 then some (.vxOr (regOf (bits n 25 21)) (regOf (bits n 20 16)) (regOf (bits n 15 11)) (Ty.ofCode (bits n 10 7))) else
  if bits n 6 0 = 0xa then some (.vxXor (regOf (bits n 25 21)) (regOf (bits n 20 16)) (regOf (bits n 15 11)) (Ty.ofCode (bits n 10 7))) else
  if bits n 6 0 = 0xb then some (.vxAndn (regOf (bits n 25 21)) (regOf (bits n 20 16)) (regOf (bits n 15 11)) (Ty.ofCode (bits n 10 7))) else
  if bits n 6 0 = 0xc then some (.vxShl (regOf (bits n 25 21)) (regOf (bits n 20 16)) (regOf (bits n 15 11)) (Ty.ofCode (bits n 10 7))) else
  if bits n 6 0 = 0xd then some (.vxShr (regOf (bits n 25 21)) (regOf (bits n 20 16)) (regOf (bits n 15 11)) (Ty.ofCode (bits n 10 7))) else
  if bits n 6 0 = 0xe then some (.vxMin (regOf (bits n 25 21)) (regOf (bits n 20 16)) (regOf (bits n 15 11)) (Ty.ofCode (bits n 10 7))) else
  if bits n 6 0 = 0xf then some (.vxMax (regOf (bits n 25 21)) (regOf (bits n 20 16)) (regOf (bits n 15 11)) (Ty.ofCode (bits n 10 7))) else
  if bits n 6 0 = 0x15 ∧ bits n 20 16 = 0 then some (.vxMv (regOf (bits n 25 21)) (regOf (bits n 15 11)) (Ty.ofCode (bits n 10 7))) else
  if bits n 10 0 = 0x69a then some (.vxQuant (regOf (bits n 25 21)) (regOf (bits n 20 16)) (regOf (bits n 15 11))) else
  none

/-- Major 0x1B (R249). -/
def decVi (n : Nat) : Option Instr :=
  if bits n 6 0 = 0 then some (.viAdd (regOf (bits n 25 21)) (regOf (bits n 20 16)) (.ofNat _ (bits n 15 11)) (Ty.ofCode (bits n 10 7))) else
  if bits n 6 0 = 1 then some (.viSub (regOf (bits n 25 21)) (regOf (bits n 20 16)) (.ofNat _ (bits n 15 11)) (Ty.ofCode (bits n 10 7))) else
  if bits n 6 0 = 2 then some (.viAdds (regOf (bits n 25 21)) (regOf (bits n 20 16)) (.ofNat _ (bits n 15 11)) (Ty.ofCode (bits n 10 7))) else
  if bits n 6 0 = 3 then some (.viSubs (regOf (bits n 25 21)) (regOf (bits n 20 16)) (.ofNat _ (bits n 15 11)) (Ty.ofCode (bits n 10 7))) else
  if bits n 6 0 = 4 then some (.viMul (regOf (bits n 25 21)) (regOf (bits n 20 16)) (.ofNat _ (bits n 15 11)) (Ty.ofCode (bits n 10 7))) else
  if bits n 6 0 = 5 then some (.viMulh (regOf (bits n 25 21)) (regOf (bits n 20 16)) (.ofNat _ (bits n 15 11)) (Ty.ofCode (bits n 10 7))) else
  if bits n 6 0 = 6 then some (.viDiv (regOf (bits n 25 21)) (regOf (bits n 20 16)) (.ofNat _ (bits n 15 11)) (Ty.ofCode (bits n 10 7))) else
  if bits n 6 0 = 7 then some (.viRem (regOf (bits n 25 21)) (regOf (bits n 20 16)) (.ofNat _ (bits n 15 11)) (Ty.ofCode (bits n 10 7))) else
  if bits n 6 0 = 8 then some (.viAnd (regOf (bits n 25 21)) (regOf (bits n 20 16)) (.ofNat _ (bits n 15 11)) (Ty.ofCode (bits n 10 7))) else
  if bits n 6 0 = 9 then some (.viOr (regOf (bits n 25 21)) (regOf (bits n 20 16)) (.ofNat _ (bits n 15 11)) (Ty.ofCode (bits n 10 7))) else
  if bits n 6 0 = 0xa then some (.viXor (regOf (bits n 25 21)) (regOf (bits n 20 16)) (.ofNat _ (bits n 15 11)) (Ty.ofCode (bits n 10 7))) else
  if bits n 6 0 = 0xb then some (.viAndn (regOf (bits n 25 21)) (regOf (bits n 20 16)) (.ofNat _ (bits n 15 11)) (Ty.ofCode (bits n 10 7))) else
  if bits n 6 0 = 0xc then some (.viShl (regOf (bits n 25 21)) (regOf (bits n 20 16)) (.ofNat _ (bits n 15 11)) (Ty.ofCode (bits n 10 7))) else
  if bits n 6 0 = 0xd then some (.viShr (regOf (bits n 25 21)) (regOf (bits n 20 16)) (.ofNat _ (bits n 15 11)) (Ty.ofCode (bits n 10 7))) else
  if bits n 6 0 = 0xe then some (.viMin (regOf (bits n 25 21)) (regOf (bits n 20 16)) (.ofNat _ (bits n 15 11)) (Ty.ofCode (bits n 10 7))) else
  if bits n 6 0 = 0xf then some (.viMax (regOf (bits n 25 21)) (regOf (bits n 20 16)) (.ofNat _ (bits n 15 11)) (Ty.ofCode (bits n 10 7))) else
  if bits n 6 0 = 0x15 ∧ bits n 20 16 = 0 then some (.viMv (regOf (bits n 25 21)) (.ofNat _ (bits n 15 11)) (Ty.ofCode (bits n 10 7))) else
  none

/-- Major 0x1C (R249). -/
def decVq (n : Nat) : Option Instr :=
  if bits n 2 0 = 0 then some (.vqFma (regOf (bits n 25 21)) (regOf (bits n 20 16)) (regOf (bits n 15 11)) (regOf (bits n 10 6)) (.ofNat _ (bits n 5 3))) else
  if bits n 2 0 = 1 then some (.vqFms (regOf (bits n 25 21)) (regOf (bits n 20 16)) (regOf (bits n 15 11)) (regOf (bits n 10 6)) (.ofNat _ (bits n 5 3))) else
  if bits n 2 0 = 2 then some (.vqFnma (regOf (bits n 25 21)) (regOf (bits n 20 16)) (regOf (bits n 15 11)) (regOf (bits n 10 6)) (.ofNat _ (bits n 5 3))) else
  if bits n 2 0 = 3 then some (.vqFnms (regOf (bits n 25 21)) (regOf (bits n 20 16)) (regOf (bits n 15 11)) (regOf (bits n 10 6)) (.ofNat _ (bits n 5 3))) else
  if bits n 2 0 = 4 then some (.vqSfma (regOf (bits n 25 21)) (regOf (bits n 20 16)) (regOf (bits n 15 11)) (regOf (bits n 10 6)) (.ofNat _ (bits n 5 3))) else
  if bits n 2 0 = 5 then some (.vqSfms (regOf (bits n 25 21)) (regOf (bits n 20 16)) (regOf (bits n 15 11)) (regOf (bits n 10 6)) (.ofNat _ (bits n 5 3))) else
  if bits n 2 0 = 6 then some (.vqSfnma (regOf (bits n 25 21)) (regOf (bits n 20 16)) (regOf (bits n 15 11)) (regOf (bits n 10 6)) (.ofNat _ (bits n 5 3))) else
  if bits n 2 0 = 7 then some (.vqSfnms (regOf (bits n 25 21)) (regOf (bits n 20 16)) (regOf (bits n 15 11)) (regOf (bits n 10 6)) (.ofNat _ (bits n 5 3))) else
  none

/-- Major 0x1D (R249). -/
def decVcmp (n : Nat) : Option Instr :=
  if bits n 6 3 = 0 then some (.vcmp (regOf (bits n 25 21)) (regOf (bits n 20 16)) (regOf (bits n 15 11)) (Ty.ofCode (bits n 10 7)) (.ofNat _ (bits n 2 0))) else
  if bits n 6 3 = 1 then some (.vcmpX (regOf (bits n 25 21)) (regOf (bits n 20 16)) (regOf (bits n 15 11)) (Ty.ofCode (bits n 10 7)) (.ofNat _ (bits n 2 0))) else
  if bits n 6 3 = 2 then some (.vcmpI (regOf (bits n 25 21)) (regOf (bits n 20 16)) (.ofNat _ (bits n 15 11)) (Ty.ofCode (bits n 10 7)) (.ofNat _ (bits n 2 0))) else
  if bits n 10 0 = 0x20 then some (.vcmpMand (regOf (bits n 25 21)) (regOf (bits n 20 16)) (regOf (bits n 15 11))) else
  if bits n 10 0 = 0x21 then some (.vcmpMor (regOf (bits n 25 21)) (regOf (bits n 20 16)) (regOf (bits n 15 11))) else
  if bits n 10 0 = 0x22 then some (.vcmpMxor (regOf (bits n 25 21)) (regOf (bits n 20 16)) (regOf (bits n 15 11))) else
  if bits n 10 0 = 0x23 then some (.vcmpMandn (regOf (bits n 25 21)) (regOf (bits n 20 16)) (regOf (bits n 15 11))) else
  if bits n 20 0 = 0x24 then some (.vcmpMset (regOf (bits n 25 21))) else
  if bits n 20 0 = 0x25 then some (.vcmpMclr (regOf (bits n 25 21))) else
  none

/-- Major 0x1E (R249). -/
def decVred (n : Nat) : Option Instr :=
  if bits n 6 0 = 0 then some (.vredSum (regOf (bits n 25 21)) (regOf (bits n 20 16)) (regOf (bits n 15 11)) (Ty.ofCode (bits n 10 7))) else
  if bits n 6 0 = 1 then some (.vredMin (regOf (bits n 25 21)) (regOf (bits n 20 16)) (regOf (bits n 15 11)) (Ty.ofCode (bits n 10 7))) else
  if bits n 6 0 = 2 then some (.vredMax (regOf (bits n 25 21)) (regOf (bits n 20 16)) (regOf (bits n 15 11)) (Ty.ofCode (bits n 10 7))) else
  if bits n 6 0 = 3 then some (.vredAnd (regOf (bits n 25 21)) (regOf (bits n 20 16)) (regOf (bits n 15 11)) (Ty.ofCode (bits n 10 7))) else
  if bits n 6 0 = 4 then some (.vredOr (regOf (bits n 25 21)) (regOf (bits n 20 16)) (regOf (bits n 15 11)) (Ty.ofCode (bits n 10 7))) else
  if bits n 6 0 = 5 then some (.vredXor (regOf (bits n 25 21)) (regOf (bits n 20 16)) (regOf (bits n 15 11)) (Ty.ofCode (bits n 10 7))) else
  if bits n 6 0 = 6 then some (.vredMinidx (regOf (bits n 25 21)) (regOf (bits n 20 16)) (regOf (bits n 15 11)) (Ty.ofCode (bits n 10 7))) else
  if bits n 6 0 = 7 then some (.vredMaxidx (regOf (bits n 25 21)) (regOf (bits n 20 16)) (regOf (bits n 15 11)) (Ty.ofCode (bits n 10 7))) else
  if bits n 15 0 = 8 then some (.vredMpop (regOf (bits n 25 21)) (regOf (bits n 20 16))) else
  if bits n 15 0 = 9 then some (.vredMfirst (regOf (bits n 25 21)) (regOf (bits n 20 16))) else
  none

/-- Major 0x1F (R249). -/
def decVperm (n : Nat) : Option Instr :=
  if bits n 6 0 = 0 then some (.vpermSlup (regOf (bits n 25 21)) (regOf (bits n 20 16)) (regOf (bits n 15 11)) (Ty.ofCode (bits n 10 7))) else
  if bits n 6 0 = 1 then some (.vpermSldn (regOf (bits n 25 21)) (regOf (bits n 20 16)) (regOf (bits n 15 11)) (Ty.ofCode (bits n 10 7))) else
  if bits n 6 0 = 2 then some (.vpermPerm (regOf (bits n 25 21)) (regOf (bits n 20 16)) (regOf (bits n 15 11)) (Ty.ofCode (bits n 10 7))) else
  if bits n 6 0 = 3 ∧ bits n 15 11 = 0 then some (.vpermCompress (regOf (bits n 25 21)) (regOf (bits n 20 16)) (Ty.ofCode (bits n 10 7))) else
  if bits n 6 0 = 4 then some (.vpermXtr (regOf (bits n 25 21)) (regOf (bits n 20 16)) (regOf (bits n 15 11)) (Ty.ofCode (bits n 10 7))) else
  if bits n 6 0 = 5 then some (.vpermIns (regOf (bits n 25 21)) (regOf (bits n 20 16)) (regOf (bits n 15 11)) (Ty.ofCode (bits n 10 7))) else
  if bits n 6 0 = 6 ∧ bits n 20 16 = 0 then some (.vpermIota (regOf (bits n 25 21)) (regOf (bits n 15 11)) (Ty.ofCode (bits n 10 7))) else
  if bits n 6 0 = 8 then some (.vpermHold (regOf (bits n 25 21)) (regOf (bits n 20 16)) (regOf (bits n 15 11)) (Ty.ofCode (bits n 10 7))) else
  if bits n 6 0 = 9 ∧ bits n 20 11 = 0 then some (.vpermDrain (regOf (bits n 25 21)) (Ty.ofCode (bits n 10 7))) else
  none

/-- Major 0x20 (R249). -/
def decVsfu (n : Nat) : Option Instr :=
  if bits n 6 0 = 0 ∧ bits n 15 11 = 0 then some (.vsfuRcp (regOf (bits n 25 21)) (regOf (bits n 20 16)) (Ty.ofCode (bits n 10 7))) else
  if bits n 6 0 = 1 ∧ bits n 15 11 = 0 then some (.vsfuRcpe (regOf (bits n 25 21)) (regOf (bits n 20 16)) (Ty.ofCode (bits n 10 7))) else
  if bits n 6 0 = 2 ∧ bits n 15 11 = 0 then some (.vsfuRsq (regOf (bits n 25 21)) (regOf (bits n 20 16)) (Ty.ofCode (bits n 10 7))) else
  if bits n 6 0 = 3 ∧ bits n 15 11 = 0 then some (.vsfuSqrt (regOf (bits n 25 21)) (regOf (bits n 20 16)) (Ty.ofCode (bits n 10 7))) else
  if bits n 6 0 = 4 ∧ bits n 15 11 = 0 then some (.vsfuExp2 (regOf (bits n 25 21)) (regOf (bits n 20 16)) (Ty.ofCode (bits n 10 7))) else
  if bits n 6 0 = 5 ∧ bits n 15 11 = 0 then some (.vsfuLog2 (regOf (bits n 25 21)) (regOf (bits n 20 16)) (Ty.ofCode (bits n 10 7))) else
  if bits n 6 0 = 6 ∧ bits n 15 11 = 0 then some (.vsfuSin (regOf (bits n 25 21)) (regOf (bits n 20 16)) (Ty.ofCode (bits n 10 7))) else
  if bits n 6 0 = 7 ∧ bits n 15 11 = 0 then some (.vsfuCos (regOf (bits n 25 21)) (regOf (bits n 20 16)) (Ty.ofCode (bits n 10 7))) else
  if bits n 6 0 = 8 ∧ bits n 15 11 = 0 then some (.vsfuTanh (regOf (bits n 25 21)) (regOf (bits n 20 16)) (Ty.ofCode (bits n 10 7))) else
  if bits n 6 0 = 9 ∧ bits n 15 11 = 0 then some (.vsfuSilu (regOf (bits n 25 21)) (regOf (bits n 20 16)) (Ty.ofCode (bits n 10 7))) else
  if bits n 6 0 = 0xa ∧ bits n 15 11 = 0 then some (.vsfuSigm (regOf (bits n 25 21)) (regOf (bits n 20 16)) (Ty.ofCode (bits n 10 7))) else
  none

/-- Major 0x21 (R249). -/
def decVld (n : Nat) : Option Instr :=
  if bits n 6 0 = 0 ∧ bits n 15 11 = 0 then some (.vldUnit (regOf (bits n 25 21)) (regOf (bits n 20 16)) (Ty.ofCode (bits n 10 7))) else
  if bits n 6 0 = 0x10 ∧ bits n 15 11 = 0 then some (.vldStride (regOf (bits n 25 21)) (regOf (bits n 20 16)) (Ty.ofCode (bits n 10 7))) else
  if bits n 6 0 = 0x20 then some (.vldIndex (regOf (bits n 25 21)) (regOf (bits n 20 16)) (regOf (bits n 15 11)) (Ty.ofCode (bits n 10 7))) else
  if bits n 6 0 = 0x30 then some (.vldElem (regOf (bits n 25 21)) (regOf (bits n 20 16)) (regOf (bits n 15 11)) (Ty.ofCode (bits n 10 7))) else
  none

/-- Major 0x22 (R249). -/
def decVst (n : Nat) : Option Instr :=
  if bits n 6 0 = 0 ∧ bits n 15 11 = 0 then some (.vstUnit (regOf (bits n 25 21)) (regOf (bits n 20 16)) (Ty.ofCode (bits n 10 7))) else
  if bits n 6 0 = 1 ∧ bits n 15 11 = 0 then some (.vstUnitu (regOf (bits n 25 21)) (regOf (bits n 20 16)) (Ty.ofCode (bits n 10 7))) else
  if bits n 6 0 = 0x10 ∧ bits n 15 11 = 0 then some (.vstStride (regOf (bits n 25 21)) (regOf (bits n 20 16)) (Ty.ofCode (bits n 10 7))) else
  if bits n 6 0 = 0x11 ∧ bits n 15 11 = 0 then some (.vstStrideu (regOf (bits n 25 21)) (regOf (bits n 20 16)) (Ty.ofCode (bits n 10 7))) else
  if bits n 6 0 = 0x20 then some (.vstIndex (regOf (bits n 25 21)) (regOf (bits n 20 16)) (regOf (bits n 15 11)) (Ty.ofCode (bits n 10 7))) else
  if bits n 6 0 = 0x21 then some (.vstIndexu (regOf (bits n 25 21)) (regOf (bits n 20 16)) (regOf (bits n 15 11)) (Ty.ofCode (bits n 10 7))) else
  if bits n 6 0 = 0x30 then some (.vstElem (regOf (bits n 25 21)) (regOf (bits n 20 16)) (regOf (bits n 15 11)) (Ty.ofCode (bits n 10 7))) else
  if bits n 6 0 = 0x31 then some (.vstElemu (regOf (bits n 25 21)) (regOf (bits n 20 16)) (regOf (bits n 15 11)) (Ty.ofCode (bits n 10 7))) else
  none

/-- Major 0x23 (R249). -/
def decVstm (n : Nat) : Option Instr :=
  if bits n 15 0 = 0 then some (.vstmBind (regOf (bits n 25 21)) (regOf (bits n 20 16))) else
  if bits n 20 0 = 1 then some (.vstmUnbind (regOf (bits n 25 21))) else
  if bits n 10 0 = 0x10 then some (.vstmSpill (regOf (bits n 25 21)) (regOf (bits n 20 16)) (regOf (bits n 15 11))) else
  if bits n 15 0 = 0x11 then some (.vstmFill (regOf (bits n 25 21)) (regOf (bits n 20 16))) else
  none

/-- Major 0x24 (R249). -/
def decVpres (n : Nat) : Option Instr :=
  if bits n 15 0 = 0 ∧ bits n 25 21 = 0 then some (.vsettle (regOf (bits n 20 16))) else
  if bits n 6 0 = 1 ∧ bits n 15 11 = 0 then some (.vpresPresent (regOf (bits n 25 21)) (regOf (bits n 20 16)) (Ty.ofCode (bits n 10 7))) else
  if bits n 6 0 = 2 ∧ bits n 15 11 = 0 then some (.vpresPoisoned (regOf (bits n 25 21)) (regOf (bits n 20 16)) (Ty.ofCode (bits n 10 7))) else
  if bits n 6 0 = 3 ∧ bits n 20 16 = 0 then some (.vpresHeal (regOf (bits n 25 21)) (regOf (bits n 15 11)) (Ty.ofCode (bits n 10 7))) else
  none

/-- Major 0x25 (R249). -/
def decVcvt (n : Nat) : Option Instr :=
  some (.vcvt (regOf (bits n 25 21)) (regOf (bits n 20 16)) (regOf (bits n 15 11)) (Ty.ofCode (bits n 10 7)) (Ty.ofCode (bits n 6 3)) (.ofNat _ (bits n 2 0)))

/-- Major 0x30 (R249). -/
def decMx (n : Nat) : Option Instr :=
  if bits n 10 0 = 0 then some (.mxMode (regOf (bits n 25 21)) (regOf (bits n 20 16)) (regOf (bits n 15 11))) else
  if bits n 6 0 = 1 then some (.mxTshape (regOf (bits n 25 21)) (regOf (bits n 20 16)) (regOf (bits n 15 11)) (Ty.ofCode (bits n 10 7))) else
  if bits n 6 0 = 2 then some (.mxOp (regOf (bits n 25 21)) (regOf (bits n 20 16)) (regOf (bits n 15 11)) (Ty.ofCode (bits n 10 7))) else
  if bits n 20 0 = 3 then some (.mxZero (regOf (bits n 25 21))) else
  if bits n 15 0 = 4 then some (.mxMv (regOf (bits n 25 21)) (regOf (bits n 20 16))) else
  if bits n 10 0 = 0x485 then some (.mxRdrow (regOf (bits n 25 21)) (regOf (bits n 20 16)) (regOf (bits n 15 11))) else
  if bits n 10 0 = 0x486 then some (.mxRdcol (regOf (bits n 25 21)) (regOf (bits n 20 16)) (regOf (bits n 15 11))) else
  if bits n 10 0 = 0x487 then some (.mxWrrow (regOf (bits n 25 21)) (regOf (bits n 20 16)) (regOf (bits n 15 11))) else
  if bits n 10 0 = 0x488 then some (.mxWrcol (regOf (bits n 25 21)) (regOf (bits n 20 16)) (regOf (bits n 15 11))) else
  if bits n 15 0 = 9 then some (.mxSpill (regOf (bits n 25 21)) (regOf (bits n 20 16))) else
  if bits n 15 0 = 0xa then some (.mxFill (regOf (bits n 25 21)) (regOf (bits n 20 16))) else
  none

/-- Major 0x31 (R249). -/
def decSp (n : Nat) : Option Instr :=
  if bits n 6 0 = 0 ∧ bits n 15 11 = 0 then some (.spEval (regOf (bits n 25 21)) (regOf (bits n 20 16)) (Ty.ofCode (bits n 10 7))) else
  if bits n 6 0 = 1 ∧ bits n 25 21 = 0 then some (.spGrad (regOf (bits n 20 16)) (regOf (bits n 15 11)) (Ty.ofCode (bits n 10 7))) else
  if bits n 6 0 = 2 then some (.spDx (regOf (bits n 25 21)) (regOf (bits n 20 16)) (regOf (bits n 15 11)) (Ty.ofCode (bits n 10 7))) else
  if bits n 25 0 = 3 then some .spRefine else
  if bits n 15 0 = 4 ∧ bits n 25 21 = 0 then some (.spPair (regOf (bits n 20 16))) else
  if bits n 25 0 = 5 then some .spGzero else
  if bits n 15 0 = 6 ∧ bits n 25 21 = 0 then some (.spGspill (regOf (bits n 20 16))) else
  if bits n 15 0 = 7 ∧ bits n 25 21 = 0 then some (.spGfill (regOf (bits n 20 16))) else
  none

/-- Major 0x33 (R249). -/
def decEng (n : Nat) : Option Instr :=
  if bits n 6 0 = 0 then some (.engCopy (regOf (bits n 25 21)) (regOf (bits n 20 16)) (regOf (bits n 15 11)) (.ofNat _ (bits n 10 7))) else
  if bits n 6 0 = 1 then some (.engMcast (regOf (bits n 25 21)) (regOf (bits n 20 16)) (regOf (bits n 15 11)) (.ofNat _ (bits n 10 7))) else
  if bits n 6 0 = 2 then some (.engGather (regOf (bits n 25 21)) (regOf (bits n 20 16)) (regOf (bits n 15 11)) (.ofNat _ (bits n 10 7))) else
  if bits n 15 0 = 3 then some (.engPatt (regOf (bits n 25 21)) (regOf (bits n 20 16))) else
  if bits n 6 0 = 4 ∧ bits n 15 11 = 0 ∧ bits n 25 21 = 0 then some (.engColl (regOf (bits n 20 16)) (.ofNat _ (bits n 10 7))) else
  none

/-- The decoder of a major opcode; none for a reserved one (R249). -/
def majorDecoder (m : Nat) : Option (Nat → Option Instr) :=
  match m with
  | 0x00 => some decIll
  | 0x3F => some decIll3f
  | 0x01 => some decAlu
  | 0x02 => some decAlui
  | 0x03 => some decHi
  | 0x05 => some decLd
  | 0x06 => some decSt
  | 0x07 => some decBr
  | 0x08 => some decJmp
  | 0x09 => some decJr
  | 0x04 => some decFpu
  | 0x0A => some decCtl
  | 0x0B => some decSys
  | 0x0C => some decAmo
  | 0x0D => some decFen
  | 0x0E => some decBar
  | 0x0F => some decFut
  | 0x10 => some decTask
  | 0x11 => some decHq
  | 0x18 => some decVcfg
  | 0x19 => some decVv
  | 0x1A => some decVx
  | 0x1B => some decVi
  | 0x1C => some decVq
  | 0x1D => some decVcmp
  | 0x1E => some decVred
  | 0x1F => some decVperm
  | 0x20 => some decVsfu
  | 0x21 => some decVld
  | 0x22 => some decVst
  | 0x23 => some decVstm
  | 0x24 => some decVpres
  | 0x25 => some decVcvt
  | 0x30 => some decMx
  | 0x31 => some decSp
  | 0x33 => some decEng
  | _ => none

/-- The instruction a word holds, or the name of the reason there is none (R250, R251). -/
def decodeWord (n : Nat) : Except Reject Instr :=
  match majorDecoder (bits n 31 26) with
  | none => .error .reservedMajor
  | some f =>
    match f n with
    | none => .error .reservedForm
    | some i => .ok i

end

/-- Fields put into a word that starts as `m`: each value at its lowest bit (R244). -/
def put (m : Nat) : List (Nat × Nat) → Nat
  | [] => m
  | (v, lo) :: fs => v * 2 ^ lo + put m fs

/-- The word of an instruction, written from the same fields (R244): the reserved and unused
bits are 0. A device event has no word. -/
def encodeNat (i : Instr) : Option Nat :=
  match i with
  | .ill x => some (put 0x00000000 [(x.toNat, 0)])
  | .ill3f x => some (put 0xFC000000 [(x.toNat, 0)])
  | .aluAdd d a b t => some (put 0x04000000 [(d.val, 21), (a.val, 16), (b.val, 11), (t.code, 7)])
  | .aluSub d a b t => some (put 0x04000001 [(d.val, 21), (a.val, 16), (b.val, 11), (t.code, 7)])
  | .aluAdds d a b t => some (put 0x04000002 [(d.val, 21), (a.val, 16), (b.val, 11), (t.code, 7)])
  | .aluSubs d a b t => some (put 0x04000003 [(d.val, 21), (a.val, 16), (b.val, 11), (t.code, 7)])
  | .aluMul d a b t => some (put 0x04000004 [(d.val, 21), (a.val, 16), (b.val, 11), (t.code, 7)])
  | .aluMulh d a b t => some (put 0x04000005 [(d.val, 21), (a.val, 16), (b.val, 11), (t.code, 7)])
  | .aluDiv d a b t => some (put 0x04000006 [(d.val, 21), (a.val, 16), (b.val, 11), (t.code, 7)])
  | .aluRem d a b t => some (put 0x04000007 [(d.val, 21), (a.val, 16), (b.val, 11), (t.code, 7)])
  | .aluAnd d a b t => some (put 0x04000008 [(d.val, 21), (a.val, 16), (b.val, 11), (t.code, 7)])
  | .aluOr d a b t => some (put 0x04000009 [(d.val, 21), (a.val, 16), (b.val, 11), (t.code, 7)])
  | .aluXor d a b t => some (put 0x0400000A [(d.val, 21), (a.val, 16), (b.val, 11), (t.code, 7)])
  | .aluAndn d a b t => some (put 0x0400000B [(d.val, 21), (a.val, 16), (b.val, 11), (t.code, 7)])
  | .aluShl d a b t => some (put 0x0400000C [(d.val, 21), (a.val, 16), (b.val, 11), (t.code, 7)])
  | .aluShr d a b t => some (put 0x0400000D [(d.val, 21), (a.val, 16), (b.val, 11), (t.code, 7)])
  | .aluMin d a b t => some (put 0x0400000E [(d.val, 21), (a.val, 16), (b.val, 11), (t.code, 7)])
  | .aluMax d a b t => some (put 0x0400000F [(d.val, 21), (a.val, 16), (b.val, 11), (t.code, 7)])
  | .aluSlt d a b t => some (put 0x04000010 [(d.val, 21), (a.val, 16), (b.val, 11), (t.code, 7)])
  | .aluSeq d a b t => some (put 0x04000011 [(d.val, 21), (a.val, 16), (b.val, 11), (t.code, 7)])
  | .aluPcnt d a t => some (put 0x04000012 [(d.val, 21), (a.val, 16), (t.code, 7)])
  | .aluClz d a t => some (put 0x04000013 [(d.val, 21), (a.val, 16), (t.code, 7)])
  | .aluCtz d a t => some (put 0x04000014 [(d.val, 21), (a.val, 16), (t.code, 7)])
  | .aluiAdd d a imm => some (put 0x08000000 [(d.val, 21), (a.val, 16), (imm.toNat, 0)])
  | .aluiAnd d a imm => some (put 0x08001000 [(d.val, 21), (a.val, 16), (imm.toNat, 0)])
  | .aluiOr d a imm => some (put 0x08002000 [(d.val, 21), (a.val, 16), (imm.toNat, 0)])
  | .aluiXor d a imm => some (put 0x08003000 [(d.val, 21), (a.val, 16), (imm.toNat, 0)])
  | .aluiShl d a imm => some (put 0x08004000 [(d.val, 21), (a.val, 16), (imm.toNat, 0)])
  | .aluiShr d a imm => some (put 0x08005000 [(d.val, 21), (a.val, 16), (imm.toNat, 0)])
  | .aluiSra d a imm => some (put 0x08006000 [(d.val, 21), (a.val, 16), (imm.toNat, 0)])
  | .aluiSlt d a imm => some (put 0x08007000 [(d.val, 21), (a.val, 16), (imm.toNat, 0)])
  | .aluiSltu d a imm => some (put 0x08008000 [(d.val, 21), (a.val, 16), (imm.toNat, 0)])
  | .hi d a imm => some (put 0x0C000000 [(d.val, 21), (a.val, 16), (imm.toNat, 0)])
  | .ld d a t off => some (put 0x14000000 [(d.val, 21), (a.val, 16), (t.code, 12), (off.toNat, 0)])
  | .st d a t off => some (put 0x18000000 [(d.val, 21), (a.val, 16), (t.code, 12), (off.toNat, 0)])
  | .brEq a b off => some (put 0x1C000000 [(a.val, 21), (b.val, 16), (off.toNat, 0)])
  | .brNe a b off => some (put 0x1C002000 [(a.val, 21), (b.val, 16), (off.toNat, 0)])
  | .brLt a b off => some (put 0x1C004000 [(a.val, 21), (b.val, 16), (off.toNat, 0)])
  | .brGe a b off => some (put 0x1C006000 [(a.val, 21), (b.val, 16), (off.toNat, 0)])
  | .brLtu a b off => some (put 0x1C008000 [(a.val, 21), (b.val, 16), (off.toNat, 0)])
  | .brGeu a b off => some (put 0x1C00A000 [(a.val, 21), (b.val, 16), (off.toNat, 0)])
  | .jmp off => some (put 0x20000000 [(off.toNat, 0)])
  | .jrGo a => some (put 0x24000000 [(a.val, 16)])
  | .jrCall d a => some (put 0x24000001 [(d.val, 21), (a.val, 16)])
  | .fpuAdd d a b t => some (put 0x10000000 [(d.val, 21), (a.val, 16), (b.val, 11), (t.code, 7)])
  | .fpuSub d a b t => some (put 0x10000001 [(d.val, 21), (a.val, 16), (b.val, 11), (t.code, 7)])
  | .fpuMul d a b t => some (put 0x10000002 [(d.val, 21), (a.val, 16), (b.val, 11), (t.code, 7)])
  | .fpuDiv d a b t => some (put 0x10000003 [(d.val, 21), (a.val, 16), (b.val, 11), (t.code, 7)])
  | .fpuSqrt d a t => some (put 0x10000004 [(d.val, 21), (a.val, 16), (t.code, 7)])
  | .fpuFma d a b t => some (put 0x10000005 [(d.val, 21), (a.val, 16), (b.val, 11), (t.code, 7)])
  | .fpuMin d a b t => some (put 0x10000006 [(d.val, 21), (a.val, 16), (b.val, 11), (t.code, 7)])
  | .fpuMax d a b t => some (put 0x10000007 [(d.val, 21), (a.val, 16), (b.val, 11), (t.code, 7)])
  | .fpuEq d a b t => some (put 0x10000008 [(d.val, 21), (a.val, 16), (b.val, 11), (t.code, 7)])
  | .fpuLt d a b t => some (put 0x10000009 [(d.val, 21), (a.val, 16), (b.val, 11), (t.code, 7)])
  | .fpuLe d a b t => some (put 0x1000000A [(d.val, 21), (a.val, 16), (b.val, 11), (t.code, 7)])
  | .fpuUnord d a b t => some (put 0x1000000B [(d.val, 21), (a.val, 16), (b.val, 11), (t.code, 7)])
  | .fpuNeg d a t => some (put 0x1000000C [(d.val, 21), (a.val, 16), (t.code, 7)])
  | .fpuAbs d a t => some (put 0x1000000D [(d.val, 21), (a.val, 16), (t.code, 7)])
  | .fpuRcp d a t => some (put 0x1000000E [(d.val, 21), (a.val, 16), (t.code, 7)])
  | .fpuRsq d a t => some (put 0x1000000F [(d.val, 21), (a.val, 16), (t.code, 7)])
  | .fpuTof32 d a t => some (put 0x10000010 [(d.val, 21), (a.val, 16), (t.code, 7)])
  | .fpuTof64 d a t => some (put 0x10000011 [(d.val, 21), (a.val, 16), (t.code, 7)])
  | .fpuTod64 d a t => some (put 0x10000012 [(d.val, 21), (a.val, 16), (t.code, 7)])
  | .fpuTobf16 d a t => some (put 0x10000013 [(d.val, 21), (a.val, 16), (t.code, 7)])
  | .fpuTobf16sr d a => some (put 0x10000494 [(d.val, 21), (a.val, 16)])
  | .fpuToi64 d a t => some (put 0x10000015 [(d.val, 21), (a.val, 16), (t.code, 7)])
  | .fpuToi64z d a t => some (put 0x10000016 [(d.val, 21), (a.val, 16), (t.code, 7)])
  | .fpuTon64 d a t => some (put 0x10000017 [(d.val, 21), (a.val, 16), (t.code, 7)])
  | .fpuFromi64 d a t => some (put 0x10000018 [(d.val, 21), (a.val, 16), (t.code, 7)])
  | .fpuFromn64 d a t => some (put 0x10000019 [(d.val, 21), (a.val, 16), (t.code, 7)])
  | .fpuQuant d a b => some (put 0x1000069A [(d.val, 21), (a.val, 16), (b.val, 11)])
  | .ctlRd d num => some (put 0x28000000 [(d.val, 21), (num.toNat, 4)])
  | .ctlWr a num => some (put 0x28000001 [(a.val, 16), (num.toNat, 4)])
  | .ctlSet a num => some (put 0x28000002 [(a.val, 16), (num.toNat, 4)])
  | .ctlClr a num => some (put 0x28000003 [(a.val, 16), (num.toNat, 4)])
  | .svc n => some (put 0x2C000000 [(n.toNat, 4)])
  | .tret => some (put 0x2C000001 [])
  | .idle d a => some (put 0x2C000002 [(d.val, 21), (a.val, 16)])
  | .brk code => some (put 0x2C000003 [(code.toNat, 4)])
  | .id d => some (put 0x2C000004 [(d.val, 21)])
  | .csave d a slots keep coreBit => some (put 0x2C000005 [(d.val, 21), (a.val, 16), (slots.toNat, 8), (keep.toNat, 5), (coreBit.toNat, 4)])
  | .crest a go => some (put 0x2C000006 [(a.val, 16), (go.toNat, 4)])
  | .tlbinvPage a scope => some (put 0x2C000007 [(a.val, 16), (scope.toNat, 12)])
  | .tlbinvAsid a scope => some (put 0x2C004007 [(a.val, 16), (scope.toNat, 12)])
  | .tlbinvAll scope => some (put 0x2C008007 [(scope.toNat, 12)])
  | .halt => some (put 0x2C000008 [])
  | .amoLd d a t sys ord => some (put 0x30000000 [(d.val, 21), (a.val, 16), (t.code, 7), (sys.toNat, 6), (ord.toNat, 4)])
  | .amoSt a b t sys ord => some (put 0x30000001 [(a.val, 16), (b.val, 11), (t.code, 7), (sys.toNat, 6), (ord.toNat, 4)])
  | .amoSwap d a b t sys ord => some (put 0x30000002 [(d.val, 21), (a.val, 16), (b.val, 11), (t.code, 7), (sys.toNat, 6), (ord.toNat, 4)])
  | .amoCas d a b t sys ord => some (put 0x30000003 [(d.val, 21), (a.val, 16), (b.val, 11), (t.code, 7), (sys.toNat, 6), (ord.toNat, 4)])
  | .amoAdd d a b t sys ord => some (put 0x30000004 [(d.val, 21), (a.val, 16), (b.val, 11), (t.code, 7), (sys.toNat, 6), (ord.toNat, 4)])
  | .amoAnd d a b t sys ord => some (put 0x30000005 [(d.val, 21), (a.val, 16), (b.val, 11), (t.code, 7), (sys.toNat, 6), (ord.toNat, 4)])
  | .amoOr d a b t sys ord => some (put 0x30000006 [(d.val, 21), (a.val, 16), (b.val, 11), (t.code, 7), (sys.toNat, 6), (ord.toNat, 4)])
  | .amoXor d a b t sys ord => some (put 0x30000007 [(d.val, 21), (a.val, 16), (b.val, 11), (t.code, 7), (sys.toNat, 6), (ord.toNat, 4)])
  | .amoMin d a b t sys ord => some (put 0x30000008 [(d.val, 21), (a.val, 16), (b.val, 11), (t.code, 7), (sys.toNat, 6), (ord.toNat, 4)])
  | .amoMax d a b t sys ord => some (put 0x30000009 [(d.val, 21), (a.val, 16), (b.val, 11), (t.code, 7), (sys.toNat, 6), (ord.toNat, 4)])
  | .amoCas2 d a b sys ord => some (put 0x3000038A [(d.val, 21), (a.val, 16), (b.val, 11), (sys.toNat, 6), (ord.toNat, 4)])
  | .amoVadd d a b t sys ord => some (put 0x3000000C [(d.val, 21), (a.val, 16), (b.val, 11), (t.code, 7), (sys.toNat, 6), (ord.toNat, 4)])
  | .amoVmin d a b t sys ord => some (put 0x3000000D [(d.val, 21), (a.val, 16), (b.val, 11), (t.code, 7), (sys.toNat, 6), (ord.toNat, 4)])
  | .amoVmax d a b t sys ord => some (put 0x3000000E [(d.val, 21), (a.val, 16), (b.val, 11), (t.code, 7), (sys.toNat, 6), (ord.toNat, 4)])
  | .amoVswap d a b t sys ord => some (put 0x3000000F [(d.val, 21), (a.val, 16), (b.val, 11), (t.code, 7), (sys.toNat, 6), (ord.toNat, 4)])
  | .fenAll scope => some (put 0x34000000 [(scope.toNat, 4)])
  | .fenLoad scope => some (put 0x34000100 [(scope.toNat, 4)])
  | .fenStore scope => some (put 0x34000200 [(scope.toNat, 4)])
  | .fenEng scope => some (put 0x34000001 [(scope.toNat, 4)])
  | .fenPhase d a => some (put 0x34000007 [(d.val, 21), (a.val, 16)])
  | .barInit d a => some (put 0x38000000 [(d.val, 21), (a.val, 16)])
  | .barArrive d a => some (put 0x38000001 [(d.val, 21), (a.val, 16)])
  | .barWait d a => some (put 0x38000002 [(d.val, 21), (a.val, 16)])
  | .barSync d a => some (put 0x38000003 [(d.val, 21), (a.val, 16)])
  | .futInit d a => some (put 0x3C000000 [(d.val, 21), (a.val, 16)])
  | .futReg d a => some (put 0x3C000001 [(d.val, 21), (a.val, 16)])
  | .futRes d a => some (put 0x3C000002 [(d.val, 21), (a.val, 16)])
  | .futFail d a => some (put 0x3C000003 [(d.val, 21), (a.val, 16)])
  | .futGet d a => some (put 0x3C000004 [(d.val, 21), (a.val, 16)])
  | .futGetTry d a => some (put 0x3C000014 [(d.val, 21), (a.val, 16)])
  | .taskSpawn d a => some (put 0x40000000 [(d.val, 21), (a.val, 16)])
  | .taskSpawnHold d a => some (put 0x40000010 [(d.val, 21), (a.val, 16)])
  | .taskExit => some (put 0x40000001 [])
  | .taskYield d => some (put 0x40000002 [(d.val, 21)])
  | .hqTake => some (put 0x44000000 [])
  | .hqFill a b => some (put 0x44000001 [(a.val, 16), (b.val, 11)])
  | .hqFail a b => some (put 0x44000002 [(a.val, 16), (b.val, 11)])
  | .setvl d a wid => some (put 0x60000000 [(d.val, 21), (a.val, 16), (wid.toNat, 4)])
  | .setrows d a => some (put 0x60000001 [(d.val, 21), (a.val, 16)])
  | .vwhile d a cond off t3 => some (put 0x60000008 [(d.val, 21), (a.val, 16), (cond.toNat, 13), (off.toNat, 4), (t3.toNat, 0)])
  | .vvAdd d a b t => some (put 0x64000000 [(d.val, 21), (a.val, 16), (b.val, 11), (t.code, 7)])
  | .vvSub d a b t => some (put 0x64000001 [(d.val, 21), (a.val, 16), (b.val, 11), (t.code, 7)])
  | .vvAdds d a b t => some (put 0x64000002 [(d.val, 21), (a.val, 16), (b.val, 11), (t.code, 7)])
  | .vvSubs d a b t => some (put 0x64000003 [(d.val, 21), (a.val, 16), (b.val, 11), (t.code, 7)])
  | .vvMul d a b t => some (put 0x64000004 [(d.val, 21), (a.val, 16), (b.val, 11), (t.code, 7)])
  | .vvMulh d a b t => some (put 0x64000005 [(d.val, 21), (a.val, 16), (b.val, 11), (t.code, 7)])
  | .vvDiv d a b t => some (put 0x64000006 [(d.val, 21), (a.val, 16), (b.val, 11), (t.code, 7)])
  | .vvRem d a b t => some (put 0x64000007 [(d.val, 21), (a.val, 16), (b.val, 11), (t.code, 7)])
  | .vvAnd d a b t => some (put 0x64000008 [(d.val, 21), (a.val, 16), (b.val, 11), (t.code, 7)])
  | .vvOr d a b t => some (put 0x64000009 [(d.val, 21), (a.val, 16), (b.val, 11), (t.code, 7)])
  | .vvXor d a b t => some (put 0x6400000A [(d.val, 21), (a.val, 16), (b.val, 11), (t.code, 7)])
  | .vvAndn d a b t => some (put 0x6400000B [(d.val, 21), (a.val, 16), (b.val, 11), (t.code, 7)])
  | .vvShl d a b t => some (put 0x6400000C [(d.val, 21), (a.val, 16), (b.val, 11), (t.code, 7)])
  | .vvShr d a b t => some (put 0x6400000D [(d.val, 21), (a.val, 16), (b.val, 11), (t.code, 7)])
  | .vvMin d a b t => some (put 0x6400000E [(d.val, 21), (a.val, 16), (b.val, 11), (t.code, 7)])
  | .vvMax d a b t => some (put 0x6400000F [(d.val, 21), (a.val, 16), (b.val, 11), (t.code, 7)])
  | .vvPcnt d a t => some (put 0x64000012 [(d.val, 21), (a.val, 16), (t.code, 7)])
  | .vvClz d a t => some (put 0x64000013 [(d.val, 21), (a.val, 16), (t.code, 7)])
  | .vvCtz d a t => some (put 0x64000014 [(d.val, 21), (a.val, 16), (t.code, 7)])
  | .vvMv d b t => some (put 0x64000015 [(d.val, 21), (b.val, 11), (t.code, 7)])
  | .vvNeg d a t => some (put 0x64000018 [(d.val, 21), (a.val, 16), (t.code, 7)])
  | .vvAbs d a t => some (put 0x64000019 [(d.val, 21), (a.val, 16), (t.code, 7)])
  | .vvQuant d a b => some (put 0x6400069A [(d.val, 21), (a.val, 16), (b.val, 11)])
  | .vxAdd d a b t => some (put 0x68000000 [(d.val, 21), (a.val, 16), (b.val, 11), (t.code, 7)])
  | .vxSub d a b t => some (put 0x68000001 [(d.val, 21), (a.val, 16), (b.val, 11), (t.code, 7)])
  | .vxAdds d a b t => some (put 0x68000002 [(d.val, 21), (a.val, 16), (b.val, 11), (t.code, 7)])
  | .vxSubs d a b t => some (put 0x68000003 [(d.val, 21), (a.val, 16), (b.val, 11), (t.code, 7)])
  | .vxMul d a b t => some (put 0x68000004 [(d.val, 21), (a.val, 16), (b.val, 11), (t.code, 7)])
  | .vxMulh d a b t => some (put 0x68000005 [(d.val, 21), (a.val, 16), (b.val, 11), (t.code, 7)])
  | .vxDiv d a b t => some (put 0x68000006 [(d.val, 21), (a.val, 16), (b.val, 11), (t.code, 7)])
  | .vxRem d a b t => some (put 0x68000007 [(d.val, 21), (a.val, 16), (b.val, 11), (t.code, 7)])
  | .vxAnd d a b t => some (put 0x68000008 [(d.val, 21), (a.val, 16), (b.val, 11), (t.code, 7)])
  | .vxOr d a b t => some (put 0x68000009 [(d.val, 21), (a.val, 16), (b.val, 11), (t.code, 7)])
  | .vxXor d a b t => some (put 0x6800000A [(d.val, 21), (a.val, 16), (b.val, 11), (t.code, 7)])
  | .vxAndn d a b t => some (put 0x6800000B [(d.val, 21), (a.val, 16), (b.val, 11), (t.code, 7)])
  | .vxShl d a b t => some (put 0x6800000C [(d.val, 21), (a.val, 16), (b.val, 11), (t.code, 7)])
  | .vxShr d a b t => some (put 0x6800000D [(d.val, 21), (a.val, 16), (b.val, 11), (t.code, 7)])
  | .vxMin d a b t => some (put 0x6800000E [(d.val, 21), (a.val, 16), (b.val, 11), (t.code, 7)])
  | .vxMax d a b t => some (put 0x6800000F [(d.val, 21), (a.val, 16), (b.val, 11), (t.code, 7)])
  | .vxMv d b t => some (put 0x68000015 [(d.val, 21), (b.val, 11), (t.code, 7)])
  | .vxQuant d a b => some (put 0x6800069A [(d.val, 21), (a.val, 16), (b.val, 11)])
  | .viAdd d a imm t => some (put 0x6C000000 [(d.val, 21), (a.val, 16), (imm.toNat, 11), (t.code, 7)])
  | .viSub d a imm t => some (put 0x6C000001 [(d.val, 21), (a.val, 16), (imm.toNat, 11), (t.code, 7)])
  | .viAdds d a imm t => some (put 0x6C000002 [(d.val, 21), (a.val, 16), (imm.toNat, 11), (t.code, 7)])
  | .viSubs d a imm t => some (put 0x6C000003 [(d.val, 21), (a.val, 16), (imm.toNat, 11), (t.code, 7)])
  | .viMul d a imm t => some (put 0x6C000004 [(d.val, 21), (a.val, 16), (imm.toNat, 11), (t.code, 7)])
  | .viMulh d a imm t => some (put 0x6C000005 [(d.val, 21), (a.val, 16), (imm.toNat, 11), (t.code, 7)])
  | .viDiv d a imm t => some (put 0x6C000006 [(d.val, 21), (a.val, 16), (imm.toNat, 11), (t.code, 7)])
  | .viRem d a imm t => some (put 0x6C000007 [(d.val, 21), (a.val, 16), (imm.toNat, 11), (t.code, 7)])
  | .viAnd d a imm t => some (put 0x6C000008 [(d.val, 21), (a.val, 16), (imm.toNat, 11), (t.code, 7)])
  | .viOr d a imm t => some (put 0x6C000009 [(d.val, 21), (a.val, 16), (imm.toNat, 11), (t.code, 7)])
  | .viXor d a imm t => some (put 0x6C00000A [(d.val, 21), (a.val, 16), (imm.toNat, 11), (t.code, 7)])
  | .viAndn d a imm t => some (put 0x6C00000B [(d.val, 21), (a.val, 16), (imm.toNat, 11), (t.code, 7)])
  | .viShl d a imm t => some (put 0x6C00000C [(d.val, 21), (a.val, 16), (imm.toNat, 11), (t.code, 7)])
  | .viShr d a imm t => some (put 0x6C00000D [(d.val, 21), (a.val, 16), (imm.toNat, 11), (t.code, 7)])
  | .viMin d a imm t => some (put 0x6C00000E [(d.val, 21), (a.val, 16), (imm.toNat, 11), (t.code, 7)])
  | .viMax d a imm t => some (put 0x6C00000F [(d.val, 21), (a.val, 16), (imm.toNat, 11), (t.code, 7)])
  | .viMv d imm t => some (put 0x6C000015 [(d.val, 21), (imm.toNat, 11), (t.code, 7)])
  | .vqFma d a b c t3 => some (put 0x70000000 [(d.val, 21), (a.val, 16), (b.val, 11), (c.val, 6), (t3.toNat, 3)])
  | .vqFms d a b c t3 => some (put 0x70000001 [(d.val, 21), (a.val, 16), (b.val, 11), (c.val, 6), (t3.toNat, 3)])
  | .vqFnma d a b c t3 => some (put 0x70000002 [(d.val, 21), (a.val, 16), (b.val, 11), (c.val, 6), (t3.toNat, 3)])
  | .vqFnms d a b c t3 => some (put 0x70000003 [(d.val, 21), (a.val, 16), (b.val, 11), (c.val, 6), (t3.toNat, 3)])
  | .vqSfma d a b c t3 => some (put 0x70000004 [(d.val, 21), (a.val, 16), (b.val, 11), (c.val, 6), (t3.toNat, 3)])
  | .vqSfms d a b c t3 => some (put 0x70000005 [(d.val, 21), (a.val, 16), (b.val, 11), (c.val, 6), (t3.toNat, 3)])
  | .vqSfnma d a b c t3 => some (put 0x70000006 [(d.val, 21), (a.val, 16), (b.val, 11), (c.val, 6), (t3.toNat, 3)])
  | .vqSfnms d a b c t3 => some (put 0x70000007 [(d.val, 21), (a.val, 16), (b.val, 11), (c.val, 6), (t3.toNat, 3)])
  | .vcmp d a b t cond => some (put 0x74000000 [(d.val, 21), (a.val, 16), (b.val, 11), (t.code, 7), (cond.toNat, 0)])
  | .vcmpX d a b t cond => some (put 0x74000008 [(d.val, 21), (a.val, 16), (b.val, 11), (t.code, 7), (cond.toNat, 0)])
  | .vcmpI d a imm t cond => some (put 0x74000010 [(d.val, 21), (a.val, 16), (imm.toNat, 11), (t.code, 7), (cond.toNat, 0)])
  | .vcmpMand d a b => some (put 0x74000020 [(d.val, 21), (a.val, 16), (b.val, 11)])
  | .vcmpMor d a b => some (put 0x74000021 [(d.val, 21), (a.val, 16), (b.val, 11)])
  | .vcmpMxor d a b => some (put 0x74000022 [(d.val, 21), (a.val, 16), (b.val, 11)])
  | .vcmpMandn d a b => some (put 0x74000023 [(d.val, 21), (a.val, 16), (b.val, 11)])
  | .vcmpMset d => some (put 0x74000024 [(d.val, 21)])
  | .vcmpMclr d => some (put 0x74000025 [(d.val, 21)])
  | .vredSum d a b t => some (put 0x78000000 [(d.val, 21), (a.val, 16), (b.val, 11), (t.code, 7)])
  | .vredMin d a b t => some (put 0x78000001 [(d.val, 21), (a.val, 16), (b.val, 11), (t.code, 7)])
  | .vredMax d a b t => some (put 0x78000002 [(d.val, 21), (a.val, 16), (b.val, 11), (t.code, 7)])
  | .vredAnd d a b t => some (put 0x78000003 [(d.val, 21), (a.val, 16), (b.val, 11), (t.code, 7)])
  | .vredOr d a b t => some (put 0x78000004 [(d.val, 21), (a.val, 16), (b.val, 11), (t.code, 7)])
  | .vredXor d a b t => some (put 0x78000005 [(d.val, 21), (a.val, 16), (b.val, 11), (t.code, 7)])
  | .vredMinidx d a b t => some (put 0x78000006 [(d.val, 21), (a.val, 16), (b.val, 11), (t.code, 7)])
  | .vredMaxidx d a b t => some (put 0x78000007 [(d.val, 21), (a.val, 16), (b.val, 11), (t.code, 7)])
  | .vredMpop d a => some (put 0x78000008 [(d.val, 21), (a.val, 16)])
  | .vredMfirst d a => some (put 0x78000009 [(d.val, 21), (a.val, 16)])
  | .vpermSlup d a b t => some (put 0x7C000000 [(d.val, 21), (a.val, 16), (b.val, 11), (t.code, 7)])
  | .vpermSldn d a b t => some (put 0x7C000001 [(d.val, 21), (a.val, 16), (b.val, 11), (t.code, 7)])
  | .vpermPerm d a b t => some (put 0x7C000002 [(d.val, 21), (a.val, 16), (b.val, 11), (t.code, 7)])
  | .vpermCompress d a t => some (put 0x7C000003 [(d.val, 21), (a.val, 16), (t.code, 7)])
  | .vpermXtr d a b t => some (put 0x7C000004 [(d.val, 21), (a.val, 16), (b.val, 11), (t.code, 7)])
  | .vpermIns d a b t => some (put 0x7C000005 [(d.val, 21), (a.val, 16), (b.val, 11), (t.code, 7)])
  | .vpermIota d b t => some (put 0x7C000006 [(d.val, 21), (b.val, 11), (t.code, 7)])
  | .vpermHold d a b t => some (put 0x7C000008 [(d.val, 21), (a.val, 16), (b.val, 11), (t.code, 7)])
  | .vpermDrain d t => some (put 0x7C000009 [(d.val, 21), (t.code, 7)])
  | .vsfuRcp d a t => some (put 0x80000000 [(d.val, 21), (a.val, 16), (t.code, 7)])
  | .vsfuRcpe d a t => some (put 0x80000001 [(d.val, 21), (a.val, 16), (t.code, 7)])
  | .vsfuRsq d a t => some (put 0x80000002 [(d.val, 21), (a.val, 16), (t.code, 7)])
  | .vsfuSqrt d a t => some (put 0x80000003 [(d.val, 21), (a.val, 16), (t.code, 7)])
  | .vsfuExp2 d a t => some (put 0x80000004 [(d.val, 21), (a.val, 16), (t.code, 7)])
  | .vsfuLog2 d a t => some (put 0x80000005 [(d.val, 21), (a.val, 16), (t.code, 7)])
  | .vsfuSin d a t => some (put 0x80000006 [(d.val, 21), (a.val, 16), (t.code, 7)])
  | .vsfuCos d a t => some (put 0x80000007 [(d.val, 21), (a.val, 16), (t.code, 7)])
  | .vsfuTanh d a t => some (put 0x80000008 [(d.val, 21), (a.val, 16), (t.code, 7)])
  | .vsfuSilu d a t => some (put 0x80000009 [(d.val, 21), (a.val, 16), (t.code, 7)])
  | .vsfuSigm d a t => some (put 0x8000000A [(d.val, 21), (a.val, 16), (t.code, 7)])
  | .vldUnit d a t => some (put 0x84000000 [(d.val, 21), (a.val, 16), (t.code, 7)])
  | .vldStride d a t => some (put 0x84000010 [(d.val, 21), (a.val, 16), (t.code, 7)])
  | .vldIndex d a b t => some (put 0x84000020 [(d.val, 21), (a.val, 16), (b.val, 11), (t.code, 7)])
  | .vldElem d a b t => some (put 0x84000030 [(d.val, 21), (a.val, 16), (b.val, 11), (t.code, 7)])
  | .vstUnit d a t => some (put 0x88000000 [(d.val, 21), (a.val, 16), (t.code, 7)])
  | .vstUnitu d a t => some (put 0x88000001 [(d.val, 21), (a.val, 16), (t.code, 7)])
  | .vstStride d a t => some (put 0x88000010 [(d.val, 21), (a.val, 16), (t.code, 7)])
  | .vstStrideu d a t => some (put 0x88000011 [(d.val, 21), (a.val, 16), (t.code, 7)])
  | .vstIndex d a b t => some (put 0x88000020 [(d.val, 21), (a.val, 16), (b.val, 11), (t.code, 7)])
  | .vstIndexu d a b t => some (put 0x88000021 [(d.val, 21), (a.val, 16), (b.val, 11), (t.code, 7)])
  | .vstElem d a b t => some (put 0x88000030 [(d.val, 21), (a.val, 16), (b.val, 11), (t.code, 7)])
  | .vstElemu d a b t => some (put 0x88000031 [(d.val, 21), (a.val, 16), (b.val, 11), (t.code, 7)])
  | .vstmBind d a => some (put 0x8C000000 [(d.val, 21), (a.val, 16)])
  | .vstmUnbind d => some (put 0x8C000001 [(d.val, 21)])
  | .vstmSpill d a b => some (put 0x8C000010 [(d.val, 21), (a.val, 16), (b.val, 11)])
  | .vstmFill d a => some (put 0x8C000011 [(d.val, 21), (a.val, 16)])
  | .vsettle a => some (put 0x90000000 [(a.val, 16)])
  | .vpresPresent d a t => some (put 0x90000001 [(d.val, 21), (a.val, 16), (t.code, 7)])
  | .vpresPoisoned d a t => some (put 0x90000002 [(d.val, 21), (a.val, 16), (t.code, 7)])
  | .vpresHeal d b t => some (put 0x90000003 [(d.val, 21), (b.val, 11), (t.code, 7)])
  | .vcvt d a b t src rnd => some (put 0x94000000 [(d.val, 21), (a.val, 16), (b.val, 11), (t.code, 7), (src.code, 3), (rnd.toNat, 0)])
  | .mxMode d a b => some (put 0xC0000000 [(d.val, 21), (a.val, 16), (b.val, 11)])
  | .mxTshape d a b t => some (put 0xC0000001 [(d.val, 21), (a.val, 16), (b.val, 11), (t.code, 7)])
  | .mxOp d a b t => some (put 0xC0000002 [(d.val, 21), (a.val, 16), (b.val, 11), (t.code, 7)])
  | .mxZero d => some (put 0xC0000003 [(d.val, 21)])
  | .mxMv d a => some (put 0xC0000004 [(d.val, 21), (a.val, 16)])
  | .mxRdrow d a b => some (put 0xC0000485 [(d.val, 21), (a.val, 16), (b.val, 11)])
  | .mxRdcol d a b => some (put 0xC0000486 [(d.val, 21), (a.val, 16), (b.val, 11)])
  | .mxWrrow d a b => some (put 0xC0000487 [(d.val, 21), (a.val, 16), (b.val, 11)])
  | .mxWrcol d a b => some (put 0xC0000488 [(d.val, 21), (a.val, 16), (b.val, 11)])
  | .mxSpill d a => some (put 0xC0000009 [(d.val, 21), (a.val, 16)])
  | .mxFill d a => some (put 0xC000000A [(d.val, 21), (a.val, 16)])
  | .spEval d a t => some (put 0xC4000000 [(d.val, 21), (a.val, 16), (t.code, 7)])
  | .spGrad a b t => some (put 0xC4000001 [(a.val, 16), (b.val, 11), (t.code, 7)])
  | .spDx d a b t => some (put 0xC4000002 [(d.val, 21), (a.val, 16), (b.val, 11), (t.code, 7)])
  | .spRefine => some (put 0xC4000003 [])
  | .spPair a => some (put 0xC4000004 [(a.val, 16)])
  | .spGzero => some (put 0xC4000005 [])
  | .spGspill a => some (put 0xC4000006 [(a.val, 16)])
  | .spGfill a => some (put 0xC4000007 [(a.val, 16)])
  | .engCopy d a b k => some (put 0xCC000000 [(d.val, 21), (a.val, 16), (b.val, 11), (k.toNat, 7)])
  | .engMcast d a b k => some (put 0xCC000001 [(d.val, 21), (a.val, 16), (b.val, 11), (k.toNat, 7)])
  | .engGather d a b k => some (put 0xCC000002 [(d.val, 21), (a.val, 16), (b.val, 11), (k.toNat, 7)])
  | .engPatt d a => some (put 0xCC000003 [(d.val, 21), (a.val, 16)])
  | .engColl a k => some (put 0xCC000004 [(a.val, 16), (k.toNat, 7)])
  | .trapEntry _ => none
  | .tableWalk _ _ => none
  | .accessPerform _ => none
  | .targetFaultReport _ _ _ _ => none
  | .replCopyUpdate _ _ => none
  | .streamReadAhead _ _ => none
  | .engCompletion _ _ _ _ => none
  | .collTimeout _ => none
  | .hqTakeDispatch _ => none
  | .idleWake _ => none
  | .placementPass _ => none
  | .preempt _ => none
  | .preemptWaitExpiry _ _ => none
  | .remoteStopTimeout _ _ => none
  | .hostStopTimeout _ _ => none
  | .gangKill _ _ => none
  | .dieFence _ => none
  | .laneGroupRetire _ _ => none
  | .governorSample _ _ => none
  | .thermalOver _ => none
  | .thermalStepDown _ => none
  | .thermalRecover _ => none
  | .thermalStepUp _ => none
  | .boostIntervalEnd _ => none
  | .linkDown _ => none
  | .linkUp _ => none
  | .peerReset _ => none
  | .fabricInboundRequest _ _ => none
  | .hostInboundWrite _ _ _ => none
  | .hostInboundRead _ _ _ => none
  | .plinthFailing _ => none
  | .retireDrop _ => none
  | .rangeReturn _ => none
  | .partitionDeadline _ => none
  | .walkStart => none
  | .granuleMove => none
  | .copyBroadcast _ => none
  | .hangWatchdog _ => none
  | .stewardWatchdog => none
  | .packageReset _ _ _ => none
  | .energyUpdate _ => none
  | .energyLoRead _ => none
  | .mbtailWrite _ _ => none
  | .winbaseWrite _ _ => none
  | .hostSpawn _ _ => none
  | .dmbaseWrite _ _ => none
  | .dmtailWrite _ _ => none
  | .registerWrite _ _ _ => none
  | .retire _ _ => none
  | .partCreate _ _ _ _ _ => none
  | .partDestroy _ _ => none
  | .reset _ _ => none
  | .quote _ _ => none
  | .unlockChallenge _ => none
  | .unlock _ _ _ => none
  | .record _ => none
  | .dbgHalt _ => none
  | .dbgResume _ => none
  | .dbgStepInstruction _ _ => none
  | .dbgStepElements _ _ => none
  | .breakpointHit _ _ => none
  | .traceSample _ => none
  | .replayInject _ => none
  | .arrayRowGroupRetirement _ _ _ => none
  | .packagePowerOff => none

/-- The instruction word as bits. -/
def encode (i : Instr) : Option (BitVec 32) := (encodeNat i).map (BitVec.ofNat 32)

/-- The number little-endian bytes hold (R4). -/
def leNat : List Byte → Nat
  | [] => 0
  | b :: bs => b.toNat + 256 * leNat bs

/-- The low `k` bytes of a number, little-endian (R4). -/
def leBytes : Nat → Nat → List Byte
  | 0, _ => []
  | k + 1, n => .ofNat 8 n :: leBytes k (n / 256)

/-- Decoding a stream of bytes: the instruction and the bytes after it (R243). -/
noncomputable def decode (bs : List Byte) : Except Reject (Instr × List Byte) :=
  match bs with
  | b0 :: b1 :: b2 :: b3 :: rest =>
    match decodeWord (leNat [b0, b1, b2, b3]) with
    | .ok i => .ok (i, rest)
    | .error r => .error r
  | _ => .error .noWord

/-- The instruction the decoder reads from a table word: every instruction is one 32-bit word, so
the bits above `nbits` are 0 and the word lies little-endian (R243). -/
noncomputable def decodeTableWord (nbits w : Nat) : Option Instr :=
  match decode (leBytes 4 (w % 2 ^ nbits)) with
  | .ok (i, _) => some i
  | .error _ => none

end Sys2Proof
end

