-- ==== Sys2Proof/Machine/Memory.lean ====
section
/-! DEFINITION. Sparse storage. A memory is a list of address and byte pairs in one canonical form:
addresses strictly rise and no listed byte is 0, the byte an unlisted address reads as (log 2).
Device memory, scratchpads, scalar data memories, cell stores, vector registers and the memories of
the host and of the peers are all held so. A table of structures is a list of key and value pairs. -/

namespace Sys2Proof.Machine

/-- Bytes by address (R4, R41, R50, R56, R58). -/
abbrev Memory := List Host.Cell

namespace Memory

/-- What an unlisted address reads as (log 2). -/
def blank : Byte := 0

/-- The byte at an address. -/
def read1 (m : Memory) (a : Nat) : Byte :=
  match m with
  | [] => blank
  | (k, b) :: rest => if k = a then b else read1 rest a

/-- The memory with a byte listed in its place. -/
def enter (m : Memory) (a : Nat) (b : Byte) : Memory :=
  match m with
  | [] => [(a, b)]
  | (k, c) :: rest =>
    if a < k then (a, b) :: (k, c) :: rest
    else if a = k then (a, b) :: rest
    else (k, c) :: enter rest a b

/-- The memory after one byte is written: a canonical memory stays canonical, and any memory reads back what was written. -/
def write1 (m : Memory) (a : Nat) (b : Byte) : Memory := if b = blank then m.filter (·.1 != a) else enter m a b

/-- `n` bytes from an address on. -/
def readBytes (m : Memory) (a : Nat) : Nat → List Byte
  | 0 => []
  | n + 1 => read1 m a :: readBytes m (a + 1) n

/-- The memory after consecutive bytes are written. -/
def writeBytes (m : Memory) (a : Nat) : List Byte → Memory
  | [] => m
  | b :: bs => writeBytes (write1 m a b) (a + 1) bs

/-- The little-endian number of `n` bytes (R4). -/
def readNat (m : Memory) (a n : Nat) : Nat := leNat (readBytes m a n)

/-- The memory after a number is written as `n` little-endian bytes (R4). -/
def writeNat (m : Memory) (a n v : Nat) : Memory := writeBytes m a (leBytes n v)

/-- The memory with every byte of [lo, hi) blank. -/
def clear (m : Memory) (lo hi : Nat) : Memory := m.filter fun c => c.1 < lo || hi ≤ c.1

/-- The canonical form: addresses strictly rise from `lo` on and no byte is blank. -/
def wfFrom (lo : Nat) : Memory → Bool
  | [] => true
  | (k, b) :: rest => lo ≤ k && b != blank && wfFrom (k + 1) rest

/-- The canonical form. -/
def wf (m : Memory) : Bool := wfFrom 0 m

end Memory

/-- Structures by key; a key that is not listed has the table's default. -/
abbrev Table (α : Type) := List (Nat × α)

namespace Table

/-- The structure at a key. -/
def get {α : Type} (dflt : α) : Table α → Nat → α
  | [], _ => dflt
  | (k, v) :: rest, i => if k = i then v else get dflt rest i

/-- The structure at a key, if the key is listed. -/
def find? {α : Type} : Table α → Nat → Option α
  | [], _ => none
  | (k, v) :: rest, i => if k = i then some v else find? rest i

/-- The table with one structure replaced; keys that rise keep rising. -/
def set {α : Type} (m : Table α) (i : Nat) (v : α) : Table α :=
  match m with
  | [] => [(i, v)]
  | (k, w) :: rest =>
    if i < k then (i, v) :: (k, w) :: rest
    else if i = k then (i, v) :: rest
    else (k, w) :: set rest i v

/-- The table without a key. -/
def erase {α : Type} (m : Table α) (i : Nat) : Table α := m.filter (·.1 != i)

end Table

/-- The number a signed pattern of `w` bits stands for (R221). -/
def toSigned (w n : Nat) : Int :=
  let m := n % 2 ^ w
  if 2 * m < 2 ^ w then m else (m : Int) - 2 ^ w

/-- The pattern of `w` bits congruent to an integer (R221). -/
def wrapNat (w : Nat) (x : Int) : Nat := (x % (2 ^ w : Nat)).toNat

/-- Round up to a multiple of 64 (R45, R46). -/
def roundUp64 (n : Nat) : Nat := (n + 63) / 64 * 64

/-- Replace the bits hi to lo of a number (R3). -/
def setBits (n hi lo v : Nat) : Nat :=
  n - bits n hi lo * 2 ^ lo + v % 2 ^ (hi + 1 - lo) * 2 ^ lo

end Sys2Proof.Machine
end

