-- ==== Sys2Proof/Machine/State.lean ====
section
/-! DEFINITION. The state of the machine as plain data, and the state after reset. Each field names the
rule that gives it; INVENTORY.md lists the same. -/

namespace Sys2Proof.Machine

/-- Why the machine stops. -/
inductive Fault where
  /-- Raised by `step` when the package has no power: nothing on it runs (R1). Safe. -/
  | powerOff
  /-- Raised by `step` after a boot stage failed its check: boot stops there (R423). Safe. -/
  | bootStopped
  /-- Raised by `step` after a replay diverged: replay stops with a report (R413). Safe. -/
  | replayDiverged
  deriving DecidableEq, Repr

/-- Why an instruction has no meaning. -/
inductive Refusal where
  /-- Raised by an arm of `exec` that is not written yet. Safe. -/
  | notModelled (mnemonic : String)
  deriving DecidableEq, Repr

/-- Privilege (R299). -/
inductive Priv where
  | user | supervisor
  deriving DecidableEq, Repr

/-- The states of a hart slot (R148). -/
inductive SlotState where
  | empty | running | waiting | stopped
  deriving DecidableEq, Repr

/-- What a slot serves as (R145, R146). -/
inductive HartKind where
  | vector | scalar | helper
  deriving DecidableEq, Repr

/-- What a WAITING hart waits for (R148). -/
inductive Wait where
  /-- A READY hole-queue entry of its core (R344). -/
  | hole
  /-- The future at a device physical address to leave EMPTY and WAITING (R396). -/
  | future (addr : Nat)
  /-- A barrier's phase `p` to complete (R392). -/
  | barrier (die : Bool) (num : Nat) (p : Nat)
  /-- A retirement phase (R102). -/
  | phase (p : Nat)
  /-- The reference clock to reach a deadline (R292). -/
  | clock (deadline : Nat)
  /-- Nothing the hart sees: a halted hart or one that a csave holds (R295, R298). -/
  | held
  /-- The tret of the supervisor handler that a STOPPED hart runs (R148). -/
  | handler
  deriving DecidableEq, Repr

/-- One bank of trap registers (R192 to R196). -/
structure TrapBank where
  tvec   : Word := 0
  tcause : Word := 0
  tsub   : Word := 0
  tpc    : Word := 0
  tviq   : Word := 0
  treg   : Word := 0
  telem  : Word := 0
  taddr  : Word := 0
  deriving DecidableEq, Repr

/-- What a 16-bit granule misses (R160, R163): the hole-queue entries that will fill bits of it, each with a mask of
those bits, and the bits that are poisoned; `fails`: the entries that have failed with their bits there. The granule is a hole while an
entry of `fills` is listed, else poisoned while a bit is. -/
structure Absent where
  fills  : List (Nat × Nat) := []
  poison : Nat := 0
  fails  : List (Nat × Nat) := []
  deriving DecidableEq, Repr

/-- A vector register: its bytes (R41), high-water mark (R45), hidden width tag (R43), the granules
that are not present (R160), its progress index (R154) and its poison log record (R341: cause code and
full subcode). -/
structure VReg where
  bytes  : Memory := []
  hw     : Nat := 0
  tag    : Nat := 8
  absent : Table Absent := []
  busy   : Bool := false
  row    : Nat := 0
  elem   : Nat := 0
  log    : Option (Nat × Nat) := none
  /-- The bytes of uncorrectable 64-bit words that nothing has written since (R209). -/
  bad    : List Nat := []
  deriving DecidableEq, Repr

/-- Where an access goes after translation (R9 to R11, R20). -/
inductive Loc where
  | dev (addr : Nat)
  | spad (core off : Nat)
  | sdm (core off : Nat)
  | remote (port addr : Nat)
  | host (addr : Nat)
  | regs (addr : Nat)
  deriving DecidableEq, Repr

/-- Why an access does not deliver: a trap, or an integrity violation of a sector (R220). -/
inductive Stop where
  | trap (t : TrapInfo)
  | integrity (part addr : Nat)
  deriving DecidableEq, Repr

/-- Where a translated access goes, with the KIND and ENC of its stage-1 leaf (R18). A window is KIND 0 (R12). -/
structure Place where
  loc  : Loc
  kind : Nat := 0
  enc  : Bool := false
  deriving DecidableEq, Repr

/-- A translation kept in the gather TLB or in a unit-stride register (R23, R24): the partition, the
context, the page, its size as a power of two, the device physical base, the rights, the KIND, ENC, and
for KIND 2 the port's generation. -/
structure TlbEntry where
  bank  : Nat := 0
  part  : Nat
  asid  : Nat
  vbase : Nat
  lg    : Nat
  pbase : Nat
  r : Bool
  w : Bool
  x : Bool
  u : Bool
  kind : Nat
  enc  : Bool
  gen  : Nat
  deriving DecidableEq, Repr

/-- A store in a strip's buffer (R103, R114): where it goes, the bits that it wrote of each byte, its bytes, the translation that it
used (R39), and whether it is a position of an ordered vector store (R107 row 2). -/
structure StripStore where
  place : Place
  mask  : Nat := 0xFF
  bytes : List Byte
  page  : Option TlbEntry := none
  ordered : Bool := false
  deriving DecidableEq, Repr

/-- A range of translated addresses that an ARIT entry holds (R110): its first byte and its length. -/
structure Span where
  loc : Loc
  len : Nat
  deriving DecidableEq, Repr

/-- An entry of the synchronising read queue (R150): the pending scalar register; for a ctl.rd the control register, and
how many unfinished vector entries stand before it, and the value where it is settled already. Without a number the oldest unfinished vector entry that owes a
scalar result delivers it. -/
structure SyncRead where
  reg   : Reg
  num   : Option Nat := none
  ahead : Nat := 0
  val   : Option Nat := none
  deriving DecidableEq, Repr

/-- The working copy of a bound stream (R61, R63). -/
structure Stream where
  reg   : Nat
  block : Nat
  base  : Nat
  ty    : Ty
  write : Bool
  ndim  : Nat
  cnt   : List Nat
  str   : List Int
  pos   : List Nat
  deriving DecidableEq, Repr

/-- The functions of vv, vx and vi that take two operands (R311, R328). -/
inductive BinFn where
  | add | sub | adds | subs | mul | mulh | div | rem | and | or | xor | andn | shl | shr
  | min | max | quant
  deriving DecidableEq, Repr

/-- The functions of one operand (R311, R328). -/
inductive UnFn where
  | pcnt | clz | ctz | neg | abs
  deriving DecidableEq, Repr

/-- The special functions (R337). -/
inductive SfuFn where
  | rcp | rcpe | rsq | sqrt | exp2 | log2 | sin | cos | tanh | silu | sigm
  deriving DecidableEq, Repr

/-- The reductions to one value (R315). -/
inductive RedFn where
  | sum | min | max | and | or | xor
  deriving DecidableEq, Repr

/-- The addressing modes of vld and vst (R321). -/
inductive VMode where
  | unit | stride | index | elem
  deriving DecidableEq, Repr

/-- An operand of a position: none, element e of a register at a width, the scale byte of e's block (R335), or a value
committed with the entry. -/
inductive Src where
  | none
  | vec (r : Reg) (w : Nat)
  | scale (half : Nat)
  | val (v : Nat)
  deriving DecidableEq, Repr

/-- The moves of vperm (R317). -/
inductive MoveFn where
  | slup | sldn | perm | compress
  deriving DecidableEq, Repr

/-- What an entry of the vector instruction queue does. A `lane` entry computes each element from the same element of
its operands, by the function that its major and fn name. -/
inductive VOp where
  | lane (t st : Ty) (d : Reg) (wd : Nat) (tiled all : Bool) (a b c : Src)
  | move (fn : MoveFn) (t : Ty) (d a b : Reg)
  | ins (t : Ty) (d : Reg)
  | xtr (t : Ty) (d a : Reg)
  | hold (t : Ty) (d a : Reg)
  | drain (t : Ty) (d : Reg)
  | quant (src : Ty) (d a : Reg) (half : Nat) (sr : Bool)
  | vwhile (d a : Reg) (cond off : Nat) (t : Ty)
  | red (fn : RedFn) (t : Ty) (d a : Reg)
  | redIdx (max : Bool) (t : Ty) (d a : Reg)
  | mpop (d a : Reg)
  | mfirst (d a : Reg)
  | ld (mode : VMode) (t : Ty) (d : Reg) (b : Reg)
  | st (mode : VMode) (ordered : Bool) (t : Ty) (d : Reg) (b : Reg)
  | bind (d : Reg)
  | unbind (d : Reg)
  | spill (d : Reg)
  | fill (d : Reg)
  | settle
  | seen (poisoned : Bool) (t : Ty) (d a : Reg)
  | heal (t : Ty) (d : Reg)
  | amov (fn : AmoFn) (t : Ty) (d b : Reg) (ord : Nat)
  | mxMode (d : Reg)
  | mxTshape (t : Ty) (d : Reg)
  | mxOp (t : Ty) (d : Nat) (a b : Reg)
  | mxZero (d : Nat)
  | mxMv (d a : Nat)
  | mxRead (col : Bool) (d : Reg) (a : Nat)
  | mxWrite (col : Bool) (d : Nat) (a : Reg)
  | mxSpill (d : Nat)
  | mxFill (d : Nat)
  | spEval (t : Ty) (d a : Reg)
  | spGrad (t : Ty) (a b : Reg)
  | spDx (t : Ty) (d a b : Reg)
  | spRefine
  | spPair
  | spGzero
  | spGspill
  | spGfill
  | setvl (d : Reg) (w : Nat)
  | setrows (d : Reg)
  | eng (fn : Nat) (d a b : Reg) (k : Nat)
  | ctl (fn num : Nat)
  deriving DecidableEq, Repr

/-- An entry of the vector instruction queue (R149, R152, R302): what it does, the major and fn of its word, the
sequence tag, the address of its instruction, the committed operands and control values, and how far it has come. -/
structure VEntry where
  op     : VOp
  maj    : Nat := 0
  fn     : Nat := 0
  seq    : Nat := 0
  pc     : Word := 0
  x      : Word := 0
  y      : Word := 0
  z      : Word := 0
  /-- vstride; for an engine transfer the address of its completion block (R376). -/
  stride : Word := 0
  rows   : Nat := 1
  vmk    : Nat := 0
  fpctl  : Word := 0
  /-- srseed as an SR conversion read it (R232). -/
  key    : Nat := 0
  srcnt  : Nat := 0
  /-- The vl it runs with, once it has begun (R302). -/
  count  : Nat := 0
  /-- Progress: element, row within the tile (R154, R156). -/
  elem   : Nat := 0
  row    : Nat := 0
  /-- Where a stream store began (R65), or how much of a frame or a transfer is done. -/
  aux    : Nat := 0
  /-- 0: not begun; 1: performing positions; 2 + i: the stream store of its i-th write-bound register (R65). -/
  phase  : Nat := 0
  /-- Stream reads done (R64). -/
  reads  : Nat := 0
  /-- Registers that it both reads and writes, as they stood when it began: the physical copies it reads (R163). -/
  old    : List (Nat × VReg) := []
  /-- Trace flags HOLE and TRIM, and whether a begin record stands open (R404). -/
  flags  : Nat := 0
  opened : Bool := false
  /-- The stopping element is completed with its exceptions disabled (R200 MASKED). -/
  masked : Bool := false
  /-- The flags that it has raised and that were clear before (R237). -/
  raised : Nat := 0
  /-- A breakpoint has halted it at the position at which it stands (R408). -/
  broke  : Bool := false
  /-- Room in the strip buffer has been taken for its store (R213). -/
  took   : Bool := false
  /-- Positions an unordered store has performed, and where (R112, R113). -/
  doneAt : List (Nat × Nat × Loc) := []
  /-- Whether it has passed the run-ahead pipeline, the translations of its segment (R25, R39), and the ranges that its
  ARIT entry holds (R110). -/
  entered : Bool := false
  pages  : List TlbEntry := []
  spans  : List Span := []
  /-- Of an engine transfer that has ended: the kind, the block and the status word of its completion (R378). -/
  signal : Option (Nat × Nat × Nat) := none
  /-- Of an engine transfer: the bytes that it has added to a barrier, by handle (R393), the block of a collective that waits for
  its flags (R385), and the status word of a transfer that has failed while a scratchpad tracks it (R71). -/
  pend   : Option (Nat × Nat) := none
  block  : List Byte := []
  status : Option Nat := none
  /-- The position whose access a target has answered with a late fault (R29, R30), and the fault. -/
  late   : Option (Nat × Nat × TrapInfo) := none
  /-- Commit age in the core (R344). -/
  age    : Nat := 0
  deriving DecidableEq, Repr

/-- The states of a hole-queue entry that is in use (R163). -/
inductive HoleState where
  | linked | ready | taken | filled | failed | dead
  deriving DecidableEq, Repr

/-- An operand that awaits another entry (R161, R162): the operand, 0 to 2, the entry, and where the entry's value lies
against the operand's lowest bit, in bits. -/
structure Link where
  opnd : Nat
  id   : Nat
  off  : Int
  deriving DecidableEq, Repr

/-- A hole-queue entry (R162, R345). `wid` is the width of its result in bits, 1 for a mask bit. `links` are the
values still awaited. `cause` and `sub` are what a failure recorded. -/
structure HoleEntry where
  id    : Nat
  gen   : Nat
  slot  : Nat
  seq   : Nat
  age   : Nat
  row   : Nat
  elem  : Nat
  dreg  : Nat
  maskBit : Bool := false
  sr    : Bool := false
  maj   : Nat
  fn    : Nat
  ty    : Ty
  sty   : Ty
  fpctl : Word
  srcnt : Nat := 0
  srkey : Nat := 0
  opa   : Word := 0
  opb   : Word := 0
  opc   : Word := 0
  links : List Link := []
  wid   : Nat
  /-- Of a permute whose index awaits an entry: the register that it moves, and its capacity in elements (R161, R317). -/
  moved : Option (VReg × Nat) := none
  st    : HoleState
  cause : Nat := 0
  sub   : Nat := 0
  deriving DecidableEq, Repr

/-- How far a built-in fill routine has come (R432): before its computation, or with the result. -/
inductive Builtin where
  | compute
  | fill (value : Word)
  deriving DecidableEq, Repr

/-- What a protected strip's checkpoint keeps (R213, R232). -/
structure Checkpoint where
  sregs   : List (Reg × Word)
  vregs   : List (Reg × VReg)
  streams : List Stream
  pc      : Word
  count   : Nat
  seq     : Nat
  deriving DecidableEq, Repr

/-- A hart slot. -/
structure Hart where
  slot   : SlotState := .empty
  kind   : HartKind := .vector
  wait   : Wait := .held
  /-- s0 to s31 (R270). -/
  s      : Vector Word 32 := Vector.replicate 32 0
  pc     : Word := 0
  priv   : Priv := .user
  /-- The U and S banks (R192). -/
  ubank  : TrapBank := {}
  sbank  : TrapBank := {}
  /-- R17. -/
  ptbase : Word := 0
  /-- R303, R144, R304, R305. -/
  vl     : Nat := 0
  vrows  : Nat := 1
  vmk    : Nat := 0
  vstride : Word := 0
  /-- R207, R211, R166. -/
  vlcap  : Nat := 0x800
  pmode  : Nat := 0
  vdens  : Nat := 0x40
  /-- R236, R237, R232, R347. -/
  fpctl  : Word := 0
  fpflags : Nat := 0
  srkey  : Nat := 0
  srcount : Nat := 0
  filltab : Word := 0
  /-- R212. -/
  ckmask : Nat := 0
  ckvmask : Nat := 0
  rewinds : Nat := 0
  used   : Nat := 0
  again  : Bool := false
  unprot : Bool := false
  ckpt   : Option Checkpoint := none
  /-- The strip's store buffer, oldest store first (R114, R213). -/
  strip  : List StripStore := []
  /-- R174, R185. -/
  spawnMin : Nat := 0
  boostReq : Nat := 0
  /-- v0 to v31 (R41). -/
  v      : Vector VReg 32 := Vector.replicate 32 {}
  /-- The vector instruction queue, oldest first, and the next sequence tag (R149). -/
  viq    : List VEntry := []
  seq    : Nat := 0
  /-- The synchronising read queue, oldest first (R145, R150). -/
  sync   : List SyncRead := []
  /-- How much of the record of device-memory writes the hart's fetches see, and how much a fence has ordered before its next jump
  (R117). -/
  codeAt : Nat := 0
  fenced : Nat := 0
  /-- task.exit has retired; the slot is EMPTY once the gang releases the core (R148, R399). -/
  exited : Bool := false
  /-- The bound streams (R62). -/
  streams : List Stream := []
  /-- The hold buffer, oldest first, and its element width (R167, R318). -/
  hold   : List (Word × Word) := []
  holdW  : Nat := 0
  /-- The unit-stride translation register (R24). -/
  utr    : Option TlbEntry := none
  /-- The hole-queue entry a helper holds, by number; from 256 on, 256 and the HANDLE of an entry that a rewind has freed (R163, R214).
  Its built-in routine (R347, R432). -/
  taken  : Option Nat := none
  builtin : Option Builtin := none
  /-- The next scalar fpu instruction completes with its exceptions disabled (R200, R284). -/
  masked : Bool := false
  /-- The bar.sync instructions that have arrived and not passed: their addresses, handles, and the phases of their arrivals (R392). -/
  synced : List (Word × Nat × Nat) := []
  /-- Halted by the debug unit, and the work a debug step still has (R409, R410). -/
  halted : Bool := false
  stepsLeft : Option Nat := none
  stepElems : Option Nat := none
  /-- A fault that waits for the hart to resume (R177). -/
  pending : Option TrapInfo := none
  /-- Instructions retired, the MODEL's own count (R410). -/
  done   : Nat := 0
  /-- Index in the gang (R146), the gang, and the time of the last retirement (R429). -/
  index  : Nat := 0
  gang   : Option Nat := none
  retired : Nat := 0
  deriving DecidableEq, Repr

/-- A tracked copy into a scratchpad (R69 to R71): the first offset and length of its destination, the bytes its arrival
pointers have passed, and once they are FAILED the cause. -/
structure Track where
  hart : Nat
  dst  : Nat
  len  : Nat
  done : Nat
  fail : Option TrapInfo := none
  deriving DecidableEq, Repr

/-- A core. -/
structure Core where
  /-- R50, R56, R351: the byte of cell c at c * 64. -/
  spad  : Memory := []
  sdm   : Memory := []
  cells : Memory := []
  /-- R352, R356. -/
  mode  : Nat := 0
  owner : Nat := 0
  mvl   : Nat := 0
  tm    : Nat := 0
  tn    : Nat := 0
  tk    : Nat := 0
  /-- R363, R364. -/
  korg  : Nat := 0
  kinv  : Nat := 0x3F800000
  kn    : Vector Nat 16 := Vector.replicate 16 0
  kgrid : Nat := 1
  kdeg  : Nat := 3
  kclamp : Nat := 0
  /-- The hole queue by entry index, the generations, and the next commit age (R162 to R164, R345). -/
  holes : Table HoleEntry := []
  gens  : Table Nat := []
  age   : Nat := 0
  /-- Fill records, newest first: first offset, end offset, digest (R66). -/
  fills : List (Nat × Nat × Nat) := []
  /-- The gather TLB (R23). -/
  tlb   : List TlbEntry := []
  /-- Failed lane groups (R216), failed row and column groups (R217), as masks. -/
  lanesFailed : Nat := 0
  rowsFailed  : Nat := 0
  colsFailed  : Nat := 0
  /-- Uncorrectable 64-bit words of the scratchpad, the scalar data memory and the cell stores, by number (R209). -/
  badSpad : List Nat := []
  badSdm  : List Nat := []
  badCells : List Nat := []
  /-- The debug unit (R402, R403, R408): its registers by offset, HALTED aside, and LOST. -/
  dbg   : Table Word := []
  lost  : Nat := 0
  lastRecord : Nat := 0
  /-- The tick of the last sample (R407). -/
  sampled : Nat := 0
  /-- The slots that track copies into the scratchpad (R69). -/
  tracks : List Track := []
  gang  : Option Nat := none
  deriving DecidableEq, Repr

/-- A barrier (R391), and for the BROKEN rule of R394 the gangs whose arrivals count toward a phase that
has not completed, oldest first, with the cluster each arrived from. -/
structure Barrier where
  count   : Nat := 0
  arrived : Nat := 0
  pend    : Nat := 0
  phase   : Nat := 0
  broken  : Bool := false
  parties : List (Nat × Nat) := []
  deriving DecidableEq, Repr

/-- A compute die. -/
structure Die where
  /-- Power grant: 0 VLMAX, 1 half, 2 a quarter; consecutive samples above 95 % and below 80 % (R183). -/
  grant : Nat := 0
  above : Nat := 0
  below : Nat := 0
  /-- The permit pool (R186 to R188). -/
  permits : Nat := 64
  lock  : Bool := false
  lowc  : Nat := 0xF
  /-- Clusters above 1.0 GHz in this interval, and clusters in a free interval, as masks. -/
  hot   : Nat := 0
  free  : Nat := 0
  /-- The last four die-barrier phases, newest first: the cluster of the last arrival (R391); and how many
  completed since the pool last stood above 16 (R187, R440). -/
  record : List Nat := []
  since : Nat := 0
  /-- Die barriers by number (R390). -/
  bars  : Table Barrier := []
  /-- Class queues 0 to 3: task numbers, head first (R172). -/
  queues : Table (List Nat) := []
  fenced : Bool := false
  /-- The temperature is above the fused ceiling; it has fallen 5 °C below (R184). -/
  tooHot : Bool := false
  cooled : Bool := false
  /-- Ticks: the last governor sample (R183), the last thermal step or crossing (R184), the last interval end (R186). -/
  sampled : Nat := 0
  stepped : Nat := 0
  interval : Nat := 0
  /-- By class, the head that waits for exits and the tick since when (R175). -/
  heads : Table (Nat × Nat) := []
  deriving DecidableEq, Repr

/-- A cluster's clock as the permit pool set it and its thermal ceiling, as boost.STEP codes (R184, R185, R187). -/
structure Cluster where
  want : Nat := 2
  ceil : Nat := 0
  deriving DecidableEq, Repr

/-- What a task keeps from its spawn (R262, R443). -/
structure Start where
  ptbase : Word := 0
  tvecS  : Word := 0
  tvecU  : Word := 0
  fpctl  : Word := 0
  srkey  : Nat := 0
  pmode  : Nat := 0
  boost  : Nat := 0
  vlcap  : Nat := 0x800
  filltab : Word := 0
  array  : Bool := false
  spawnMin : Nat := 0
  /-- Where the launch record lies: a virtual address, for the tasks this one spawns. -/
  launch : Word := 0
  supervisor : Bool := false
  deriving DecidableEq, Repr

/-- The states of a task (R169). -/
inductive TaskState where
  | pending | ready | running | saved | exited | killed
  deriving DecidableEq, Repr

/-- What pre-emption saves of one gang-core (R176, R204). -/
structure SavedCore where
  /-- The core it ran on. -/
  at_   : Nat := 0
  harts : List (Nat × Hart)
  core  : Core
  deriving DecidableEq, Repr

/-- A task (R168, R169): the descriptor's virtual and device physical address, and the values placement
reads from it. -/
structure Task where
  desc   : Word
  phys   : Nat
  enc    : Bool
  part   : Nat
  die    : Nat
  cls    : Nat
  cores  : Nat
  nv     : Nat
  nh     : Nat
  np     : Nat
  entry  : Word
  arg    : Word
  future : Word
  start  : Start
  st     : TaskState
  saved  : List SavedCore := []
  /-- The tick of the request that stopped it last (R177). -/
  stopAt : Nat := 0
  deriving DecidableEq, Repr

/-- A placed gang (R142, R146): its task, its cores in gang order, its shape, its cluster barriers, the
harts that have exited, and its number in the order of placements (R175). -/
structure Gang where
  task   : Nat
  cores  : List Nat
  part   : Nat
  cls    : Nat
  nv     : Nat
  nh     : Nat
  np     : Nat
  array  : Bool
  bars   : Table Barrier := []
  placed : Nat := 0
  deriving DecidableEq, Repr

/-- A partition (R421) and its mailbox and service registers (R415 to R418). Ranges are base and length in
64 MiB units. -/
structure Partition where
  live    : Bool := false
  clusters : Nat := 0
  ranges  : List (Nat × Nat) := []
  ports   : Nat := 0
  root2   : Nat := 0
  spawnGrant : Nat := 0
  pattBase : Nat := 0
  pattCount : Nat := 0
  barBase : Nat := 0
  barCount : Nat := 0
  mbhead  : Nat := 0
  mbtail  : Nat := 0
  mbdrop  : Bool := false
  mbbase  : Nat := 0
  mbheld  : List (List Byte) := []
  winbase : Nat := 0
  energyHi : Nat := 0
  dmbase  : Nat := 0
  dmhead  : Nat := 0
  dmtail  : Nat := 0
  dmdrop  : Bool := false
  dmheld  : List (List Byte) := []
  dmfut   : Nat := 0
  dmsince : Nat := 0
  hsctx   : Word := 0
  hstvec  : Word := 0
  hsprio  : Nat := 0
  /-- The host has enabled AtomicOp completion for the function (R78). -/
  atomicOps : Bool := false
  /-- Sectors whose tag failed, in the reset report (R220). -/
  report : List Nat := []
  /-- An uncorrectable non-fatal error stands in the function's Advanced Error Reporting log (R416). -/
  aer : Bool := false
  /-- The last value a read through the window or the link returned to the host. -/
  lastRead : Option (List Byte) := none
  deriving DecidableEq, Repr

/-- An inbound window of a fabric port (R36): a range of device physical addresses, with rights. -/
structure Window where
  base : Nat
  len  : Nat
  r : Bool
  w : Bool
  deriving DecidableEq, Repr

/-- A fabric port (R33, R36, R419): link state, generation, owning partition, up to 16 inbound windows. Its policer (R420): the rate in
requests a tick, the rate that boot loaded, the depth, what the bucket holds and since when, and the requests that wait. -/
structure Port where
  up   : Bool := true
  gen  : Nat := 0
  part : Option Nat := none
  windows : List Window := []
  rate   : Nat := 1024
  loaded : Nat := 1024
  depth  : Nat := 1024
  tokens : Nat := 1024
  since  : Nat := 0
  waiting : List Request := []
  deriving DecidableEq, Repr

/-- A pattern table entry (R72). -/
structure Pattern where
  base  : Nat := 0
  limit : Nat := 0
  pitch : Nat := 0
  cols  : Nat := 0
  esize : Nat := 0
  valid : Bool := false
  enc   : Bool := false
  digest : Nat := 0
  part  : Nat := 0
  deriving DecidableEq, Repr

/-- What a 512-byte sector of device memory holds (R40, R220): the ciphertext of a partition, with its tag, or
plain bytes. A sector that nothing has written is neither (log 15). -/
inductive Sector where
  | enc (part : Nat)
  | plain
  deriving DecidableEq, Repr

/-- A store to a REPL page whose instant on one die has not come (R125): the die, the hart that stored (the number of no
hart for an inbound store), the address, and the bytes before and after. -/
structure ReplUpdate where
  die    : Nat
  hart   : Nat
  addr   : Nat
  before : List Byte
  after  : List Byte
  /-- The store is that of an atomic (R121, R127). -/
  atomic : Bool := false
  deriving DecidableEq, Repr

/-- memphase and memfront as one requester's copy may still show them (R82, R83, R94), and the tick at which they
changed. -/
structure View where
  phase   : Nat
  oldLive : Nat
  live    : Nat
  step    : Nat
  infl    : Nat
  front   : Nat
  till    : Nat
  deriving DecidableEq, Repr

/-- How a device-memory codeword is unreadable (R97, R220, R442). -/
inductive BadWord where
  | media | poisoned
  deriving DecidableEq, Repr

/-- Device memory, its neighbours and the retirement registers. -/
structure MemSys where
  /-- Device memory (R20, R58). -/
  dev    : Memory := []
  /-- The memories of the host and of the peers (log 9). -/
  host   : Memory := []
  peers  : Table Memory := []
  /-- Unreadable codewords by number, address div 64. -/
  bad    : Table BadWord := []
  /-- The sectors something has written, by number, address div 512. -/
  sectors : Table Sector := []
  /-- REPL stores whose die instants have not come, oldest first. -/
  repl   : List ReplUpdate := []
  /-- The record of device-memory writes, oldest first: the address, and the byte there before (R117). -/
  past   : List (Nat × Byte) := []
  /-- R81: CAP as a granule number. -/
  cap    : Nat := 0x8000000
  /-- R82. -/
  oldLive : Nat := 0xFF
  live   : Nat := 0xFF
  phase  : Nat := 0
  /-- R83. -/
  step   : Nat := 0
  infl   : Nat := 0
  stage  : Nat := 0
  front  : Nat := 0x8000000
  /-- R84. -/
  replays : Nat := 0
  rate   : Nat := 0x0FA0
  /-- Granules of the window below FRONT whose moves have completed out of order (R90). -/
  moved  : List Nat := []
  /-- The tick of the last drop (R88). -/
  dropAt : Nat := 0
  /-- Plinth FAILING flags; stacks that wait to retire; the stack whose band is being emptied or walked;
  partitions that have returned their ranges; retired stacks of the boot record (R86 to R93). -/
  failing : Nat := 0
  queued : List Nat := []
  leaving : Option Nat := none
  returned : Nat := 0
  /-- FAILING flags that have been reported to the steward's log (R86). -/
  reported : Nat := 0
  /-- The steward's deadline for a return of the band, in ticks: its policy may set another (R88). -/
  deadline : Nat := 2 ^ 30
  /-- How often memphase or memfront has changed, what they were in the last 128 ticks, newest first, and by requester the
  change that its copy shows (R94). -/
  version : Nat := 0
  was    : List View := []
  copies : Table Nat := []
  ports  : Table Port := []
  patts  : Table Pattern := []
  deriving DecidableEq, Repr

/-- Why a replay diverges (R413). -/
inductive Divergence where
  | thermal | error | lanes | array | fence | arrival
  deriving DecidableEq, Repr

/-- Why a boot stage fails (R423): a signature, or the security version. -/
inductive BootFault where
  | rsa | slh | version
  deriving DecidableEq, Repr

/-- Voltage, current and thermal ceilings (R422). -/
structure Ceilings where
  volts : Nat := 0
  amps  : Nat := 0
  heat  : Nat := 0
  deriving DecidableEq, Repr

/-- Boot, management and replay (R411 to R413, R422 to R428). -/
structure Steward where
  booted : Bool := true
  /-- The measurement registers by stage (0 boot ROM, 1 firmware, 2 hypervisor, 3 + p the image of partition p), each with the digest
  that was extended into it; the reports of the ROM, stage and reason (R423). -/
  measured : List (Nat × List Byte) := []
  reports : List (Nat × BootFault) := []
  /-- What the package boots from, as the last package reset found it, for the reset of the steward's watchdog (R429). -/
  chain  : BootChain := {}
  images : List LoadRequest := []
  /-- The fused minimum of security versions (R423), the fused ceilings and the firmware's targets (R422), the policers of the signed
  device configuration by port, rate and depth (R420). -/
  minVersion : Nat := 0
  fused  : Ceilings := {}
  targets : Ceilings := {}
  policers : Table (Nat × Nat) := []
  retiredStacks : Nat := 0
  lastSeq : Nat := 0
  /-- MBHEAD.CMDBUSY and the address of the block that CMD submitted (R415, R426, R427). -/
  cmdBusy : Bool := false
  cmd    : Nat := 0
  /-- The messages that have left through the management port: result blocks, oldest first (R427). -/
  sent   : List (List Byte) := []
  unlocked : Bool := false
  challenge : Option (List Byte) := none
  armed  : Bool := false
  recording : Bool := false
  /-- The log of a recording, oldest first (R411). In replay: the log that is still to be injected, the entropy draws that have been
  injected and not used, and the divergence report: the reftime and the event (R412, R413). -/
  log    : List Arrival := []
  replay : Bool := false
  script : List Arrival := []
  entropy : List (List Byte) := []
  diverged : Option (Nat × Divergence) := none
  quotes : Nat := 0
  energy : Nat := 0
  /-- Corrected single-bit errors counted so far (R209, R424). -/
  corrected : Nat := 0
  /-- Ticks: the last energy update (R430), the last acknowledgement of the watchdog (R429). -/
  energyAt : Nat := 0
  acked  : Nat := 0
  deriving DecidableEq, Repr

/-- The machine. `turn`, `pace`, `inbox`, `free`, `noted` and `archive` are the model's own (logs 4, 5, 7, 8, 12, 68). -/
structure State where
  now     : Nat := 0
  pace    : Nat := 1
  turn    : Nat := 0
  free    : Nat := 0
  inbox   : List Instr := []
  /-- Errors that units of the device have met in this step: their plinths and partitions are told at its end (R86, R220, log 68). -/
  noted   : List Stop := []
  powered : Bool := true
  mem     : MemSys := {}
  harts   : Table Hart := []
  cores   : Table Core := []
  dies    : Table Die := []
  clusters : Table Cluster := []
  parts   : Table Partition := []
  tasks   : Table Task := []
  gangs   : Table Gang := []
  /-- Gangs placed so far (R175). -/
  placements : Nat := 0
  stew    : Steward := {}
  /-- Contents of QUEUE, HOLD and HOLES sections by the number their bytes hold (R204). -/
  archive : Table (Hart × List HoleEntry) := []
  deriving DecidableEq, Repr

/-- Partition 0 after reset: it exists (R421). What it holds is the model's choice (log 6): the clusters of die 0, the lower half
of device memory, 16 patterns and 8 die barriers of each die. -/
def Partition.first : Partition :=
  { live := true, clusters := 0xFF, ranges := [(0, 4096)], pattCount := 16, barCount := 8 }

/-- The machine right after package reset: every field at the value its register map gives, or at the value
log 6 names. -/
def State.reset : State := { parts := [(0, Partition.first)] }

end Sys2Proof.Machine
end

