-- ==== Sys2Proof/Machine/Hart.lean ====
section
/-! DEFINITION. Access to the parts of the state: harts by key (core * 8 + slot), cores, clusters, dies,
partitions, tasks and gangs, and the registers of a hart. -/

namespace Sys2Proof.Machine

/-- The core of a hart key, its slot, the die and the cluster of a core (R2, R145). -/
def coreOf (k : Nat) : Nat := k / 8
def slotOf (k : Nat) : Nat := k % 8
def dieOf (c : Nat) : Nat := c / 96
def clusterOf (c : Nat) : Nat := c / 12

/-- The hart with a key. -/
def State.hartAt (s : State) (k : Nat) : Hart := Table.get {} s.harts k
def State.setHartAt (s : State) (k : Nat) (h : Hart) : State := { s with harts := Table.set s.harts k h }

/-- The hart whose turn it is. -/
def State.hart (s : State) : Hart := s.hartAt s.turn
def State.setHart (s : State) (h : Hart) : State := s.setHartAt s.turn h

/-- The core with a global number, and the core of the hart whose turn it is. -/
def State.coreAt (s : State) (c : Nat) : Core := Table.get {} s.cores c
def State.setCoreAt (s : State) (c : Nat) (x : Core) : State := { s with cores := Table.set s.cores c x }
def State.core (s : State) : Core := s.coreAt (coreOf s.turn)
def State.setCore (s : State) (x : Core) : State := s.setCoreAt (coreOf s.turn) x

def State.dieAt (s : State) (d : Nat) : Die := Table.get {} s.dies d
def State.setDieAt (s : State) (d : Nat) (x : Die) : State := { s with dies := Table.set s.dies d x }

def State.clusterAt (s : State) (c : Nat) : Cluster := Table.get {} s.clusters c
def State.setClusterAt (s : State) (c : Nat) (x : Cluster) : State := { s with clusters := Table.set s.clusters c x }

/-- The lane clock a cluster runs at, as a boost.STEP code: the slower of what the pool set and the ceiling (R184). -/
def Cluster.step (c : Cluster) : Nat := max c.want c.ceil

def State.partAt (s : State) (p : Nat) : Partition := Table.get {} s.parts p
def State.setPartAt (s : State) (p : Nat) (x : Partition) : State := { s with parts := Table.set s.parts p x }

def State.portAt (s : State) (p : Nat) : Port := Table.get {} s.mem.ports p
def State.setPortAt (s : State) (p : Nat) (x : Port) : State :=
  { s with mem := { s.mem with ports := Table.set s.mem.ports p x } }

def State.pattAt (s : State) (n : Nat) : Pattern := Table.get {} s.mem.patts n
def State.setPattAt (s : State) (n : Nat) (x : Pattern) : State :=
  { s with mem := { s.mem with patts := Table.set s.mem.patts n x } }

def State.task? (s : State) (n : Nat) : Option Task := Table.find? s.tasks n
def State.setTask (s : State) (n : Nat) (x : Task) : State := { s with tasks := Table.set s.tasks n x }

def State.gang? (s : State) (n : Nat) : Option Gang := Table.find? s.gangs n
def State.setGang (s : State) (n : Nat) (x : Gang) : State := { s with gangs := Table.set s.gangs n x }

/-- The number of the next free value, and the state that has drawn it (log 7). -/
def State.draw (s : State) : State := { s with free := s.free + 1 }

/-- The reference clock (R6, R254). -/
def State.reftime (s : State) : Nat := s.now / Config.cyclesPerTick

/-- A replay stops with a divergence report, which names the reftime and the event (R413). -/
def State.diverge (s : State) (d : Divergence) : State :=
  if s.stew.replay && s.stew.diverged.isNone then { s with stew := { s.stew with diverged := some (s.reftime, d) } } else s

/-- A recording logs an event (R411). -/
def State.arrives (s : State) (a : Arrived) : State :=
  if s.stew.recording then { s with stew := { s.stew with log := s.stew.log ++ [{ tick := s.reftime, what := a }] } } else s

/-- The partition that holds a core's cluster (R421). The masters of a fenced die belong to none: every table is closed to
them (R37, R219). -/
def State.partOf (s : State) (c : Nat) : Option Nat :=
  if (s.dieAt (dieOf c)).fenced then none
  else (List.find? (fun (p : Nat × Partition) => p.2.live && Nat.testBit p.2.clusters (clusterOf c)) s.parts).map (·.1)

/-- The gang that owns a core (R12). -/
def State.gangOf (s : State) (c : Nat) : Option Gang := (s.coreAt c).gang.bind s.gang?

/-- A scalar register; s0 reads as zero (R270). -/
def Hart.reg (h : Hart) (r : Reg) : Word := if r = 0 then 0 else h.s[r.val]

/-- The hart with a scalar register written; a write of s0 is discarded (R270). -/
def Hart.setReg (h : Hart) (r : Reg) (v : Word) : Hart :=
  if r = 0 then h else { h with s := h.s.set r.val v }

/-- A vector register. -/
def Hart.vreg (h : Hart) (r : Nat) : VReg := h.v[r % 32]'(Nat.mod_lt _ (by decide))
def Hart.setVreg (h : Hart) (r : Nat) (v : VReg) : Hart :=
  { h with v := h.v.set (r % 32) v (Nat.mod_lt _ (by decide)) }

/-- Whether a trap is being handled in either bank (R198). -/
def TrapBank.intrap (b : TrapBank) : Bool := b.tcause.toNat.testBit 15
def Hart.intrap (h : Hart) : Bool := h.ubank.intrap || h.sbank.intrap

/-- Whether a hart executes: RUNNING and not past its task.exit, or STOPPED while its supervisor handler runs (R148). -/
def Hart.acts (h : Hart) : Bool := !h.exited && (h.slot == .running || (h.slot == .stopped && h.wait == .handler))

/-- The hart as it executes again: STOPPED while a supervisor handler runs, else RUNNING (R148). -/
def Hart.run (h : Hart) : Hart :=
  if h.sbank.intrap then { h with slot := .stopped, wait := .handler } else { h with slot := .running }

/-- The bits set in a mask. -/
def popcount (n w : Nat) : Nat := ((List.range w).filter n.testBit).length

/-- The largest power of two not above n, from 2^5 down; 0 when n is 0. -/
def floorPow2 (n : Nat) : Nat :=
  if 128 ≤ n then 128 else if 64 ≤ n then 64 else if 32 ≤ n then 32 else if 16 ≤ n then 16
  else if 8 ≤ n then 8 else if 4 ≤ n then 4 else if 2 ≤ n then 2 else if 1 ≤ n then 1 else 0

/-- Live lanes of a core (R216). -/
def Core.lanes (c : Core) : Nat := min 32 (floorPow2 (4 * (8 - popcount c.lanesFailed 8)))

/-- The register length of a core in bytes, with or without protected mode (R44, R215). -/
def Core.lenAt (c : Core) (mirror : Bool) : Nat := 64 * (if mirror then c.lanes / 2 else c.lanes)

/-- vlenreg.LEN of a hart (R44). -/
def State.lenOf (s : State) (k : Nat) : Nat := (s.coreAt (coreOf k)).lenAt ((s.hartAt k).pmode.testBit 0)

/-- The healthy prefix of the array (R217). -/
def Core.prefixP (c : Core) : Nat :=
  match (List.range 4).find? fun j => c.rowsFailed.testBit j || c.colsFailed.testBit j with
  | none => 128
  | some j => floorPow2 (32 * j)

/-- A trap of a scalar access or a fetch (R31, R191). -/
def memTrap (c : Cause) (sub va : Nat) (level : Nat := 0) : Stop :=
  .trap { cause := c, sub := sub, level := level, taddr := va }

/-- UE of a codeword of device memory that its plinth found uncorrectable: the plinth is told (R86, R210). -/
def mediaTrap (sub va dev : Nat) : Stop := .trap { cause := .ue, sub := sub, taddr := va, media := some dev }

/-- A trap with no position and no address. -/
def plainTrap (c : Cause) (sub : Nat) : Stop := .trap { cause := c, sub := sub }

/-- The codes of the causes (R191). -/
def causeCode : Cause → Nat
  | .none => 0 | .ill => 1 | .priv => 2 | .align => 3 | .page => 4 | .perm => 5 | .memcap => 6 | .remote => 7
  | .access => 8 | .fpx => 9 | .decx => 10 | .poison => 11 | .fut2 => 12 | .pattern => 13 | .ue => 14
  | .mismatch => 15 | .bar => 16 | .svc => 17 | .break_ => 18

/-- The causes the U bank takes (R191). -/
def causeUser (c : Cause) : Bool :=
  match c with
  | .fpx | .decx | .poison | .fut2 | .pattern | .break_ => true
  | _ => false

/-- The tsub word of a trap (R195). -/
def tsubOf (t : TrapInfo) : Nat := t.orig % 256 * 256 + t.level % 16 * 16 + t.sub % 16

end Sys2Proof.Machine
end

