-- ==== Sys2Proof/Machine/Walk.lean ====
section
/-! DEFINITION. Live stack retirement as every access meets it: where granules lie, the window of moves in flight, the
requesters' copies of memphase and memfront, steering, stalls and replays (R79, R83, R90 to R97). -/

namespace Sys2Proof.Machine

/-! ### Placement (R79, R91) -/

/-- The stacks of a live mask, ascending. -/
def stacksOf (mask : Nat) : List Nat := (List.range 8).filter mask.testBit

/-- place (R79): the stack that holds a granule, and the offset within the stack. -/
def place (g : Nat) (live : List Nat) : Nat × Nat :=
  let n := live.length
  let row := g / n
  let h := (Nat.xor row (Nat.xor (row / 2 ^ 5) (row / 2 ^ 11))) % n
  ((live[(g % n + h) % n]?).getD 0, row * 4096)

/-- The k-th granule from g on that a map places on a stack. Every row of a map names each stack once. -/
def onStack (live : List Nat) (x : Nat) : Nat → Nat → Nat → Nat
  | 0, _, g => g
  | fuel + 1, k, g =>
    if (place g live).1 = x then (if k = 0 then g else onStack live x fuel (k - 1) (g + 1))
    else onStack live x fuel k (g + 1)

/-- Granules of the new map, and the granules of its lowest rows, which are staged (R89, R90). -/
def MemSys.newTop (m : MemSys) : Nat := popcount m.live 8 * Config.granulesPerStack
def MemSys.staged (m : MemSys) : Nat := popcount m.live 8 ^ 2

/-- slot (R91): the granule number whose old place holds the staged image of granule k. -/
def MemSys.slot (m : MemSys) (k : Nat) : Nat :=
  onStack (stacksOf m.oldLive) (m.leaving.getD 0) (8 * (k + 2)) k m.newTop

/-- The location that serves a granule (R95). -/
def MemSys.servedAt (m : MemSys) (g : Nat) : Nat × Nat :=
  if m.phase % 2 = 0 then place g (stacksOf m.live)
  else if 2 ≤ m.step ∧ m.front ≤ g then place g (stacksOf m.live)
  else if 2 ≤ m.step ∧ g < m.staged then place (m.slot g) (stacksOf m.oldLive)
  else place g (stacksOf m.oldLive)

/-- Whether an access to a granule stalls (R95): its staging copy runs, or it lies in the window of moves in flight. -/
def MemSys.moving (m : MemSys) (g : Nat) : Bool :=
  m.phase % 2 == 1 && ((m.step == 1 && g == m.stage) || (2 ≤ m.step && m.front ≤ g + m.infl && g < m.front))

/-- Live stacks (R82). -/
def liveCount (s : State) : Nat := popcount s.mem.live 8

/-! ### Requesters' copies (R94) -/

/-- The registers as they stand, as a copy that is up to date shows them. -/
def State.viewNow (s : State) : View :=
  { phase := s.mem.phase, oldLive := s.mem.oldLive, live := s.mem.live, step := s.mem.step, infl := s.mem.infl
    front := s.mem.front, till := s.reftime }

/-- A copy lags by at most this many ticks (R94). -/
def copyLag : Nat := 128

/-- New values of the registers: what they were is kept for the copies that lag (R94). -/
def State.setRegs (s : State) (m : MemSys) : State :=
  let old := s.viewNow
  let same := m.phase == old.phase && m.oldLive == old.oldLive && m.live == old.live && m.step == old.step &&
    m.infl == old.infl && m.front == old.front
  if same then { s with mem := m }
  else { s with mem := { m with
    version := s.mem.version + 1, was := old :: s.mem.was.takeWhile fun v => s.reftime < v.till + copyLag } }

/-- What a requester's copy shows: never ahead of the registers, and not more than 128 ticks behind (R94). -/
def State.viewOf (s : State) (requester : Nat) : View :=
  let shown := Table.get 0 s.mem.copies requester
  let fresh := s.mem.was.takeWhile fun v => s.reftime < v.till + copyLag
  let back := min (s.mem.version - shown) fresh.length
  if back = 0 then s.viewNow else (fresh[back - 1]?).getD s.viewNow

/-- Where a requester sends an access (R94): by the new map a granule that its copy shows as moved, else by the old. -/
def View.steer (v : View) (g : Nat) : Nat × Nat :=
  if v.phase % 2 = 0 then place g (stacksOf v.live)
  else if 2 ≤ v.step ∧ v.front ≤ g then place g (stacksOf v.live)
  else place g (stacksOf v.oldLive)

/-! ### Moves (R90, R93, R97) -/

/-- Unreadable codewords of granules that have been copied carry the poison marking (R97). -/
def markCopied (bad : Table BadWord) (copied : Nat → Bool) : Table BadWord :=
  bad.map fun p => (p.1, if copied (p.1 / 64) then .poisoned else p.2)

/-- The end of a walk (R93). -/
def walkEnd (s : State) : State :=
  let s' := s.setRegs { s.mem with
    phase := (s.mem.phase + 1) % 2 ^ 32, oldLive := s.mem.live, step := 0, infl := 0, stage := 0, moved := []
    front := s.mem.cap, leaving := none }
  { s' with stew := { s.stew with retiredStacks := match s.mem.leaving with
      | some x => Nat.lor s.stew.retiredStacks (2 ^ x) | none => s.stew.retiredStacks } }

/-- FRONT falls over the completed moves that touch it (R90). -/
def fallFront : Nat → Nat × List Nat → Nat × List Nat
  | 0, r => r
  | n + 1, (front, moved) =>
    if 0 < front ∧ moved.contains (front - 1) then fallFront n (front - 1, moved.filter (· != front - 1)) else (front, moved)

/-- The state with errors noted that a unit of the device met (log 68). -/
def State.note (s : State) (st : Stop) : State := { s with noted := s.noted ++ [st] }

/-- The walker's copies meet uncorrectable codewords (R86, R97). -/
def noteCopied (s : State) (copied : Nat → Bool) : State :=
  (s.mem.bad.filter fun (p : Nat × BadWord) => p.2 == .media && copied (p.1 / 64)).foldl (fun s p => s.note (mediaTrap 5 0 (p.1 * 64))) s

/-- The copy of one granule completes (R90): in step 1 the staging copy, in steps 2 and 3 a move in the window below FRONT.
Granules are known by their device physical address, so a move shows in the registers and in the marking of R97 only
(R92, R100, log 11). -/
def moveDone (s : State) (g : Nat) : State :=
  let m := s.mem
  if m.step = 1 then
    let s := noteCopied s (· == g)
    if m.stage + 1 < m.staged then s.setRegs { m with stage := m.stage + 1 }
    else s.setRegs { m with stage := m.stage + 1, step := 2, bad := markCopied m.bad (· < m.staged) }
  else
    let s := noteCopied s (· == g)
    let (front, moved) := fallFront (m.moved.length + 1) (m.front, g :: m.moved)
    let s := s.setRegs { m with
      bad := markCopied m.bad (· == g), front := front, moved := moved, infl := m.infl - (m.front - front)
      step := if front ≤ m.staged then 3 else m.step }
    if front = 0 then walkEnd s else s

/-- The moves in flight complete, highest granule first, until a granule's own move has (R95, R98). -/
def finishMoves (g : Nat) : Nat → State → State
  | 0, s => s
  | n + 1, s => if s.mem.moving g then finishMoves g n (moveDone s (s.mem.front - 1)) else s

/-! ### Accesses -/

/-- An access of a requester reaches the plinth that serves its granule (R94 to R96, R99). While a granule is moving the
access waits; the model lets the walker complete the moves in flight first (log 53). An access that the requester steered to
another place is replayed and counted. -/
def State.reach (s : State) (requester a : Nat) : State :=
  if s.mem.phase % 2 = 0 ∧ s.mem.was = [] then s
  else
    let g := a / 4096
    let sent := (s.viewOf requester).steer g
    let s := finishMoves g 513 s
    if sent = s.mem.servedAt g then s
    else { s with mem := { s.mem with replays := min (2 ^ 32 - 1) (s.mem.replays + 1) } }

/-- The plinth that reports a granule (R91, R95). -/
def plinthOf (m : MemSys) (a : Nat) : Nat := (m.servedAt (a / 4096)).1

end Sys2Proof.Machine
end

