-- ==== Sys2Proof/Machine/Holes.lean ====
section
/-! DEFINITION. Vector register bytes and presence, and the hole queue (R41, R45, R160 to R165, R341, R346). -/

namespace Sys2Proof.Machine

/-! ### Bits of a vector register -/

/-- `w` bits of a register from bit `b` on (R41). -/
def VReg.get (v : VReg) (b w : Nat) : Nat :=
  Memory.readNat v.bytes (b / 8) ((b % 8 + w + 7) / 8) / 2 ^ (b % 8) % 2 ^ w

/-- The register bytes with `w` bits from bit `b` on replaced. -/
def putBits (m : Memory) (b w val : Nat) : Memory :=
  let n := (b % 8 + w + 7) / 8
  let old := Memory.readNat m (b / 8) n
  Memory.writeNat m (b / 8) n (setBits old (b % 8 + w - 1) (b % 8) val)

/-- The granules that `w` bits from bit `b` on lie in. -/
def granulesOf (b w : Nat) : List Nat := (List.range ((b % 16 + w + 15) / 16)).map (b / 16 + ·)

/-- The bits of a granule that lie in `w` bits from bit `b` on, as a mask. -/
def granuleMask (b w g : Nat) : Nat :=
  let lo := max b (g * 16) - g * 16
  let hi := min (b + w) (g * 16 + 16) - g * 16
  2 ^ hi - 2 ^ lo

/-- A list of entries with their bits, without the bits of a mask. -/
def bitsLeft (l : List (Nat × Nat)) (mask : Nat) : List (Nat × Nat) :=
  l.filterMap fun p => if p.2 &&& (0xFFFF ^^^ mask) = 0 then none else some (p.1, p.2 &&& (0xFFFF ^^^ mask))

/-- What a granule misses, with the bits of a mask settled. -/
def Absent.without (x : Absent) (mask : Nat) : Absent :=
  { fills := bitsLeft x.fills mask, poison := x.poison &&& (0xFFFF ^^^ mask), fails := bitsLeft x.fails mask }

/-- The presence table with one granule's record replaced; a granule that misses nothing is not listed. -/
def setAbsent (t : Table Absent) (g : Nat) (x : Absent) : Table Absent :=
  if x.fills = [] ∧ x.poison = 0 then Table.erase t g else Table.set t g x

/-- Presence after `w` bits from bit `b` on have been written and are present. -/
def present (t : Table Absent) (b w : Nat) : Table Absent :=
  (granulesOf b w).foldl (fun t g => setAbsent t g ((Table.get {} t g).without (granuleMask b w g))) t

/-- The high-water mark after a write up to a byte index (R45). -/
def VReg.raise (v : VReg) (b w : Nat) : VReg := { v with hw := max v.hw (roundUp64 ((b + w - 1) / 8 + 1)) }

/-- A present value is written (R41, R45, R160). -/
def VReg.put (v : VReg) (b w val : Nat) : VReg :=
  { v.raise b w with
    bytes := putBits v.bytes b w val, absent := present v.absent b w
    bad := v.bad.filter fun i => !(b ≤ 8 * i && 8 * i + 8 ≤ b + w) }

/-- A hole is written, which an entry will fill (R160). -/
def VReg.putHole (v : VReg) (b w id : Nat) : VReg :=
  { v.raise b w with
    absent := (granulesOf b w).foldl (fun t g =>
      let x := (Table.get {} t g).without (granuleMask b w g)
      setAbsent t g { x with fills := x.fills ++ [(id, granuleMask b w g)] }) v.absent }

/-- A value written over a poisoned element: the whole granules that the element lies in are present (R160, R342). -/
def VReg.putWhole (v : VReg) (b w val : Nat) : VReg :=
  let v := v.put b w val
  { v with absent := (granulesOf b w).foldl Table.erase v.absent }

/-- Whether some granule below HW is poisoned (R341). -/
def VReg.anyPoison (v : VReg) : Bool :=
  v.absent.any fun (p : Nat × Absent) => p.2.poison != 0 && p.1 * 2 < v.hw

/-- Whether some granule below HW is a hole. -/
def VReg.anyHole (v : VReg) : Bool :=
  v.absent.any fun (p : Nat × Absent) => p.2.fills != [] && p.1 * 2 < v.hw

/-- A poisoned value is written, with the record kept when it is the register's first (R341). -/
def VReg.putPoison (v : VReg) (b w cause sub : Nat) : VReg :=
  { v.raise b w with
    log := if v.anyPoison then v.log else some (cause, sub)
    absent := (granulesOf b w).foldl (fun t g =>
      let x := (Table.get {} t g).without (granuleMask b w g)
      setAbsent t g { x with poison := x.poison ||| granuleMask b w g }) v.absent }

/-- The state of an element (R160). -/
inductive Presence where
  | present | hole | poisoned
  deriving DecidableEq, Repr

/-- The presence of `w` bits from bit `b` on: of the granules they lie in (R160). -/
def VReg.presence (v : VReg) (b w : Nat) : Presence :=
  let gs := (granulesOf b w).map (Table.get {} v.absent ·)
  if gs.any (·.fills != []) then .hole
  else if gs.any (·.poison != 0) then .poisoned
  else .present

/-- The entries that an operand of `w` bits from bit `b` on awaits. -/
def VReg.awaits (v : VReg) (b w : Nat) : List Nat :=
  ((granulesOf b w).flatMap fun g => ((Table.get {} v.absent g).fills.map (·.1))).eraseDups

/-- What an instruction finds where it reads an operand (R160, R161, R210). -/
inductive Opnd where
  | val (n : Nat)
  | hole (ids : List Nat)
  | poisoned (cause sub : Nat)
  | broken
  deriving DecidableEq, Repr

/-- An operand of `w` bits from bit `b` on. -/
def VReg.look (v : VReg) (b w : Nat) : Opnd :=
  if v.bad.any fun i => b / 8 ≤ i && i ≤ (b + w - 1) / 8 then .broken
  else match v.presence b w with
    | .present => .val (v.get b w)
    | .hole => .hole (v.awaits b w)
    | .poisoned => .poisoned (v.log.getD (0, 0)).1 (v.log.getD (0, 0)).2

/-! ### The hole queue -/

/-- The lowest free index of a core's hole queue (R164). -/
def freeHole (c : Core) : Option Nat :=
  (List.range Config.holeSlots).find? fun i => (Table.find? c.holes i).isNone

/-- An entry joins the queue at a free index, with the generation of that reuse (R345). -/
def addHole (c : Core) (e : HoleEntry) : Core :=
  let g := (Table.get 0 c.gens e.id + 1) % 256
  { c with holes := Table.set c.holes e.id { e with gen := g }, gens := Table.set c.gens e.id g }

/-- HANDLE of an entry (R345). -/
def handleOf (e : HoleEntry) : Nat := e.id + e.gen * 256

/-- Where an entry's result lies in its register row, in bits. -/
def HoleEntry.bit (e : HoleEntry) : Nat := e.elem * e.wid

/-- The register an entry's result goes to. -/
def HoleEntry.reg (e : HoleEntry) : Nat := e.dreg + e.row

/-- The value of an entry's element lands in a register wherever the entry is still listed (R163). -/
def VReg.fillHole (v : VReg) (e : HoleEntry) (val : Nat) : VReg :=
  (granulesOf e.bit e.wid).foldl (fun v g =>
    let x := Table.get {} v.absent g
    match x.fills.find? (·.1 == e.id) with
    | none => v
    | some (_, mask) =>
      let old := v.get (g * 16) 16
      let part := (if e.bit ≤ g * 16 then val / 2 ^ (g * 16 - e.bit) else val * 2 ^ (e.bit - g * 16)) % 2 ^ 16
      { v with
        bytes := putBits v.bytes (g * 16) 16 ((old &&& (0xFFFF ^^^ mask)) ||| (part &&& mask))
        absent := setAbsent v.absent g { x with fills := x.fills.filter (·.1 != e.id) } }) v

/-- The poison of a failed entry lands likewise (R163). -/
def VReg.failHole (v : VReg) (e : HoleEntry) (cause sub : Nat) : VReg :=
  (granulesOf e.bit e.wid).foldl (fun v g =>
    let x := Table.get {} v.absent g
    match x.fills.find? (·.1 == e.id) with
    | none => v
    | some (_, mask) =>
      { v with
        log := if v.anyPoison then v.log else some (cause, sub)
        absent := setAbsent v.absent g (
          { fills := x.fills.filter (·.1 != e.id), poison := x.poison ||| mask, fails := x.fails ++ [(e.id, mask)] } : Absent) }) v

/-- The poison of a failed entry becomes a hole again wherever it still stands (R165). -/
def VReg.reviveHole (v : VReg) (e : HoleEntry) : VReg :=
  (granulesOf e.bit e.wid).foldl (fun v g =>
    let x := Table.get {} v.absent g
    match x.fails.find? (·.1 == e.id) with
    | none => v
    | some (_, mask) =>
      let y : Absent :=
        { fills := x.fills ++ [(e.id, mask)], poison := x.poison &&& (0xFFFF ^^^ mask), fails := x.fails.filter (·.1 != e.id) }
      { v with absent := setAbsent v.absent g y }) v

/-- Whether the poison of a failed entry still stands somewhere in a register (R163). -/
def VReg.holdsFail (v : VReg) (e : HoleEntry) : Bool :=
  (granulesOf e.bit e.wid).any fun g => (Table.get {} v.absent g).fails.any (·.1 == e.id)

/-- A register whose holes await entries that are gone: nothing fills those holes any more (R214). The numbers above the
queue's are no entry's. -/
def VReg.orphan (v : VReg) (ids : List Nat) : VReg :=
  let f := fun (i : Nat) => if ids.contains i then i + Config.holeSlots else i
  { v with absent := v.absent.map fun (p : Nat × Absent) =>
      (p.1, { p.2 with fills := p.2.fills.map (fun q => (f q.1, q.2)), fails := p.2.fails.filter fun q => !ids.contains q.1 }) }

/-- A register whose poison no longer names some entries, which are freed. -/
def VReg.forget (v : VReg) (ids : List Nat) : VReg :=
  { v with absent := v.absent.map fun (p : Nat × Absent) => (p.1, { p.2 with fails := p.2.fails.filter fun q => !ids.contains q.1 }) }

/-- A hart with one register of an entry changed in every place that lists the entry: the registers, the copies that queue entries
read, and the copies that a strip's checkpoint keeps (R163, R213, R214). -/
def Hart.mapHole (h : Hart) (f : VReg → VReg) : Hart :=
  { h with v := h.v.map f, viq := h.viq.map fun e => { e with old := e.old.map fun p => (p.1, f p.2) }
           ckpt := h.ckpt.map fun c => { c with vregs := c.vregs.map fun p => (p.1, f p.2) } }

/-- The links of an operand that awaits entries (R161), from its lowest bit. -/
def linksOf (holes : Table HoleEntry) (opnd bit : Nat) (ids : List Nat) : List Link :=
  ids.map fun id =>
    match Table.find? holes id with
    | some x => { opnd := opnd, id := id, off := (x.bit : Int) - bit }
    | none => { opnd := opnd, id := id, off := 0 }

/-- The value of an entry laid over an operand of another (R161). -/
def overlayLink (opnd : Word) (off : Int) (wid val : Nat) : Word :=
  let x := opnd.toNat
  let v := val % 2 ^ wid
  if 0 ≤ off then
    let o := off.toNat
    if 64 ≤ o then opnd else BitVec.ofNat 64 (setBits x (o + wid - 1) o v)
  else
    let o := (-off).toNat
    if wid ≤ o then opnd else BitVec.ofNat 64 (setBits x (wid - o - 1) 0 (v / 2 ^ o))

/-- An entry after another has delivered its value (R163). -/
def HoleEntry.deliver (e src : HoleEntry) (val : Nat) : HoleEntry :=
  let mine := if e.st = .linked then e.links.filter (·.id == src.id) else []
  if mine = [] then e
  else
    let f := fun (n : Nat) (x : Word) =>
      (mine.filter (·.opnd == n)).foldl (fun x l => overlayLink x l.off src.wid val) x
    let links := e.links.filter (·.id != src.id)
    { e with opa := f 0 e.opa, opb := f 1 e.opb, opc := f 2 e.opc, links := links,
             st := if links = [] then .ready else .linked }

/-- An entry with a change of the register that it moves. -/
def HoleEntry.mapMoved (e : HoleEntry) (f : VReg → VReg) : HoleEntry := { e with moved := e.moved.map fun p => (f p.1, p.2) }

/-- A permute whose index has come takes the element that the index names: its value, the entry that it awaits in turn, or its poison
(R161, R317). -/
def HoleEntry.resolve (holes : Table HoleEntry) (e : HoleEntry) : HoleEntry × Option (Nat × Nat) :=
  match e.moved with
  | none => (e, none)
  | some (v, cap) =>
    if e.st != .ready then (e, none)
    else
      let i := e.opb.toNat
      let e := { e with moved := none }
      if cap ≤ i then (e, none)
      else match v.look (i * e.wid) e.wid with
        | .val x => ({ e with opa := BitVec.ofNat 64 x }, none)
        | .hole ids => ({ e with opa := BitVec.ofNat 64 (v.get (i * e.wid) e.wid), links := linksOf holes 0 (i * e.wid) ids, st := .linked }, none)
        | .poisoned cause sub => (e, some (cause, sub))
        | .broken => (e, some (causeCode .ue, 1))

/-- The entries that die with a set of entries, as links reach them (R163). -/
def dyingOf (holes : Table HoleEntry) : Nat → List Nat → List Nat
  | 0, ids => ids
  | n + 1, ids =>
    let more := (List.filter (fun (p : Nat × HoleEntry) =>
      !ids.contains p.1 && p.2.links.any fun l => ids.contains l.id) holes).map (·.1)
    if more = [] then ids else dyingOf holes n (ids ++ more)

/-- An entry FAILS: its element is poisoned with the cause, and entries linked to it become DEAD (R163, R346). -/
def failEntry (s : State) (core : Nat) (e : HoleEntry) (cause sub : Nat) : State :=
  let c := s.coreAt core
  let ids := dyingOf c.holes Config.holeSlots [e.id]
  let dying := List.filter (fun (p : Nat × HoleEntry) => ids.contains p.1) c.holes
  let s := dying.foldl (fun s (p : Nat × HoleEntry) =>
    let k := core * 8 + p.2.slot
    s.setHartAt k ((s.hartAt k).mapHole (·.failHole p.2 cause sub))) s
  s.setCoreAt core { c with holes := c.holes.map fun (p : Nat × HoleEntry) =>
    let x := dying.foldl (fun (x : HoleEntry) d => if d.2.slot = x.slot then x.mapMoved (·.failHole d.2 cause sub) else x) p.2
    (p.1, if ids.contains p.1 then { x with st := if p.1 = e.id then .failed else .dead, cause := cause, sub := sub } else x) }

/-- The permutes whose index has come, one after another. -/
def resolveAll (core : Nat) : List Nat → State → State
  | [], s => s
  | i :: rest, s =>
    let c := s.coreAt core
    match Table.find? c.holes i with
    | none => resolveAll core rest s
    | some e =>
      let (x, bad) := e.resolve c.holes
      let s := if e.moved.isSome then s.setCoreAt core { c with holes := Table.set c.holes i x } else s
      resolveAll core rest (match bad with
        | some (cause, sub) =>
          failEntry (if cause = causeCode .ue then s.note (.trap { cause := .ue, sub := sub }) else s) core x cause sub
        | none => s)

/-- An entry is FILLED: its value lands, linked entries receive it, and the entry is freed (R163, R346). -/
def fillEntry (s : State) (core : Nat) (e : HoleEntry) (val : Nat) : State :=
  let k := core * 8 + e.slot
  let h := s.hartAt k
  let s := s.setHartAt k (h.mapHole (·.fillHole e val))
  let c := s.coreAt core
  let holes := List.filter (fun (p : Nat × HoleEntry) => p.1 != e.id) c.holes
  let s := s.setCoreAt core { c with holes := holes.map fun (p : Nat × HoleEntry) =>
    (p.1, (if p.2.slot = e.slot then p.2.mapMoved (·.fillHole e val) else p.2).deliver e val) }
  resolveAll core ((List.filter (fun (p : Nat × HoleEntry) => p.2.moved.isSome) holes).map (·.1)) s

/-- The FAILED and DEAD entries of a hart of which something holds are freed. -/
def freeFailed (s : State) (k : Nat) (of : HoleEntry → Bool) : State :=
  let c := s.coreAt (coreOf k)
  let gone := fun (e : HoleEntry) => e.slot == slotOf k && (e.st == .failed || e.st == .dead) && of e
  let ids := ((c.holes.map (·.2)).filter gone).map (·.id)
  if ids = [] then s
  else
    let s := s.setCoreAt (coreOf k) { c with holes := List.filter (fun (p : Nat × HoleEntry) => !gone p.2) c.holes }
    s.setHartAt k ((s.hartAt k).mapHole (·.forget ids))

/-- FAILED and DEAD entries of a hart whose elements have been overwritten are freed (R163). -/
def reapHoles (s : State) (k : Nat) : State :=
  freeFailed s k fun e => !((s.hartAt k).vreg e.reg).holdsFail e

/-- A FAILED or DEAD entry as a restored context has it: READY or LINKED again (R165). -/
def HoleEntry.revive (e : HoleEntry) : HoleEntry :=
  if e.st = .failed ∨ e.st = .dead then { e with st := if e.links = [] then .ready else .linked, cause := 0, sub := 0 } else e

/-- The FAILED and DEAD entries of some slots of a core that has been restored are READY or LINKED, and their elements holes, again
(R165). -/
def reviveHoles (core : Nat) (slots : List Nat) (s : State) : State :=
  let c := s.coreAt core
  let mine := fun (e : HoleEntry) => slots.contains e.slot && (e.st == .failed || e.st == .dead)
  let back := (c.holes.map (·.2)).filter mine
  let s := back.foldl (fun s e =>
    let k := core * 8 + e.slot
    s.setHartAt k ((s.hartAt k).mapHole (·.reviveHole e))) s
  s.setCoreAt core { c with holes := c.holes.map fun p =>
    let x := back.foldl (fun (x : HoleEntry) e => if e.slot = x.slot then x.mapMoved (·.reviveHole e) else x) p.2
    (p.1, if mine x then x.revive else x) }

/-- Whether a READY entry goes before another (R344). -/
def holeBefore (a b : HoleEntry) : Bool :=
  a.age < b.age || (a.age == b.age && (a.slot < b.slot || (a.slot == b.slot && (a.row < b.row ||
    (a.row == b.row && a.elem < b.elem)))))

/-- The READY entry a helper takes next (R344). -/
def nextReady (c : Core) : Option HoleEntry :=
  (c.holes.map (·.2)).foldl (fun best e =>
    if e.st = .ready then
      match best with
      | none => some e
      | some b => if holeBefore e b then some e else some b
    else best) none

end Sys2Proof.Machine
end

