-- ==== Sys2Proof/Machine/Translate.lean ====
section
/-! DEFINITION. Addresses: windows, the two-stage table walk, rights, and the translations a core keeps
(R9 to R26, R33, R40). The hypervisor always refuses (log 10). -/

namespace Sys2Proof.Machine

/-- A leaf of either stage (R14): the base, the page size as a power of two, rights and attributes. -/
structure Leaf where
  base : Nat
  lg   : Nat
  r : Bool
  w : Bool
  x : Bool
  u : Bool
  enc : Bool
  kind : Nat
  deriving DecidableEq, Repr

/-- How a walk fails (R15, R40). -/
inductive Miss where
  | notValid (level : Nat)
  | badEntry (level : Nat)
  | stop (t : Stop)
  deriving DecidableEq, Repr

/-- The page size of a leaf at a level, as a power of two (R13). -/
def levelLg (level : Nat) : Nat := 16 + 10 * level

/-- What the walker makes of an entry (R14, R15): a pointer to the next table, or a leaf. -/
def walkEntry (stage2 : Bool) (level e : Nat) : Except Miss (Nat ⊕ Leaf) :=
  if e % 2 = 0 then .error (.notValid level)
  else
    let leaf := e.testBit 1
    let addr := bits e 51 13 * 8192
    let kind := bits e 7 6
    let bad := bits e 63 52 != 0 || bits e 12 9 != 0 || leaf && level == 3 || !leaf && level == 0 ||
      leaf && (addr % 2 ^ levelLg level != 0 ||
        (if stage2 then e.testBit 8 || e.testBit 5 || kind == 1 else e.testBit 8 && 2 ≤ kind))
    if bad then .error (.badEntry level)
    else if leaf then
      .ok (.inr { base := addr, lg := levelLg level, r := e.testBit 2, w := e.testBit 3, x := e.testBit 4,
                  u := e.testBit 5, enc := e.testBit 8, kind := kind })
    else .ok (.inl addr)

/-- A walk from a table at a level down (R13, R15). The reader gives the entry at an address. DESIGN CHOICE (log 51): R38 and
R39 let the walker keep pointer entries; the model keeps none, so every walk reads every level again. -/
def walk (stage2 : Bool) (read : Nat → Nat → Except Miss Nat) (a : Nat) : Nat → Nat → Except Miss Leaf
  | 0, table =>
    match read 0 (table + 8 * bits a 25 16) with
    | .error m => .error m
    | .ok e =>
      match walkEntry stage2 0 e with
      | .error m => .error m
      | .ok (.inr l) => .ok l
      | .ok (.inl _) => .error (.badEntry 0)
  | level + 1, table =>
    match read (level + 1) (table + 8 * bits a (levelLg (level + 1) + 9) (levelLg (level + 1))) with
    | .error m => .error m
    | .ok e =>
      match walkEntry stage2 (level + 1) e with
      | .error m => .error m
      | .ok (.inr l) => .ok l
      | .ok (.inl next) => walk stage2 read a level next

/-- The region a stage-2 KIND must lie in (R20). -/
def regionOk (kind a : Nat) : Bool :=
  match kind with
  | 0 => a < Config.devEnd || Config.regBase ≤ a && a < Config.regEnd
  | 2 => Config.remoteBase ≤ a && a < Config.hostBase
  | 3 => Config.hostBase ≤ a && a < Config.physEnd
  | _ => false

/-- The address, in a page of size 2^lg at a base. -/
def inPage (base lg a : Nat) : Nat := base + a % 2 ^ lg

/-! ### What a plinth checks (R22, R36, R87, R88) -/

/-- Whether a partition owns the device memory at an address (R36). -/
def State.owns (s : State) (part a : Nat) : Bool :=
  (s.partAt part).ranges.any fun r => r.1 * 2 ^ 26 ≤ a && a < (r.1 + r.2) * 2 ^ 26

/-- Whether an address lies in the band of the retirement in progress, from the drop to the end of the walk (R87). -/
def State.inBand (s : State) (a : Nat) : Bool :=
  s.mem.leaving.isSome && s.mem.cap * 4096 ≤ a && a < popcount s.mem.oldLive 8 * Config.granulesPerStack * 4096

/-- Whether memcap refuses a device-memory address (R22). `evac` says that the access may use the evacuation path. -/
def State.capped (s : State) (evac : Bool) (a : Nat) : Bool :=
  s.mem.cap * 4096 ≤ a && !(evac && s.mem.phase % 2 == 0 && s.inBand a)

/-- Whether a partition has returned its ranges and an address lies in the band: its tables are closed there (R88). -/
def State.closed (s : State) (part a : Nat) : Bool := s.inBand a && s.mem.returned.testBit part

/-- The memcap check on a stage-2 result, during translation (R22, R88). -/
def capStop (s : State) (part : Nat) (evac : Bool) (a va : Nat) : Option Stop :=
  if s.closed part a then some (memTrap .access 2 va)
  else if s.capped evac a then some (memTrap .memcap 1 va)
  else none

/-- The checks of a plinth before it serves a master of a partition (R22, R36, R88). -/
def devStop (s : State) (part : Nat) (evac : Bool) (a va : Nat) : Option Stop :=
  match capStop s part evac a va with
  | some st => some st
  | none => if s.owns part a then none else some (memTrap .access 2 va)

/-- The ciphertext byte at an address of a sector that a partition's key encrypts (log 15). -/
def cipherByte (m : Memory) (part a : Nat) : Byte :=
  Config.cipher part (a / 512) (Memory.readBytes m (a / 512 * 512) 512) (a % 512)

/-- The byte as it lies in device memory: ciphertext in an encrypted sector (R40, R220). -/
def MemSys.lies (m : MemSys) (a : Nat) : Byte :=
  match Table.find? m.sectors (a / 512) with
  | some (.enc q) => cipherByte m.dev q a
  | _ => Memory.read1 m.dev a

/-- An entry of a table in device memory (R22, R40, R210): the walker sees memcap and unreadable codewords, and the bytes as
they lie there. -/
def readEntry (s : State) (va a : Nat) : Except Miss Nat :=
  if s.mem.cap * 4096 ≤ a then .error (.stop (memTrap .memcap 1 va))
  else
    match Table.find? s.mem.bad (a / 64) with
    | some .media => .error (.stop (mediaTrap 5 va a))
    | some .poisoned => .error (.stop (memTrap .ue 7 va))
    | none => .ok (leNat ((List.range 8).map fun i => s.mem.lies (a + i)))

/-- A stage-2 walk of a partition physical address (R20, R21, R40). Every failure that goes to the hypervisor is
refused: ACCESS, STAGE2 (log 10). -/
def walk2 (s : State) (part va pa : Nat) : Except Miss (Leaf × Nat) :=
  let refuse : Miss := .stop (memTrap .access 1 va)
  let read := fun (_ a : Nat) => if a < Config.devEnd then readEntry s va a else .error refuse
  match walk true read pa 3 (s.partAt part).root2 with
  | .error (.stop t) => .error (.stop t)
  | .error _ => .error refuse
  | .ok l =>
    let a := inPage l.base l.lg pa
    if regionOk l.kind a then .ok (l, a) else .error refuse

/-- The reader of stage-1 tables: through stage 2 (R40), in device memory the partition owns (log 14: a stage-2 table is read
for the hypervisor, without that check). -/
def readStage1 (s : State) (part va : Nat) (level a : Nat) : Except Miss Nat :=
  match walk2 s part va a with
  | .error m => .error m
  | .ok (l, d) =>
    if l.kind != 0 || Config.devEnd ≤ d then .error (.badEntry level)
    else if s.owns part d then readEntry s va d
    else .error (.stop (memTrap .access 2 va))

/-- The first-stage walk of a virtual address (R13 to R17). -/
def walk1 (s : State) (part : Nat) (ptbase : Word) (va : Nat) : Except Stop Leaf :=
  match walk false (readStage1 s part va) va 3 (bits ptbase.toNat 51 13 * 8192) with
  | .error (.stop t) => .error t
  | .error (.notValid level) => .error (memTrap .page 1 va level)
  | .error (.badEntry level) => .error (memTrap .page 2 va level)
  | .ok l1 => .ok l1

/-- The walk of a virtual address in a context (R13 to R21): the translation that a TLB may keep. -/
def walkBoth (s : State) (part : Nat) (ptbase : Word) (va : Nat) : Except Stop TlbEntry :=
  match walk1 s part ptbase va with
  | .error t => .error t
  | .ok l1 =>
    let pa := inPage l1.base l1.lg va
    match walk2 s part va pa with
    | .error (.stop t) => .error t
    | .error _ => .error (memTrap .access 1 va)
    | .ok (l2, d) =>
      if l2.kind != (if l1.kind < 2 then 0 else l1.kind) then .error (memTrap .access 1 va)
      else
        let lg := min l1.lg l2.lg
        .ok { bank := va / 2 ^ 16 % 8, part := part, asid := bits ptbase.toNat 63 52,
              vbase := va / 2 ^ lg * 2 ^ lg, lg := lg, pbase := d / 2 ^ lg * 2 ^ lg,
              r := l1.r && l2.r, w := l1.w && l2.w, x := l1.x && l2.x, u := l1.u, kind := l1.kind, enc := l1.enc,
              gen := if l1.kind = 2 then (s.portAt (bits d 49 44)).gen else 0 }

/-! ### Table reads as accesses (R94, R95, R99) -/

/-- The addresses of the entries that a walk reads, from a table at a level down. -/
def trail (stage2 : Bool) (read : Nat → Nat → Except Miss Nat) (a : Nat) : Nat → Nat → List Nat
  | 0, table => [table + 8 * bits a 25 16]
  | level + 1, table =>
    let at_ := table + 8 * bits a (levelLg (level + 1) + 9) (levelLg (level + 1))
    match read (level + 1) at_ with
    | .error _ => [at_]
    | .ok e =>
      match walkEntry stage2 (level + 1) e with
      | .ok (.inl next) => at_ :: trail stage2 read a level next
      | _ => [at_]

/-- The stage-2 entries that the walk of a partition physical address reads, by device physical address. -/
def tables2 (s : State) (part pa : Nat) : List Nat :=
  (trail true (fun _ a => if a < Config.devEnd then readEntry s 0 a else .error (.badEntry 0)) pa 3 (s.partAt part).root2).filter
    (· < Config.devEnd)

/-- Every entry that the walk of a virtual address reads. -/
def tableReads (s : State) (part : Nat) (ptbase : Word) (va : Nat) : List Nat :=
  ((trail false (readStage1 s part va) va 3 (bits ptbase.toNat 51 13 * 8192)).flatMap fun pa =>
    tables2 s part pa ++ match walk2 s part va pa with | .ok (_, d) => [d].filter (· < Config.devEnd) | .error _ => []) ++
  match walk1 s part ptbase va with | .ok l => tables2 s part (inPage l.base l.lg va) | .error _ => []

/-- The reads of a list of table entries are steered, stalled and replayed like loads (R99). -/
def State.reachAll (s : State) (requester : Nat) (as : List Nat) : State := as.foldl (fun s a => s.reach requester a) s

/-- A walk's reads on their way to the plinths; with no walk of a retirement under way nothing is steered apart. -/
def State.reachTables (s : State) (requester part : Nat) (ptbase : Word) (va : Nat) : State :=
  if s.mem.phase % 2 = 0 ∧ s.mem.was = [] then s else s.reachAll requester (tableReads s part ptbase va)

/-- The same for a stage-2 walk alone. -/
def State.reachTables2 (s : State) (requester part pa : Nat) : State :=
  if s.mem.phase % 2 = 0 ∧ s.mem.was = [] then s else s.reachAll requester (tables2 s part pa)

/-- Whether a translation covers an address of a context. -/
def TlbEntry.covers (e : TlbEntry) (part asid va : Nat) : Bool :=
  e.part == part && e.asid == asid && va / 2 ^ e.lg * 2 ^ e.lg == e.vbase

/-- Whether the port that a translation names has left its generation behind (R33). -/
def TlbEntry.lost (e : TlbEntry) (s : State) : Bool := e.kind == 2 && (s.portAt (bits e.pbase 49 44)).gen != e.gen

/-- Whether a kept translation serves an address now (R23, R24, R33). -/
def TlbEntry.serves (e : TlbEntry) (s : State) (part asid va : Nat) : Bool := e.covers part asid va && !e.lost s

/-- The rights an access needs (R16, R19). -/
def rightsStop (e : TlbEntry) (acc : Access) (user : Bool) (va : Nat) : Option Stop :=
  let needR := acc == .load || acc == .atomic
  let needW := acc == .store || acc == .atomic
  if needR && !e.r then some (memTrap .perm 1 va)
  else if needW && !e.w then some (memTrap .perm 2 va)
  else if acc == .fetch && (!e.x || 2 ≤ e.kind) then some (memTrap .perm 3 va)
  else if user && !e.u then some (memTrap .perm 4 va)
  else none

/-- A first-stage leaf as a translation, for the rights that it gives alone. -/
def Leaf.entry (l : Leaf) : TlbEntry :=
  { part := 0, asid := 0, vbase := 0, lg := l.lg, pbase := l.base, r := l.r, w := l.w, x := l.x, u := l.u, kind := l.kind, enc := l.enc
    gen := 0 }

/-- The memcap check on what a translation gives (R22, R88). -/
def TlbEntry.capStop (e : TlbEntry) (s : State) (part : Nat) (evac : Bool) (va : Nat) : Option Stop :=
  let d := inPage e.pbase e.lg va
  if d < Config.devEnd then Sys2Proof.Machine.capStop s part evac d va else none

/-- A walk for an access, with the causes in the order of R197: a right that the first stage does not give goes before what the
second stage reports, and MEMCAP comes after PERM. A translation without the right is answered too. -/
def walkFor (s : State) (part : Nat) (ptbase : Word) (acc : Access) (user evac : Bool) (va : Nat) : Except Stop TlbEntry :=
  match walkBoth s part ptbase va with
  | .error st =>
    match walk1 s part ptbase va with
    | .ok l => .error ((rightsStop l.entry acc user va).getD st)
    | .error _ => .error st
  | .ok e =>
    if (rightsStop e acc user va).isSome then .ok e
    else match e.capStop s part evac va with
      | some st => .error st
      | none => .ok e

/-- Where a device physical address of a page lies (R20); a large page may reach past the region of its KIND. -/
def placeOf (e : TlbEntry) (va : Nat) : Except Stop Place :=
  let d := inPage e.pbase e.lg va
  if !regionOk (if e.kind < 2 then 0 else e.kind) d then .error (memTrap .access 1 va)
  else .ok
    { loc :=
        if d < Config.devEnd then .dev d
        else if Config.hostBase ≤ d then .host (d - Config.hostBase)
        else if Config.remoteBase ≤ d then .remote (bits d 49 44) (bits d 43 0)
        else .regs d
      kind := e.kind, enc := e.enc }

/-- The gather TLB with a translation entered (R23): a full bank gives one entry up (log 13). -/
def tlbFill (free : Nat) (tlb : List TlbEntry) (e : TlbEntry) : List TlbEntry :=
  let bank := tlb.filter (·.bank == e.bank)
  let rest := tlb.filter (·.bank != e.bank)
  if bank.length < Config.tlbWays then tlb ++ [e]
  else rest ++ bank.eraseIdx (Config.tlbVictim free).val ++ [e]

/-- The windows and the canonical check (R9 to R12) for a core of a gang, if it has one; none: the address is translated. -/
def windowIn (g : Option Gang) (core va : Nat) : Option (Except Stop Place) :=
  if 2 ^ 56 ≤ va then some (.error (memTrap .page 3 va))
  else if va < Config.gangBase then none
  else if va < Config.gangEnd then
    let slot := (va - Config.gangBase) / 0x400000
    let off := (va - Config.gangBase) % 0x400000
    match g.bind fun g => g.cores[slot]? with
    | some c => if off < Config.spadBytes then some (.ok { loc := .spad c off }) else some (.error (memTrap .page 4 va))
    | none => some (.error (memTrap .page 4 va))
  else if Config.localBase ≤ va && va < Config.localEnd then
    let off := va - Config.localBase
    if off < Config.spadBytes then some (.ok { loc := .spad core off })
    else if 0x400000 ≤ off && off < 0x400000 + Config.sdmBytes then
      some (.ok { loc := .sdm core (off - 0x400000) })
    else some (.error (memTrap .page 4 va))
  else some (.error (memTrap .page 4 va))

/-- The windows as a hart sees them. -/
def window (s : State) (k : Nat) (va : Nat) : Option (Except Stop Place) := windowIn (s.gangOf (coreOf k)) (coreOf k) va

/-- Whether an access of a hart may use the evacuation path (R22, R87): a load of a supervisor hart. Engine reads are loads of
their hart. -/
def State.evac (s : State) (k : Nat) (acc : Access) : Bool := (s.hartAt k).priv == .supervisor && acc == .load

/-- The translation of an address for a hart, from what its core keeps or by a walk, and the state with the new
translation kept (R23, R24). -/
def lookup (s : State) (k : Nat) (acc : Access) (unit : Bool) (va : Nat) : Except Stop (TlbEntry × State) :=
  let h := s.hartAt k
  match s.partOf (coreOf k) with
  | none => .error (memTrap .access 1 va)
  | some part =>
    let asid := bits h.ptbase.toNat 63 52
    let keep := fun (e : TlbEntry) (s : State) =>
      if unit then s.setHartAt k { s.hartAt k with utr := some e } else s
    match (if unit then h.utr.filter (·.serves s part asid va) else none) with
    | some e => .ok (e, s)
    | none =>
      match (s.coreAt (coreOf k)).tlb.find? fun e => e.serves s part asid va && e.bank == va / 2 ^ 16 % 8 with
      | some e => .ok (e, keep e s)
      | none =>
        let s := s.reachTables (coreOf k) part h.ptbase va
        match walkFor s part h.ptbase acc (h.priv == .user) (s.evac k acc) va with
        | .error t => .error t
        | .ok e =>
          let c := s.coreAt (coreOf k)
          let s := s.setCoreAt (coreOf k) { c with tlb := tlbFill s.free c.tlb e }
          .ok (e, keep e s.draw)

/-- The translation an instruction that has passed the run-ahead pipeline uses (R25, R39): one of those it made there, whatever
the tables say by now, else a new one. One of a port whose generation has changed is lost (R34): DESIGN CHOICE (log 69), the positions of
a store at and after the fault have not performed at the peer. -/
def lookupBy (pages : List TlbEntry) (s : State) (k : Nat) (acc : Access) (unit : Bool) (va : Nat) :
    Except Stop (TlbEntry × State) :=
  match pages.find? (·.covers ((s.partOf (coreOf k)).getD 4) (bits (s.hartAt k).ptbase.toNat 63 52) va) with
  | some e => if e.lost s then .error (memTrap .remote 2 va) else .ok (e, s)
  | none => lookup s k acc unit va

/-- Where an access of a hart goes (R9 to R22): windows, translation, rights; on its way to device memory its requester steers it to
the plinth that serves it (R94). It answers the translation too, if there is one. -/
def translateAs (requester : Nat) (pages : List TlbEntry) (s : State) (k : Nat) (acc : Access) (unit : Bool) (va : Nat) :
    Except Stop (Place × Option TlbEntry × State) :=
  match window s k va with
  | some (.error t) => .error t
  | some (.ok p) => if acc == .fetch then .error (memTrap .perm 3 va) else .ok (p, none, s)
  | none =>
    match lookupBy pages s k acc unit va with
    | .error t => .error t
    | .ok (e, s) =>
      match rightsStop e acc ((s.hartAt k).priv == .user) va with
      | some t => .error t
      | none =>
        match placeOf e va with
        | .error t => .error t
        | .ok p =>
          .ok (p, some e, match p.loc with | .dev a => s.reach requester a | _ => s)

/-- An access that the hart's core steers. -/
def translateBy (pages : List TlbEntry) (s : State) (k : Nat) (acc : Access) (unit : Bool) (va : Nat) :
    Except Stop (Place × Option TlbEntry × State) := translateAs (coreOf k) pages s k acc unit va

/-- Where an access of a hart goes, with a translation made now. -/
def translate (s : State) (k : Nat) (acc : Access) (unit : Bool) (va : Nat) : Except Stop (Place × State) :=
  match translateBy [] s k acc unit va with
  | .error t => .error t
  | .ok (p, _, s) => .ok (p, s)

end Sys2Proof.Machine
end

