-- ==== Sys2Proof/Machine/Target.lean ====
section
/-! DEFINITION. What a target does with a request (R22, R35 to R37, R54, R58, R66, R125, R209, R210, R220, R442):
reads and writes at device memory, scratchpads, scalar data memories, peers and the host. Register blocks
stand in Registers.lean. -/

namespace Sys2Proof.Machine

/-! ### Device memory -/

/-- A range of bytes cut where a unit of 64 or 512 bytes begins: addresses and lengths. -/
def pieces (unit a n : Nat) : List (Nat × Nat) :=
  (List.range (if n = 0 then 0 else (a % unit + n + unit - 1) / unit)).map fun i =>
    let lo := max a ((a / unit + i) * unit)
    (lo, min (a + n) ((a / unit + i + 1) * unit) - lo)

/-- The bytes a plinth delivers from one codeword (R220). DESIGN CHOICE (log 73): a readable codeword of an ENC sector is delivered
although another codeword of the sector is uncorrectable or poisoned. -/
def readWord (s : State) (part : Nat) (enc : Bool) (a n va : Nat) : Except Stop (List Byte) :=
  match Table.find? s.mem.bad (a / 64) with
  | some .media => .error (mediaTrap (if enc then 6 else 5) va a)
  | some .poisoned => .error (memTrap .ue 7 va)
  | none =>
    match Table.find? s.mem.sectors (a / 512) with
    | none => .ok (Memory.readBytes s.mem.dev a n)
    | some .plain => if enc then .error (.integrity part a) else .ok (Memory.readBytes s.mem.dev a n)
    | some (.enc q) =>
      if enc then (if q = part then .ok (Memory.readBytes s.mem.dev a n) else .error (.integrity part a))
      else .ok ((List.range n).map fun i => cipherByte s.mem.dev q (a + i))

/-- The bytes of several codewords, if each is delivered. -/
def readWords (s : State) (part : Nat) (enc : Bool) (va : Nat) : List (Nat × Nat) → Except Stop (List Byte)
  | [] => .ok []
  | p :: rest =>
    match readWord s part enc p.1 p.2 va with
    | .error t => .error t
    | .ok b =>
      match readWords s part enc va rest with
      | .error t => .error t
      | .ok bs => .ok (b ++ bs)

/-- The bytes the plinths deliver, codeword by codeword (R220). -/
def devRead (s : State) (part : Nat) (enc : Bool) (a n va : Nat) : Except Stop (List Byte) :=
  readWords s part enc va (pieces 64 a n)

/-- The codewords a write leaves unreadable (R442): `unit` codewords from `first` on. -/
def rewriteBad (bad : Table BadWord) (first unit : Nat) (whole : Bool) : Table BadWord :=
  let inUnit := fun (p : Nat × BadWord) => first ≤ p.1 && p.1 < first + unit
  if bad.any inUnit then
    let rest := bad.filter fun p => !inUnit p
    if whole then rest else (List.range unit).foldl (fun b i => Table.set b (first + i) .poisoned) rest
  else bad

/-- The memory after a plinth writes bytes of one codeword, or on an ENC page of one sector (R220, R442). A partial write
of an ENC sector checks its tag, but not where a codeword of it is unreadable. -/
def writeUnit (m : MemSys) (part : Nat) (enc : Bool) (a : Nat) (bytes : List Byte) : Except Stop MemSys :=
  let sector := a / 512
  let broken := m.bad.any fun (p : Nat × BadWord) => sector * 8 ≤ p.1 && p.1 < sector * 8 + 8
  let bad :=
    if enc then rewriteBad m.bad (sector * 8) 8 (bytes.length == 512)
    else rewriteBad m.bad (a / 64) 1 (bytes.length == 64)
  let put := fun (dev : Memory) (k : Sector) =>
    { m with
      dev := Memory.writeBytes dev a bytes, bad := bad, sectors := Table.set m.sectors sector k
      past := m.past ++ (List.range bytes.length).map fun i => (a + i, Memory.read1 m.dev (a + i)) }
  let free := bytes.length == 512 || broken
  match enc, Table.find? m.sectors sector with
  | true, some .plain => if free then .ok (put m.dev (.enc part)) else .error (.integrity part a)
  | true, some (.enc q) => if free || q == part then .ok (put m.dev (.enc part)) else .error (.integrity part a)
  | true, none => .ok (put m.dev (.enc part))
  | false, some (.enc q) =>
    let bytesOf := (List.range 512).map fun i => cipherByte m.dev q (sector * 512 + i)
    .ok (put (Memory.writeBytes m.dev (sector * 512) bytesOf) .plain)
  | false, _ => .ok (put m.dev .plain)

/-- The units of one write request, in ascending order. -/
def writeUnits (part : Nat) (enc : Bool) (base : Nat) (bytes : List Byte) : List (Nat × Nat) → MemSys → Except Stop MemSys
  | [], m => .ok m
  | p :: rest, m =>
    match writeUnit m part enc p.1 ((bytes.drop (p.1 - base)).take p.2) with
    | .error t => .error t
    | .ok m => writeUnits part enc base bytes rest m

/-- The memory after one write request (R220, R442): a codeword, or on an ENC page a sector, that it covers is written
anew. -/
def devWrite (m : MemSys) (part : Nat) (enc : Bool) (a : Nat) (bytes : List Byte) : Except Stop MemSys :=
  writeUnits part enc a bytes (pieces (if enc then 512 else 64) a bytes.length) m

/-- A write to plain device memory by a unit of the device. -/
def State.poke (s : State) (a : Nat) (bytes : List Byte) : State :=
  match devWrite s.mem 0 false a bytes with
  | .ok m => { s with mem := m }
  | .error st => s.note st

/-! ### Replicated pages (R125 to R127) -/

/-- Whether an update covers a byte. -/
def ReplUpdate.has (u : ReplUpdate) (a : Nat) : Bool := u.addr ≤ a && a < u.addr + u.after.length

/-- Whether two updates share a byte. -/
def ReplUpdate.meets (u v : ReplUpdate) : Bool := u.addr < v.addr + v.after.length && v.addr < u.addr + u.after.length

/-- What a load of a hart on a die reads of one byte of a REPL page (R105, R125). -/
def replView (m : MemSys) (die hart a : Nat) : Byte :=
  let mine := m.repl.filter fun u => u.die == die && u.has a
  match (mine.filter (·.hart == hart)).getLast? with
  | some u => u.after.getD (a - u.addr) 0
  | none =>
    match mine.head? with
    | some u => u.before.getD (a - u.addr) 0
    | none => Memory.read1 m.dev a

/-- A store to a REPL page leaves one update per compute die: its bytes take their instant there together (R103, R125). -/
def replUpdates (old : Memory) (hart a : Nat) (atomic : Bool) (bytes : List Byte) : List ReplUpdate :=
  (List.range 4).map fun die =>
    { die := die, hart := hart, addr := a, before := Memory.readBytes old a bytes.length, after := bytes, atomic := atomic }

/-- The die instants of every REPL store have come (R127). -/
def State.drainRepl (s : State) : State := { s with mem := { s.mem with repl := [] } }

/-- Whether a hart has REPL stores whose die instants have not all come. -/
def State.owes (s : State) (k : Nat) : Bool := s.mem.repl.any (·.hart == k)

/-- The die instants of a hart's earlier REPL stores have come (R116, R127). -/
def settleRepl (s : State) (k : Nat) : State := if s.owes k then s.drainRepl else s

/-- The die instants of a hart's earlier atomics on REPL pages have come (R121, R127). -/
def settleAtomics (s : State) (k : Nat) : State :=
  if s.mem.repl.any fun u => u.hart == k && u.atomic then s.drainRepl else s

/-- A hart's store to bytes of a REPL page: an earlier store of it to one of them must have reached every die (R107 row 1,
R127). -/
def beforeRepl (m : MemSys) (k a n : Nat) : List ReplUpdate :=
  if m.repl.any fun u => u.hart == k && u.addr < a + n && a < u.addr + u.after.length then [] else m.repl

/-- The number of no hart, for a store that enters the device from outside: the host's function `f` is `noHart + f`, the fabric
port `p` is `noHart + 16 + p`. -/
def noHart : Nat := 2 ^ 16

/-- Whether some core keeps a REPL translation of a device address: the granule is mapped REPL (R60, R128). -/
def State.mappedRepl (s : State) (a : Nat) : Bool :=
  s.cores.any fun (p : Nat × Core) => p.2.tlb.any fun e => e.kind == 1 && e.pbase ≤ a && a < e.pbase + 2 ^ e.lg

/-- A write to device memory that enters from the host or a peer, a master of its own (R125, R128): a REPL store where the granule is
mapped REPL. A master's writes perform in order, each after the die instants of its earlier ones (R127, R133). -/
def inboundWrite (s : State) (who part a : Nat) (bytes : List Byte) : Except Stop State :=
  let s := settleRepl s who
  match devWrite s.mem part false a bytes with
  | .error t => .error t
  | .ok m =>
    let repl := if s.mappedRepl a then m.repl ++ replUpdates s.mem.dev who a false bytes else m.repl
    .ok { s with mem := { m with repl := repl } }

/-! ### Targets -/

/-- Whether an offset of a scratchpad lies in a piece that a protected hart of the core holds (R213). -/
def State.inPiece (s : State) (c off : Nat) : Bool :=
  (List.range 4).any fun slot =>
    ((s.hartAt (c * 8 + slot)).pmode.testBit 1) && 0x1C0000 + slot * 0x10000 ≤ off && off < 0x1D0000 + slot * 0x10000

/-- Whether a range of 64-bit words holds an uncorrectable one (R209). -/
def badWord (bad : List Nat) (off n : Nat) : Bool :=
  bad.any fun w => off / 8 ≤ w && w ≤ (off + n - 1) / 8

/-- The reach of a fabric port for a partition (R34, R419). -/
def portStop (s : State) (part port va : Nat) : Option Stop :=
  let p := s.portAt port
  if p.part != some part then some (memTrap .access 2 va)
  else if p.up then none else some (memTrap .remote 1 va)

/-- What a hart reads at a target, register blocks aside. `home`: an atomic or an engine reads home instants (R125). -/
def targetRead (s : State) (k : Nat) (p : Place) (acc : Access) (home : Bool) (n va : Nat) : Except Stop (List Byte) :=
  let part := (s.partOf (coreOf k)).getD 0
  match p.loc with
  | .dev a =>
    match devStop s part (s.evac k acc) a va with
    | some t => .error t
    | none =>
      match devRead s part p.enc a n va with
      | .error t => .error t
      | .ok bytes =>
        if p.kind == 1 && !home then
          .ok ((List.range n).map fun i => replView s.mem (dieOf (coreOf k)) k (a + i))
        else .ok bytes
  | .spad c off =>
    if s.inPiece c off then .error (memTrap .access 2 va)
    else if badWord (s.coreAt c).badSpad off n then .error (memTrap .ue 3 va)
    else .ok (Memory.readBytes (s.coreAt c).spad off n)
  | .sdm c off =>
    if badWord (s.coreAt c).badSdm off n then .error (memTrap .ue 4 va)
    else .ok (Memory.readBytes (s.coreAt c).sdm off n)
  | .remote port a =>
    match portStop s part port va with
    | some t => .error t
    | none => .ok (Memory.readBytes (Table.get [] s.mem.peers port) a n)
  | .host a => .ok (Memory.readBytes s.mem.host a n)
  | .regs _ => .error (memTrap .access 2 va)

/-- The scratchpad of a core after a write: fill records it touches are deleted (R66), and words it covers are
good again (R209). -/
def Core.writeSpad (c : Core) (off : Nat) (bytes : List Byte) : Core :=
  { c with
    spad := Memory.writeBytes c.spad off bytes
    fills := c.fills.filter fun r => !(off < r.2.1 && r.1 < off + bytes.length)
    badSpad := c.badSpad.filter fun w => !(off ≤ w * 8 && w * 8 + 8 ≤ off + bytes.length) }

/-- The scalar data memory of a core after a write. -/
def Core.writeSdm (c : Core) (off : Nat) (bytes : List Byte) : Core :=
  { c with
    sdm := Memory.writeBytes c.sdm off bytes
    badSdm := c.badSdm.filter fun w => !(off ≤ w * 8 && w * 8 + 8 ≤ off + bytes.length) }

/-- The checks a target makes before it accepts a write, register blocks aside. -/
def targetWriteStop (s : State) (k : Nat) (p : Place) (va : Nat) : Option Stop :=
  let part := (s.partOf (coreOf k)).getD 0
  match p.loc with
  | .dev a => devStop s part false a va
  | .spad c off => if s.inPiece c off then some (memTrap .access 2 va) else none
  | .sdm _ _ => none
  | .remote port _ => portStop s part port va
  | .host _ => none
  | .regs _ => some (memTrap .access 2 va)

/-- The state after a target has performed one write request of a hart. -/
def targetPut (s : State) (k : Nat) (p : Place) (acc : Access) (bytes : List Byte) : Except Stop State :=
  let part := (s.partOf (coreOf k)).getD 0
  match p.loc with
  | .dev a =>
    match devWrite s.mem part p.enc a bytes with
    | .error t => .error t
    | .ok m =>
      let repl := if p.kind == 1 then
          beforeRepl m k a bytes.length ++ replUpdates s.mem.dev k a (acc == .atomic) bytes
        else m.repl
      .ok { s with mem := { m with repl := repl } }
  | .spad c off => .ok (s.setCoreAt c ((s.coreAt c).writeSpad off bytes))
  | .sdm c off => .ok (s.setCoreAt c ((s.coreAt c).writeSdm off bytes))
  | .remote port a =>
    let m := Memory.writeBytes (Table.get [] s.mem.peers port) a bytes
    .ok { s with mem := { s.mem with peers := Table.set s.mem.peers port m } }
  | .host a => .ok { s with mem := { s.mem with host := Memory.writeBytes s.mem.host a bytes } }
  | .regs _ => .ok s

/-- The write of a hart at a target, register blocks aside. -/
def targetWrite (s : State) (k : Nat) (p : Place) (acc : Access) (bytes : List Byte) (va : Nat) : Except Stop State :=
  match targetWriteStop s k p va with
  | some t => .error t
  | none => targetPut s k p acc bytes

/-! ### The strip buffer (R103, R114) -/

/-- The bytes a memory place holds, whatever their codewords (R103, R442). -/
def placeBytes (s : State) (p : Place) (n : Nat) : List Byte :=
  match p.loc with
  | .dev a => Memory.readBytes s.mem.dev a n
  | .spad c o => Memory.readBytes (s.coreAt c).spad o n
  | .sdm c o => Memory.readBytes (s.coreAt c).sdm o n
  | .remote port a => Memory.readBytes (Table.get [] s.mem.peers port) a n
  | .host a => Memory.readBytes s.mem.host a n
  | .regs _ => List.replicate n 0

/-- A byte with the bits of a mask replaced (R103). -/
def mergeByte (old new : Byte) (mask : Nat) : Byte :=
  (old &&& ~~~(BitVec.ofNat 8 mask)) ||| (new &&& BitVec.ofNat 8 mask)

/-- The bytes that a store leaves at its place: the bits that it did not write are those the place holds now (R103). -/
def StripStore.merged (b : StripStore) (s : State) : List Byte :=
  List.zipWith (fun old new => mergeByte old new b.mask) (placeBytes s b.place b.bytes.length) b.bytes

/-- A buffered store takes its instant (R103, R114), a position of an ordered vector store after the die instants of the hart's
earlier stores (R107 row 2, R127). The plinth checks again (R87); what it refuses now is not performed, and the hart takes the
fault before its next instruction (log 54). -/
def commitStore (k : Nat) (s : State) (b : StripStore) : State :=
  let s := match b.place.loc with | .dev a => s.reach (coreOf k) a | _ => s
  match targetWriteStop s k b.place 0 with
  | some (.trap t) =>
    let h := s.hartAt k
    if h.pending.isSome then s else s.setHartAt k { h with pending := some t }
  | some _ => s
  | none =>
    let s := if b.ordered then settleRepl s k else s
    match targetPut s k b.place .store (b.merged s) with
    | .ok s => s
    | .error st => s.note st

/-- Commit of a protected strip: its stores take their instants in program order (R114). -/
def commitStrip (s : State) (k : Nat) : State :=
  let h := s.hartAt k
  let s := s.setHartAt k { h with strip := [], used := 0 }
  h.strip.foldl (commitStore k) s

end Sys2Proof.Machine
end

