-- ==== Sys2Proof/Machine/Tasks.lean ====
section
/-! DEFINITION. Futures as 16-byte words, descriptors, class queues, placement, pre-emption, the service mailbox and
the killing of a gang (R146, R168 to R176, R218, R351, R395 to R400, R417, R443). -/

namespace Sys2Proof.Machine

/-! ### Futures and descriptors -/

/-- A future word (R395). -/
structure Fut where
  cont  : Nat
  gen   : Nat
  st    : Nat
  cause : Nat
  code  : Nat
  deriving DecidableEq, Repr

/-- The fields of sixteen bytes. -/
def Fut.ofBytes (b : List Byte) : Fut :=
  { cont := leNat (b.take 8), gen := leNat ((b.drop 8).take 4), st := leNat ((b.drop 12).take 1),
    cause := leNat ((b.drop 13).take 1), code := leNat ((b.drop 14).take 2) }

/-- The sixteen bytes of a future word. -/
def Fut.bytes (f : Fut) : List Byte :=
  leBytes 8 f.cont ++ leBytes 4 f.gen ++ leBytes 1 f.st ++ leBytes 1 f.cause ++ leBytes 2 f.code

/-- The steward as a requester (R35, R94). -/
def steward : Nat := 0x200

/-- A place in device memory on a KIND 0 page, in a context without a hart: the walk and the access go to the plinths as the
steward's (R22, R87, R94, R99). -/
def findLocal (s : State) (part : Nat) (ptbase : Word) (va : Nat) : Except Stop (Place × State) :=
  let s := s.reachTables steward part ptbase va
  match walkBoth s part ptbase va with
  | .error t => .error t
  | .ok e =>
    match placeOf e va with
    | .error t => .error t
    | .ok p =>
      match p.loc with
      | .dev a =>
        if p.kind != 0 then .error (memTrap .access 2 va)
        else match devStop s part false a va with
          | some st => .error st
          | none => .ok (p, s.reach steward a)
      | _ => .error (memTrap .access 2 va)

/-- A place in plain device memory that a partition physical address names, for a write of the steward (R22, R87, R99). -/
def findRing (s : State) (part pa : Nat) : Except Stop (Place × State) :=
  let s := s.reachTables2 steward part pa
  match walk2 s part pa pa with
  | .error (.stop st) => .error st
  | .error _ => .error (memTrap .access 1 pa)
  | .ok (l, d) =>
    if l.kind != 0 || Config.devEnd ≤ d then .error (memTrap .access 2 pa)
    else match devStop s part false d pa with
      | some st => .error st
      | none => .ok ({ loc := .dev d }, s.reach steward d)

/-- The address of a place in device memory. -/
def Place.devAddr (p : Place) : Nat := match p.loc with | .dev a => a | _ => 0

/-- Bytes of a place in device memory, as the plinth delivers them. -/
def readAt (s : State) (part : Nat) (p : Place) (off n va : Nat) : Except Stop (List Byte) :=
  devRead s part p.enc (p.devAddr + off) n va

/-- A write at a place in device memory by a unit of the device. -/
def writeAt (s : State) (part : Nat) (p : Place) (off : Nat) (bytes : List Byte) : Except Stop State :=
  match devWrite s.mem part p.enc (p.devAddr + off) bytes with
  | .error t => .error t
  | .ok m => .ok { s with mem := m }

/-- A step of a unit of the device that no hart takes a trap for: what it could not do is left, and the error is noted (R86, R220,
log 68). -/
def State.attempt (s : State) (r : Except Stop State) : State :=
  match r with
  | .ok s => s
  | .error st => s.note st

/-- A write of the steward at a place in device memory, which the plinth refuses under its memcap check (R22, R87). -/
def writeAt' (s : State) (part : Nat) (p : Place) (off : Nat) (bytes : List Byte) : State :=
  s.attempt (match capStop s part false p.devAddr p.devAddr with
    | some st => .error st
    | none => writeAt (s.reach steward p.devAddr) part p off bytes)

/-- The place of a task's descriptor. -/
def Task.place (t : Task) : Place := { loc := .dev t.phys, enc := t.enc }

/-! ### Class queues (R172) -/

/-- QNEXT of a task's descriptor; a partition's first task has none (R443). -/
def setQnext (s : State) (id : Nat) (next : Word) : State :=
  match s.task? id with
  | none => s
  | some t => if t.start.supervisor then s else writeAt' s t.part t.place 48 (leBytes 8 next.toNat)

/-- The descriptor address of a task. -/
def descOf (s : State) (id : Nat) : Word := match s.task? id with | some t => t.desc | none => 0

/-- A class queue, and a die with it replaced. -/
def queueOf (s : State) (die cls : Nat) : List Nat := Table.get [] (s.dieAt die).queues cls
def setQueue (s : State) (die cls : Nat) (q : List Nat) : State :=
  let d := s.dieAt die
  s.setDieAt die { d with queues := Table.set d.queues cls q }

/-- A task joins the tail of its queue, or the head when it was SAVED (R172). -/
def enqueue (s : State) (die cls id : Nat) (front : Bool) : State :=
  let q := queueOf s die cls
  if front then
    setQnext (setQueue s die cls (id :: q)) id (match q.head? with | some n => descOf s n | none => 0)
  else
    let s := setQueue s die cls (q ++ [id])
    setQnext (match q.getLast? with | some l => setQnext s l (descOf s id) | none => s) id 0

/-- The task that follows another in a list, as QNEXT names it. -/
def nextDesc (s : State) (q : List Nat) (id : Nat) : Word :=
  match (q.dropWhile (· != id)).drop 1 with
  | n :: _ => descOf s n
  | [] => 0

/-- A task leaves its queue (R172): its QNEXT is written 0, the one before it names the one after it. -/
def unqueue (s : State) (die cls id : Nat) : State :=
  let q := queueOf s die cls
  if !q.contains id then s
  else
    let s := match (q.takeWhile (· != id)).getLast? with
      | some before => setQnext s before (nextDesc s q id)
      | none => s
    setQnext (setQueue s die cls (q.filter (· != id))) id 0

/-- The head of a queue leaves it (R172); its wait for exits is over (R175). -/
def dequeue (s : State) (die cls : Nat) : State :=
  match queueOf s die cls with
  | [] => s
  | id :: rest =>
    let s := setQnext (setQueue s die cls rest) id 0
    let d := s.dieAt die
    s.setDieAt die { d with heads := Table.erase d.heads cls }

/-! ### Placement (R146, R173, R206, R443) -/

/-- The width of an operand, in bits. -/
def Src.width (x : Src) : Nat := match x with | .vec _ w => w | .scale _ => 8 | _ => 1

/-- The width of index elements for a data width (R317). -/
def indexWidth (w : Nat) : Nat := if w ≤ 32 then 32 else 64

/-- The widest element among the vector operands of a queue entry, in bits (R206, R301). -/
def opWidth (op : VOp) : Nat :=
  match op with
  | .lane _ _ _ wd _ _ a b c => max (max wd a.width) (max b.width (match c with | .scale _ => 1 | c => c.width))
  | .move .perm t .. => max t.width (indexWidth t.width)
  | .hold t .. | .drain t .. => max t.width (indexWidth t.width)
  | .move _ t .. | .ins t .. | .vwhile _ _ _ _ t | .red _ t .. | .redIdx _ t .. | .seen _ t .. | .heal t .. => t.width
  | .quant src .. => src.width
  | .ld .index t .. | .ld .elem t .. | .st .index _ t .. | .st .elem _ t .. => max t.width (indexWidth t.width)
  | .ld _ t .. | .st _ _ t .. => t.width
  | .amov _ t .. => max t.width (indexWidth t.width)
  | _ => 1

/-- Whether a saved core image fits a core (R206). DESIGN CHOICE (log 75): an entry that has not begun has no vl yet (R302) and fits. -/
def fits (sc : SavedCore) (c : Core) : Bool :=
  sc.core.mvl ≤ c.prefixP && sc.harts.all fun (p : Nat × Hart) =>
    let len := c.lenAt (p.2.pmode.testBit 0)
    p.2.v.toList.all (·.hw ≤ len) && p.2.viq.all (fun e => e.count * opWidth e.op ≤ len * 8) &&
    p.2.vl ≤ 2 * len && (p.2.kind != .vector || p.2.vlcap ≤ len) && (!p.2.pmode.testBit 0 || 8 ≤ c.lanes)

/-- Whether a task may take a core once it is free (R173, R215 to R217, R421). -/
def canUse (s : State) (t : Task) (n : Nat) : Bool :=
  let c := s.coreAt n
  s.partOf n == some t.part && c.lanes != 0 &&
  (!t.start.pmode.testBit 0 || 8 ≤ c.lanes) && (!t.start.array || c.prefixP != 0) && t.saved.all (fits · c)

/-- Whether a task may take a core now. -/
def usable (s : State) (t : Task) (n : Nat) : Bool := (s.coreAt n).gang.isNone && canUse s t n

/-- The free cores of a cluster that a task may take, lowest first. -/
def freeCores (s : State) (t : Task) (cluster : Nat) : List Nat :=
  ((List.range 12).map (cluster * 12 + ·)).filter (usable s t)

/-- A little-endian field of a byte list. -/
def field (b : List Byte) (off n : Nat) : Nat := leNat ((b.drop off).take n)

/-- What a descriptor must hold for a task to be spawned (R168): fields in range, reserved bytes zero. DESIGN CHOICE (log 61): a FUTURE that
is not 16-byte aligned and a QNEXT that is not 0 are no field out of range. -/
def descFits (b : List Byte) : Bool :=
  let harts := field b 29 1
  field b 0 8 % 4 == 0 && 1 ≤ field b 28 1 && field b 28 1 ≤ 12 &&
  1 ≤ bits harts 2 0 && bits harts 2 0 ≤ 4 && 1 ≤ bits harts 5 3 && bits harts 5 3 ≤ 4 &&
  bits harts 7 6 + bits harts 5 3 ≤ 4 && field b 30 1 < 4 && field b 31 1 < 2 && field b 56 8 == 0

/-- A task with what its descriptor holds (R168). -/
def Task.fromDesc (t : Task) (b : List Byte) : Task :=
  let harts := field b 29 1
  { t with
    cores := field b 28 1, nv := bits harts 2 0, nh := bits harts 5 3, np := bits harts 7 6
    entry := BitVec.ofNat 64 (field b 0 8), arg := BitVec.ofNat 64 (field b 8 8), future := BitVec.ofNat 64 (field b 16 8) }

/-- A task as the scheduler finds it at its placement: one that has not run takes the values that its descriptor holds then (R398).
DESIGN CHOICE (log 44): values out of range, which only software that breaks R398 can leave there, are not taken, nor is a descriptor
that cannot be read, nor another class. -/
def State.readTask (s : State) (id : Nat) : Option Task :=
  (s.task? id).map fun t =>
    if t.start.supervisor || t.saved != [] || t.st != .ready then t
    else match devStop s t.part false t.phys 0, readAt s t.part t.place 0 64 0 with
      | none, .ok b => if descFits b then t.fromDesc b else t
      | _, _ => t

/-- A hart of a new task at its first instruction (R146, R168, R443): it fetches code as it stands when the task begins (R117). -/
def startHart (t : Task) (code : Nat) (kind : HartKind) (index : Nat) : Hart :=
  { slot := if kind = .helper then .waiting else .running
    kind := kind, wait := .hole
    s := if kind = .helper then (Vector.replicate 32 (0 : Word)).set 10 t.arg
         else ((Vector.replicate 32 (0 : Word)).set 10 t.arg).set 11 (BitVec.ofNat 64 index)
    pc := if kind = .helper then 0 else t.entry
    priv := if t.start.supervisor then .supervisor else .user
    ubank := { tvec := t.start.tvecU }, sbank := { tvec := t.start.tvecS }
    codeAt := code, fenced := code
    ptbase := t.start.ptbase, vlcap := t.start.vlcap, pmode := t.start.pmode
    fpctl := t.start.fpctl, srkey := t.start.srkey, filltab := t.start.filltab
    spawnMin := t.start.spawnMin, boostReq := t.start.boost, index := index }

/-- The harts of gang-core k, by slot (R146). -/
def startHarts (t : Task) (code k : Nat) : List (Nat × Hart) :=
  (List.range t.nv).map (fun n => (n, startHart t code .vector (k * t.nv + n))) ++
  (List.range t.np).map (fun n => (4 + n, startHart t code .scalar (t.cores * t.nv + k * t.np + n))) ++
  (List.range t.nh).map (fun n => (7 - n, startHart t code .helper 0))

/-- A core as a new gang finds it: cells zero, array off, hole queue empty (R351, R352, R443). What belongs to the core
and not to a gang stays. -/
def Core.fresh (c : Core) (gang : Nat) : Core :=
  { spad := c.spad, sdm := c.sdm, fills := c.fills, tlb := c.tlb, lanesFailed := c.lanesFailed,
    rowsFailed := c.rowsFailed, colsFailed := c.colsFailed, badSpad := c.badSpad, badSdm := c.badSdm, dbg := c.dbg, lost := c.lost, lastRecord := c.lastRecord,
    sampled := c.sampled, gang := some gang }

/-- A core that takes a saved image (R204, R296). -/
def Core.restored (c saved : Core) (gang : Nat) : Core :=
  { saved with tlb := c.tlb, lanesFailed := c.lanesFailed, rowsFailed := c.rowsFailed, colsFailed := c.colsFailed,
               dbg := c.dbg, lost := c.lost, lastRecord := c.lastRecord, sampled := c.sampled, gang := some gang }

/-- The harts of one placed core take their slots. -/
def setHarts (s : State) (core gang : Nat) (hs : List (Nat × Hart)) : State :=
  hs.foldl (fun s p => s.setHartAt (core * 8 + p.1) { p.2 with gang := some gang, retired := s.reftime }) s

/-- One gang-core is placed: a new task starts, a saved one takes its image. -/
def placeCore (s : State) (t : Task) (id k core : Nat) : State :=
  match t.saved[k]? with
  | some sc =>
    reviveHoles core (List.range 4) (setHarts (s.setCoreAt core ((s.coreAt core).restored sc.core id)) core id sc.harts)
  | none => setHarts (s.setCoreAt core ((s.coreAt core).fresh id)) core id (startHarts t s.mem.past.length k)

/-- A task is placed on cores of one cluster (R173). -/
def placeTask (s : State) (id : Nat) (t : Task) (cores : List Nat) : State :=
  let bars := match s.gang? id with | some g => g.bars | none => []
  let g : Gang := { task := id, cores := cores, part := t.part, cls := t.cls, nv := t.nv, nh := t.nh, np := t.np,
                    array := t.start.array, bars := bars, placed := s.placements }
  let s := { s.setGang id g with placements := s.placements + 1 }
  let s := cores.zipIdx.foldl (fun s p => placeCore s t id p.2 p.1) s
  s.setTask id { t with st := .running, saved := [] }

/-- The placement of the head of a queue, when some cluster of the die has the cores (R173). -/
def tryPlace (s : State) (die cls : Nat) : Option State :=
  match (queueOf s die cls).head? with
  | none => none
  | some id =>
    match s.readTask id with
    | none => some (dequeue s die cls)
    | some t =>
      if t.st != .ready && t.st != .saved then some (dequeue s die cls)
      else match ((List.range 8).map (die * 8 + ·)).find? fun cl => t.cores ≤ (freeCores s t cl).length with
      | none => none
      | some cl => some (placeTask (dequeue s die cls) id t ((freeCores s t cl).take t.cores))

/-! ### Pre-emption (R175, R176) -/

/-! ### Streams at a stop (R63) -/

/-- One stream's position is written back to its block. -/
def writeBackStream (k : Nat) (s : State) (st : Stream) : State :=
  let c := s.coreAt (coreOf k)
  s.setCoreAt (coreOf k) { c with sdm := Memory.writeBytes c.sdm (st.block + 48) (st.pos.flatMap (leBytes 4 ·)) }

/-- The positions of a hart's streams are written back to their blocks. -/
def writeBackStreams (s : State) (k : Nat) : State := (s.hartAt k).streams.foldl (writeBackStream k) s

/-- A helper that waits in hq.take as at its start (R176, R203, R343); the registers that its task gave it stay. -/
def helperAnew (h : Hart) : Hart :=
  { slot := if h.halted then .stopped else .waiting, wait := if h.halted then .held else .hole
    kind := .helper, s := (Vector.replicate 32 (0 : Word)).set 10 h.s[10], priv := .user
    ptbase := h.ptbase, ubank := { tvec := h.ubank.tvec }, sbank := { tvec := h.sbank.tvec }, fpctl := h.fpctl,
    filltab := h.filltab, pmode := h.pmode, vlcap := h.vlcap, spawnMin := h.spawnMin, boostReq := h.boostReq,
    srkey := h.srkey, halted := h.halted, codeAt := h.codeAt, fenced := h.fenced }

/-- A queue entry at a precise stop: its translations are dropped (R39), it leaves the ARIT, and a collective that waits starts
again at its block (R156, R385). -/
def VEntry.park (e : VEntry) : VEntry :=
  let waits := match e.op with | .eng 4 .. => true | _ => false
  { e with entered := false, pages := [], spans := [], aux := if waits then 0 else e.aux, block := [], late := none }

/-- A hart's queue at a precise stop. -/
def Hart.park (h : Hart) : Hart := { h with viq := h.viq.map VEntry.park }

/-- A hart as pre-emption saves it (R176): a helper that holds a TAKEN entry gives it up and restarts in hq.take. -/
def savedHart (h : Hart) : Hart :=
  if h.kind = .helper ∧ h.taken.any (· < Config.holeSlots) then helperAnew h
  else { h.park with utr := none, unprot := h.unprot || h.ckpt.isSome }

/-- The hole queue with every TAKEN entry READY again (R176). -/
def untake (t : Table HoleEntry) : Table HoleEntry :=
  t.map fun p => (p.1, if p.2.st = .taken then { p.2 with st := .ready } else p.2)

/-- The slots of a core that hold harts. -/
def liveSlots (s : State) (core : Nat) : List Nat :=
  (List.range 8).filter fun n => (s.hartAt (core * 8 + n)).slot != .empty

/-- What pre-emption saves of a core. -/
def saveCore (s : State) (core : Nat) : SavedCore :=
  { at_ := core
    harts := (liveSlots s core).map fun n => (n, savedHart (s.hartAt (core * 8 + n)))
    core := { s.coreAt core with holes := untake (s.coreAt core).holes, tracks := [] } }

/-- The cores of a gang are released (R352, R399). -/
def freeCore (s : State) (core : Nat) : State :=
  let c := s.coreAt core
  let s := s.setCoreAt core { c with gang := none, mode := 0, mvl := 0, holes := [] }
  (List.range 8).foldl (fun s n => s.setHartAt (core * 8 + n) {}) s

/-- One hart stops for pre-emption (R63, R114, R116, R176): its strip commits, its REPL stores reach every die, its streams' positions
go back. -/
def stopHart (s : State) (k : Nat) : State := writeBackStreams (settleRepl (commitStrip s k) k) k

/-- Pre-emption of a gang: it stops, is saved and waits at the head of its class queue (R169, R176, R205). The steward's save area
is the task's own (log 56). The time of the request is kept for the bound on open accesses (R177). -/
def preemptGang (s : State) (id : Nat) : State :=
  match s.gang? id, s.task? id with
  | some g, some t =>
    let s := g.cores.foldl (fun s c => (List.range 8).foldl (fun s n => stopHart s (c * 8 + n)) s) s
    let saved := g.cores.map (saveCore s)
    let s := g.cores.foldl freeCore s
    let s := s.setGang id { g with cores := [] }
    enqueue (s.setTask id { t with st := .ready, saved := saved, stopAt := s.reftime }) t.die t.cls id true
  | _, _ => s

/-- Gangs that run on a cluster with a class above c, in the order they fall victim (R175): largest class first, then the
most recently placed. -/
def victims (s : State) (cluster c : Nat) : List (Nat × Gang) :=
  let on := List.filter (fun (p : Nat × Gang) => p.2.cores.any (clusterOf · == cluster) && c < p.2.cls) s.gangs
  let before := fun (a b : Nat × Gang) => b.2.cls < a.2.cls || (a.2.cls == b.2.cls && b.2.placed ≤ a.2.placed)
  on.mergeSort before

/-- The cores of a gang that a head could take. -/
def gain (s : State) (t : Task) (g : Gang) : Nat := (g.cores.filter (canUse s t)).length

/-- As many victims as free enough cores for a head. -/
def takeVictims (s : State) (t : Task) (need : Nat) : List (Nat × Gang) → List (Nat × Gang)
  | [] => []
  | g :: rest => if need = 0 then [] else g :: takeVictims s t (need - gain s t g.2) rest

/-- Pre-emption for a head that cannot be placed (R175): the victims of the candidate cluster that needs the fewest
victim cores. -/
def preemptFor (s : State) (die cls : Nat) : Option State :=
  match (queueOf s die cls).head?.bind s.readTask with
  | none => none
  | some t =>
    let choices := ((List.range 8).map (die * 8 + ·)).filterMap fun cl =>
      let free := (freeCores s t cl).length
      let vs := victims s cl cls
      let total := (vs.map fun g => gain s t g.2).foldl (· + ·) 0
      let taken := takeVictims s t (t.cores - free) vs
      if t.cores ≤ free + total then some ((taken.map (·.2.cores.length)).foldl (· + ·) 0, taken) else none
    match choices.foldl (fun best c => match best with | none => some c | some b => if c.1 < b.1 then some c else some b) none with
    | none => none
    | some (_, vs) => some (vs.foldl (fun s g => preemptGang s g.1) s)

/-- How long a class 1 or 2 head waits for exits before it pre-empts: 500 microseconds (R175). -/
def exitWait : Nat := 50000

/-- A class 1 or 2 head that cannot be placed begins to wait (R175). -/
def noteHead (s : State) (die cls : Nat) : State :=
  let d := s.dieAt die
  match (queueOf s die cls).head? with
  | none => s
  | some id =>
    if (Table.find? d.heads cls).any (·.1 == id) then s
    else s.setDieAt die { d with heads := Table.set d.heads cls (id, s.reftime) }

/-- Whether the head of a class pre-empts now (R175): class 0 at once, classes 1 and 2 after their wait, class 3 never. -/
def mayPreempt (s : State) (die cls : Nat) : Bool :=
  cls == 0 || ((cls == 1 || cls == 2) && (Table.find? (s.dieAt die).heads cls).any fun w => w.2 + exitWait ≤ s.reftime)

/-- One class of a placement pass (R173, R175). -/
def passClass (die cls : Nat) : Nat → State → State
  | 0, s => s
  | n + 1, s =>
    match tryPlace s die cls with
    | some s => passClass die cls n s
    | none =>
      let s := noteHead s die cls
      if mayPreempt s die cls then
        match (preemptFor s die cls).bind (tryPlace · die cls) with
        | some s => passClass die cls n s
        | none => s
      else s

/-- A placement pass of a die (R173). -/
def pass (s : State) (die : Nat) : State :=
  if (s.dieAt die).fenced then s
  else (List.range 4).foldl (fun s cls => passClass die cls ((queueOf s die cls).length + 8) s) s

/-! ### Readiness and resolution (R396, R397) -/

/-- A spawned descriptor whose PENDING has reached 0: its task becomes READY (R169, R397), on the die it moved to
if the one that LINK names is fenced (R219). -/
def taskReady (s : State) (phys link : Nat) : State :=
  match List.find? (fun (p : Nat × Task) => p.2.phys == phys && p.2.st == .pending) s.tasks with
  | none => s
  | some (id, t) =>
    let named := (link - 1) / 2 % 4
    let die := if (s.dieAt named).fenced then t.die else named
    pass (enqueue (s.setTask id { t with st := .ready, die := die }) die t.cls id false) die

/-- A change of PENDING and FAILIN at a descriptor's plinth (R397): the count rises or falls by one. -/
def pendingChange (s : State) (part : Nat) (p : Place) (va : Nat) (up fail : Bool) : Except Stop State := do
  let old := leNat (← readAt s part p 24 4 va)
  let flags := leNat (← readAt s part p 31 1 va)
  let link := leNat (← readAt s part p 40 8 va)
  let new := if up then old + 1 else old - 1
  let s ← writeAt s part p 24 (leBytes 4 new)
  let s ← if fail then writeAt s part p 31 (leBytes 1 (flags ||| 1)) else .ok s
  .ok (if !up && old = 1 && link != 0 then taskReady s p.devAddr link else s)

/-- FAILIN := 1 at a descriptor, for fut.reg on a failed future (R396). -/
def setFailin (s : State) (part : Nat) (p : Place) (va : Nat) : Except Stop State := do
  let flags := leNat (← readAt s part p 31 1 va)
  writeAt s part p 31 (leBytes 1 (flags ||| 1))

/-- A future takes a new word, and a continuation it held is told (R396, R397). The continuation's descriptor is found
in the context of the agent that acts (log 16). DESIGN CHOICE (log 78): where that descriptor cannot be translated or read, the
future stays WAITING. -/
def settleFuture (s : State) (part : Nat) (ptbase : Word) (p : Place) (f : Fut) (fail : Bool) (cause code : Nat) :
    Except Stop State := do
  let w : Fut := { f with cont := 0, st := if fail then 3 else 2, cause := cause, code := code }
  if f.st = 1 then
    let (d, s) ← findLocal s part ptbase f.cont
    pendingChange (← writeAt s part p 0 w.bytes) part d f.cont false fail
  else writeAt s part p 0 w.bytes

/-- The future of a completion, an exit, a kill or a doorbell: a future that is neither EMPTY nor WAITING, or that cannot
be reached, is left as it stands (R169, R378, R399, R418). It is a release of device scope: REPL stores reach every die
first (R123, R127, R138). -/
def completeFuture (s : State) (part : Nat) (ptbase : Word) (va : Nat) (fail : Bool) (cause code : Nat) : State :=
  let s := s.drainRepl
  s.attempt do
    let (p, s) ← findLocal s part ptbase va
    let f := Fut.ofBytes (← readAt s part p 0 16 va)
    if f.st < 2 then settleFuture s part ptbase p f fail cause code else .ok s

/-- The doorbell future of a device ring, named by a partition physical address, takes the count of messages since the last
resolution; where it is resolved the count starts again and DMFUT is 0 (R418). -/
def completeDoorbell (s : State) (part : Nat) : State :=
  let x := s.partAt part
  let s := s.setPartAt part { x with dmfut := 0 }
  s.attempt do
    let (p, s) ← findRing s.drainRepl part x.dmfut
    let f := Fut.ofBytes (← readAt s part p 0 16 x.dmfut)
    if f.st < 2 then
      let s ← settleFuture s part x.hsctx p f false 0 (x.dmsince % 2 ^ 16)
      .ok (s.setPartAt part { s.partAt part with dmsince := 0 })
    else .ok s

/-! ### The service mailbox (R417, R418) -/

/-- One message is written to the host ring. -/
def putHost (s : State) (part : Nat) (msg : List Byte) : State :=
  let p := s.partAt part
  let s := { s with mem := { s.mem with host := Memory.writeBytes s.mem.host (p.mbbase + p.mbhead * 64) msg } }
  s.setPartAt part { p with mbhead := (p.mbhead + 1) % 256 }

/-- One message is written to the device ring, and the doorbell rings (R418). -/
def putDevice (s : State) (part : Nat) (msg : List Byte) : State :=
  let pa := (s.partAt part).dmbase + (s.partAt part).dmhead * 64
  let s := s.attempt do
    let (q, s) ← findRing s part pa
    writeAt s part q 0 msg
  let p := s.partAt part
  let s := s.setPartAt part { p with dmhead := (p.dmhead + 1) % 256, dmsince := p.dmsince + 1 }
  if p.dmfut = 0 then s else completeDoorbell s part

/-- The host ring takes a message (R417). -/
def sendHost (s : State) (part : Nat) (msg : List Byte) (isKill : Bool) : State :=
  let p := s.partAt part
  let blocked := (p.mbhead + 1) % 256 == p.mbtail % 256 || p.mbheld != []
  if p.mbbase = 0 then s
  else if !blocked then putHost s part msg
  else if isKill then s.setPartAt part { p with mbheld := p.mbheld ++ [msg] }
  else s.setPartAt part { p with mbdrop := true }

/-- The device ring takes a message (R417, R418). -/
def sendDevice (s : State) (part : Nat) (msg : List Byte) (isKill : Bool) : State :=
  let p := s.partAt part
  let blocked := (p.dmhead + 1) % 256 == p.dmtail % 256 || p.dmheld != []
  if p.dmbase = 0 then s
  else if !blocked then putDevice s part msg
  else if isKill then s.setPartAt part { p with dmheld := p.dmheld ++ [msg] }
  else s.setPartAt part { p with dmdrop := true }

/-- The steward sends a message to a partition (R417). -/
def send (s : State) (part : Nat) (msg : List Byte) (isKill : Bool) : State :=
  sendDevice (sendHost s part msg isKill) part msg isKill

/-- A message of a kind: seven zero bytes, then 56 bytes of body (R417). -/
def message (kind : Nat) (body : List Byte) : List Byte :=
  leBytes 8 (kind % 256) ++ body ++ List.replicate (56 - body.length) 0

/-- Held kill records go out while their ring has room (R417). -/
def flushHost (part : Nat) : Nat → State → State
  | 0, s => s
  | n + 1, s =>
    let p := s.partAt part
    match p.mbheld with
    | [] => s
    | m :: rest =>
      if p.mbbase = 0 || (p.mbhead + 1) % 256 == p.mbtail % 256 then s
      else flushHost part n (putHost (s.setPartAt part { p with mbheld := rest }) part m)

def flushDevice (part : Nat) : Nat → State → State
  | 0, s => s
  | n + 1, s =>
    let p := s.partAt part
    match p.dmheld with
    | [] => s
    | m :: rest =>
      if p.dmbase = 0 || (p.dmhead + 1) % 256 == p.dmtail % 256 then s
      else flushDevice part n (putDevice (s.setPartAt part { p with dmheld := rest }) part m)

/-! ### Killing a gang (R140, R141, R218, R394) -/

/-- The codes of the kill reasons (R218). -/
def killCode (r : KillReason) : Nat :=
  match r with
  | .double => 1 | .state => 2 | .request => 3 | .partition => 4 | .fence => 5 | .noHandler => 6

/-- The faulting hart of a kill and what the record tells of it (R192, R218). -/
structure Culprit where
  key   : Nat
  cause : Nat
  tsub  : Nat
  treg  : Nat
  tpc   : Word
  telem : Nat

/-- The record of the trap a hart took last (R218): of the bank that handles one, the S bank first (log 57). -/
def Culprit.ofHart (s : State) (k : Nat) : Culprit :=
  let h := s.hartAt k
  let b := if h.sbank.intrap then h.sbank else if h.ubank.intrap then h.ubank
    else if h.sbank.tcause != 0 then h.sbank else h.ubank
  { key := k, cause := b.tcause.toNat % 256, tsub := b.tsub.toNat % 2 ^ 16, treg := b.treg.toNat % 64, tpc := b.tpc
    telem := b.telem.toNat % 2 ^ 14 }

/-- The record of a trap that a hart would have taken (R192). -/
def Culprit.ofTrap (k : Nat) (tpc : Word) (t : TrapInfo) : Culprit :=
  { key := k, cause := causeCode t.cause, tsub := tsubOf t, treg := t.treg % 64, tpc := tpc, telem := t.telem % 2 ^ 14 }

/-- The record of the trap that stands in a bank (R218). -/
def Culprit.ofBank (k : Nat) (b : TrapBank) : Culprit :=
  { key := k, cause := b.tcause.toNat % 256, tsub := b.tsub.toNat % 2 ^ 16, treg := b.treg.toNat % 64, tpc := b.tpc
    telem := b.telem.toNat % 2 ^ 14 }

/-- The body of a kill record (R218). -/
def killRecord (task : Word) (reason core : Nat) (c : Option Culprit) : List Byte :=
  match c with
  | some c =>
    leBytes 8 task.toNat ++ leBytes 1 reason ++ leBytes 1 c.cause ++ leBytes 2 c.tsub ++ leBytes 2 core ++
    leBytes 1 (slotOf c.key) ++ leBytes 1 c.treg ++ leBytes 8 c.tpc.toNat ++ leBytes 2 c.telem ++ leBytes 6 0
  | none =>
    leBytes 8 task.toNat ++ leBytes 1 reason ++ leBytes 1 0 ++ leBytes 2 0 ++ leBytes 2 core ++ leBytes 1 0xFF ++
    leBytes 1 0x3F ++ leBytes 8 0 ++ leBytes 2 0 ++ leBytes 6 0

/-- Whether a hart waits on a phase of a barrier that has not completed (R392, R394). -/
def Hart.waitsOn (h : Hart) (die : Bool) (num : Nat) (b : Barrier) : Bool :=
  h.slot == .waiting && match h.wait with
    | .barrier d m p =>
      let ahead := (b.phase + 2 ^ 32 - p) % 2 ^ 32
      d == die && m == num && !(0 < ahead && ahead < 2 ^ 31)
    | _ => false

/-- The harts of a gang, on its cores or as they are saved. -/
def gangHarts (s : State) (g : Gang) (t : Task) : List Hart :=
  g.cores.flatMap (fun c => (List.range 8).map fun n => s.hartAt (c * 8 + n)) ++
  t.saved.flatMap fun sc => sc.harts.map (·.2)

/-- Die barriers a killed gang leaves broken (R394): with an arrival of it that counts toward a phase that has not completed, or with a
hart of it that waits on one. -/
def breakBars (s : State) (id : Nat) (g : Gang) (t : Task) : State :=
  let die := match g.cores.head? with | some c => dieOf c | none => t.die
  let d := s.dieAt die
  s.setDieAt die
    { d with bars := d.bars.map fun (p : Nat × Barrier) =>
        (p.1, if p.2.parties.any (·.1 == id) || (gangHarts s g t).any (·.waitsOn true p.1 p.2) then { p.2 with broken := true }
          else p.2) }

/-- The copies that a core's scratchpad still tracks fail (R140): every pointer that is not DONE. A new gang finds the slots
free (R141). -/
def failTracks (s : State) (core : Nat) : State :=
  let c := s.coreAt core
  s.setCoreAt core { c with tracks := c.tracks.map fun t =>
    { t with fail := t.fail <|> some { cause := .access, sub := 2 } } }

/-- A gang is killed (R218): its harts go to EMPTY, its hole entries are freed, its task is KILLED, leaves a queue that it waits
in, its future is failed, and a kill record goes to the mailbox. What of its accesses has not performed is dropped (R140,
log 58); the die instants of its REPL stores come before the record. -/
def killGang (s : State) (id : Nat) (reason : KillReason) (c : Option Culprit) : State :=
  match s.gang? id, s.task? id with
  | some g, some t =>
    let core := match c with | some c => coreOf c.key | none => g.cores.headD 0
    let s := breakBars s id g t
    let s := s.drainRepl
    let s := g.cores.foldl (fun s c => freeCore (failTracks s c) c) s
    let s := unqueue s t.die t.cls id
    let s := { s with gangs := Table.erase s.gangs id }
    let s := s.setTask id { t with st := .killed, saved := [] }
    let s := if t.future = 0 then s
      else completeFuture s t.part t.start.ptbase t.future.toNat true
        (match c with | some c => c.cause | none => 0) (killCode reason)
    let s := send s t.part (message 2 (killRecord t.desc (killCode reason) core c)) true
    pass s t.die
  | _, _ => s

/-- A task is killed: a partition's reset, a request, a fence without another die (R218, R219). One that never ran has no gang
and no kill record; the record of a SAVED one names core 0, as the gang holds none (log 19). -/
def killTask (s : State) (id : Nat) (reason : KillReason) : State :=
  match s.task? id with
  | none => s
  | some t =>
    if t.st = .exited || t.st = .killed then s
    else if t.st = .running then killGang s id reason none
    else
      let hadGang := (s.gang? id).isSome
      let s := match s.gang? id with | some g => breakBars s id g t | none => s
      let s := unqueue s t.die t.cls id
      let s := { s with gangs := Table.erase s.gangs id }
      let s := s.setTask id { t with st := .killed, saved := [] }
      let s := if t.future = 0 then s
        else completeFuture s t.part t.start.ptbase t.future.toNat true 0 (killCode reason)
      if hadGang then send s t.part (message 2 (killRecord t.desc (killCode reason) 0 none)) true else s

/-- The steward resets a partition (R218, R220, R425): its gangs are killed with reason PARTITION. -/
def resetPartition (s : State) (part : Nat) : State :=
  (List.filter (fun (p : Nat × Task) => p.2.part == part) s.tasks).foldl (fun s p => killTask s p.1 .partition) s

/-- Every hart of a gang that must exit has exited (R399). -/
def gangDone (s : State) (g : Gang) : Bool :=
  g.cores.all fun c => (List.range 8).all fun n =>
    let h := s.hartAt (c * 8 + n)
    h.slot == .empty || h.exited || h.kind == .helper

/-- The end of a task whose harts have all exited (R399). -/
def finishTask (s : State) (id : Nat) : State :=
  match s.gang? id, s.task? id with
  | some g, some t =>
    if gangDone s g then
      let s := g.cores.foldl freeCore s
      let s := { s with gangs := Table.erase s.gangs id }
      let s := s.setTask id { t with st := .exited }
      let s := if t.future = 0 then s else completeFuture s t.part t.start.ptbase t.future.toNat false 0 0
      pass s t.die
    else s
  | _, _ => s

/-! ### FAILING flags (R86, R424) -/

/-- The numbers of the partitions that exist. -/
def liveParts (s : State) : List Nat := (List.range 4).filter fun p => (s.partAt p).live

/-- A health message to every partition (R417, R424). -/
def sendHealth (s : State) : State :=
  let count := s.stew.corrected + Config.correctedErrors s.free
  let s := { s.draw with stew := { s.stew with corrected := count } }
  let body := (List.range 56).map (Config.healthByte count s.mem.failing)
  (liveParts s).foldl (fun s p => send s p (message 5 body) false) s

/-- A stack waits its turn to retire: a live one that does not wait or retire already. -/
def queueStack (s : State) (stack : Nat) : State :=
  if s.mem.live.testBit stack && !s.mem.queued.contains stack && s.mem.leaving != some stack then
    { s with mem := { s.mem with queued := s.mem.queued ++ [stack] } }
  else s

/-- A plinth raises its FAILING flag (R86): it is reported, and the stack waits its turn to retire. A last stack only keeps its
flag. -/
def raiseFailing (s : State) (stack : Nat) : State :=
  let known := s.mem.failing.testBit stack
  let s := { s with mem := { s.mem with
    failing := Nat.lor s.mem.failing (2 ^ stack), reported := Nat.lor s.mem.reported (2 ^ stack) } }
  let s := if known then s else sendHealth s
  if 2 ≤ liveCount s then queueStack s stack else s

/-- The plinth that found an uncorrectable codeword raises its flag (R86). -/
def mediaSeen (s : State) (t : TrapInfo) : State :=
  match t.media with
  | some a => raiseFailing s (plinthOf s.mem a)
  | none => s

end Sys2Proof.Machine
end

