-- ==== Sys2Proof/Machine/Debug.lean ====
section
/-! DEFINITION. The debug unit of a core: trace records, samples, breakpoints, halts and steps (R402 to R410). -/

namespace Sys2Proof.Machine

/-- A register of a core's debug unit by offset. -/
def dbgReg (s : State) (core off : Nat) : Nat := (Table.get (0 : Word) (s.coreAt core).dbg off).toNat
def setDbgReg (s : State) (core off v : Nat) : State :=
  let c := s.coreAt core
  s.setCoreAt core { c with dbg := Table.set c.dbg off (BitVec.ofNat 64 v) }

/-- The lane clock of a step code in eighths of a gigahertz (R184, R185); the scalar clock is 16. -/
def laneEighths (step : Nat) : Nat :=
  match step with
  | 0 => 10 | 1 => 9 | 2 => 8 | 3 => 6 | 4 => 4 | _ => 2

/-- Lane cycles since the core's last record (R404, log 5). -/
def laneDelta (s : State) (core : Nat) : Nat :=
  (s.now - (s.coreAt core).lastRecord) * laneEighths (s.clusterAt (clusterOf core)).step / 16

/-- One record goes to the trace ring, or is dropped and counted (R404, R406). -/
def traceStore (s : State) (core : Nat) (rec : List Byte) : State :=
  let size := dbgReg s core 0x10
  let head := dbgReg s core 0x18
  let wrapOn := (dbgReg s core 0).testBit 1
  let c := s.coreAt core
  if size ≤ head && !wrapOn then s.setCoreAt core { c with lost := min (c.lost + 1) (2 ^ 32 - 1) }
  else
    let head := if size ≤ head then 0 else head
    let a := dbgReg s core 0x08 + head
    let s := match devStop s ((s.partOf core).getD 0) false a a with
      | some _ => s
      | none => if a < Config.devEnd then (s.reach core a).poke a rec else s
    let s := setDbgReg s core 0x18 (if wrapOn && size ≤ head + 16 then 0 else head + 16)
    s.setCoreAt core { s.coreAt core with lastRecord := s.now }

/-- A SYNC record (R405). -/
def syncRecord (s : State) (core : Nat) : List Byte :=
  leBytes 2 0 ++ leBytes 1 15 ++ leBytes 1 0 ++ leBytes 8 s.reftime ++
  leBytes 1 (s.clusterAt (clusterOf core)).step ++ leBytes 3 0

/-- A record of any other pipe; a saturated DELTA is followed by a SYNC record (R404). -/
def traceWrite (s : State) (core : Nat) (body : List Byte) : State :=
  let d := laneDelta s core
  let s := traceStore s core (leBytes 2 (min d 0xFFFF) ++ body)
  if 0xFFFF ≤ d then traceStore s core (syncRecord s core) else s

/-- Whether a core traces a pipe of a slot (R403). -/
def tracing (s : State) (k pipe : Nat) : Bool :=
  let ctl := dbgReg s (coreOf k) 0
  ctl.testBit 0 && ctl.testBit (8 + pipe) && ctl.testBit (16 + slotOf k)

/-- A begin or end record of a hart's instruction (R404, R405). -/
def trace (s : State) (k pipe : Nat) (fin : Bool) (seq elem flags row : Nat) (pc : Word) : State :=
  if tracing s k pipe then
    traceWrite s (coreOf k)
      (leBytes 1 (pipe + if fin then 16 else 0) ++ leBytes 1 (slotOf k) ++ leBytes 4 seq ++ leBytes 2 elem ++
       leBytes 1 flags ++ leBytes 1 row ++ leBytes 4 pc.toNat)
  else s

/-- The pipe that an entry's records name. -/
def pipeOf (e : VEntry) : Nat :=
  match e.op with
  | .move .. | .ins .. | .xtr .. | .hold .. | .drain .. => 1
  | .lane .. => if e.maj = 0x20 then 3 else if e.maj = 0x1F then 1 else 0
  | .ld .. | .st .. | .bind .. | .unbind .. | .spill .. | .fill .. | .amov .. => 2
  | .mxMode .. | .mxTshape .. | .mxOp .. | .mxZero .. | .mxMv .. | .mxRead .. | .mxWrite .. | .mxSpill .. | .mxFill ..
  | .spEval .. | .spGrad .. | .spDx .. | .spRefine | .spPair | .spGzero | .spGspill | .spGfill => 4
  | .eng .. => 5
  | _ => 0

/-- An end record, where a begin stands open. -/
def closeTrace (s : State) (k : Nat) (e : VEntry) (flags : Nat) : State × VEntry :=
  if e.opened then (trace s k (pipeOf e) true e.seq e.elem (Nat.lor e.flags flags) e.row e.pc, { e with opened := false })
  else (s, e)

/-- A sample record of one slot (R407). -/
def traceSlotSample (s : State) (k : Nat) : State :=
  let h := s.hartAt k
  let e := h.viq.head?
  traceWrite s (coreOf k)
    (leBytes 1 14 ++ leBytes 1 (slotOf k) ++ leBytes 4 (match e with | some e => e.seq | none => 0) ++
     leBytes 2 (match e with | some e => e.elem | none => 0) ++ leBytes 1 0 ++
     leBytes 1 (match e with | some e => e.row | none => 0) ++ leBytes 4 h.pc.toNat)

/-- Every cluster of a die whose lane clock changes writes SYNC records in the cores that trace (R405). -/
def syncCluster (s : State) (cl : Nat) : State :=
  ((List.range 12).map (cl * 12 + ·)).foldl (fun s c =>
    if (dbgReg s c 0).testBit 0 then traceStore s c (syncRecord s c) else s) s

/-- A debug halt (R409): a precise stop, STOPPED, no bank written. -/
def haltHart (s : State) (k : Nat) : State :=
  let h := s.hartAt k
  if h.slot = .empty then s
  else s.setHartAt k { h.park with slot := .stopped, wait := .held, halted := true, stepsLeft := none, stepElems := none }

/-- The state of a hart that goes on: a helper that holds no entry waits in hq.take (R343). -/
def Hart.goOn (h : Hart) : Hart :=
  if h.kind = .helper && h.pc = 0 then { h with slot := .waiting, wait := .hole }
  else h.run

/-- Whether a hart stands STOPPED and executes no handler: by a debug halt, by a halt instruction or by a csave (R295, R298,
R409). -/
def Hart.stands (h : Hart) : Bool := h.slot == .stopped && h.wait != .handler

/-- The steward resumes a hart: a debug resume (R409), with what a step still has to do (R410), which also ends the stop of a
halt instruction (R298) or of a csave (R295). -/
def resumeHart (s : State) (k : Nat) (insns elems : Option Nat) : State :=
  let h := s.hartAt k
  if h.stands then s.setHartAt k { h.goOn with halted := false, stepsLeft := insns, stepElems := elems, retired := s.reftime }
  else if h.slot = .empty then s
  else s.setHartAt k { h with stepsLeft := insns, stepElems := elems }

/-- DBGCMD (R402, R409, R410). -/
def debugCommand (s : State) (core v : Nat) : State :=
  let k := core * 8 + bits v 2 0
  let n := bits v 31 16
  match bits v 5 4 with
  | 0 => haltHart s k
  | 1 => resumeHart s k none none
  | 2 => if n = 0 then s else resumeHart s k (some n) none
  | _ => if n = 0 then s else resumeHart s k none (some n)

/-- Whether a breakpoint holds for a hart at an address (R408). -/
def breakpointAt (s : State) (k : Nat) (pc : Word) (elem : Bool) (i : Nat) : Bool :=
  let lo := dbgReg s (coreOf k) (0x40 + 16 * i)
  let hi := dbgReg s (coreOf k) (0x48 + 16 * i)
  lo.testBit 0 && bits lo 63 2 == pc.toNat / 4 && hi.testBit (56 + slotOf k) && hi.testBit 49 == elem

/-- A breakpoint that stops a hart before an instruction commits. -/
def breakpointBefore (s : State) (k : Nat) (pc : Word) : Bool :=
  (List.range 4).any (breakpointAt s k pc false)

/-- The lowest element at which a breakpoint stops a vector instruction that stands at an element; `past`: it has stopped there. -/
def breakpointElem (s : State) (k : Nat) (pc : Word) (now : Nat) (past : Bool) : Option Nat :=
  let es := ((List.range 4).filter (breakpointAt s k pc true)).map fun i => bits (dbgReg s (coreOf k) (0x48 + 16 * i)) 48 36
  (es.filter fun el => now < el || (now == el && !past)).min?

/-- One instruction of a hart has retired: a step counts it, and halts the hart at its end (R410). -/
def countStep (s : State) (k : Nat) : State :=
  let h := s.hartAt k
  match h.stepsLeft with
  | none => s
  | some n => if n ≤ 1 then haltHart s k else s.setHartAt k { h with stepsLeft := some (n - 1) }

end Sys2Proof.Machine
end

