-- ==== Sys2Proof/Machine/Registers.lean ====
section
/-! DEFINITION. Register blocks: the partition service blocks and the debug units (R36, R402, R418, R428). -/

namespace Sys2Proof.Machine

/-- The access table of the register block at an address (R36): the read bit and the write bit of a master. A service block admits
its partition's cores and the steward for both (R418), a debug unit the steward after an unlock (R402, R428, log 17). -/
def blockBits (s : State) (master a : Nat) : Bool × Bool :=
  let steward := 0x200 ≤ master && master < 0x208
  let on :=
    if Config.serviceBase ≤ a && a < Config.serviceBase + 4 * 0x10000 then
      steward || (master < 384 && s.partOf master == some ((a - Config.serviceBase) / 0x10000))
    else if Config.debugBase ≤ a && a < Config.debugBase + 384 * 0x10000 then steward && s.stew.unlocked
    else false
  (on, on)

/-- Whether a register block accepts a master's access in a direction (R36). -/
def regAccepts (s : State) (master : Nat) (write : Bool) (a : Nat) : Bool :=
  if write then (blockBits s master a).2 else (blockBits s master a).1

/-- The SPAWNMIN that host spawns have (R418). -/
def hsprioOf (p : Partition) : Nat := max p.hsprio p.spawnGrant

/-- The 64-bit register at an address of a block. -/
def regValue (s : State) (a : Nat) : Nat :=
  if Config.debugBase ≤ a then
    let core := (a - Config.debugBase) / 0x10000
    let off := (a - Config.debugBase) % 0x10000
    if off = 0x20 then
      let halted := ((List.range 8).filter fun n => (s.hartAt (core * 8 + n)).halted).map (2 ^ ·)
      halted.foldl (· + ·) 0 + (s.coreAt core).lost * 2 ^ 16
    else if off = 0x28 then 0
    else dbgReg s core off
  else
    let p := s.partAt ((a - Config.serviceBase) / 0x10000)
    match (a - Config.serviceBase) % 0x10000 with
    | 0x00 => p.dmbase
    | 0x08 => p.dmhead + if p.dmdrop then 2 ^ 63 else 0
    | 0x10 => p.dmtail
    | 0x18 => p.dmfut
    | 0x20 => p.hsctx.toNat
    | 0x28 => p.hstvec.toNat
    | 0x30 => hsprioOf p
    | _ => 0

/-- DMBASE (R418). -/
def writeDmbase (s : State) (part v : Nat) : State :=
  if v % 2 ^ 12 = 0 then s.setPartAt part { s.partAt part with dmbase := v } else s

/-- DMTAIL (R417, R418): slots free, and held kill records go out. -/
def writeDmtail (s : State) (part v : Nat) : State :=
  let p := s.partAt part
  flushDevice part (p.dmheld.length) (s.setPartAt part { p with dmtail := v % 256, dmdrop := false })

/-- The reserved bits of a trap vector and of ptbase read as zero (R17, R193). -/
def maskTvec (v : Nat) : Word := BitVec.ofNat 64 (v / 4 * 4)
def maskPtbase (v : Nat) : Word := BitVec.ofNat 64 (v / 8192 * 8192)

/-- A write of a service register. -/
def writeService (s : State) (part off v : Nat) : State :=
  let p := s.partAt part
  match off with
  | 0x00 => writeDmbase s part v
  | 0x10 => writeDmtail s part v
  | 0x18 => s.setPartAt part { p with dmfut := v }
  | 0x20 => s.setPartAt part { p with hsctx := maskPtbase v }
  | 0x28 => s.setPartAt part { p with hstvec := maskTvec v }
  | 0x30 => s.setPartAt part { p with hsprio := v % 4 }
  | _ => s

/-- The writable bits of a debug register (R402, R403, R408). -/
def debugMask (off : Nat) : Nat :=
  if off = 0 then 0xFFFFFFFFFF03
  else if off = 0x08 then 2 ^ 64 - 2 ^ 12
  else if off = 0x10 then 2 ^ 64 - 1
  else if 0x40 ≤ off && off < 0x80 then
    if off % 16 = 0 then 2 ^ 64 - 1 - 2 else 0xFF03FFF000000000
  else 0

/-- A write of a debug register. Tracing that starts writes a SYNC record (R405). -/
def writeDebug (s : State) (core off v : Nat) : State :=
  if off = 0x28 then debugCommand s core v
  else if off = 0x18 || off = 0x20 then s
  else if debugMask off = 0 then s
  else
    let start := off = 0 && v.testBit 0 && !(dbgReg s core 0).testBit 0
    let s := setDbgReg s core off (v &&& debugMask off)
    if start then traceStore s core (syncRecord s core) else s

/-- A write of the 64-bit register at an address of a block. -/
def regWrite (s : State) (a v : Nat) : State :=
  if Config.debugBase ≤ a then writeDebug s ((a - Config.debugBase) / 0x10000) ((a - Config.debugBase) % 0x10000) v
  else writeService s ((a - Config.serviceBase) / 0x10000) ((a - Config.serviceBase) % 0x10000) v

/-- Bytes a master reads of register blocks (R36); a part of a register is read as its bytes (log 17). -/
def regRead (s : State) (master a n va : Nat) : Except Stop (List Byte) :=
  if regAccepts s master false a then .ok ((leBytes 8 (regValue s (a / 8 * 8))).drop (a % 8) |>.take n)
  else .error (memTrap .access 2 va)

/-- Bytes a master writes to register blocks (R36); a part of a register is merged (log 17). -/
def regStore (s : State) (master a : Nat) (bytes : List Byte) (va : Nat) : Except Stop State :=
  if regAccepts s master true a then
    let old := leBytes 8 (regValue s (a / 8 * 8))
    let new := old.take (a % 8) ++ bytes ++ old.drop (a % 8 + bytes.length)
    .ok (regWrite s (a / 8 * 8) (leNat (new.take 8)))
  else .error (memTrap .access 2 va)

end Sys2Proof.Machine
end

