-- ==== Sys2Proof/Machine/Ops.lean ====
section
/-! DEFINITION. The named operations that meanings share: reading and writing memory for a hart, taking a trap
(R191 to R199, R203), the return from one (R200, R291), the rewind of a protected strip (R214), and the ends of
an instruction. -/

namespace Sys2Proof.Machine

/-- What a meaning answers. -/
abbrev Out := Host.Outcome State Fault Refusal

/-! ### Memory -/

/-- What a hart reads at a place, register blocks included. -/
def readPlace (s : State) (k : Nat) (p : Place) (acc : Access) (home : Bool) (n va : Nat) : Except Stop (List Byte) :=
  match p.loc with
  | .regs a => regRead s (coreOf k) a n va
  | _ => targetRead s k p acc home n va

/-- What a hart writes at a place, register blocks included. -/
def writePlace (s : State) (k : Nat) (p : Place) (acc : Access) (bytes : List Byte) (va : Nat) : Except Stop State :=
  match p.loc with
  | .regs a => regStore s (coreOf k) a bytes va
  | _ => targetWrite s k p acc bytes va

/-- A location some bytes on. -/
def Loc.plus (l : Loc) (i : Nat) : Loc :=
  match l with
  | .dev a => .dev (a + i)
  | .spad c o => .spad c (o + i)
  | .sdm c o => .sdm c (o + i)
  | .remote p a => .remote p (a + i)
  | .host a => .host (a + i)
  | .regs a => .regs (a + i)

/-- A location's target, and its address there. -/
def Loc.target (l : Loc) : Loc :=
  match l with
  | .dev _ => .dev 0 | .spad c _ => .spad c 0 | .sdm c _ => .sdm c 0 | .remote p _ => .remote p 0 | .host _ => .host 0
  | .regs _ => .regs 0
def Loc.addr (l : Loc) : Nat :=
  match l with
  | .dev a | .spad _ a | .sdm _ a | .remote _ a | .host a | .regs a => a

/-- A byte at a location under one buffered store: it replaces the bits it wrote. -/
def StripStore.over (e : StripStore) (l : Loc) (b : Byte) : Byte :=
  if e.place.loc.target == l.target && e.place.loc.addr ≤ l.addr && l.addr < e.place.loc.addr + e.bytes.length then
    mergeByte b (e.bytes.getD (l.addr - e.place.loc.addr) 0) e.mask
  else b

/-- The byte at a location under the hart's buffered stores, oldest first (R103, R105, R114). -/
def stripByte (strip : List StripStore) (l : Loc) (b : Byte) : Byte := strip.foldl (fun b e => e.over l b) b

/-- What a load of a hart returns at a place: its own buffered stores cover what is there. -/
def viewPlace (s : State) (k : Nat) (p : Place) (n va : Nat) : Except Stop (List Byte) :=
  match readPlace s k p .load false n va with
  | .error t => .error t
  | .ok bytes =>
    .ok (bytes.zipIdx.map fun (b : Byte × Nat) => stripByte (s.hartAt k).strip (p.loc.plus b.2) b.1)

/-- The alignment check of an access (R32, R275). -/
def aligned (va n : Nat) : Except Stop Unit :=
  if va % n = 0 then .ok () else .error (memTrap .align 1 va)

/-- A load of n bytes of a hart at a virtual address, as a number (R9 to R22, R275), with the translations that its
instruction has made (R25). -/
def loadBy (pages : List TlbEntry) (s : State) (k : Nat) (unit : Bool) (n va : Nat) : Except Stop (Nat × State) :=
  match aligned va n with
  | .error t => .error t
  | .ok _ =>
    match translateBy pages s k .load unit va with
    | .error t => .error t
    | .ok (p, _, s) =>
      match viewPlace s k p n va with
      | .error t => .error t
      | .ok bytes => .ok (leNat bytes, s)

/-- A load with a translation made now. -/
def load (s : State) (k : Nat) (unit : Bool) (n va : Nat) : Except Stop (Nat × State) := loadBy [] s k unit n va

/-- Whether a hart's stores go into its strip buffer (R114, R213). -/
def Hart.buffers (h : Hart) : Bool := h.ckpt.isSome && !h.unprot

/-- The strip loses protection: the buffer commits first (R213). -/
def unprotect (s : State) (k : Nat) : State :=
  if (s.hartAt k).buffers then
    let s := commitStrip s k
    s.setHartAt k { s.hartAt k with unprot := true }
  else s

/-- Room in the strip buffer for one store instruction of some bytes, in 64-byte units; a store that would overflow it
ends the protection (R213). -/
def reserveStrip (s : State) (k n : Nat) : State :=
  let h := s.hartAt k
  if h.buffers then
    let need := roundUp64 n / 64 + 1
    if 960 < h.used + need then unprotect s k else s.setHartAt k { h with used := h.used + need }
  else s

/-- A store performs at its target, or enters the strip buffer once its target has accepted it (R114, R213). `mask`: the bits that it
writes of a single byte (R103). `ord`: a position of an ordered vector store, which follows the die instants of the hart's earlier
stores (R107 row 2, R111, R127). DESIGN CHOICE (log 59): a store to the scalar data memory is buffered like any other (R114),
although R118 orders it before the hart's later accesses there. -/
def storePlace (s : State) (k : Nat) (p : Place) (page : Option TlbEntry) (mask : Nat) (ord : Bool) (bytes : List Byte) (va : Nat) :
    Except Stop State :=
  let plain := match p.loc with | .regs _ => false | .remote _ _ => false | .host _ => false | _ => true
  let h := s.hartAt k
  if h.buffers && plain then
    match targetWriteStop s k p va with
    | some t => .error t
    | none =>
      .ok (s.setHartAt k { h with
        strip := h.strip ++ [{ place := p, mask := mask, bytes := bytes, page := page, ordered := ord }] })
  else
    let s := if plain then s else unprotect s k
    let s := if ord then settleRepl s k else s
    let old := match p.loc with
      | .regs a => [BitVec.ofNat 8 (regValue s (a / 8 * 8) / 256 ^ (a % 8))]
      | _ => placeBytes s p bytes.length
    writePlace s k p .store (if mask = 0xFF then bytes else List.zipWith (mergeByte · · mask) old bytes) va

/-- A store of a hart at a virtual address (R275), with the translations that its instruction has made (R25). -/
def storeBy (pages : List TlbEntry) (s : State) (k : Nat) (unit ord : Bool) (n mask va v : Nat) : Except Stop State :=
  match aligned va n with
  | .error t => .error t
  | .ok _ =>
    match translateBy pages s k .store unit va with
    | .error t => .error t
    | .ok (p, page, s) => storePlace s k p page mask ord (leBytes n v) va

/-- A store with a translation made now. -/
def store (s : State) (k : Nat) (unit : Bool) (n va v : Nat) : Except Stop State := storeBy [] s k unit false n 0xFF va v

/-- Bytes of a range of virtual addresses, one load each, in ascending order. -/
def loadRange (s : State) (k va : Nat) : Nat → Except Stop (List Byte × State)
  | 0 => .ok ([], s)
  | n + 1 =>
    match load s k false 1 (va % 2 ^ 64) with
    | .error t => .error t
    | .ok (b, s) =>
      match loadRange s k (va + 1) n with
      | .error t => .error t
      | .ok (bs, s) => .ok (BitVec.ofNat 8 b :: bs, s)

/-! ### Traps -/

/-- tcause of a trap (R194): INTRAP set, RESUME clear. -/
def tcauseWord (nested vec : Bool) (p : Priv) (c : Cause) : Word :=
  BitVec.ofNat 64 (0x8000 + (if nested then 0x4000 else 0) + (if vec then 0x800 else 0) +
    (if p = .supervisor then 0x400 else 0) + causeCode c)

/-- A bank written at trap entry (R153, R193 to R196). `vec`: the tag of the stopping vector entry, which stands at
queue position 0. -/
def TrapBank.enter (b : TrapBank) (h : Hart) (nested : Bool) (tpc : Word) (vec : Option Nat) (t : TrapInfo) : TrapBank :=
  { tvec := b.tvec
    tcause := tcauseWord nested vec.isSome h.priv t.cause
    tsub := BitVec.ofNat 64 (tsubOf t)
    tpc := tpc
    tviq := match vec with
      | some seq => BitVec.ofNat 64 (seq * 256)
      | none => BitVec.ofNat 64 (h.viq.length + (match h.viq.head? with | some e => e.seq * 256 | none => 0))
    treg := BitVec.ofNat 64 (t.treg % 64)
    telem := BitVec.ofNat 64 (t.telem % 2 ^ 14)
    taddr := BitVec.ofNat 64 t.taddr }

/-- The handler address of a bank, and whether it has one (R193, R198). -/
def TrapBank.handler (b : TrapBank) : Word := b.tvec &&& ~~~3#64
def TrapBank.ready (b : TrapBank) : Bool := b.handler != 0

/-- A helper as it waits in hq.take (R203, R343): what its gang gave it stays. -/
def helperRestart (h : Hart) : Hart :=
  { helperAnew h with gang := h.gang, index := h.index, done := h.done, retired := h.retired }

/-- The default handler of a helper (R203): its entry becomes FAILED with the cause, its state is discarded. -/
def helperDefault (s : State) (k : Nat) (t : TrapInfo) : State :=
  let h := s.hartAt k
  let s := s.setHartAt k (helperRestart h)
  match h.taken.bind fun id => Table.find? (s.coreAt (coreOf k)).holes id with
  | some e => failEntry s (coreOf k) e (causeCode t.cause) (tsubOf t % 256)
  | none => s

/-- The trap enters a bank (R198): the queue is parked, and a hart in a supervisor trap is STOPPED until its tret (R148). -/
def enterBank (s : State) (k : Nat) (toU nested : Bool) (tpc : Word) (vec : Option Nat) (t : TrapInfo) : State :=
  let h := (s.hartAt k).park
  s.setHartAt k (
    if toU then { h with ubank := h.ubank.enter h nested tpc vec t, pc := h.ubank.handler }
    else { h with sbank := h.sbank.enter h nested tpc vec t, pc := h.sbank.handler, priv := .supervisor }).run

/-- TAKING A TRAP (R192, R198, R199, R203): the one operation by which a hart takes any cause. The record of a double trap tells
what stands in the S bank (R218). -/
def takeTrap (s : State) (k : Nat) (tpc : Word) (vec : Option Nat) (t : TrapInfo) : State :=
  let s := writeBackStreams s k
  let h := s.hartAt k
  let kill := fun r c => match h.gang with
    | some g => killGang s g r (some c)
    | none => s.setHartAt k { h with slot := .stopped, wait := .held }
  if h.sbank.intrap then kill .double (.ofBank k h.sbank)
  else
    let user := causeUser t.cause
    let nested := user && h.ubank.intrap
    if user && !nested && h.kind = .helper && !h.ubank.ready then helperDefault s k t
    else
      let toU := user && !nested && h.ubank.ready
      if !toU && !h.sbank.ready then kill .noHandler (.ofTrap k tpc t)
      else
        let s := enterBank s k toU nested tpc vec t
        if h.stepsLeft.isSome || h.stepElems.isSome then haltHart s k else s

/-- A helper of a core that holds an entry which a rewind has freed: its fill will be discarded (R214). -/
def dropHeld (core : Nat) (freed : List HoleEntry) (s : State) (n : Nat) : State :=
  let h := s.hartAt (core * 8 + n)
  match h.taken.bind fun id => freed.find? (·.id == id) with
  | some e => s.setHartAt (core * 8 + n) { h with taken := some (Config.holeSlots + handleOf e) }
  | none => s

/-- The sticky flags without those that a part-run entry, which is cancelled, has raised (R237). -/
def flagsBefore (h : Hart) : Nat :=
  match h.viq with
  | e :: _ => Nat.land h.fpflags (2 ^ 64 - 1 - e.raised)
  | [] => h.fpflags

/-- A rewind of a protected strip (R214). The setvl of the checkpoint has finished, so every entry of the queue follows it. The checkpoint takes the tag that the setvl receives when it runs again: by it
that setvl is known to be the rewind target (R213). -/
def rewind (s : State) (k : Nat) (ck : Checkpoint) : State :=
  let h := s.hartAt k
  let after := fun (seq : Nat) => let d := (seq + 2 ^ 32 - ck.seq) % 2 ^ 32; 0 < d && d < 2 ^ 31
  let s := h.viq.foldl (fun s e => (closeTrace s k e 8).1) s
  let h := { h with
    strip := [], used := 0, viq := [], sync := [], synced := [], fpflags := flagsBefore h
    streams := ck.streams, pc := ck.pc, again := true, rewinds := min (h.rewinds + 1) 0xFFFF
    srcount := ck.count, ckpt := some { ck with seq := h.seq } }
  let h := ck.sregs.foldl (fun (h : Hart) r => h.setReg r.1 r.2) h
  let h := ck.vregs.foldl (fun (h : Hart) r => h.setVreg r.1.val r.2) h
  let c := s.coreAt (coreOf k)
  let mine := fun (p : Nat × HoleEntry) => p.2.slot == slotOf k && after p.2.seq
  let freed := (List.filter mine c.holes).map (·.2)
  let s := s.setCoreAt (coreOf k) { c with holes := List.filter (fun p => !mine p) c.holes }
  let s := s.setHartAt k (h.mapHole (·.orphan (freed.map (·.id))))
  (List.range 8).foldl (dropHeld (coreOf k) freed) s

/-- What the device does with an error that an access meets (R86, R413): the plinth that found the codeword raises FAILING, and an
uncorrectable error ends a replay. -/
def seeError (s : State) (t : TrapInfo) : State :=
  let s := mediaSeen s t
  if t.cause = .ue then s.diverge .error else s

/-- A sector's tag has failed (R220): the partition is reset, and its reset report records the sector. -/
def failedTag (s : State) (part a : Nat) : State :=
  let s := resetPartition s part
  let p := s.partAt part
  s.setPartAt part { p with report := p.report ++ [a / 512 * 512] }

/-- Errors that units of the device have met: plinths and partitions are told (R86, R220, R413, log 68). -/
def settleNoted (s : State) : State :=
  s.noted.foldl (fun s st => match st with
    | .trap t => seeError s t
    | .integrity part a => failedTag s part a) { s with noted := [] }

/-- Whether a stop rewinds the hart's protected strip (R210, R214, R215). -/
def Hart.rewindsOn (h : Hart) (st : Stop) : Bool :=
  match st with
  | .trap t => (t.cause == .ue || t.cause == .mismatch) && h.buffers && !h.again
  | .integrity .. => false

/-- A stop of a hart: a trap, the rewind of its strip (R210, R214, R215), or the reset of the partition whose sector
failed its tag (R220). -/
def raise (s : State) (k : Nat) (tpc : Word) (vec : Option Nat) (st : Stop) : State :=
  match st with
  | .integrity part a => failedTag s part a
  | .trap t =>
    let s := seeError s t
    let h := s.hartAt k
    match h.ckpt with
    | some ck => if h.rewindsOn st then rewind s k ck else takeTrap s k tpc vec t
    | none => takeTrap s k tpc vec t

/-- A stop of the scalar instruction of the hart whose turn it is: tpc holds its address (R31, R152, R153). -/
def stop (s : State) (st : Stop) : State := raise s s.turn s.hart.pc none st

/-- ILL, subcode ENCODING, with the word (R250, R251). -/
def illegalWord (s : State) (w : Nat) : State :=
  stop s (.trap { cause := .ill, sub := 1, taddr := w })

/-- ILL, subcode ENCODING, without a word. -/
def illegal (s : State) : State := stop s (plainTrap .ill 1)

/-- PRIV (R299). -/
def privileged (s : State) : State := stop s (plainTrap .priv 0)

/-! ### The ends of an instruction -/

/-- The instruction of a hart has completed: the pc moves past it. -/
def Hart.next (h : Hart) : Hart := { h with pc := h.pc + 4, done := h.done + 1, masked := false }

/-- The instruction has completed with a new pc. -/
def Hart.goto (h : Hart) (pc : Word) : Hart := { h with pc := pc, done := h.done + 1, masked := false }

/-- The hart whose turn it is has completed an instruction that changes no more than the hart. -/
def finish (s : State) (h : Hart) : State := s.setHart h.next

/-- The hart waits at its instruction, which is executed again when the wait ends (R148). -/
def waitFor (s : State) (w : Wait) : State := s.setHart { s.hart with slot := .waiting, wait := w }

/-- A meaning's outcome from a step that may stop. -/
def orStop (s : State) (r : Except Stop State) : State :=
  match r with
  | .ok s => s
  | .error st => stop s st

/-! ### Leaving a trap -/

/-- tret (R200, R291) on the hart whose turn it is. -/
def leaveTrap (s : State) : State :=
  let h := s.hart
  let useS := h.priv = .supervisor ∧ h.sbank.intrap
  if ¬ useS ∧ ¬ h.ubank.intrap then illegal s
  else
    let b := if useS then h.sbank else h.ubank
    let pl := b.tcause.toNat.testBit 10
    let resume := bits b.tcause.toNat 13 12
    if h.priv = .user ∧ pl then privileged s
    else if 1 < resume then illegal s
    else
      let fp := bits b.tcause.toNat 7 0 = 9 ∨ bits b.tcause.toNat 7 0 = 10
      let mask := resume = 1 ∧ fp
      let vec := b.tcause.toNat.testBit 11
      let b' := { b with tcause := b.tcause &&& ~~~0xB000#64 }
      let h := if useS then { h with sbank := b' } else { h with ubank := b' }
      let viq := if mask ∧ vec then
          match h.viq with
          | e :: rest => { e with masked := true } :: rest
          | [] => []
        else h.viq
      s.setHart { h.run with priv := if pl then .supervisor else .user, pc := b.tpc, viq := viq
                             synced := h.synced.filter fun r => r.1 == b.tpc || (h.ubank.intrap && r.1 == h.ubank.tpc)
                             masked := decide (mask ∧ ¬ vec), done := h.done + 1 }

end Sys2Proof.Machine
end

