-- ==== Sys2Proof/Machine/Operands.lean ====
section
/-! DEFINITION. Operands: how instructions read and write scalar registers (R271), the integer functions
(R221, R272), and the readings of the number formats (R222 to R225). -/

namespace Sys2Proof.Machine

/-- opnd_T of a register as a pattern of T's width (R271). -/
def opnd (t : Ty) (x : Word) : Nat := x.toNat % 2 ^ t.width

/-- ext_T of a pattern (R271): i types extend their sign. -/
def ext (t : Ty) (v : Nat) : Word :=
  if t.isSigned then BitVec.ofInt 64 (toSigned t.width v) else BitVec.ofNat 64 (v % 2 ^ t.width)

/-- The integer a pattern stands for in an integer type (R221). -/
def intVal (t : Ty) (v : Nat) : Int := if t.isSigned then toSigned t.width v else (v % 2 ^ t.width : Nat)

/-- The least and the greatest value of an integer type (R221). -/
def tMin (t : Ty) : Int := if t.isSigned then -(2 ^ (t.width - 1)) else 0
def tMax (t : Ty) : Int := if t.isSigned then 2 ^ (t.width - 1) - 1 else 2 ^ t.width - 1

/-- wrap and sat (R221), as patterns. -/
def wrapT (t : Ty) (x : Int) : Nat := wrapNat t.width x
def satT (t : Ty) (x : Int) : Nat := wrapNat t.width (min (max x (tMin t)) (tMax t))

/-- log2 of a type's width, and the shift count that a pattern holds (R272). -/
def widthLog (w : Nat) : Nat :=
  match w with
  | 8 => 3 | 16 => 4 | 32 => 5 | _ => 6
def shiftOf (t : Ty) (y : Nat) : Nat := y % 2 ^ widthLog t.width

/-- Leading and trailing zero bits of a pattern of w bits (R272). -/
def leadZeros (w v : Nat) : Nat := if v = 0 then w else w - 1 - Nat.log2 v
def trailZeros : Nat → Nat → Nat
  | 0, _ => 0
  | w + 1, v => if v % 2 = 1 then 0 else 1 + trailZeros w (v / 2)

/-- The integer functions of two operands, on patterns (R272, R311). -/
def intBin (fn : BinFn) (t : Ty) (a b : Nat) : Nat :=
  let x := intVal t a
  let y := intVal t b
  let w := t.width
  match fn with
  | .add => wrapT t (x + y)
  | .sub => wrapT t (x - y)
  | .adds => satT t (x + y)
  | .subs => satT t (x - y)
  | .mul => wrapT t (x * y)
  | .mulh => wrapT t (x * y / 2 ^ w)
  | .div => if y = 0 then (if t.isSigned then 2 ^ w - 1 else wrapT t (tMax t)) else wrapT t (Int.tdiv x y)
  | .rem => if y = 0 then a % 2 ^ w else wrapT t (x - y * Int.tdiv x y)
  | .and => Nat.land a b % 2 ^ w
  | .or => Nat.lor a b % 2 ^ w
  | .xor => Nat.xor a b % 2 ^ w
  | .andn => Nat.land a (2 ^ w - 1 - b % 2 ^ w) % 2 ^ w
  | .shl => wrapT t (x * 2 ^ shiftOf t b)
  | .shr => wrapT t (x / 2 ^ shiftOf t b)
  | .min => if y < x then b % 2 ^ w else a % 2 ^ w
  | .max => if x < y then b % 2 ^ w else a % 2 ^ w
  | .quant => a % 2 ^ w

/-- The integer functions of one operand (R272, R311). -/
def intUn (fn : UnFn) (t : Ty) (a : Nat) : Nat :=
  let v := a % 2 ^ t.width
  match fn with
  | .pcnt => popcount v t.width
  | .clz => leadZeros t.width v
  | .ctz => trailZeros t.width v
  | .neg => wrapT t (- intVal t a)
  | .abs => wrapT t (Int.natAbs (intVal t a))

/-- The conditions of vcmp and vwhile on integers: eq, ne, lt, ge, le, gt (R309, R312). -/
def intCmp (cond : Nat) (x y : Int) : Bool :=
  match cond with
  | 0 => x == y
  | 1 => x != y
  | 2 => x < y
  | 3 => y ≤ x
  | 4 => x ≤ y
  | _ => y < x

/-! ### Numbers -/

/-- The value of a pattern: a NaN, an infinity, or m times a power of the format's base, 2 or 10. -/
inductive Num where
  | nan (signaling : Bool)
  | inf (neg : Bool)
  | fin (neg : Bool) (m : Nat) (e : Int)
  deriving DecidableEq, Repr

/-- A binary format (R222, R242): bits, precision, least normal exponent, the patterns of the greatest finite value, of
infinity if it has one, and of its canonical NaN (R223). -/
structure Fmt where
  width : Nat
  p     : Nat
  emin  : Int
  top   : Nat
  inf   : Option Nat
  nan   : Nat
  deriving DecidableEq, Repr

def Fmt.bf16 : Fmt := ⟨16, 8, -126, 0x7F7F, some 0x7F80, 0x7FC0⟩
def Fmt.f32 : Fmt := ⟨32, 24, -126, 0x7F7FFFFF, some 0x7F800000, 0x7FC00000⟩
def Fmt.f64 : Fmt := ⟨64, 53, -1022, 0x7FEFFFFFFFFFFFFF, some 0x7FF0000000000000, 0x7FF8000000000000⟩
def Fmt.e4m3 : Fmt := ⟨8, 4, -6, 0x7E, none, 0x7F⟩
def Fmt.e5m2 : Fmt := ⟨8, 3, -14, 0x7B, some 0x7C, 0x7E⟩
def Fmt.e2m1 : Fmt := ⟨4, 2, 0, 7, none, 8⟩
def Fmt.g40 : Fmt := ⟨40, 32, -126, 0x7F7FFFFFFF, some 0x7F80000000, 0x7FC0000000⟩

/-- The format of a binary type (R222). -/
def fmtOf (t : Ty) : Fmt :=
  match t with
  | .bf16 => .bf16 | .f32 => .f32 | .e4m3 => .e4m3 | .e5m2 => .e5m2 | .mx4 => .e2m1 | _ => .f64

/-- The value of a binary pattern (R222, R223). -/
def unpackBin (f : Fmt) (v : Nat) : Num :=
  let neg := v.testBit (f.width - 1)
  let mag := v % 2 ^ (f.width - 1)
  if f.top < mag then
    if f.inf = some mag then .inf neg
    else .nan (f.inf.isSome && !mag.testBit (f.p - 2))
  else
    let field := mag / 2 ^ (f.p - 1)
    let frac := mag % 2 ^ (f.p - 1)
    if field = 0 then .fin neg frac (f.emin - f.p + 1)
    else .fin neg (frac + 2 ^ (f.p - 1)) (f.emin + field - f.p)

/-- The value of a decimal pattern (R225). A non-canonical coefficient stands for zero. -/
def unpackDec (v : Nat) : Num :=
  let neg := v.testBit 63
  let c := fun (c : Nat) => if c < 10 ^ 16 then c else 0
  if bits v 62 61 != 3 then .fin neg (c (bits v 52 0)) ((bits v 62 53 : Int) - 398)
  else if bits v 60 59 != 3 then .fin neg (c (2 ^ 53 + bits v 50 0)) ((bits v 60 51 : Int) - 398)
  else if v.testBit 58 then .nan (v.testBit 57)
  else .inf neg

/-- Whether a decimal pattern is a finite non-canonical one (R225). -/
def nonCanonical (v : Nat) : Bool :=
  if bits v 62 61 != 3 then 10 ^ 16 ≤ bits v 52 0
  else bits v 60 59 != 3 && 10 ^ 16 ≤ 2 ^ 53 + bits v 50 0

/-- The canonical decimal pattern of C * 10^t, for C below 10^16 (R225). -/
def packDec (neg : Bool) (c : Nat) (t : Int) : Nat :=
  let q := (t + 398).toNat
  (if neg then 2 ^ 63 else 0) + (if c < 2 ^ 53 then q * 2 ^ 53 + c else 3 * 2 ^ 61 + q * 2 ^ 51 + (c - 2 ^ 53))

/-- The value of a pattern of a floating-point or decimal type. -/
def unpack (t : Ty) (v : Nat) : Num := if t = .d64 then unpackDec v else unpackBin (fmtOf t) v

/-- The base of a type's numbers. -/
def baseOf (t : Ty) : Nat := if t = .d64 then 10 else 2

/-- The canonical NaN and the infinities of a type (R223, R225). -/
def nanOf (t : Ty) : Nat := if t = .d64 then 0x7C00000000000000 else (fmtOf t).nan
def infOf (t : Ty) (neg : Bool) : Nat :=
  (if neg then 2 ^ (t.width - 1) else 0) +
    (if t = .d64 then 0x7800000000000000 else (fmtOf t).inf.getD (fmtOf t).top)

def Num.isNan : Num → Bool
  | .nan _ => true
  | _ => false
def Num.isSnan : Num → Bool
  | .nan s => s
  | _ => false
def Num.isInf : Num → Bool
  | .inf _ => true
  | _ => false
def Num.neg : Num → Bool
  | .nan _ => false
  | .inf n => n
  | .fin n _ _ => n
def Num.isZero : Num → Bool
  | .fin _ m _ => m == 0
  | _ => false
def Num.negate : Num → Num
  | .nan s => .nan s
  | .inf n => .inf !n
  | .fin n m e => .fin (!n) m e

/-- The exponent of a decimal operand; none for an infinity or a NaN (R229). -/
def Num.exp : Num → Option Int
  | .fin _ _ e => some e
  | _ => none

/-- The order of two numbers that are no NaN, by value (R285); both are in one base. -/
def numCmp (b : Nat) (x y : Num) : Ordering :=
  let signed := fun (n : Bool) (m : Nat) => if n then -(m : Int) else m
  match x, y with
  | .inf n, .inf k => if n = k then .eq else if n then .lt else .gt
  | .inf n, _ => if n then .lt else .gt
  | _, .inf n => if n then .gt else .lt
  | .fin n m e, .fin k l f =>
    let base := min e f
    compare (signed n (m * b ^ (e - base).toNat)) (signed k (l * b ^ (f - base).toNat))
  | _, _ => .eq

end Sys2Proof.Machine
end

