-- ==== Sys2Proof/Machine/Flags.lean ====
section
/-! DEFINITION. Exact results, rounding, and the exceptions each raises (R226 to R235, R285 to R288). A set of
flags is a number with the bits of R237: 1 INVALID, 2 DIVZERO, 4 OVERFLOW, 8 UNDERFLOW, 16 INEXACT. -/

namespace Sys2Proof.Machine

/-- An exact result. `mag neg m e st` is the real whose magnitude is m * base^e, or with `st` lies strictly between that
and (m + 1) * base^e; m = 0 without `st` is a zero of the sign. -/
inductive Ex where
  | nan (invalid : Bool)
  | inf (neg divZero : Bool)
  | mag (neg : Bool) (m : Nat) (e : Int) (st : Bool)
  deriving DecidableEq, Repr

/-- The rounding modes of both bases (R226, R229). -/
inductive Rm where
  | rne | rna | rtz | rup | rdn
  | sr (bits : Nat)
  deriving DecidableEq, Repr

/-- BRM and DRM of fpctl (R236). -/
def brmOf (fpctl : Word) : Rm :=
  match bits fpctl.toNat 1 0 with
  | 0 => .rne | 1 => .rtz | 2 => .rup | _ => .rdn
def drmOf (fpctl : Word) : Rm :=
  match bits fpctl.toNat 4 2 with
  | 0 => .rne | 1 => .rna | 2 => .rtz | 3 => .rup | _ => .rdn

/-- The mode that rounds a type's results. -/
def rmOf (t : Ty) (fpctl : Word) : Rm := if t = .d64 then drmOf fpctl else brmOf fpctl

/-- Whether the kept part k grows by one, where the part that is cut off is rem of den, and more when `st` (R226, R229). -/
def roundUp (rm : Rm) (neg : Bool) (k rem den : Nat) (st : Bool) : Bool :=
  let some := rem != 0 || st
  match rm with
  | .rne => den < 2 * rem || (2 * rem == den && (st || k % 2 == 1))
  | .rna => den ≤ 2 * rem
  | .rtz => false
  | .rup => !neg && some
  | .rdn => neg && some
  | .sr r => 2 ^ 16 ≤ rem * 2 ^ 16 / den + r

/-- The magnitude that an overflow delivers (R227): the greatest finite one or the infinity. DESIGN CHOICE (log 74): R227's table has
no row for RNA, to which R229 refers; it overflows as RNE. -/
def overflowInf (rm : Rm) (neg : Bool) : Bool :=
  match rm with
  | .rne | .rna | .sr _ => true
  | .rtz => false
  | .rup => !neg
  | .rdn => neg

/-- round_bin of a non-zero magnitude (R226, R227, R230): the pattern and the flags. -/
def roundMag (f : Fmt) (rm : Rm) (neg : Bool) (m : Nat) (e : Int) (st : Bool) : Nat × Nat :=
  let sign := if neg then 2 ^ (f.width - 1) else 0
  let ex := max ((Nat.log2 m : Int) + e) f.emin
  let d := ex - f.p + 1 - e
  let den := 2 ^ d.toNat
  let k0 := if 0 ≤ d then m / den else m * 2 ^ (-d).toNat
  let rem := if 0 ≤ d then m % den else 0
  let inexact := rem != 0 || st
  let k := if roundUp rm neg k0 rem den st then k0 + 1 else k0
  let pat := (ex - f.emin).toNat * 2 ^ (f.p - 1) + k
  if f.top < pat then
    (sign + (match f.inf with | some i => if overflowInf rm neg then i else f.top | none => f.top), 20)
  else
    let tiny := ex = f.emin && k < 2 ^ (f.p - 1)
    (sign + pat, (if inexact then 16 else 0) + (if tiny && inexact then 8 else 0))

/-- An exact result rounded into a binary format. -/
def roundBin (f : Fmt) (rm : Rm) (x : Ex) : Nat × Nat :=
  match x with
  | .nan inv => (f.nan, if inv then 1 else 0)
  | .inf neg dz =>
    match f.inf with
    | some i => ((if neg then 2 ^ (f.width - 1) else 0) + i, if dz then 2 else 0)
    | none => (f.nan, 1)
  | .mag neg m e st =>
    if m = 0 ∧ !st then ((if neg then 2 ^ (f.width - 1) else 0), 0)
    else roundMag f rm neg m e st

/-- Whether the rounding of an exact result is tiny (R226). -/
def tinyBin (f : Fmt) (rm : Rm) (x : Ex) : Bool :=
  match x with
  | .mag _ m _ st => (m != 0 || st) && (roundBin f rm x).1 % 2 ^ (f.width - 1) < 2 ^ (f.p - 1)
  | _ => false

/-- The sign of an exact result. -/
def Ex.neg : Ex → Bool
  | .nan _ => false
  | .inf n _ => n
  | .mag n _ _ _ => n

/-- An exact result rounded into f32 with flushing (R234). -/
def roundFlush (f : Fmt) (rm : Rm) (x : Ex) : Nat × Nat :=
  if tinyBin f rm x then ((if x.neg then 2 ^ (f.width - 1) else 0), 24) else roundBin f rm x

/-- The decimal digits of a non-zero number. -/
def decDigits (m : Nat) : Nat :=
  let n := Nat.log2 m * 30103 / 100000 + 1
  if m < 10 ^ (n - 1) then n - 1 else if 10 ^ n ≤ m then n + 1 else n

/-- Trailing decimal zeros, up to a bound. -/
def decTrail : Nat → Nat → Nat
  | 0, _ => 0
  | n + 1, m => if m % 10 = 0 then 1 + decTrail n (m / 10) else 0

/-- round_d64 of a non-zero magnitude (R229, R230). -/
def roundMagDec (rm : Rm) (qp : Int) (neg : Bool) (m : Nat) (e : Int) (st : Bool) : Nat × Nat :=
  let nd := decDigits m
  let lo := max (-398) (e + nd - 16)
  let hi := min 369 (e + decTrail 2000 m)
  if !st ∧ lo ≤ hi then
    let t := max lo (min hi qp)
    let c := if t ≤ e then m * 10 ^ (e - t).toNat else m / 10 ^ (t - e).toNat
    (packDec neg c t, 0)
  else
    let t := lo
    let d := t - e
    let den := 10 ^ d.toNat
    let k0 := if 0 ≤ d then m / den else m * 10 ^ (-d).toNat
    let rem := if 0 ≤ d then m % den else 0
    let inexact := rem != 0 || st
    let k := if roundUp rm neg k0 rem den st then k0 + 1 else k0
    let (k, t) := if k = 10 ^ 16 then (10 ^ 15, t + 1) else (k, t)
    if 369 < t then
      (if overflowInf rm neg then (if neg then 2 ^ 63 else 0) + 0x7800000000000000 else packDec neg (10 ^ 16 - 1) 369, 20)
    else
      let tiny := e + nd - 1 < -383
      (packDec neg k t, (if inexact then 16 else 0) + (if tiny && inexact then 8 else 0))

/-- An exact result rounded to decimal64 with a preferred exponent (R229). -/
def roundDec (rm : Rm) (qp : Int) (x : Ex) : Nat × Nat :=
  match x with
  | .nan inv => (0x7C00000000000000, if inv then 1 else 0)
  | .inf neg dz => ((if neg then 2 ^ 63 else 0) + 0x7800000000000000, if dz then 2 else 0)
  | .mag neg m e st =>
    if m = 0 ∧ !st then (packDec neg 0 (max (-398) (min 369 qp)), 0)
    else roundMagDec rm qp neg m e st

/-- An exact result rounded into a type. -/
def roundTo (t : Ty) (rm : Rm) (qp : Int) (x : Ex) : Nat × Nat :=
  if t = .d64 then roundDec rm qp x else roundBin (fmtOf t) rm x

/-! ### Exact arithmetic (R228, R230, R285) -/

/-- A sum; the sign of an exact zero depends on whether the mode is RDN (R228). -/
def addEx (b : Nat) (rdn : Bool) (x y : Num) : Ex :=
  match x, y with
  | .nan s, y => .nan (s || y.isSnan)
  | _, .nan s => .nan s
  | .inf n, .inf k => if n = k then .inf n false else .nan true
  | .inf n, _ => .inf n false
  | _, .inf n => .inf n false
  | .fin n m e, .fin k l f =>
    let base := min e f
    let a := m * b ^ (e - base).toNat
    let c := l * b ^ (f - base).toNat
    if n = k then .mag n (a + c) base false
    else if a = c then .mag rdn 0 base false
    else if c < a then .mag n (a - c) base false
    else .mag k (c - a) base false

/-- A product. -/
def mulEx (x y : Num) : Ex :=
  match x, y with
  | .nan s, y => .nan (s || y.isSnan)
  | _, .nan s => .nan s
  | .inf n, y => if y.isZero then .nan true else .inf (n != y.neg) false
  | x, .inf n => if x.isZero then .nan true else .inf (x.neg != n) false
  | .fin n m e, .fin k l f => .mag (n != k) (m * l) (e + f) false

/-- A quotient of magnitudes: enough digits of the base, and whether more follow. -/
def quotient (b scale m l : Nat) (e : Int) : Nat × Int × Bool :=
  let k := if b = 2 then scale + Nat.log2 l else scale + decDigits l
  let n := m * b ^ k
  (n / l, e - k, n % l != 0)

/-- A quotient (R228, R230). A finite dividend over an infinity is a zero with exponent -398 (R229). -/
def divEx (b : Nat) (x y : Num) : Ex :=
  match x, y with
  | .nan s, y => .nan (s || y.isSnan)
  | _, .nan s => .nan s
  | .inf _, .inf _ => .nan true
  | .inf n, y => .inf (n != y.neg) false
  | x, .inf n => .mag (x.neg != n) 0 0 false
  | .fin n m e, .fin k l f =>
    if l = 0 then (if m = 0 then .nan true else .inf (n != k) true)
    else if m = 0 then .mag (n != k) 0 (e - f) false
    else
      let (q, ex, st) := quotient b (if b = 2 then 120 else 40) m l (e - f)
      .mag (n != k) q ex st

/-- The integer square root, one bit at a time from 2^i down. -/
def isqrtFrom (n : Nat) : Nat → Nat → Nat
  | 0, r => r
  | i + 1, r => if (r + 2 ^ i) * (r + 2 ^ i) ≤ n then isqrtFrom n i (r + 2 ^ i) else isqrtFrom n i r
def isqrt (n : Nat) : Nat := isqrtFrom n (Nat.log2 n / 2 + 1) 0

/-- A square root (R230, R285): an exact one has the exponent half of a scaled even one. -/
def sqrtEx (b : Nat) (x : Num) : Ex :=
  match x with
  | .nan s => .nan s
  | .inf n => if n then .nan true else .inf false false
  | .fin n m e =>
    if m = 0 then .mag n 0 (e / 2) false
    else if n then .nan true
    else
      let k : Nat := (if b = 2 then 120 else 60) + (e % 2).toNat
      let a := m * b ^ k
      let r := isqrt a
      .mag false r ((e - k) / 2) (r * r != a)

/-- A product plus an addend, exact (R285). -/
def fmaEx (b : Nat) (rdn : Bool) (x y z : Num) : Ex :=
  match mulEx x y with
  | .nan inv => .nan (inv || z.isSnan)
  | .inf n _ =>
    match z with
    | .nan s => .nan s
    | .inf k => if n = k then .inf n false else .nan true
    | .fin .. => .inf n false
  | .mag n m e _ => addEx b rdn (.fin n m e) z

/-- A reciprocal (R230, R285). -/
def rcpEx (x : Num) : Ex := divEx 2 (.fin false 1 0) x

/-- A reciprocal square root (R230, R285). -/
def rsqEx (x : Num) : Ex :=
  match x with
  | .nan s => .nan s
  | .inf n => if n then .nan true else .mag false 0 0 false
  | .fin n m e =>
    if m = 0 then .inf n true
    else if n then .nan true
    else
      let k : Nat := 400 + (Nat.log2 m / 2) * 2 + (e % 2).toNat
      let a := 2 ^ (2 * k) / (m * 2 ^ (e % 2).toNat)
      let r := isqrt a
      .mag false r (-(k : Int) - (e - e % 2) / 2) (r * r * (m * 2 ^ (e % 2).toNat) != 2 ^ (2 * k))

/-! ### The functions of the fpu and of vv on one type -/

/-- The preferred exponent of a result, where operands that have none do not matter (R229). -/
def qpMin (x y : Option Int) : Int :=
  match x, y with
  | some a, some b => min a b
  | some a, none => a
  | none, some b => b
  | none, none => 0
def qpAdd (x y : Option Int) : Int := x.getD 0 + y.getD 0

/-- round(x + y) with its flags. -/
def addT (t : Ty) (rm : Rm) (a b : Nat) : Nat × Nat :=
  let x := unpack t a
  let y := unpack t b
  roundTo t rm (qpMin x.exp y.exp) (addEx (baseOf t) (rm == .rdn) x y)

/-- A pattern with its sign inverted. -/
def flipSign (t : Ty) (a : Nat) : Nat := Nat.xor (a % 2 ^ t.width) (2 ^ (t.width - 1))

/-- round(x - y). -/
def subT (t : Ty) (rm : Rm) (a b : Nat) : Nat × Nat :=
  let x := unpack t a
  let y := unpack t b
  roundTo t rm (qpMin x.exp y.exp) (addEx (baseOf t) (rm == .rdn) x y.negate)

/-- round(x * y). -/
def mulT (t : Ty) (rm : Rm) (a b : Nat) : Nat × Nat :=
  let x := unpack t a
  let y := unpack t b
  roundTo t rm (qpAdd x.exp y.exp) (mulEx x y)

/-- round(x / y). -/
def divT (t : Ty) (rm : Rm) (a b : Nat) : Nat × Nat :=
  let x := unpack t a
  let y := unpack t b
  let qp := match x.exp, y.exp with
    | some p, some q => p - q
    | _, _ => -398
  roundTo t rm qp (divEx (baseOf t) x y)

/-- round(sqrt x). -/
def sqrtT (t : Ty) (rm : Rm) (a : Nat) : Nat × Nat :=
  let x := unpack t a
  roundTo t rm (x.exp.getD 0 / 2) (sqrtEx (baseOf t) x)

/-- round(x * y + z), with signs of the product and of the addend inverted as asked (R285, R332). -/
def fmaT (t : Ty) (rm : Rm) (negProd negAdd : Bool) (a b c : Nat) : Nat × Nat :=
  let x := unpack t a
  let x := if negProd then x.negate else x
  let y := unpack t b
  let z := unpack t c
  let z := if negAdd then z.negate else z
  let qp := match x.exp, y.exp with
    | some p, some q => qpMin (some (p + q)) z.exp
    | _, _ => z.exp.getD 0
  roundTo t rm qp (fmaEx (baseOf t) (rm == .rdn) x y z)

/-- A pattern written canonically: what a result that copies an operand delivers (R286). -/
def canon (t : Ty) (a : Nat) : Nat :=
  match unpack t a with
  | .nan _ => nanOf t
  | .inf n => infOf t n
  | .fin n m e => if t = .d64 then packDec n m e else a % 2 ^ t.width

/-- min and max (R286). -/
def minMaxT (t : Ty) (wantMax : Bool) (a b : Nat) : Nat × Nat :=
  let x := unpack t a
  let y := unpack t b
  if x.isNan || y.isNan then (nanOf t, if x.isSnan || y.isSnan then 1 else 0)
  else
    let less := match numCmp (baseOf t) x y with
      | .lt => true
      | .gt => false
      | .eq =>
        if x.isZero && y.isZero && x.neg != y.neg then x.neg
        else x.exp.getD 0 ≤ y.exp.getD 0
    (canon t (if less != wantMax then a else b), 0)

/-- The compares eq, lt, le and unord of the fpu (R285): the truth value and the flags. -/
def cmpEq (t : Ty) (a b : Nat) : Bool × Nat :=
  let x := unpack t a
  let y := unpack t b
  if x.isNan || y.isNan then (false, if x.isSnan || y.isSnan then 1 else 0)
  else (numCmp (baseOf t) x y == .eq, 0)
def cmpLt (t : Ty) (a b : Nat) : Bool × Nat :=
  let x := unpack t a
  let y := unpack t b
  if x.isNan || y.isNan then (false, 1) else (numCmp (baseOf t) x y == .lt, 0)
def cmpLe (t : Ty) (a b : Nat) : Bool × Nat :=
  let x := unpack t a
  let y := unpack t b
  if x.isNan || y.isNan then (false, 1) else (numCmp (baseOf t) x y != .gt, 0)
def cmpUnord (t : Ty) (a b : Nat) : Bool × Nat :=
  let x := unpack t a
  let y := unpack t b
  (x.isNan || y.isNan, if x.isSnan || y.isSnan then 1 else 0)

/-! ### Conversions (R233, R287, R288) -/

/-- A number of one base as an exact result of another. -/
def convertEx (src dst : Nat) (x : Num) : Ex :=
  match x with
  | .nan s => .nan s
  | .inf n => .inf n false
  | .fin n m e =>
    if src = dst || m = 0 then .mag n m e false
    else if src = 2 then
      if 0 ≤ e then .mag n (m * 2 ^ e.toNat) 0 false else .mag n (m * 5 ^ (-e).toNat) e false
    else
      if 0 ≤ e then .mag n (m * 10 ^ e.toNat) 0 false
      else
        let (q, ex, st) := quotient 2 120 m (10 ^ (-e).toNat) 0
        .mag n q ex st

/-- A conversion between floating-point and decimal types (R287, R334). -/
def convertT (src dst : Ty) (rm : Rm) (a : Nat) : Nat × Nat :=
  roundTo dst rm 0 (convertEx (baseOf src) (baseOf dst) (unpack src a))

/-- A number rounded to an integer (R233). -/
def roundInt (b : Nat) (rm : Rm) (neg : Bool) (m : Nat) (e : Int) : Int × Bool :=
  let den := b ^ (-e).toNat
  let k0 := if e < 0 then m / den else m * b ^ e.toNat
  let rem := if e < 0 then m % den else 0
  let k := if roundUp rm neg k0 rem den false then k0 + 1 else k0
  (if neg then -(k : Int) else k, rem != 0)

/-- A conversion to an integer type (R230, R233): the pattern and the flags. A finite value out of range is INVALID, and INEXACT
as what is delivered differs from it. -/
def toIntT (src dst : Ty) (rm : Rm) (a : Nat) : Nat × Nat :=
  match unpack src a with
  | .nan _ => (0, 1)
  | .inf n => (wrapT dst (if n then tMin dst else tMax dst), 1)
  | .fin n m e =>
    let (v, inexact) := roundInt (baseOf src) rm n m e
    if v < tMin dst || tMax dst < v then (satT dst v, 17) else (wrapT dst v, if inexact then 16 else 0)

/-- A conversion from an integer (R287, R334). -/
def fromIntT (dst : Ty) (rm : Rm) (x : Int) : Nat × Nat :=
  roundTo dst rm 0 (.mag (x < 0) x.natAbs 0 false)

/-- quant (R288). -/
def quantT (rm : Rm) (a b : Nat) : Nat × Nat :=
  match unpackDec a, unpackDec b with
  | .nan s, y => (nanOf .d64, if s || y.isSnan then 1 else 0)
  | _, .nan s => (nanOf .d64, if s then 1 else 0)
  | .inf n, .inf _ => (infOf .d64 n, 0)
  | .inf _, _ => (nanOf .d64, 1)
  | _, .inf _ => (nanOf .d64, 1)
  | .fin n m e, .fin _ _ q =>
    let (c, inexact) := roundInt 10 rm n m (e - q)
    if 10 ^ 16 ≤ c.natAbs then (nanOf .d64, 1)
    else (packDec n c.natAbs q, if inexact then 16 else 0)

/-! ### Stochastic rounding (R231) -/

/-- mix (R231). -/
def mix (z : Nat) : Nat :=
  let z := (z + 0x9E3779B97F4A7C15) % 2 ^ 64
  let z := Nat.xor z (z / 2 ^ 30) * 0xBF58476D1CE4E5B9 % 2 ^ 64
  let z := Nat.xor z (z / 2 ^ 27) * 0x94D049BB133111EB % 2 ^ 64
  Nat.xor z (z / 2 ^ 31)

/-- sr_bits of element e and row q (R231). -/
def srBits (key count e q : Nat) : Nat :=
  mix (Nat.xor (mix (key * 2 ^ 32 + count)) (q * 2 ^ 13 + e)) / 2 ^ 48

/-! ### Flags and trap enables (R195, R201, R236, R237, R284) -/

/-- Where a set of flags lies in fpflags: DFL for decimal, BFL for binary. -/
def flagField (dec : Bool) (flags : Nat) : Nat := if dec then flags * 2 ^ 16 else flags

/-- fpflags with flags raised (R237). -/
def raiseFlags (fpflags : Nat) (dec : Bool) (flags : Nat) : Nat := Nat.lor fpflags (flagField dec flags)

/-- The enabled exceptions among raised flags (R236). -/
def enabled (fpctl : Word) (dec : Bool) (flags : Nat) : Nat :=
  Nat.land flags (if dec then bits fpctl.toNat 20 16 else bits fpctl.toNat 12 8)

/-- The subcode of the first enabled exception (R195). -/
def firstSub (en : Nat) : Nat := trailZeros 5 en + 1

/-- The cause of an arithmetic trap (R191). -/
def fpCause (dec : Bool) : Cause := if dec then .decx else .fpx

end Sys2Proof.Machine
end

