-- ==== Sys2Proof/Machine/Fetch.lean ====
section
/-! DEFINITION. Fetching an instruction (R12, R19, R60, R114, R117, R243, R280). -/

namespace Sys2Proof.Machine

/-- A byte of code as a hart fetches it: a byte of device memory that has been written since what the hart's fetches see is the one
that stood there before (R117). -/
def codeByte (past : List (Nat × Byte)) (a : Nat) (now : Byte) : Byte :=
  match past.find? (·.1 == a) with
  | some p => p.2
  | none => now

/-- The word at a place, below the hart's own buffered stores (R114). -/
def fetchPlaceWord (s : State) (k : Nat) (p : Place) (va : Nat) : Except Stop Nat :=
  match readPlace s k p .fetch false 4 va with
  | .error t => .error t
  | .ok bytes => match p.loc with
    | .dev a =>
      let past := s.mem.past.drop (s.hartAt k).codeAt
      .ok (leNat (bytes.zipIdx.map fun (b : Byte × Nat) => codeByte past (a + b.2) b.1))
    | _ => .ok (leNat bytes)

/-- The word a hart fetches at an address: four bytes of a local page with X, aligned (R16, R19, R117, R243, R280). Fetch from a REPL
page reads the die's copy (R60). -/
def fetchWord (s : State) (k : Nat) (pc : Word) : Except Stop (Nat × State) :=
  match aligned pc.toNat 4 with
  | .error t => .error t
  | .ok _ =>
    match translate s k .fetch false pc.toNat with
    | .error t => .error t
    | .ok (p, s) =>
      match fetchPlaceWord s k p pc.toNat with
      | .error t => .error t
      | .ok w => .ok (w, s)

end Sys2Proof.Machine
end

