-- ==== Sys2Proof/Machine/Sched.lean ====
section
/-! DEFINITION. Which hart acts next and what a step adds around an instruction: waits that end (R148), the rotation of
harts (R182, log 4), the passing of time (R6, R254, log 5). -/

namespace Sys2Proof.Machine

/-- Whether a WAITING hart's wait is over (R102, R148, R292, R344, R392, R396). -/
def waitOver (s : State) (k : Nat) : Bool :=
  match (s.hartAt k).wait with
  | .hole => (nextReady (s.coreAt (coreOf k))).isSome
  | .future a => 2 ≤ (Memory.read1 s.mem.dev (a + 12)).toNat
  | .barrier die num p =>
    let b :=
      if die then Table.get {} (s.dieAt (dieOf (coreOf k))).bars num
      else match s.gangOf (coreOf k) with
        | some g => Table.get {} g.bars num
        | none => {}
    b.broken || (let d := (b.phase + 2 ^ 32 - p) % 2 ^ 32; 0 < d && d < 2 ^ 31)
  | .phase p => s.mem.phase % 2 == 0 && (s.mem.phase + 2 ^ 32 - p) % 2 ^ 32 < 2 ^ 31
  | .clock d => d ≤ s.reftime
  | .held | .handler => false

/-- Whether a hart's vector unit has entries that are not parked (R149, R198). -/
def Hart.queued (h : Hart) : Bool := h.viq != [] && !h.intrap

/-- Whether a hart can act: it executes, its wait is over, or its vector queue goes on while it waits. -/
def ready (s : State) (k : Nat) : Bool :=
  let h := s.hartAt k
  h.acts || (h.slot == .waiting && (waitOver s k || h.queued))

/-- The next hart in rotation after one: the lowest key above it that can act, else the lowest key that can (R182). -/
def nextTurn (s : State) (k : Nat) : Nat :=
  let able := (s.harts.map (·.1)).filter (ready s)
  match able.find? (k < ·) with
  | some j => j
  | none => able.headD k

/-- What a step's instruction or act leaves to do: count the retired instructions of the hart that acted, for a debug step
and the hang watchdog (R410, R429). Another gang's hart that now has the slot has retired nothing. -/
def account (before after : State) : State :=
  let k := before.turn
  let n := (after.hartAt k).done - (before.hartAt k).done
  if n = 0 ∨ (after.hartAt k).gang ≠ (before.hartAt k).gang then after
  else
    let s := after.setHartAt k { after.hartAt k with retired := after.reftime }
    n.repeat (countStep · k) s

/-- Time passes and the next hart has its turn. -/
def pass1 (s : State) : State :=
  let s := { s with now := s.now + s.pace }
  { s with turn := nextTurn s s.turn }

/-- What a step adds after an act: the errors that it has met, accounts, time, rotation. -/
def tick (before after : State) : State := pass1 (account before (settleNoted after))

end Sys2Proof.Machine
end

