-- ==== Sys2Proof/Machine/Alu.lean ====
section
/-! DEFINITION. Scalar integer arithmetic: alu, alui and hi (R270 to R274). -/

namespace Sys2Proof.Machine

/-- s[d] := ext_T(v), and the pc moves on (R271). -/
def writeReg (s : State) (d : Reg) (v : Word) : State := finish s (s.hart.setReg d v)

/-- A function of two operands of type T (R272). -/
def aluBin (fn : BinFn) (d a b : Reg) (t : Ty) (s : State) : Out :=
  .next (writeReg s d (ext t (intBin fn t (opnd t (s.hart.reg a)) (opnd t (s.hart.reg b)))))

/-- A function of one operand of type T (R272). -/
def aluUn (fn : UnFn) (d a : Reg) (t : Ty) (s : State) : Out :=
  .next (writeReg s d (ext t (intUn fn t (opnd t (s.hart.reg a)))))

/-- A comparison of two operands of type T (R272): 1 or 0. -/
def aluCmp (cond : Nat) (d a b : Reg) (t : Ty) (s : State) : Out :=
  .next (writeReg s d (if intCmp cond (intVal t (opnd t (s.hart.reg a))) (intVal t (opnd t (s.hart.reg b))) then 1 else 0))

/-- An immediate function of a register (R273). -/
def aluImm (f : Word → Word) (d a : Reg) (s : State) : Out := .next (writeReg s d (f (s.hart.reg a)))

/-- alu.add (R272). -/
def execAluAdd (d a b : Reg) (t : Ty) (s : State) : Out := aluBin .add d a b t s

/-- alu.sub (R272). -/
def execAluSub (d a b : Reg) (t : Ty) (s : State) : Out := aluBin .sub d a b t s

/-- alu.adds (R272). -/
def execAluAdds (d a b : Reg) (t : Ty) (s : State) : Out := aluBin .adds d a b t s

/-- alu.subs (R272). -/
def execAluSubs (d a b : Reg) (t : Ty) (s : State) : Out := aluBin .subs d a b t s

/-- alu.mul (R272). -/
def execAluMul (d a b : Reg) (t : Ty) (s : State) : Out := aluBin .mul d a b t s

/-- alu.mulh (R272). -/
def execAluMulh (d a b : Reg) (t : Ty) (s : State) : Out := aluBin .mulh d a b t s

/-- alu.div (R272). -/
def execAluDiv (d a b : Reg) (t : Ty) (s : State) : Out := aluBin .div d a b t s

/-- alu.rem (R272). -/
def execAluRem (d a b : Reg) (t : Ty) (s : State) : Out := aluBin .rem d a b t s

/-- alu.and (R272). -/
def execAluAnd (d a b : Reg) (t : Ty) (s : State) : Out := aluBin .and d a b t s

/-- alu.or (R272). -/
def execAluOr (d a b : Reg) (t : Ty) (s : State) : Out := aluBin .or d a b t s

/-- alu.xor (R272). -/
def execAluXor (d a b : Reg) (t : Ty) (s : State) : Out := aluBin .xor d a b t s

/-- alu.andn (R272). -/
def execAluAndn (d a b : Reg) (t : Ty) (s : State) : Out := aluBin .andn d a b t s

/-- alu.shl (R272). -/
def execAluShl (d a b : Reg) (t : Ty) (s : State) : Out := aluBin .shl d a b t s

/-- alu.shr (R272). -/
def execAluShr (d a b : Reg) (t : Ty) (s : State) : Out := aluBin .shr d a b t s

/-- alu.min (R272). -/
def execAluMin (d a b : Reg) (t : Ty) (s : State) : Out := aluBin .min d a b t s

/-- alu.max (R272). -/
def execAluMax (d a b : Reg) (t : Ty) (s : State) : Out := aluBin .max d a b t s

/-- alu.slt (R272). -/
def execAluSlt (d a b : Reg) (t : Ty) (s : State) : Out := aluCmp 2 d a b t s

/-- alu.seq (R272). -/
def execAluSeq (d a b : Reg) (t : Ty) (s : State) : Out := aluCmp 0 d a b t s

/-- alu.pcnt (R272). -/
def execAluPcnt (d a : Reg) (t : Ty) (s : State) : Out := aluUn .pcnt d a t s

/-- alu.clz (R272). -/
def execAluClz (d a : Reg) (t : Ty) (s : State) : Out := aluUn .clz d a t s

/-- alu.ctz (R272). -/
def execAluCtz (d a : Reg) (t : Ty) (s : State) : Out := aluUn .ctz d a t s

/-- alui.add (R273). -/
def execAluiAdd (d a : Reg) (imm : BitVec 12) (s : State) : Out := aluImm (fun x => x + imm.signExtend 64) d a s

/-- alui.and (R273). -/
def execAluiAnd (d a : Reg) (imm : BitVec 12) (s : State) : Out := aluImm (fun x => x &&& imm.signExtend 64) d a s

/-- alui.or (R273). -/
def execAluiOr (d a : Reg) (imm : BitVec 12) (s : State) : Out := aluImm (fun x => x ||| imm.signExtend 64) d a s

/-- alui.xor (R273). -/
def execAluiXor (d a : Reg) (imm : BitVec 12) (s : State) : Out := aluImm (fun x => x ^^^ imm.signExtend 64) d a s

/-- alui.shl (R273). -/
def execAluiShl (d a : Reg) (imm : BitVec 6) (s : State) : Out := aluImm (fun x => x <<< imm.toNat) d a s

/-- alui.shr (R273). -/
def execAluiShr (d a : Reg) (imm : BitVec 6) (s : State) : Out := aluImm (fun x => x >>> imm.toNat) d a s

/-- alui.sra (R273). -/
def execAluiSra (d a : Reg) (imm : BitVec 6) (s : State) : Out := aluImm (fun x => x.sshiftRight imm.toNat) d a s

/-- alui.slt (R273). -/
def execAluiSlt (d a : Reg) (imm : BitVec 12) (s : State) : Out :=
  aluImm (fun x => if x.slt (imm.signExtend 64) then 1 else 0) d a s

/-- alui.sltu (R273). -/
def execAluiSltu (d a : Reg) (imm : BitVec 12) (s : State) : Out :=
  aluImm (fun x => if x.ult (imm.signExtend 64) then 1 else 0) d a s

/-- hi (R274): s[d] := s[a] * 2^16 + n. -/
def execHi (d a : Reg) (imm : BitVec 16) (s : State) : Out :=
  aluImm (fun x => x * 65536 + imm.setWidth 64) d a s

end Sys2Proof.Machine
end

