-- ==== Sys2Proof/Machine/LoadStore.lean ====
section
/-! DEFINITION. Scalar loads, stores, branches and jumps (R275 to R280). -/

namespace Sys2Proof.Machine

/-- The address of a scalar access (R275). -/
def scalarEa (h : Hart) (a : Reg) (off : BitVec 12) : Word := h.reg a + off.signExtend 64

/-- ld (R275, R276). -/
def execLd (d a : Reg) (t : Ty) (off : BitVec 12) (s : State) : Out :=
  match load s s.turn false t.size (scalarEa s.hart a off).toNat with
  | .error st => .next (stop s st)
  | .ok (v, s') => .next (writeReg s' d (ext t v))

/-- st (R275, R276): d names the register that holds the data. -/
def execSt (d a : Reg) (t : Ty) (off : BitVec 12) (s : State) : Out :=
  match store (reserveStrip s s.turn t.size) s.turn false t.size (scalarEa s.hart a off).toNat (opnd t (s.hart.reg d)) with
  | .error st => .next (stop s st)
  | .ok s' => .next (finish s' s'.hart)

/-- The target of a branch or a jump (R277, R278). -/
def branchTo (h : Hart) (off : Word) : Word := h.pc + 4 * off

/-- A branch (R277). It is no jump of R117: what a fetch at its target may see does not change. -/
def branch (taken : Word → Word → Bool) (a b : Reg) (off : BitVec 13) (s : State) : Out :=
  let h := s.hart
  .next (if taken (h.reg a) (h.reg b) then s.setHart (h.goto (branchTo h (off.signExtend 64))) else finish s h)

/-- br.eq (R277). -/
def execBrEq (a b : Reg) (off : BitVec 13) (s : State) : Out := branch (fun x y => x == y) a b off s

/-- br.ne (R277). -/
def execBrNe (a b : Reg) (off : BitVec 13) (s : State) : Out := branch (fun x y => x != y) a b off s

/-- br.lt (R277). -/
def execBrLt (a b : Reg) (off : BitVec 13) (s : State) : Out := branch (fun x y => x.slt y) a b off s

/-- br.ge (R277). -/
def execBrGe (a b : Reg) (off : BitVec 13) (s : State) : Out := branch (fun x y => y.sle x) a b off s

/-- br.ltu (R277). -/
def execBrLtu (a b : Reg) (off : BitVec 13) (s : State) : Out := branch (fun x y => x.ult y) a b off s

/-- br.geu (R277). -/
def execBrGeu (a b : Reg) (off : BitVec 13) (s : State) : Out := branch (fun x y => y.ule x) a b off s

/-- A jump: what was fetched before it is discarded, so the hart fetches code as its last device fence found it (R117). -/
def jumpTo (s : State) (h : Hart) (pc : Word) : Out := .next (s.setHart { h.goto pc with codeAt := h.fenced })

/-- jmp (R278). -/
def execJmp (off : BitVec 26) (s : State) : Out := jumpTo s s.hart (branchTo s.hart (off.signExtend 64))

/-- jr.go (R279). -/
def execJrGo (a : Reg) (s : State) : Out := jumpTo s s.hart (s.hart.reg a)

/-- jr.call (R279): the target is read before the link is written. -/
def execJrCall (d a : Reg) (s : State) : Out :=
  let h := s.hart
  jumpTo s (h.setReg d (h.pc + 4)) (h.reg a)

end Sys2Proof.Machine
end

