-- ==== Sys2Proof/Machine/Fpu.lean ====
section
/-! DEFINITION. The scalar floating-point and decimal unit (R282 to R288). -/

namespace Sys2Proof.Machine

/-- The end of an fpu operation with a value and the flags it raises (R284): an enabled exception stops it with s[d]
unchanged, unless a MASKED tret completes it. -/
def fpuEnd (s : State) (d : Reg) (dec : Bool) (v : Word) (flags : Nat) : State :=
  let h := s.hart
  let raised := { h with fpflags := raiseFlags h.fpflags dec flags }
  let en := enabled h.fpctl dec flags
  if en != 0 && !h.masked then
    stop (s.setHart raised) (.trap { cause := fpCause dec, sub := firstSub en })
  else finish s (raised.setReg d v)

/-- A function of two operands of type T (R285, R286). -/
def fpuBin (f : Ty → Rm → Nat → Nat → Nat × Nat) (d a b : Reg) (t : Ty) (s : State) : Out :=
  let h := s.hart
  let (v, fl) := f t (rmOf t h.fpctl) (opnd t (h.reg a)) (opnd t (h.reg b))
  .next (fpuEnd s d (t == .d64) (BitVec.ofNat 64 v) fl)

/-- A function of one operand of type T (R285). -/
def fpuUn (f : Ty → Rm → Nat → Nat × Nat) (d a : Reg) (t : Ty) (s : State) : Out :=
  let h := s.hart
  let (v, fl) := f t (rmOf t h.fpctl) (opnd t (h.reg a))
  .next (fpuEnd s d (t == .d64) (BitVec.ofNat 64 v) fl)

/-- A compare (R285): n64 1 or 0. -/
def fpuCmp (f : Ty → Nat → Nat → Bool × Nat) (d a b : Reg) (t : Ty) (s : State) : Out :=
  let h := s.hart
  let (v, fl) := f t (opnd t (h.reg a)) (opnd t (h.reg b))
  .next (fpuEnd s d (t == .d64) (if v then 1 else 0) fl)

/-- A conversion from one type to another (R287), which is decimal when either type is (R284). -/
def fpuCvt (src dst : Ty) (rm : Rm) (d a : Reg) (s : State) : Out :=
  let (v, fl) := convertT src dst rm (opnd src (s.hart.reg a))
  .next (fpuEnd s d (src == .d64 || dst == .d64) (BitVec.ofNat 64 v) fl)

/-- A conversion to an integer of 64 bits (R233, R287). -/
def fpuToInt (dst : Ty) (rm : Rm) (d a : Reg) (t : Ty) (s : State) : Out :=
  let (v, fl) := toIntT t dst rm (opnd t (s.hart.reg a))
  .next (fpuEnd s d (t == .d64) (ext dst v) fl)

/-- A conversion from an integer of 64 bits (R287). -/
def fpuFromInt (src : Ty) (d a : Reg) (t : Ty) (s : State) : Out :=
  let (v, fl) := fromIntT t (rmOf t s.hart.fpctl) (intVal src (opnd src (s.hart.reg a)))
  .next (fpuEnd s d (t == .d64) (BitVec.ofNat 64 v) fl)

/-- fpu.add (R285). -/
def execFpuAdd (d a b : Reg) (t : Ty) (s : State) : Out := fpuBin addT d a b t s

/-- fpu.sub (R285). -/
def execFpuSub (d a b : Reg) (t : Ty) (s : State) : Out := fpuBin subT d a b t s

/-- fpu.mul (R285). -/
def execFpuMul (d a b : Reg) (t : Ty) (s : State) : Out := fpuBin mulT d a b t s

/-- fpu.div (R285). -/
def execFpuDiv (d a b : Reg) (t : Ty) (s : State) : Out := fpuBin divT d a b t s

/-- fpu.sqrt (R285). -/
def execFpuSqrt (d a : Reg) (t : Ty) (s : State) : Out := fpuUn sqrtT d a t s

/-- fpu.fma (R285): the addend is the old s[d]. -/
def execFpuFma (d a b : Reg) (t : Ty) (s : State) : Out :=
  fpuBin (fun t rm x y => fmaT t rm false false x y (opnd t (s.hart.reg d))) d a b t s

/-- fpu.min (R286). -/
def execFpuMin (d a b : Reg) (t : Ty) (s : State) : Out := fpuBin (fun t _ x y => minMaxT t false x y) d a b t s

/-- fpu.max (R286). -/
def execFpuMax (d a b : Reg) (t : Ty) (s : State) : Out := fpuBin (fun t _ x y => minMaxT t true x y) d a b t s

/-- fpu.eq (R285). -/
def execFpuEq (d a b : Reg) (t : Ty) (s : State) : Out := fpuCmp cmpEq d a b t s

/-- fpu.lt (R285). -/
def execFpuLt (d a b : Reg) (t : Ty) (s : State) : Out := fpuCmp cmpLt d a b t s

/-- fpu.le (R285). -/
def execFpuLe (d a b : Reg) (t : Ty) (s : State) : Out := fpuCmp cmpLe d a b t s

/-- fpu.unord (R285). -/
def execFpuUnord (d a b : Reg) (t : Ty) (s : State) : Out := fpuCmp cmpUnord d a b t s

/-- fpu.neg (R285): copies bits and raises nothing. -/
def execFpuNeg (d a : Reg) (t : Ty) (s : State) : Out := fpuUn (fun t _ x => (flipSign t x, 0)) d a t s

/-- fpu.abs (R285). -/
def execFpuAbs (d a : Reg) (t : Ty) (s : State) : Out := fpuUn (fun t _ x => (x % 2 ^ (t.width - 1), 0)) d a t s

/-- fpu.rcp (R285). -/
def execFpuRcp (d a : Reg) (t : Ty) (s : State) : Out :=
  fpuUn (fun t rm x => roundBin (fmtOf t) rm (rcpEx (unpack t x))) d a t s

/-- fpu.rsq (R285). -/
def execFpuRsq (d a : Reg) (t : Ty) (s : State) : Out :=
  fpuUn (fun t rm x => roundBin (fmtOf t) rm (rsqEx (unpack t x))) d a t s

/-- fpu.tof32 (R287). -/
def execFpuTof32 (d a : Reg) (t : Ty) (s : State) : Out := fpuCvt t .f32 (brmOf s.hart.fpctl) d a s

/-- fpu.tof64 (R287). -/
def execFpuTof64 (d a : Reg) (t : Ty) (s : State) : Out := fpuCvt t .f64 (brmOf s.hart.fpctl) d a s

/-- fpu.tod64 (R287). -/
def execFpuTod64 (d a : Reg) (t : Ty) (s : State) : Out := fpuCvt t .d64 (drmOf s.hart.fpctl) d a s

/-- fpu.tobf16 (R287). -/
def execFpuTobf16 (d a : Reg) (t : Ty) (s : State) : Out := fpuCvt t .bf16 (brmOf s.hart.fpctl) d a s

/-- fpu.tobf16sr (R231, R232, R287): it reads KEY and COUNT, and increments COUNT where it commits, so not where it traps. -/
def execFpuTobf16sr (d a : Reg) (s : State) : Out :=
  let h := s.hart
  let (v, fl) := convertT .f32 .bf16 (.sr (srBits h.srkey h.srcount 0 0)) (opnd .f32 (h.reg a))
  let traps := enabled h.fpctl false fl != 0 && !h.masked
  let s' := if traps then s else s.setHart { h with srcount := (h.srcount + 1) % 2 ^ 32 }
  .next (fpuEnd s' d false (BitVec.ofNat 64 v) fl)

/-- fpu.toi64 (R233, R287). -/
def execFpuToi64 (d a : Reg) (t : Ty) (s : State) : Out := fpuToInt .i64 (rmOf t s.hart.fpctl) d a t s

/-- fpu.toi64z (R233, R287). -/
def execFpuToi64z (d a : Reg) (t : Ty) (s : State) : Out := fpuToInt .i64 .rtz d a t s

/-- fpu.ton64 (R233, R287). -/
def execFpuTon64 (d a : Reg) (t : Ty) (s : State) : Out := fpuToInt .n64 (rmOf t s.hart.fpctl) d a t s

/-- fpu.fromi64 (R287). -/
def execFpuFromi64 (d a : Reg) (t : Ty) (s : State) : Out := fpuFromInt .i64 d a t s

/-- fpu.fromn64 (R287). -/
def execFpuFromn64 (d a : Reg) (t : Ty) (s : State) : Out := fpuFromInt .n64 d a t s

/-- fpu.quant (R288). -/
def execFpuQuant (d a b : Reg) (s : State) : Out := fpuBin (fun _ rm x y => quantT rm x y) d a b .d64 s

end Sys2Proof.Machine
end

