-- ==== Sys2Proof/Machine/Control.lean ====
section
/-! DEFINITION. Control registers (R252 to R254, R281) with the map of each. -/

namespace Sys2Proof.Machine

/-- A retry at the hart's next turn: a stall is no change of state (R148). -/
def stall (s : State) : State := s

/-! ### The registers of an entry -/

/-- The rows an entry sweeps (R143). -/
def tiledOp (op : VOp) : Bool :=
  match op with
  | .lane _ _ _ _ tiled .. => tiled
  | .move .. | .ins .. | .ld .. | .st .. => true
  | _ => false

def VEntry.height (e : VEntry) : Nat := if tiledOp e.op then e.rows else 1

/-- The register of an operand. -/
def Src.regs (x : Src) : List Nat := match x with | .vec r _ => [r.val] | .scale _ => [1] | _ => []

/-- The vector registers an operation names as sources, in operand order; the mask is not among them. -/
def sourcesOf (op : VOp) : List Nat :=
  match op with
  | .lane _ _ _ _ _ _ a b c => (a.regs ++ b.regs ++ c.regs).eraseDups
  | .move .perm _ _ a b => [a.val, b.val].eraseDups
  | .move _ _ _ a _ | .xtr _ _ a | .hold _ _ a | .quant _ _ a _ _ | .vwhile _ a _ _ _ | .red _ _ _ a | .redIdx _ _ _ a
  | .mpop _ a | .mfirst _ a | .seen _ _ _ a | .mxWrite _ _ a | .spEval _ _ a => [a.val]
  | .ld .index _ _ b | .ld .elem _ _ b => [b.val]
  | .st .index _ _ d b | .st .elem _ _ d b | .amov _ _ d b _ => [d.val, b.val].eraseDups
  | .st _ _ _ d _ => [d.val]
  | .mxOp _ _ a b | .spGrad _ a b | .spDx _ _ a b => [a.val, b.val].eraseDups
  | _ => []

/-- The first registers an operation writes. -/
def destsOf (op : VOp) : List Nat :=
  match op with
  | .lane _ _ d .. | .move _ _ d .. | .ins _ d | .ld _ _ d _ | .seen _ _ d _ | .heal _ d | .amov _ _ d .. | .mxRead _ d _
  | .spEval _ d _ | .spDx _ d .. => [d.val]
  | .hold _ d _ | .drain _ d => [d.val, d.val + 1]
  | .quant _ d _ _ _ => [d.val, 1]
  | .vwhile .. => [0]
  | _ => []

/-- The scalar register that an entry owes to the synchronising read queue (R150). -/
def VOp.owes (op : VOp) : Option Reg :=
  match op with
  | .xtr _ d _ | .red _ _ d _ | .redIdx _ _ d _ | .mpop d _ | .mfirst d _ | .spill d | .fill d | .setvl d _ | .setrows d
  | .mxMode d | .mxTshape _ d => some d
  | _ => none

/-- A tile's registers. -/
def tileOf (rows r : Nat) : List Nat := (List.range rows).map (r + ·)

/-- The registers whose numbers R143 checks: tiled operands. -/
def tileRegs (op : VOp) : List Nat :=
  let scale := fun (x : Src) => match x with | .vec r _ => [r.val] | _ => []
  match op with
  | .lane _ _ d _ tiled _ a b c => if tiled then d.val :: (scale a ++ scale b ++ scale c) else []
  | .move .. | .ins .. | .ld .. | .st .. => destsOf op ++ sourcesOf op
  | _ => []

/-- The mask register, which a hold or a drain sets too (R318, R319). -/
def VEntry.maskDest (e : VEntry) : List Nat :=
  match e.op with
  | .hold .. | .drain .. => if e.vmk = 0 then [] else [0]
  | _ => []

/-- Every register an entry writes, and every one it reads, row by row. -/
def VEntry.writes (e : VEntry) : List Nat := (destsOf e.op).flatMap (tileOf e.height) ++ e.maskDest
def VEntry.reads' (e : VEntry) : List Nat :=
  0 :: (sourcesOf e.op).flatMap (tileOf e.height) ++ match e.op with | .heal _ d => [d.val] | _ => []

/-- The stream bound to a register of a hart. -/
def Hart.stream? (h : Hart) (reg : Nat) : Option Stream := h.streams.find? (·.reg == reg)

/-- The streams of the write-bound registers that an entry writes (R65). -/
def outStreams (h : Hart) (e : VEntry) : List Stream :=
  (destsOf e.op).filterMap fun d => (h.stream? d).filter (·.write)

/-- Whether an entry reads or writes memory, for its streams too. -/
def readsMemory (h : Hart) (e : VEntry) : Bool :=
  (match e.op with
  | .ld .. | .amov .. | .bind .. | .fill .. | .mxFill .. | .spGfill | .eng .. => true
  | _ => false) || (sourcesOf e.op).any fun n => (h.stream? n).any (!·.write)
def writesMemory (h : Hart) (e : VEntry) : Bool :=
  (match e.op with
  | .st .. | .amov .. | .unbind .. | .spill .. | .mxSpill .. | .spGspill | .eng .. => true
  | _ => false) || !(outStreams h e).isEmpty
def usesMemory (h : Hart) (e : VEntry) : Bool := readsMemory h e || writesMemory h e

/-! ### The registers -/

/-- vlmax.BYTES of a hart (R306). -/
def vlBytes (s : State) (k : Nat) : Nat := min (s.hartAt k).vlcap (s.lenOf k)

/-- The index of a hart's core in its gang, and its class (R11, R174). -/
def gangCore (s : State) (k : Nat) : Nat :=
  match s.gangOf (coreOf k) with
  | some g => g.cores.findIdx (· == coreOf k)
  | none => 0
def classOf (s : State) (k : Nat) : Nat := match s.gangOf (coreOf k) with | some g => g.cls | none => 0

/-- hqstat of a hart (R348). -/
def hqstat (s : State) (k : Nat) : Nat :=
  let es := (s.coreAt (coreOf k)).holes.map (·.2)
  let mine := es.filter (·.slot == slotOf k)
  (mine.filter fun e => e.st == .failed || e.st == .dead).length * 2 ^ 36 + mine.length * 2 ^ 27 +
  (es.filter (·.st == .taken)).length * 2 ^ 18 + (es.filter (·.st == .ready)).length * 2 ^ 9 + es.length

/-- vpxn of a register (R154). -/
def vpxWord (v : VReg) : Nat := (if v.busy then 2 ^ 31 else 0) + v.row % 8 * 2 ^ 28 + v.elem % 2 ^ 13

/-- vpxn of a hart (R154): a register that an unfinished entry will write, and has not begun to, is BUSY at its first element. -/
def vpxOf (h : Hart) (n : Nat) : Nat :=
  if !(h.vreg n).busy && h.viq.any (·.writes.contains n) then 2 ^ 31 else vpxWord (h.vreg n)

/-- strip (R212). -/
def stripWord (h : Hart) : Nat :=
  h.rewinds * 2 ^ 16 + h.used * 2 ^ 6 + (if h.again then 4 else 0) + (if h.unprot then 2 else 0) + if h.ckpt.isSome then 1 else 0

/-- A register of a trap bank by its place, 0 to 7 (R192). -/
def TrapBank.get (b : TrapBank) (i : Nat) : Word :=
  match i with
  | 0 => b.tvec | 1 => b.tcause | 2 => b.tsub | 3 => b.tpc | 4 => b.tviq | 5 => b.treg | 6 => b.telem | _ => b.taddr

/-- The bank that the plain names reach (R192). -/
def Hart.ownBank (h : Hart) : TrapBank := if h.priv = .user then h.ubank else h.sbank
def Hart.setOwnBank (h : Hart) (b : TrapBank) : Hart := if h.priv = .user then { h with ubank := b } else { h with sbank := b }

/-- The value of a control register; none for an unassigned number (R252). -/
def ctlGet (s : State) (k : Nat) (n : Nat) : Option Nat :=
  let h := s.hartAt k
  let c := s.coreAt (coreOf k)
  let d := s.dieAt (dieOf (coreOf k))
  match n with
  | 0x000 => some h.vl
  | 0x001 => some h.vrows
  | 0x002 => some h.vmk
  | 0x003 => some h.vstride.toNat
  | 0x004 => some (d.grant * 2 ^ 16 + vlBytes s k)
  | 0x005 => some h.vlcap
  | 0x006 => some (s.lenOf k)
  | 0x007 => some (c.lanesFailed * 2 ^ 8 + (0xFF - c.lanesFailed))
  | 0x008 => some h.pmode
  | 0x009 => some h.vdens
  | 0x040 => some (c.owner * 2 ^ 12 + c.mode * 2 ^ 8 + c.mvl)
  | 0x041 => some c.tm
  | 0x042 => some c.tn
  | 0x043 => some c.tk
  | 0x044 => some c.korg
  | 0x045 => some c.kinv
  | 0x046 => some c.kgrid
  | 0x047 => some c.kdeg
  | 0x048 => some c.kclamp
  | 0x080 => some h.fpctl.toNat
  | 0x081 => some h.fpflags
  | 0x082 => some (h.srkey * 2 ^ 32 + h.srcount)
  | 0x083 => some (hqstat s k)
  | 0x084 => some h.filltab.toNat
  | 0x0C0 => some (s.mem.cap * 2 ^ 12)
  | 0x0C1 => some (s.mem.oldLive * 2 ^ 40 + s.mem.live * 2 ^ 32 + s.mem.phase)
  | 0x0C2 => some (s.mem.step * 2 ^ 62 + s.mem.infl * 2 ^ 48 + s.mem.stage * 2 ^ 32 + s.mem.front)
  | 0x0C3 => some (s.mem.replays * 2 ^ 32 + s.mem.rate)
  | 0x0D0 => some h.ckmask
  | 0x0D1 => some h.ckvmask
  | 0x0D2 => some (stripWord h)
  | 0x100 => some (h.spawnMin * 2 ^ 8 + classOf s k)
  | 0x101 => some ((s.clusterAt (clusterOf (coreOf k))).step * 2 ^ 20 + d.grant * 2 ^ 16 + h.boostReq)
  | 0x102 => some (d.lowc * 2 ^ 20 + (if d.lock then 2 ^ 8 else 0) + d.permits)
  | 0x103 => some s.stew.energy
  | 0x104 => some (s.now % 2 ^ 64)
  | 0x105 => some (s.reftime % 2 ^ 64)
  | 0x180 => some h.ptbase.toNat
  | n =>
    if 0x020 ≤ n ∧ n < 0x040 then some (vpxOf h (n - 0x020))
    else if 0x050 ≤ n ∧ n < 0x060 then some (c.kn.toList.getD (n - 0x050) 0)
    else if 0x140 ≤ n ∧ n < 0x148 then some (h.ownBank.get (n - 0x140)).toNat
    else if 0x150 ≤ n ∧ n < 0x158 then some (h.ubank.get (n - 0x150)).toNat
    else none

/-- Whether a number exists for a privilege at all, and whether it may be written (R252). -/
def ctlHidden (p : Priv) (n : Nat) : Bool := p = .user && (n = 0x180 || 0x150 ≤ n && n < 0x158)
def ctlWritable (p : Priv) (n : Nat) : Bool :=
  n = 0x001 || n = 0x002 || n = 0x003 || n = 0x008 || n = 0x009 || 0x044 ≤ n && n < 0x049 || 0x050 ≤ n && n < 0x060 ||
  n = 0x080 || n = 0x081 || n = 0x082 || n = 0x0D0 || n = 0x0D1 || n = 0x140 || n = 0x141 || n = 0x143 ||
  (p = .supervisor && (n = 0x005 || n = 0x084 || n = 0x100 || n = 0x101 || n = 0x150 || n = 0x151 || n = 0x153 || n = 0x180))

/-- The numbers that a scalar-only hart does not have (R253). -/
def ctlVectorOnly (n : Nat) : Bool := n < 0x060 || 0x0D0 ≤ n && n < 0x0D3

/-- The RW bits of a register (R253). -/
def ctlMask (n : Nat) : Nat :=
  if 0x050 ≤ n ∧ n < 0x060 then 0xFFFFFFFF
  else match n with
  | 0x001 => 0xF | 0x002 => 3 | 0x003 => 2 ^ 64 - 1 | 0x005 => 0xFFFF | 0x008 => 2 | 0x009 => 0x1FF
  | 0x044 | 0x045 => 0xFFFFFFFF | 0x046 => 0x3F0F | 0x047 => 0x33 | 0x048 => 3
  | 0x080 => 0x1F1FDF | 0x081 => 0x1F001F | 0x082 => 2 ^ 64 - 1 | 0x084 => 2 ^ 64 - 1
  | 0x0D0 => 0xFFFFFFFF | 0x0D1 => 0x3F3F
  | 0x100 => 0x300 | 0x101 => 3
  | 0x140 | 0x150 => 2 ^ 64 - 4
  | 0x141 | 0x151 => 0x3000
  | 0x143 | 0x153 => 2 ^ 64 - 1
  | 0x180 => 2 ^ 64 - 2 ^ 13
  | _ => 0

/-- An f32 pattern that korg, kinv and the knots may hold (R363). -/
def finiteF32 (v : Nat) : Bool := bits v 30 23 != 255

/-- Whether a register's map allows a value (R144, R207, R236, R304, R347, R363, R364). -/
def ctlAllowed (n v : Nat) : Bool :=
  if 0x050 ≤ n ∧ n < 0x060 then finiteF32 v
  else match n with
  | 0x001 => v = 1 || v = 2 || v = 4 || v = 8
  | 0x002 => v != 3
  | 0x005 => v = 256 || v = 512 || v = 1024 || v = 2048
  | 0x044 => finiteF32 v
  | 0x045 => finiteF32 v && v < 2 ^ 31 && bits v 30 23 != 0
  | 0x046 => bits v 3 0 != 0 && bits v 3 0 ≤ 13 && bits v 12 8 ≤ 16
  | 0x047 => bits v 5 4 != 3 && bits v 1 0 != 0
  | 0x080 => bits v 4 2 < 5
  | 0x084 => v % 64 = 0
  | 0x101 => bits v 1 0 != 3
  | _ => true

/-- The write of a register whose value is allowed. -/
def ctlPut (s : State) (k n v : Nat) : State :=
  let h := s.hartAt k
  let c := s.coreAt (coreOf k)
  let w := BitVec.ofNat 64 v
  let setH := fun (h : Hart) => s.setHartAt k h
  let setC := fun (c : Core) => s.setCoreAt (coreOf k) c
  match n with
  | 0x001 => setH { h with vrows := v }
  | 0x002 => setH { h with vmk := v }
  | 0x003 => setH { h with vstride := w }
  | 0x005 => setH { h with vlcap := v }
  | 0x008 => setH { h with pmode := v }
  | 0x009 => setH { h with vdens := v }
  | 0x044 => setC { c with korg := v }
  | 0x045 => setC { c with kinv := v }
  | 0x046 => setC { c with kgrid := v }
  | 0x047 => setC { c with kdeg := v }
  | 0x048 => setC { c with kclamp := v }
  | 0x080 => setH { h with fpctl := w, viq := if h.intrap then h.viq.map ({ · with fpctl := w }) else h.viq }
  | 0x081 => setH { h with fpflags := v, viq := h.viq.map ({ · with raised := 0 }) }
  | 0x082 => setH { h with srkey := v / 2 ^ 32, srcount := v % 2 ^ 32 }
  | 0x084 => setH { h with filltab := w }
  | 0x0D0 => setH { h with ckmask := v }
  | 0x0D1 => setH { h with ckvmask := v }
  | 0x100 => setH { h with spawnMin := bits v 9 8 }
  | 0x101 => setH { h with boostReq := bits v 1 0 }
  | 0x140 => setH (h.setOwnBank { h.ownBank with tvec := w })
  | 0x141 => setH (h.setOwnBank { h.ownBank with tcause := w })
  | 0x143 => setH (h.setOwnBank { h.ownBank with tpc := w })
  | 0x150 => setH { h with ubank := { h.ubank with tvec := w } }
  | 0x151 => setH { h with ubank := { h.ubank with tcause := w } }
  | 0x153 => setH { h with ubank := { h.ubank with tpc := w } }
  | 0x180 => setH { h with ptbase := w }
  | n => if 0x050 ≤ n ∧ n < 0x060 then setC { c with kn := c.kn.setIfInBounds (n - 0x050) v } else s

/-- The checks of a ctl instruction, in R253's order, and those of R198 while a trap is handled. The word of an unassigned number
is told (R250). -/
def ctlStop (s : State) (n : Nat) (write : Bool) (word : Nat) : Option Stop :=
  let h := s.hart
  if (ctlGet s s.turn n).isNone then some (.trap { cause := .ill, sub := 1, taddr := word })
  else if h.kind != .vector && ctlVectorOnly n then some (plainTrap .ill 1)
  else if ctlHidden h.priv n || (write && !ctlWritable h.priv n) then some (plainTrap .priv 0)
  else if write && h.intrap && n < 0x060 && n != 0x005 then some (plainTrap .ill 1)
  else none

/-- What a write form makes of a register's value (R252, R253): only RW fields change. Forms 1 ctl.wr, 2 ctl.set, 3 ctl.clr. -/
def ctlMix (n old fn x : Nat) : Nat :=
  let v := match fn with | 1 => x | 2 => Nat.lor old x | _ => Nat.land old (2 ^ 64 - 1 - x)
  Nat.lor (Nat.land old (2 ^ 64 - 1 - ctlMask n)) (Nat.land v (ctlMask n))

/-- What a write form stores into a register of a hart. -/
def ctlNew (s : State) (k fn n x : Nat) : Nat := ctlMix n ((ctlGet s k n).getD 0) fn x

/-- The numbers whose writes are entries of the vector instruction queue (R149, R253). -/
def ctlQueued (n : Nat) : Bool := n < 0x0A0 || 0x0D0 ≤ n && n < 0x0D3

/-- Among them the numbers that a later commit captures (R232, R302): an allowed value shows from the commit of its write on. -/
def ctlAtCommit (n : Nat) : Bool := n = 0x001 || n = 0x002 || n = 0x003 || n = 0x080 || n = 0x082

/-! ### Reads (R150, R281) -/

/-- The numbers whose reads take an entry of the synchronising read queue (R150). -/
def ctlSyncs (n : Nat) : Bool :=
  n < 0x004 || n = 0x009 || 0x020 ≤ n && n < 0x040 || n = 0x081 || n = 0x083

/-- Whether a read of a hart must wait for its hole entries (R237). -/
def ctlWaits (s : State) (k n : Nat) : Bool :=
  n = 0x081 && ((s.coreAt (coreOf k)).holes.any fun (p : Nat × HoleEntry) =>
    p.2.slot == slotOf k && (p.2.st == .linked || p.2.st == .ready || p.2.st == .taken))

/-- The value that the latest committed write of a queued register leaves (R281). -/
def ctlLatest (s : State) (k n : Nat) : Nat :=
  (s.hartAt k).viq.foldl (fun v e =>
    match e.op with
    | .ctl fn m =>
      let new := ctlMix n v fn e.x.toNat
      if m = n ∧ e.y = 0 ∧ ctlAllowed n new then new else v
    | _ => v) ((ctlGet s k n).getD 0)

/-- The synchronising reads of control registers deliver, once every vector entry before them has finished (R150, R237). -/
def settleSync (s : State) (k : Nat) : State :=
  let due := fun (r : SyncRead) => match r.num with | some n => r.ahead == 0 && !ctlWaits s k n | none => false
  let h := s.hartAt k
  let h' := (h.sync.filter due).foldl (fun (x : Hart) r =>
    x.setReg r.reg (BitVec.ofNat 64 (r.val.getD ((ctlGet s k (r.num.getD 0)).getD 0)))) h
  if h.sync.any due then s.setHartAt k { h' with sync := h.sync.filter fun r => !due r } else s

/-- An entry of the synchronising read queue for a control register; a ninth waits (R150). A register whose writes show at their commit
is read now: what the earlier entries leave in it stands already. -/
def syncCtl (s : State) (d : Reg) (n : Nat) : State :=
  let h := s.hart
  if Config.syncSlots ≤ h.sync.length then stall s
  else finish s { h with sync := h.sync ++ [{ reg := d, num := some n, ahead := h.viq.length, val := if ctlAtCommit n then ctlGet s s.turn n else none }] }

/-- ctl.rd (R281). In a trap handler it does not wait: it returns the value frozen at the stop (R198). -/
def execCtlRd (d : Reg) (num : BitVec 12) (s : State) : Out :=
  let n := num.toNat
  match ctlStop s n false (0x28000000 + d.val * 2 ^ 21 + n * 16) with
  | some st => .next (stop s st)
  | none =>
    if s.hart.intrap then .next (writeReg s d (BitVec.ofNat 64 ((ctlGet s s.turn n).getD 0)))
    else if ctlSyncs n && (s.hart.viq != [] || ctlWaits s s.turn n) then .next (syncCtl s d n)
    else .next (writeReg s d (BitVec.ofNat 64 (if ctlQueued n then ctlLatest s s.turn n else (ctlGet s s.turn n).getD 0)))

end Sys2Proof.Machine
end

