-- ==== Sys2Proof/Machine/System.lean ====
section
/-! DEFINITION. System instructions that take no context image (R251, R289 to R294, R297, R298). -/

namespace Sys2Proof.Machine

/-- The all-zero major (R251): every word of it traps ILL. -/
def execIll (x : BitVec 26) (s : State) : Out := .next (illegalWord s x.toNat)

/-- The all-ones major (R251). -/
def execIll3f (x : BitVec 26) (s : State) : Out := .next (illegalWord s (0x3F * 2 ^ 26 + x.toNat))

/-- svc (R290): tpc holds the address of the svc plus 4. -/
def execSvc (n : BitVec 4) (s : State) : Out :=
  .next (raise s s.turn (s.hart.pc + 4) none (.trap { cause := .svc, sub := n.toNat }))

/-- tret (R200, R291). -/
def execTret (s : State) : Out := .next (leaveTrap s)

/-- idle (R292). -/
def execIdle (d a : Reg) (s : State) : Out :=
  let deadline := (s.hart.reg a).toNat
  .next (if deadline ≤ s.reftime then writeReg s d (BitVec.ofNat 64 s.reftime) else waitFor s (.clock deadline))

/-- Whether the debug unit holds a hart: a debug step is under way, or an enabled breakpoint names its slot (log 18). -/
def debugHeld (s : State) (k : Nat) : Bool :=
  let h := s.hartAt k
  h.stepsLeft.isSome || h.stepElems.isSome || (List.range 4).any fun i =>
    (dbgReg s (coreOf k) (0x40 + 16 * i)).testBit 0 && (dbgReg s (coreOf k) (0x48 + 16 * i)).testBit (56 + slotOf k)

/-- brk (R293). -/
def execBrk (code : BitVec 12) (s : State) : Out :=
  .next (if debugHeld s s.turn then haltHart s s.turn
         else stop s (.trap { cause := .break_, sub := 1, taddr := code.toNat }))

/-- What id writes (R294). -/
def idWord (s : State) (k : Nat) : Nat :=
  let c := coreOf k
  0x46 * 2 ^ 56 + 0x01 * 2 ^ 48 + (s.partOf c).getD 0 * 2 ^ 38 + gangCore s k * 2 ^ 32 + c * 2 ^ 12 + dieOf c * 2 ^ 10 +
  c / 12 % 8 * 2 ^ 7 + c % 12 * 2 ^ 3 + slotOf k

/-- id (R294). -/
def execId (d : Reg) (s : State) : Out := .next (writeReg s d (BitVec.ofNat 64 (idWord s s.turn)))

/-- A supervisor instruction (R299): PRIV for a user hart. -/
def supervisor (s : State) (f : State) : Out := .next (if s.hart.priv = .user then privileged s else f)

/-- Translations dropped from a core and its harts (R39, R297). -/
def dropTlb (s : State) (core : Nat) (hit : TlbEntry → Bool) : State :=
  let c := s.coreAt core
  let s := s.setCoreAt core { c with tlb := c.tlb.filter fun e => !hit e }
  (List.range 4).foldl (fun s n =>
    let h := s.hartAt (core * 8 + n)
    match h.utr with
    | some e => if hit e then s.setHartAt (core * 8 + n) { h with utr := none } else s
    | none => s) s

/-- The cores in the scope of a tlbinv (R297). -/
def tlbScope (s : State) (scope : Nat) : List Nat :=
  let c := coreOf s.turn
  let p := s.partOf c
  match scope with
  | 0 => [c]
  | 1 => ((List.range 96).map (dieOf c * 96 + ·)).filter (s.partOf · == p)
  | _ => (List.range 384).filter (s.partOf · == p)

/-- Whether an access that was translated with an entry has still to perform on a core (R39): it lies in a strip buffer, or its
instruction has translated it in the run-ahead pipeline. -/
def tlbInUse (s : State) (core : Nat) (hit : TlbEntry → Bool) : Bool :=
  (List.range 4).any fun n =>
    let h := s.hartAt (core * 8 + n)
    (h.strip.any fun b => b.page.any hit) || h.viq.any fun e => e.pages.any hit

/-- tlbinv (R39, R297): the scope drops its entries; it completes when no access that used one has still to perform. Where the
hart's own open strip holds such a store, the strip commits first (log 60). -/
def tlbinv (hit : TlbEntry → Bool) (scope : BitVec 2) (s : State) : Out :=
  let part := (s.partOf (coreOf s.turn)).getD 0
  let cores := tlbScope s scope.toNat
  let hit := fun (e : TlbEntry) => e.part == part && hit e
  let t := if s.hart.strip.any fun b => b.page.any hit then commitStrip s s.turn else s
  let t := cores.foldl (fun s c => dropTlb s c hit) t
  supervisor s (if cores.any (tlbInUse t · hit) then stall t else finish t t.hart)

/-- tlbinv.page (R297). -/
def execTlbinvPage (a : Reg) (scope : BitVec 2) (s : State) : Out :=
  let va := (s.hart.reg a).toNat
  tlbinv (fun e => e.asid == bits s.hart.ptbase.toNat 63 52 && va / 2 ^ e.lg * 2 ^ e.lg == e.vbase) scope s

/-- tlbinv.asid (R297). -/
def execTlbinvAsid (a : Reg) (scope : BitVec 2) (s : State) : Out :=
  tlbinv (fun e => e.asid == bits (s.hart.reg a).toNat 11 0) scope s

/-- tlbinv.all (R297). -/
def execTlbinvAll (scope : BitVec 2) (s : State) : Out := tlbinv (fun _ => true) scope s

/-- The body of a halt notice (R417; its layout, log 19). -/
def haltNotice (k : Nat) (tpc : Word) : List Byte :=
  leBytes 2 (coreOf k) ++ leBytes 1 (slotOf k) ++ leBytes 5 0 ++ leBytes 8 tpc.toNat

/-- halt (R298): the hart stands STOPPED until the steward resumes it at tpc. -/
def execHalt (s : State) : Out :=
  let h := s.hart
  let t := s.setHart { h.next with slot := .stopped, wait := .held }
  supervisor s (send t ((s.partOf (coreOf s.turn)).getD 0) (message 3 (haltNotice s.turn (h.pc + 4))) false)

end Sys2Proof.Machine
end

