-- ==== Sys2Proof/Machine/Atomic.lean ====
section
/-! DEFINITION. Scalar atomics and fences (R76 to R78, R102, R121, R122, R386, R387, R389). -/

namespace Sys2Proof.Machine

/-- What an atomic writes from the old value and its operand (R387, R388). The f32 forms round under RNE, raise no flags. -/
def amoVal (fn : AmoFn) (t : Ty) (old y : Nat) : Nat :=
  match fn with
  | .ld => old
  | .st | .swap | .cas => y
  | .add => if t = .f32 then (addT .f32 .rne old y).1 else intBin .add t old y
  | .and => intBin .and t old y
  | .or => intBin .or t old y
  | .xor => intBin .xor t old y
  | .min => if t = .f32 then (minMaxT .f32 false old y).1 else intBin .min t old y
  | .max => if t = .f32 then (minMaxT .f32 true old y).1 else intBin .max t old y

/-- Whether a function reaches a HOST page (R78, R387): plain reads and writes, or an AtomicOp that the host completes. -/
def hostAmo (fn : AmoFn) (t : Ty) (on : Bool) : Bool :=
  match fn with
  | .ld | .st => true
  | .swap | .cas => on
  | .add => on && t != .f32
  | _ => false

/-- What an atomic finds at its sector of an ENC page, which it decrypts and checks whole (R77, R220): an unreadable codeword. -/
def sectorStop (s : State) (p : Place) (va : Nat) : Option Stop :=
  match p.loc with
  | .dev a =>
    if !p.enc then none
    else ((List.range 8).find? fun i => (Table.find? s.mem.bad (a / 512 * 8 + i)).isSome).map fun i =>
      match Table.find? s.mem.bad (a / 512 * 8 + i) with
      | some .media => mediaTrap 6 va ((a / 512 * 8 + i) * 64)
      | _ => memTrap .ue 7 va
  | _ => none

/-- An atomic at a place (R76 to R78, R387): read and written at one instant. `f` gives the bytes to write, if any, from the old value. -/
def atomicIn (s : State) (k : Nat) (p : Place) (fn : AmoFn) (t : Ty) (n va : Nat) (f : Nat → Option Nat) :
    Except Stop (Nat × State) :=
  let on := (s.partAt ((s.partOf (coreOf k)).getD 0)).atomicOps
  let barred := match p.loc with | .host _ => !hostAmo fn t on | _ => false
  if barred then .error (memTrap .access 2 va)
  else
    match (sectorStop s p va).elim (readPlace s k p .atomic true n va) fun st => .error st with
    | .error st => .error st
    | .ok bytes =>
      let old := leNat bytes
      match f old with
      | none => .ok (old, s)
      | some v =>
        match writePlace s k p .atomic (leBytes n v) va with
        | .error st => .error st
        | .ok s => .ok (old, s)

/-- An atomic at one address (R76, R387): aligned, and translated for an atomic. -/
def atomicAt (s : State) (k : Nat) (fn : AmoFn) (t : Ty) (n va : Nat) (f : Nat → Option Nat) : Except Stop (Nat × State) :=
  match aligned va n with
  | .error st => .error st
  | .ok _ =>
    match translate s k .atomic false va with
    | .error st => .error st
    | .ok (p, s) => atomicIn s k p fn t n va f

/-- What every atomic does first: the open strip commits (R114), and a release waits until every die has taken the
earlier REPL stores (R122, R127). -/
def beforeAmo (s : State) (ord : BitVec 2) : State :=
  let s := commitStrip s s.turn
  if ord.getLsbD 1 then s.drainRepl else s

/-- What an acquire does last: the hart's accesses after it follow its own die instants (R107 row 4, R122, R127). -/
def afterAmo (s : State) (k : Nat) (ord : BitVec 2) : State := if ord.getLsbD 0 then settleRepl s k else s

/-- A scalar atomic of type T (R387). `ret`: it returns the old value in s[d]. -/
def amo (fn : AmoFn) (ret : Bool) (d a b : Reg) (t : Ty) (ord : BitVec 2) (s : State) : Out :=
  let h := s.hart
  let y := opnd t (h.reg b)
  let f := fun old => match fn with
    | .ld => none
    | .cas => if old = opnd t (h.reg d) then some y else none
    | _ => some (amoVal fn t old y)
  match atomicAt (beforeAmo s ord) s.turn fn t t.size (h.reg a).toNat f with
  | .error st => .next (stop s st)
  | .ok (old, s') =>
    let s' := afterAmo s' s'.turn ord
    .next (if ret then writeReg s' d (ext t old) else finish s' s'.hart)

/-- amo.ld (R387). -/
def execAmoLd (d a : Reg) (t : Ty) (_sys : Bool) (ord : BitVec 2) (s : State) : Out := amo .ld true d a 0 t ord s

/-- amo.st (R387). -/
def execAmoSt (a b : Reg) (t : Ty) (_sys : Bool) (ord : BitVec 2) (s : State) : Out := amo .st false 0 a b t ord s

/-- amo.swap (R387). -/
def execAmoSwap (d a b : Reg) (t : Ty) (_sys : Bool) (ord : BitVec 2) (s : State) : Out :=
  amo .swap true d a b t ord s

/-- amo.cas (R387). -/
def execAmoCas (d a b : Reg) (t : Ty) (_sys : Bool) (ord : BitVec 2) (s : State) : Out :=
  amo .cas true d a b t ord s

/-- amo.add (R387). -/
def execAmoAdd (d a b : Reg) (t : Ty) (_sys : Bool) (ord : BitVec 2) (s : State) : Out :=
  amo .add true d a b t ord s

/-- amo.and (R387). -/
def execAmoAnd (d a b : Reg) (t : Ty) (_sys : Bool) (ord : BitVec 2) (s : State) : Out :=
  amo .and true d a b t ord s

/-- amo.or (R387). -/
def execAmoOr (d a b : Reg) (t : Ty) (_sys : Bool) (ord : BitVec 2) (s : State) : Out :=
  amo .or true d a b t ord s

/-- amo.xor (R387). -/
def execAmoXor (d a b : Reg) (t : Ty) (_sys : Bool) (ord : BitVec 2) (s : State) : Out :=
  amo .xor true d a b t ord s

/-- amo.min (R387). -/
def execAmoMin (d a b : Reg) (t : Ty) (_sys : Bool) (ord : BitVec 2) (s : State) : Out :=
  amo .min true d a b t ord s

/-- amo.max (R387). -/
def execAmoMax (d a b : Reg) (t : Ty) (_sys : Bool) (ord : BitVec 2) (s : State) : Out :=
  amo .max true d a b t ord s

/-- The odd register of a pair. -/
def pairOf (r : Reg) : Reg := ⟨(r.val + 1) % 32, Nat.mod_lt _ (by decide)⟩

/-- amo.cas2 (R387): sixteen bytes, d and b even. DESIGN CHOICE (log 71): R56 lists atomics of 1 to 8 bytes for the scalar data memory and
names no fault for a larger one; the model performs it there. -/
def execAmoCas2 (d a b : Reg) (_sys : Bool) (ord : BitVec 2) (s : State) : Out :=
  let h := s.hart
  let pair := fun (r : Reg) => (h.reg (pairOf r)).toNat * 2 ^ 64 + (h.reg r).toNat
  let f := fun old => if old = pair d then some (pair b) else none
  match atomicAt (beforeAmo s ord) s.turn .cas .n64 16 (h.reg a).toNat f with
  | .error st => .next (stop s st)
  | .ok (old, s') =>
    let s' := afterAmo s' s'.turn ord
    let h := (s'.hart.setReg d (BitVec.ofNat 64 (old % 2 ^ 64))).setReg (pairOf d) (BitVec.ofNat 64 (old / 2 ^ 64))
    .next (finish s' h)

/-! ### Fences. A fence issues once the queue entries that it covers have performed (Issue.lean); what is left are the strip
buffer and the die instants of REPL stores. -/

/-- A fence commits an open strip (R114), and waits for the die instants of what it covers (R121, R127). -/
def fence (settle : State → State) (s : State) : State :=
  let s := settle (commitStrip s s.turn)
  finish s s.hart

/-- fen.all (R121, R389). One of device scope or wider orders code that has been stored before the hart's next jump (R117). -/
def execFenAll (scope : BitVec 3) (s : State) : Out :=
  let s := fence State.drainRepl s
  .next (if 4 ≤ scope.toNat then s.setHart { s.hart with fenced := s.mem.past.length } else s)

/-- fen.load (R121, R389): earlier loads and atomics. -/
def execFenLoad (_scope : BitVec 3) (s : State) : Out := .next (fence (settleAtomics · s.turn) s)

/-- fen.store (R121, R389). -/
def execFenStore (_scope : BitVec 3) (s : State) : Out := .next (fence State.drainRepl s)

/-- fen.eng (R389): the writes of earlier transfers. -/
def execFenEng (_scope : BitVec 3) (s : State) : Out := .next (fence State.drainRepl s)

/-- fen.phase (R102). -/
def execFenPhase (d a : Reg) (s : State) : Out :=
  let p := (s.hart.reg a).toNat % 2 ^ 32
  if s.mem.phase % 2 = 0 ∧ (s.mem.phase + 2 ^ 32 - p) % 2 ^ 32 < 2 ^ 31 then
    let s := (commitStrip s s.turn).drainRepl
    .next (writeReg s d (BitVec.ofNat 64 s.mem.phase))
  else .next (waitFor s (.phase p))

end Sys2Proof.Machine
end

