-- ==== Sys2Proof/Machine/Sync.lean ====
section
/-! DEFINITION. Barriers and futures (R123, R390 to R397). -/

namespace Sys2Proof.Machine

/-! ### Barriers -/

/-- Where a barrier lives: with its gang or with its die (R390). -/
structure BarRef where
  die : Bool
  /-- The gang's number, or the die's. -/
  own : Nat
  num : Nat

/-- A BAR trap (R394). -/
def barTrap (sub handle : Nat) : Stop := .trap { cause := .bar, sub := sub, taddr := handle }

/-- The barrier a handle names for a hart (R390, R394). -/
def barRef (s : State) (k handle : Nat) : Except Stop BarRef :=
  let num := bits handle 4 0
  if handle - num - (bits handle 8 8) * 256 != 0 then .error (barTrap 1 handle)
  else if handle.testBit 8 then
    let p := s.partAt ((s.partOf (coreOf k)).getD 0)
    if num < p.barCount ∧ p.barBase + num < 32 then .ok ⟨true, dieOf (coreOf k), p.barBase + num⟩
    else .error (barTrap 1 handle)
  else
    match (s.coreAt (coreOf k)).gang with
    | some g => if num < 8 ∧ (s.gang? g).isSome then .ok ⟨false, g, num⟩ else .error (barTrap 1 handle)
    | none => .error (barTrap 1 handle)

/-- A barrier, and the state with it replaced. -/
def barGet (s : State) (r : BarRef) : Barrier :=
  if r.die then Table.get {} (s.dieAt r.own).bars r.num
  else match s.gang? r.own with
    | some g => Table.get {} g.bars r.num
    | none => {}
def barSet (s : State) (r : BarRef) (b : Barrier) : State :=
  if r.die then
    let d := s.dieAt r.own
    s.setDieAt r.own { d with bars := Table.set d.bars r.num b }
  else match s.gang? r.own with
    | some g => s.setGang r.own { g with bars := Table.set g.bars r.num b }
    | none => s

/-- Phases that complete (R391): with enough arrivals and nothing pending. A die's record takes the cluster of the last
arriving hart, and counts the phases since its pool stood above 16 (R187). -/
def completePhases (r : BarRef) : Nat → State → State
  | 0, s => s
  | n + 1, s =>
    let b := barGet s r
    if 0 < b.count ∧ b.count ≤ b.arrived ∧ b.pend = 0 then
      let s := barSet s r { b with phase := (b.phase + 1) % 2 ^ 32, arrived := b.arrived - b.count,
                                   parties := b.parties.drop b.count }
      let s := if r.die then
          let d := s.dieAt r.own
          let last := match b.parties[b.count - 1]? with | some p => p.2 % 8 | none => 0
          s.setDieAt r.own { d with record := (last :: d.record).take 4, since := min 4 (d.since + 1) }
        else s
      completePhases r n s
    else s

/-- Pending bytes fall (R393), and phases may complete. -/
def barFall (s : State) (r : BarRef) (n : Nat) : State :=
  let b := barGet s r
  completePhases r (b.arrived + 1) (barSet s r { b with pend := b.pend - n })

/-- Whether a hart waits on a phase of a barrier that has not completed, where it runs or as pre-emption has saved it (R394). -/
def barWaited (s : State) (r : BarRef) : Bool :=
  let waits := fun (h : Hart) => h.waitsOn r.die r.num (barGet s r)
  (s.harts.any fun (p : Nat × Hart) =>
    waits p.2 && (if r.die then dieOf (coreOf p.1) == r.own else (s.coreAt (coreOf p.1)).gang == some r.own)) ||
  (r.die && s.tasks.any fun (p : Nat × Task) => p.2.die == r.own && p.2.saved.any fun sc => sc.harts.any fun q => waits q.2)

/-- bar.init (R392, R394). -/
def execBarInit (d a : Reg) (s : State) : Out :=
  let handle := (s.hart.reg a).toNat
  let count := (s.hart.reg d).toNat
  let s1 := (commitStrip s s.turn)
  .next (orStop s (do
    let r ← barRef s s.turn handle
    let b := barGet s r
    if !b.broken && (b.arrived != 0 || b.pend != 0 || barWaited s r) then .error (barTrap 3 handle)
    else if count < 1 ∨ 1024 < count then .error (barTrap 4 handle)
    else
      let s := barSet s1 r { count := count }
      .ok (finish s s.hart)))

/-- The checks of a use of a barrier that is not init (R394). -/
def barUse (s : State) (handle : Nat) : Except Stop BarRef :=
  match barRef s s.turn handle with
  | .error st => .error st
  | .ok r =>
    let b := barGet s r
    if b.broken then .error (barTrap 7 handle)
    else if b.count = 0 then .error (barTrap 2 handle)
    else .ok r

/-- The phase an arrival counts toward (R392). -/
def arrivalPhase (b : Barrier) : Nat := (b.phase + b.arrived / b.count) % 2 ^ 32

/-- An arrival (R391, R392): a release, which waits for the strip and the die instants. -/
def arrive (s : State) (r : BarRef) : State :=
  let s := (commitStrip s s.turn).drainRepl
  let b := barGet s r
  let who := ((s.coreAt (coreOf s.turn)).gang.getD 0, clusterOf (coreOf s.turn))
  completePhases r (b.arrived + 2) (barSet s r { b with arrived := b.arrived + 1, parties := b.parties ++ [who] })

/-- bar.arrive (R392). -/
def execBarArrive (d a : Reg) (s : State) : Out :=
  match barUse s (s.hart.reg a).toNat with
  | .error st => .next (stop s st)
  | .ok r =>
    let p := arrivalPhase (barGet s r)
    .next (writeReg (arrive s r) d (BitVec.ofNat 64 p))

/-- A wait on a phase (R392): it passes, waits, or is ahead. `pass` is what follows when it passes. -/
def barAwait (s : State) (r : BarRef) (handle p : Nat) (pass : State) : State :=
  let b := barGet s r
  let d := (b.phase + 2 ^ 32 - p) % 2 ^ 32
  if 0 < d ∧ d < 2 ^ 31 then pass
  else if d = 0 ∨ d = 2 ^ 31 then waitFor s (.barrier r.die r.num p)
  else stop s (barTrap 5 handle)

/-- bar.wait (R392). -/
def execBarWait (d a : Reg) (s : State) : Out :=
  let handle := (s.hart.reg a).toNat
  match barUse s handle with
  | .error st => .next (stop s st)
  | .ok r =>
    let s1 := commitStrip s s.turn
    .next (barAwait s1 r handle ((s.hart.reg d).toNat % 2 ^ 32) (finish s1 s1.hart))

/-- The phase in which the bar.sync at a hart's pc has arrived at a barrier, and the hart without that record (R392). -/
def Hart.arrivedAt (h : Hart) (handle : Nat) : Option Nat :=
  (h.synced.find? fun r => r.1 == h.pc && r.2.1 == handle).map (·.2.2)
def Hart.passSync (h : Hart) (handle : Nat) : Hart :=
  { h with synced := h.synced.filter fun r => !(r.1 == h.pc && r.2.1 == handle) }

/-- bar.sync (R392): it arrives once, and waits on the phase of its arrival. -/
def execBarSync (d a : Reg) (s : State) : Out :=
  let handle := (s.hart.reg a).toNat
  match barUse s handle with
  | .error st => .next (stop (s.setHart (s.hart.passSync handle)) st)
  | .ok r =>
    let p := (s.hart.arrivedAt handle).getD (arrivalPhase (barGet s r))
    let s1 := match s.hart.arrivedAt handle with
      | some _ => s
      | none =>
        let t := arrive s r
        t.setHart { t.hart with synced := (t.hart.pc, handle, p) :: t.hart.synced }
    .next (barAwait s1 r handle p (writeReg (s1.setHart (s1.hart.passSync handle)) d (BitVec.ofNat 64 p)))

/-! ### Futures -/

/-- A FUT2 trap (R396). -/
def futTrap (sub va : Nat) : Stop := .trap { cause := .fut2, sub := sub, taddr := va }

/-- A place on a KIND 0 page of device memory that a hart reaches (R395). -/
def localPlace (s : State) (k : Nat) (acc : Access) (va : Nat) : Except Stop (Place × State) :=
  match translate s k acc false va with
  | .error st => .error st
  | .ok (p, s) =>
    match p.loc with
    | .dev a =>
      if p.kind != 0 then .error (memTrap .access 2 va)
      else match devStop s ((s.partOf (coreOf k)).getD 0) (s.evac k acc) a va with
        | some st => .error st
        | none => .ok (p, s)
    | _ => .error (memTrap .access 2 va)

/-- The future at an address, for an operation of the hart whose turn it is (R395, R396). The operation commits an open
strip (R114). -/
def futureAt (s : State) (acc : Access) (va : Nat) : Except Stop (Place × Fut × State) := do
  aligned va 16
  let (p, s) ← localPlace (commitStrip s s.turn) s.turn acc va
  let f := Fut.ofBytes (← readAt s ((s.partOf (coreOf s.turn)).getD 0) p 0 16 va)
  if 3 < f.st then .error (futTrap 4 va) else .ok (p, f, s)

/-- The partition of the hart whose turn it is. -/
def State.part (s : State) : Nat := (s.partOf (coreOf s.turn)).getD 0

/-- fut.init (R396). -/
def execFutInit (d a : Reg) (s : State) : Out :=
  let va := (s.hart.reg a).toNat
  .next (orStop s (do
    let (p, f, s) ← futureAt s .atomic va
    if f.st = 1 then .error (futTrap 2 va)
    else
      let gen := (f.gen + 1) % 2 ^ 32
      let s ← writeAt s s.part p 0 ({ cont := 0, gen := gen, st := 0, cause := 0, code := 0 } : Fut).bytes
      .ok (writeReg s d (BitVec.ofNat 64 gen))))

/-- fut.reg (R396, R397): a release. -/
def execFutReg (d a : Reg) (s : State) : Out :=
  let va := (s.hart.reg a).toNat
  let cont := (s.hart.reg d).toNat
  .next (orStop s (do
    aligned va 16
    if cont % 64 != 0 then .error (memTrap .align 1 cont)
    else
      let (p, f, s) ← futureAt (commitStrip s s.turn).drainRepl .atomic va
      match f.st with
      | 0 => do
        let (q, s) ← localPlace s s.turn .atomic cont
        let s ← writeAt s s.part p 0 ({ f with cont := cont, st := 1 } : Fut).bytes
        let s ← pendingChange s s.part q cont true false
        .ok (writeReg s d 0)
      | 1 => .error (futTrap 3 va)
      | 2 => .ok (writeReg s d 2)
      | _ => do
        let (q, s) ← localPlace s s.turn .atomic cont
        let s ← setFailin s s.part q cont
        .ok (writeReg s d 3)))

/-- A future is resolved or failed by an instruction (R396, R397): a release. The instruction has completed before a placement pass that
its resolution starts. -/
def futSettle (fail : Bool) (a : Reg) (cause code : Nat) (s : State) : Out :=
  let va := (s.hart.reg a).toNat
  .next (orStop s (do
    let (p, f, s) ← futureAt (commitStrip s s.turn).drainRepl .atomic va
    if 2 ≤ f.st then .error (futTrap 1 va) else settleFuture (finish s s.hart) s.part s.hart.ptbase p f fail cause code))

/-- fut.res (R396). -/
def execFutRes (d a : Reg) (s : State) : Out := futSettle false a 0 (bits (s.hart.reg d).toNat 15 0) s

/-- fut.fail (R396). -/
def execFutFail (d a : Reg) (s : State) : Out :=
  futSettle true a (bits (s.hart.reg d).toNat 23 16) (bits (s.hart.reg d).toNat 15 0) s

/-- Bytes 8 to 15 of a future word. -/
def Fut.upper (f : Fut) : Word := BitVec.ofNat 64 (leNat (f.bytes.drop 8))

/-- fut.get and fut.get.try (R396). -/
def futGet (wait : Bool) (d a : Reg) (s : State) : Out :=
  let va := (s.hart.reg a).toNat
  .next (orStop s (do
    let (p, f, s) ← futureAt s .load va
    if wait && f.st < 2 then .ok (waitFor s (.future p.devAddr)) else .ok (writeReg s d f.upper)))

/-- fut.get (R396). -/
def execFutGet (d a : Reg) (s : State) : Out := futGet true d a s

/-- fut.get.try (R396). -/
def execFutGetTry (d a : Reg) (s : State) : Out := futGet false d a s

end Sys2Proof.Machine
end

