-- ==== Sys2Proof/Machine/Spawn.lean ====
section
/-! DEFINITION. The task instructions and the helper's hole-queue instructions (R168, R262, R263, R343 to R347, R398 to
R400). -/

namespace Sys2Proof.Machine

/-! ### Descriptors and launch records -/

/-- What task.spawn refuses in a descriptor (R168): fields out of range, reserved bytes, a class that SPAWNMIN bars. -/
def descOk (b : List Byte) (spawnMin : Nat) : Bool := descFits b && spawnMin ≤ field b 30 1

/-- What task.spawn refuses in a launch record (R262). -/
def launchOk (b : List Byte) : Bool :=
  field b 0 8 % 4 == 0 && field b 8 8 % 64 == 0 && Nat.land (field b 16 4) (2 ^ 32 - 1 - 0x1F1FDF) == 0 &&
  bits (field b 16 4) 4 2 < 5 && field b 24 1 < 4 && field b 25 1 < 3 && field b 26 1 < 2 && field b 27 1 < 4 &&
  (b.drop 28).all (· == 0)

/-- What a task keeps of its launch record and of its spawner (R262, R443). -/
def startOf (b : List Byte) (ptbase tvecS : Word) (spawnMin : Nat) (launch : Word) : Start :=
  { ptbase := ptbase, tvecS := tvecS, tvecU := BitVec.ofNat 64 (field b 0 8)
    fpctl := BitVec.ofNat 64 (field b 16 4), srkey := field b 20 4, pmode := field b 24 1, boost := field b 25 1
    vlcap := 2048 / 2 ^ bits (field b 27 1) 1 0, filltab := BitVec.ofNat 64 (field b 8 8)
    array := (field b 26 1).testBit 0, spawnMin := spawnMin, launch := launch }

/-- The PENDING that a spawn leaves (R398). -/
def newPending (b : List Byte) (hold : Bool) : Nat := if hold then field b 24 4 - 1 else field b 24 4

/-- The last steps of a spawn, at the descriptor's plinth (R398): the hold, LINK, and the queue. -/
def spawnAt (s : State) (part : Nat) (p : Place) (desc : Word) (b : List Byte) (start : Start) (hold : Bool) (die : Nat) :
    Except Stop State := do
  if hold && field b 24 4 = 0 then .error (plainTrap .ill 1)
  else
    let new := newPending b hold
    let s ← if hold then writeAt s part p 24 (leBytes 4 new) else .ok s
    let s ← writeAt s part p 40 (leBytes 8 (1 + 2 * die))
    let id := s.tasks.length + 1
    let cls := field b 30 1
    let t : Task :=
      { desc := desc, phys := p.devAddr, enc := p.enc, part := part, die := die, cls := cls, cores := 0, nv := 0, nh := 0, np := 0
        entry := 0, arg := 0, future := 0, start := start, st := if new = 0 then .ready else .pending }
    let s := s.setTask id (t.fromDesc b)
    .ok (if new = 0 then pass (enqueue s die cls id false) die else s)

/-- The launch record of the task that a hart belongs to (R168, R262). -/
def ownLaunch (s : State) (k : Nat) : Word :=
  match (s.hartAt k).gang.bind s.task? with
  | some t => t.start.launch
  | none => 0

/-- The bytes of a launch record: 64 zero bytes for address 0 (R262, R444). -/
def launchBytes (s : State) (k : Nat) (va : Nat) : Except Stop (List Byte × State) := do
  if va = 0 then .ok (List.replicate 64 0, s)
  else
    aligned va 64
    let (p, s) ← localPlace s k .load va
    let b ← viewPlace s k p 64 va
    .ok (b, s)

/-- The descriptor's place for task.spawn: rights as a load, then as a store (R398). -/
def descPlace (s : State) (k va : Nat) : Except Stop (Place × State) := do
  aligned va 64
  localPlace s k .atomic va

/-- task.spawn (R398): a release. The instruction has completed before the placement pass that it starts. -/
def spawn (hold : Bool) (d a : Reg) (s : State) : Out :=
  let va := (s.hart.reg a).toNat
  .next (orStop s (do
    let (p, s1) ← descPlace s s.turn va
    let b ← viewPlace s1 s.turn p 64 va
    let launch := if field b 32 8 = 0 then (ownLaunch s1 s.turn).toNat else field b 32 8
    let (l, s2) ← launchBytes s1 s.turn launch
    if !descOk b s.hart.spawnMin || !launchOk l then .error (plainTrap .ill 1)
    else
      let h := s2.hart
      let start := startOf l h.ptbase h.sbank.tvec h.spawnMin (BitVec.ofNat 64 launch)
      spawnAt (writeReg (commitStrip s2 s2.turn).drainRepl d (BitVec.ofNat 64 (newPending b hold))) s2.part p (BitVec.ofNat 64 va) b
        start hold (dieOf (coreOf s2.turn))))

/-- task.spawn (R398). -/
def execTaskSpawn (d a : Reg) (s : State) : Out := spawn false d a s

/-- task.spawn.hold (R398). -/
def execTaskSpawnHold (d a : Reg) (s : State) : Out := spawn true d a s

/-- Whether a hart has hole entries that a helper must still settle (R399). -/
def holesOpen (s : State) (k : Nat) : Bool :=
  (s.coreAt (coreOf k)).holes.any fun (p : Nat × HoleEntry) =>
    p.2.slot == slotOf k && (p.2.st == .linked || p.2.st == .ready || p.2.st == .taken)

/-- task.exit (R399): the hart executes no more, and its slot is EMPTY once the gang releases the core (R148). -/
def execTaskExit (s : State) : Out :=
  let k := s.turn
  let h := s.hart
  if h.kind = .helper then .next (illegal s)
  else if holesOpen s k || h.viq.any (usesMemory h) then .next (stall s)
  else
    let s := (commitStrip s k).drainRepl
    let c := s.core
    let s := s.setCore { c with holes := List.filter (fun (p : Nat × HoleEntry) => p.2.slot != slotOf k) c.holes }
    let s := s.setHartAt k { s.hartAt k with exited := true }
    .next (match h.gang with | some g => finishTask s g | none => s.setHartAt k {})

/-- The head that a yield lets in (R400): a READY head of the same or a smaller class that cannot be placed and would fit
in the gang's cluster once its cores are free. -/
def yieldFor (s : State) (g : Gang) (gid : Nat) : Option (Nat × Nat × Nat) :=
  match g.cores.head? with
  | none => none
  | some c0 =>
    let die := dieOf c0
    let freed := preemptGang s gid
    (List.range (g.cls + 1)).findSome? fun cls =>
      match (queueOf s die cls).head?, (queueOf s die cls).head?.bind s.readTask with
      | some id, some t =>
        if (tryPlace s die cls).isNone && t.cores ≤ (freeCores freed t (clusterOf c0)).length then some (die, cls, id) else none
      | _, _ => none

/-- task.yield (R400). -/
def execTaskYield (d : Reg) (s : State) : Out :=
  let s1 := commitStrip s s.turn
  match s1.core.gang, s1.gangOf (coreOf s1.turn) with
  | some gid, some g =>
    match yieldFor s1 g gid with
    | some (die, cls, id) =>
      let cluster := clusterOf (g.cores.headD 0)
      let s2 := dequeue (writeReg s1 d 1) die cls
      let s3 := preemptGang s2 gid
      .next (match s3.readTask id with
        | some t => pass (placeTask s3 id t ((freeCores s3 t cluster).take t.cores)) die
        | none => s3)
    | none => .next (writeReg s1 d 0)
  | _, _ => .next (writeReg s1 d 0)

/-! ### Helpers and the hole queue -/

/-- Virtual addresses in the scalar data memory (R10, R343). -/
def sdmVa (off : Nat) : Nat := Config.localBase + 0x400000 + off

/-- The record area of a helper slot and the end of its stack (R343). -/
def recordOff (slot : Nat) : Nat := 0xFF00 + (slot - 4) * 0x40
def stackEnd (slot : Nat) : Nat := 0x10000 - (slot - 3) * 0x1000

/-- The record of an entry (R345). -/
def recordBytes (e : HoleEntry) : List Byte :=
  leBytes 2 (handleOf e) ++ leBytes 1 e.slot ++ leBytes 1 e.row ++ leBytes 2 e.elem ++ leBytes 1 e.dreg ++
  leBytes 1 ((if e.maskBit then 1 else 0) + if e.sr then 2 else 0) ++
  leBytes 1 e.maj ++ leBytes 1 e.fn ++ leBytes 1 e.ty.code ++ leBytes 1 e.sty.code ++ leBytes 4 e.fpctl.toNat ++
  leBytes 4 e.seq ++ leBytes 4 e.srcnt ++ leBytes 8 e.opa.toNat ++ leBytes 8 e.opb.toNat ++ leBytes 8 e.opc.toNat ++
  leBytes 4 e.srkey ++ leBytes 12 0

/-- The major of vcvt, whose fn is matched by bits 6:3 (R263, R347). -/
def majCvt : Nat := 0x25

/-- The search of a fill table from entry i on, with the DEFAULT entry found so far (R263, R347). -/
def searchTable (k table : Nat) (e : HoleEntry) (i : Nat) (dflt : Option Nat) :
    Nat → State → Except Stop (Option Nat × State)
  | 0, s => .ok (dflt, s)
  | n + 1, s => do
    let at_ := table + 16 + 16 * i
    let (key, s) ← load s k false 4 (at_ % 2 ^ 64)
    let (routine, s) ← load s k false 8 ((at_ + 8) % 2 ^ 64)
    let fn := if e.maj = majCvt then e.fn / 8 * 8 else e.fn
    let entryFn := if e.maj = majCvt then bits key 15 8 / 8 * 8 else bits key 15 8
    if key.testBit 24 then searchTable k table e (i + 1) (some routine) n s
    else if bits key 7 0 = e.maj ∧ entryFn = fn ∧ bits key 23 16 = e.ty.code then .ok (some routine, s)
    else searchTable k table e (i + 1) dflt n s

/-- The routine for an entry; none: the built-in one (R347). -/
def routineFor (s : State) (k : Nat) (e : HoleEntry) : Except Stop (Option Nat × State) := do
  let table := (s.hartAt k).filltab.toNat
  if table = 0 then .ok (none, s)
  else
    let (n, s) ← load s k false 4 table
    searchTable k table e 0 none n s

/-- A helper takes an entry (R344). -/
def takeEntry (s : State) (k : Nat) (e : HoleEntry) : State :=
  match routineFor s k e with
  | .error st => raise s k (s.hartAt k).pc none st
  | .ok (r, s) =>
    let c := s.coreAt (coreOf k)
    let c := c.writeSdm (recordOff (slotOf k)) (recordBytes e)
    let s := s.setCoreAt (coreOf k) { c with holes := Table.set c.holes e.id { e with st := .taken } }
    let h := s.hartAt k
    let h := ((h.setReg 10 (BitVec.ofNat 64 (sdmVa (recordOff (slotOf k))))).setReg 11 (BitVec.ofNat 64 (handleOf e))).setReg 2
      (BitVec.ofNat 64 (sdmVa (stackEnd (slotOf k))))
    let h := { h with
      fpctl := e.fpctl, fpflags := 0, taken := some e.id, slot := .running, done := h.done + 1, masked := false
      pc := match r with | some a => BitVec.ofNat 64 a | none => Config.builtinPc
      builtin := match r with | some _ => if h.intrap then h.builtin else none | none => some .compute }
    trace (s.setHartAt k h) k 6 false e.seq e.elem 0 e.row h.pc

/-- Dispatch of a hart that waits in hq.take (R344). -/
def dispatchHelper (s : State) (k : Nat) : State :=
  match nextReady (s.coreAt (coreOf k)) with
  | some e => takeEntry s k e
  | none => s

/-- hq.take (R344). -/
def execHqTake (s : State) : Out :=
  let h := s.hart
  .next (if h.kind != .helper || h.taken.isSome then illegal s
    else match nextReady s.core with
      | some e => takeEntry s s.turn e
      | none => waitFor s .hole)

/-- The entry a helper holds, when a HANDLE names it (R346). -/
def heldEntry (s : State) (k : Nat) (handle : Word) : Option HoleEntry :=
  let h := s.hartAt k
  if h.kind != .helper then none
  else match h.taken.bind fun id => Table.find? (s.coreAt (coreOf k)).holes id with
    | some e => if BitVec.ofNat 64 (handleOf e) = handle then some e else none
    | none => none

/-- A helper fills the entry it holds with a value, and its flags go to the main hart (R346): a release. -/
def fillHeld (s : State) (k : Nat) (e : HoleEntry) (v flags : Nat) : State :=
  let s := fillEntry s.drainRepl (coreOf k) e v
  let m := coreOf k * 8 + e.slot
  let h := s.hartAt m
  let s := s.setHartAt m { h with
    fpflags := Nat.lor h.fpflags flags, viq := h.viq.map fun x => { x with raised := Nat.land x.raised (2 ^ 64 - 1 - flags) } }
  let s := s.setHartAt k { s.hartAt k with taken := none }
  trace s k 6 true e.seq e.elem 0 e.row (s.hartAt k).pc

/-- Whether a HANDLE names an entry that a helper took and that a rewind has freed since (R214). -/
def heldDropped (h : Hart) (handle : Word) : Bool :=
  match h.taken with
  | some n => Config.holeSlots ≤ n && BitVec.ofNat 64 (n - Config.holeSlots) == handle
  | none => false

/-- hq.fill (R346). The fill of an entry that a rewind has freed is discarded (R214). -/
def execHqFill (a b : Reg) (s : State) : Out :=
  let h := s.hart
  match heldEntry s s.turn (h.reg a) with
  | none => .next (if heldDropped h (h.reg a) then finish s { h with taken := none } else illegal s)
  | some e =>
    let s := fillHeld s s.turn e ((h.reg b).toNat % 2 ^ e.wid) h.fpflags
    .next (finish s s.hart)

/-- hq.fail (R346). -/
def execHqFail (a b : Reg) (s : State) : Out :=
  let h := s.hart
  let x := (h.reg b).toNat
  match heldEntry s s.turn (h.reg a) with
  | none =>
    .next (if heldDropped h (h.reg a) && bits x 15 8 != 0 then finish s { h with taken := none } else illegal s)
  | some e =>
    if bits x 15 8 = 0 then .next (illegal s)
    else
      let s := failEntry s.drainRepl (coreOf s.turn) e (bits x 15 8) (bits x 7 0)
      let s := s.setHart { s.hart with taken := none }
      let s := trace s s.turn 6 true e.seq e.elem 4 e.row h.pc
      .next (finish s s.hart)

end Sys2Proof.Machine
end

