-- ==== Sys2Proof/Machine/LaneArith.lean ====
section
/-! DEFINITION. What a lane computes for one element, and when the element is hard (R234, R310 to R314, R328 to R334).
With `lane` false the same functions give what a fill delivers (R346, R347): then nothing is hard. A result is a
pattern, a set of flags, and whether the element is hard. -/

namespace Sys2Proof.Machine

/-- What a position computes. -/
abbrev Lane := Nat × Nat × Bool

/-- Whether vector results of a type are flushed (R234). -/
def ftzOn (t : Ty) (fpctl : Word) : Bool := t == .f32 && fpctl.toNat.testBit 6

/-- A pattern that an operation reads with flushing: a subnormal as a zero of its sign (R234). -/
def flushIn (t : Ty) (ftz : Bool) (v : Nat) : Nat :=
  let f := fmtOf t
  if ftz && v % 2 ^ (f.width - 1) < 2 ^ (f.p - 1) then v / 2 ^ (f.width - 1) % 2 * 2 ^ (f.width - 1) else v

/-- Whether a value is subnormal in a format. -/
def Num.isSub (f : Fmt) : Num → Bool
  | .fin _ m _ => m != 0 && m < 2 ^ (f.p - 1)
  | _ => false

/-- floor(log2 |v|) of a finite non-zero value (R330). -/
def Num.ilog : Num → Option Int
  | .fin _ m e => if m = 0 then none else some ((Nat.log2 m : Int) + e)
  | _ => none

/-- The hard cases of binary arithmetic (R330), division by zero aside. `terms`: the addends whose cancellation counts. With flushing a
result that is tiny makes no hole (R234). -/
def binHard (f : Fmt) (ftz : Bool) (rm : Rm) (ops terms : List Num) (x : Ex) : Bool :=
  match x with
  | .mag _ m e st =>
    (m != 0 || st) &&
      (let r := (Nat.log2 m : Int) + e
       let cancels := match (terms.filterMap (·.ilog)).max? with | some t => r < t - 8 | none => false
       if ftz then cancels && !tinyBin f rm x else ops.any (·.isSub f) || r < -126 || cancels)
  | _ => false

/-- The hard cases of decimal arithmetic (R331): a tiny result, and one that clamping moves. -/
def decHard (qp : Int) (x : Ex) : Bool :=
  match x with
  | .mag _ m e st =>
    if m = 0 ∧ !st then qp < -398 || 369 < qp
    else
      let nd := decDigits m
      let lo := e + nd - 16
      let hi := e + decTrail 2000 m
      e + nd - 1 < -383 ||
        (!st && lo ≤ hi && lo ≤ 369 && max lo (min hi qp) != max (max lo (-398)) (min (min hi 369) qp))
  | _ => false

/-- A result rounded as the lanes round it (R226, R229, R234). -/
def laneRound (t : Ty) (fpctl : Word) (ftz : Bool) (qp : Int) (x : Ex) : Nat × Nat :=
  if t = .d64 then roundDec (drmOf fpctl) qp x
  else if ftz then roundFlush (fmtOf t) (brmOf fpctl) x
  else roundBin (fmtOf t) (brmOf fpctl) x

/-- The end of a lane operation: hard, or rounded. -/
def laneEnd (lane hard : Bool) (r : Nat × Nat) : Lane := if lane && hard then (0, 0, true) else (r.1, r.2, false)

/-- The exact result and the preferred exponent of add, sub, mul and div (R328). -/
def arithEx (fn : BinFn) (b : Nat) (rdn : Bool) (x y : Num) : Ex × Int :=
  match fn with
  | .add => (addEx b rdn x y, qpMin x.exp y.exp)
  | .sub => (addEx b rdn x y.negate, qpMin x.exp y.exp)
  | .mul => (mulEx x y, qpAdd x.exp y.exp)
  | _ => (divEx b x y, match x.exp, y.exp with | some p, some q => p - q | _, _ => -398)

/-- add, sub, mul and div of bf16, f32 and d64 (R328 to R331). -/
def laneArith (lane : Bool) (fn : BinFn) (t : Ty) (fpctl : Word) (a b : Nat) : Lane :=
  let ftz := ftzOn t fpctl
  let a' := flushIn t ftz a
  let b' := flushIn t ftz b
  let x := unpack t a'
  let y := unpack t b'
  let (ex, qp) := arithEx fn (baseOf t) (rmOf t fpctl == .rdn) x y
  let hard :=
    if t = .d64 then nonCanonical a || nonCanonical b || decHard qp ex
    else (fn == .div && y.isZero && !x.isInf && !x.isNan) ||
      binHard (fmtOf t) ftz (brmOf fpctl) [x, y] (if fn == .add || fn == .sub then [x, y] else []) ex
  laneEnd lane hard (laneRound t fpctl ftz qp ex)

/-- min and max (R286, R225): a non-canonical decimal operand is hard. -/
def laneMinMax (lane : Bool) (wantMax : Bool) (t : Ty) (fpctl : Word) (a b : Nat) : Lane :=
  let ftz := ftzOn t fpctl
  laneEnd lane (t == .d64 && (nonCanonical a || nonCanonical b))
    (minMaxT t wantMax (flushIn t (ftz && t != .d64) a) (flushIn t (ftz && t != .d64) b))

/-- A product as a number, for the cancellation rule. -/
def Ex.num : Ex → Num
  | .mag n m e _ => .fin n m e
  | .inf n _ => .inf n
  | .nan s => .nan s

/-- The fused forms of bf16, f32 and d64 (R332): bit 1 of the form negates the product, bit 0 the addend. -/
def laneFused (lane : Bool) (form : Nat) (t : Ty) (fpctl : Word) (a b c : Nat) : Lane :=
  let ftz := ftzOn t fpctl
  let x := unpack t (flushIn t ftz a)
  let x := if form.testBit 1 then x.negate else x
  let y := unpack t (flushIn t ftz b)
  let z := unpack t (flushIn t ftz c)
  let z' := if form.testBit 0 then z.negate else z
  let ex := fmaEx (baseOf t) (rmOf t fpctl == .rdn) x y z'
  let qp := match x.exp, y.exp with
    | some p, some q => qpMin (some (p + q)) z.exp
    | _, _ => z.exp.getD 0
  let hard :=
    if t = .d64 then nonCanonical a || nonCanonical b || nonCanonical c || decHard qp ex
    else binHard (fmtOf t) ftz (brmOf fpctl) [x, y, z] [(mulEx x y).num, z] ex
  laneEnd lane hard (laneRound t fpctl ftz qp ex)

/-- The fused forms of the integer types (R332). -/
def intFused (form : Nat) (t : Ty) (a b c : Nat) : Nat :=
  let p := intVal t a * intVal t b
  let p := if form.testBit 1 then -p else p
  wrapT t (if form.testBit 0 then p - intVal t c else p + intVal t c)

/-- Compares (R312, R313): the conditions eq, ne, lt, ge, le, gt. -/
def laneCmp (lane : Bool) (cond : Nat) (t : Ty) (a b : Nat) : Lane :=
  if !t.isInt then
    let x := unpack t a
    let y := unpack t b
    let truth :=
      if x.isNan || y.isNan then cond == 1
      else match numCmp (baseOf t) x y with
        | .eq => cond == 0 || cond == 3 || cond == 4
        | .lt => cond == 1 || cond == 2 || cond == 4
        | .gt => cond == 1 || cond == 3 || cond == 5
    let invalid := x.isSnan || y.isSnan || (1 < cond && (x.isNan || y.isNan))
    laneEnd lane (t == .d64 && (nonCanonical a || nonCanonical b))
      (if truth then 1 else 0, if invalid then 1 else 0)
  else (if intCmp cond (intVal t a) (intVal t b) then 1 else 0, 0, false)

/-- The functions of vv, vx and vi by code (R311, R328). -/
def binOf (fn : Nat) : BinFn :=
  match fn with
  | 0 => .add | 1 => .sub | 2 => .adds | 3 => .subs | 4 => .mul | 5 => .mulh | 6 => .div | 7 => .rem
  | 8 => .and | 9 => .or | 10 => .xor | 11 => .andn | 12 => .shl | 13 => .shr | 14 => .min | 15 => .max
  | _ => .quant

/-- One element of vv, vx and vi (R310, R311, R328, R329). -/
def laneVv (lane : Bool) (fn : Nat) (t : Ty) (fpctl : Word) (x y : Nat) : Lane :=
  if fn = 0x15 then (y % 2 ^ t.width, 0, false)
  else if !t.isInt then
    match fn with
    | 0x18 => (flipSign t x, 0, false)
    | 0x19 => (x % 2 ^ (t.width - 1), 0, false)
    | 0x1A =>
      let r := quantT (drmOf fpctl) x y
      laneEnd lane (nonCanonical x || nonCanonical y) r
    | 0x0E => laneMinMax lane false t fpctl x y
    | 0x0F => laneMinMax lane true t fpctl x y
    | _ => laneArith lane (binOf fn) t fpctl x y
  else
    match fn with
    | 0x12 => (intUn .pcnt t x, 0, false)
    | 0x13 => (intUn .clz t x, 0, false)
    | 0x14 => (intUn .ctz t x, 0, false)
    | _ => (intBin (binOf fn) t x y, 0, false)

/-- Mask logic (R314) on bit 0 of each operand: an operand that awaited a hole may hold its neighbours too. -/
def maskLogic (fn x y : Nat) : Nat :=
  let x := x % 2
  let y := y % 2
  match fn with
  | 0x20 => Nat.land x y
  | 0x21 => Nat.lor x y
  | 0x22 => Nat.xor x y
  | 0x23 => Nat.land x (1 - y)
  | 0x24 => 1
  | _ => 0

/-! ### Conversions (R333, R334) -/

/-- The rounding that a conversion's field selects (R333). `r` are the random bits of element and row. -/
def cvtRm (src dst : Ty) (rnd : Nat) (fpctl : Word) (r : Nat) : Rm :=
  match rnd with
  | 0 => if dst = .d64 ∨ (src = .d64 ∧ dst.isInt) then drmOf fpctl else brmOf fpctl
  | 1 => .rne | 2 => .rtz | 3 => .rup | 4 => .rdn
  | 5 => .sr r
  | _ => .rna

/-- The value of a source pattern; an mx4 element with its block's scale byte (R224, R335). -/
def cvtNum (src : Ty) (x scale : Nat) : Num :=
  if src = .mx4 then
    if scale = 0xFF then .nan false
    else match unpackBin .e2m1 (x % 16) with
      | .fin n m e => .fin n m (e + scale - 127)
      | v => v
  else if !src.isInt then unpack src x
  else let v := intVal src x
    .fin (v < 0) v.natAbs 0

/-- A conversion of one element to a type other than mx4 (R233, R333, R334). -/
def laneCvt (lane : Bool) (src dst : Ty) (rnd : Nat) (fpctl : Word) (r x scale : Nat) : Lane :=
  let rm := cvtRm src dst rnd fpctl r
  let v := cvtNum src x scale
  if dst.isInt then
    let (p, fl) := toIntT src dst rm x
    (p, fl, false)
  else
    let ex := convertEx (baseOf src) (baseOf dst) v
    let tiny := match ex with
      | .mag _ m e st => (m != 0 || st) && (Nat.log2 m : Int) + e < -126
      | _ => false
    let ftz := ftzOn dst fpctl
    let sub := (src == .bf16 || src == .f32) && (unpack src x).isSub (fmtOf src)
    let hard := match dst with
      | .f32 => (src == .d64 && nonCanonical x) || (tiny && !ftz)
      | .bf16 => sub || tiny
      | .d64 => src == .f32 && sub
      | _ => false
    laneEnd lane hard
      (if dst = .d64 then roundDec rm 0 ex
       else if ftz then roundFlush (fmtOf dst) rm ex
       else roundBin (fmtOf dst) rm ex)

/-- quant_mx4 (R235): the scale byte, the elements with the flags of each, and whether a NaN or an infinity was met. -/
def quantMx4 (src : Ty) (rm : Nat → Rm) (xs : List Nat) : Nat × List (Nat × Nat) × Bool :=
  let vs := xs.map (unpack src)
  if vs.any fun v => v.isNan || v.isInf then (0xFF, xs.map fun _ => (0, 0), true)
  else
    match (vs.filterMap (·.ilog)).max? with
    | none => (0x7F, vs.map fun v => (if v.neg then 8 else 0, 0), false)
    | some m =>
      let t := min (max (m - 2) (-127)) 127
      let el := fun (p : Num × Nat) =>
        match p.1 with
        | .fin n k e =>
          let (v, fl) := roundBin .e2m1 (rm p.2) (.mag n k (e - t) false)
          (v, if fl = 20 then 16 else fl)
        | _ => (0, 0)
      ((t + 127).toNat, vs.zipIdx.map el, false)

end Sys2Proof.Machine
end

