-- ==== Sys2Proof/Machine/Sfu.lean ====
section
/-! DEFINITION. The special functions (R336 to R339). The transcendental ones are approximated far past the twelve bits that
R338 reads; none of their values at a finite non-zero argument is a rounding boundary unless it is one of the exact
cases below (log 20). -/

namespace Sys2Proof.Machine

/-! ### Fixed point -/

/-- A sum of p/1 ± (p/n2)/3 + (p/n2^2)/5 …, with alternating signs for an arctangent. -/
def arcSum (n2 : Nat) (alt : Bool) : Nat → Nat → Nat → Int → Int
  | 0, _, _, acc => acc
  | fuel + 1, k, p, acc =>
    if p = 0 then acc
    else arcSum n2 alt fuel (k + 1) (p / n2) (acc + (if alt && k % 2 == 1 then -((p / (2 * k + 1) : Nat) : Int) else ((p / (2 * k + 1) : Nat) : Int)))

/-- ln 2 with P fraction bits. -/
def fixLn2 (P : Nat) : Nat := (2 * arcSum 9 false 600 0 (2 ^ (P + 32) / 3) 0).toNat / 2 ^ 32

/-- π with P fraction bits. -/
def fixPi (P : Nat) : Nat :=
  (16 * arcSum 25 true 600 0 (2 ^ (P + 32) / 5) 0 - 4 * arcSum 57121 true 600 0 (2 ^ (P + 32) / 239) 0).toNat / 2 ^ 32

/-- e^y for 0 ≤ y < 1. -/
def expSum (P y : Nat) : Nat → Nat → Nat → Nat → Nat
  | 0, _, _, acc => acc
  | fuel + 1, k, t, acc => if t = 0 then acc else expSum P y fuel (k + 1) (t * y / 2 ^ P / (k + 1)) (acc + t)
def fixExp (P y : Nat) : Nat := expSum P y 600 0 (2 ^ P) 0

/-- The series of sine (odd = 1) and cosine (odd = 0) in r2 = r^2, from term t on. -/
def trigSum (P r2 odd : Nat) : Nat → Nat → Nat → Int → Int
  | 0, _, _, acc => acc
  | fuel + 1, k, t, acc =>
    if t = 0 then acc
    else trigSum P r2 odd fuel (k + 1) (t * r2 / 2 ^ P / ((2 * k + 1 + odd) * (2 * k + 2 + odd)))
      (acc + if k % 2 = 1 then -(t : Int) else t)

/-- atanh u for 0 ≤ u < 1/4. -/
def atanhSum (P u2 : Nat) : Nat → Nat → Nat → Nat → Nat
  | 0, _, _, acc => acc
  | fuel + 1, k, t, acc => if t = 0 then acc else atanhSum P u2 fuel (k + 1) (t * u2 / 2 ^ P) (acc + t / (2 * k + 1))

/-- A magnitude m * 2^e in fixed point. -/
def toFix (P m : Nat) (e : Int) : Nat := if 0 ≤ e + P then m * 2 ^ (e + P).toNat else m / 2 ^ (-(e + P)).toNat

/-- 2^z for z with P fraction bits, as m * 2^e. -/
def pow2Fix (P : Nat) (z : Int) : Nat × Int :=
  let n := z / 2 ^ P
  let fr := (z - n * 2 ^ P).toNat
  (fixExp P (fr * fixLn2 P / 2 ^ P), n - P)

/-- An approximated magnitude v * 2^e as a lower bound with more behind it. -/
def nearEx (neg : Bool) (v : Nat) (e : Int) : Ex :=
  let d := (Nat.log2 v : Int) - 191
  let m := if 0 ≤ d then v / 2 ^ d.toNat else v * 2 ^ (-d).toNat
  .mag neg ((m - 2) / 2 ^ 48) (e + d + 48) true

/-- An argument for the exponential, clamped where every format saturates. -/
def clampFix (P m : Nat) (e : Int) : Nat := min (toFix P m e) (4096 * 2 ^ P)

/-- e^z for z with P fraction bits. -/
def expBig (P : Nat) (z : Int) : Nat × Int := pow2Fix P (z * 2 ^ P / fixLn2 P)

/-- 1 / (1 + m * 2^e). -/
def sigmoidOf (P m : Nat) (e : Int) : Nat × Int :=
  let den := if 0 ≤ e then 1 + m * 2 ^ e.toNat else 2 ^ (-e).toNat + m
  let k := P + Nat.log2 den
  (2 ^ k / den, -k + (if 0 ≤ e then 0 else -e))

/-! ### The functions at a finite non-zero argument -/

/-- The precision that the functions use for an argument. -/
def sfuP (m : Nat) (e : Int) : Nat := 320 + (-((Nat.log2 m : Int) + e)).toNat

def exp2Ex (neg : Bool) (m : Nat) (e : Int) : Ex :=
  let whole := 0 ≤ e || m % 2 ^ (-e).toNat == 0
  if whole then
    let n := min (if 0 ≤ e then m * 2 ^ (min e 20).toNat else m / 2 ^ (-e).toNat) 4096
    .mag false 1 (if neg then -(n : Int) else n) false
  else
    let P := sfuP m e
    let x := clampFix P m e
    let (v, ex) := pow2Fix P (if neg then -(x : Int) else x)
    nearEx false v ex

def log2Ex (m : Nat) (e : Int) : Ex :=
  let k := (Nat.log2 m : Int) + e
  if m = 2 ^ Nat.log2 m then .mag (k < 0) k.natAbs 0 false
  else
    let P := 400
    let one := 2 ^ Nat.log2 m
    let up := 3 * one ≤ 2 * m
    let k := if up then k + 1 else k
    let den := if up then 2 * one else one
    let below := m < den
    let u := (if below then den - m else m - den) * 2 ^ P / (m + den)
    let q := 2 * atanhSum P (u * u / 2 ^ P) 600 0 u 0 * 2 ^ P / fixLn2 P
    let r := k * 2 ^ P + (if below then -(q : Int) else q)
    nearEx (r < 0) r.natAbs (-P)

def sinCosEx (cos neg : Bool) (m : Nat) (e : Int) : Ex :=
  let P := sfuP m e
  let W := P + (Nat.log2 m + 1 + e).toNat + 8
  let x := toFix W m e
  let half := fixPi W / 2
  let j := (x + half / 2) / half
  let r := ((x : Int) - j * half) / 2 ^ (W - P)
  let a := r.natAbs
  let r2 := a * a / 2 ^ P
  let q := (j + if cos then 1 else 0) % 4
  let isCos := q % 2 == 1
  let v := if isCos then trigSum P r2 0 600 0 (2 ^ P) 0 else trigSum P r2 1 600 0 a 0
  let sign := (2 ≤ q) != (!isCos && r < 0)
  nearEx (sign != (!cos && neg)) v.toNat (-P)

def tanhEx (neg : Bool) (m : Nat) (e : Int) : Ex :=
  let P := sfuP m e
  let x := clampFix P m (e + 1)
  let (v, ex) := expBig P (-(x : Int))
  let t := toFix P v ex
  nearEx neg ((2 ^ P - t) * 2 ^ P / (2 ^ P + t)) (-P)

/-- e^-x of an argument. -/
def expNeg (P : Nat) (neg : Bool) (m : Nat) (e : Int) : Nat × Int :=
  let x := clampFix P m e
  expBig P (if neg then (x : Int) else -(x : Int))

def sigmEx (neg : Bool) (m : Nat) (e : Int) : Ex :=
  let P := sfuP m e
  let (v, ex) := expNeg P neg m e
  let (q, f) := sigmoidOf P v ex
  nearEx false q f

def siluEx (neg : Bool) (m : Nat) (e : Int) : Ex :=
  let P := sfuP m e
  let (v, ex) := expNeg P neg m e
  let (q, f) := sigmoidOf P v ex
  nearEx neg (m * q) (e + f)

/-! ### The table of R337 -/

/-- The exact results at zeros and infinities, and where a function is invalid (R337, R285). -/
def sfuEx (fn : SfuFn) (x : Num) : Ex :=
  match fn, x with
  | _, .nan s => .nan s
  | .rcp, x | .rcpe, x => rcpEx x
  | .rsq, x => rsqEx x
  | .sqrt, x => sqrtEx 2 x
  | .exp2, .inf n => if n then .mag false 0 0 false else .inf false false
  | .exp2, .fin n m e => if m = 0 then .mag false 1 0 false else exp2Ex n m e
  | .log2, .inf n => if n then .nan true else .inf false false
  | .log2, .fin n m e => if m = 0 then .inf true true else if n then .nan true else log2Ex m e
  | .sin, .inf _ | .cos, .inf _ => .nan true
  | .sin, .fin n m e => if m = 0 then .mag n 0 0 false else sinCosEx false n m e
  | .cos, .fin n m e => if m = 0 then .mag false 1 0 false else sinCosEx true n m e
  | .tanh, .inf n => .mag n 1 0 false
  | .tanh, .fin n m e => if m = 0 then .mag n 0 0 false else tanhEx n m e
  | .silu, .inf n => if n then .mag true 0 0 false else .inf false false
  | .silu, .fin n m e => if m = 0 then .mag n 0 0 false else siluEx n m e
  | .sigm, .inf n => if n then .mag false 0 0 false else .mag false 1 0 false
  | .sigm, .fin n m e => if m = 0 then .mag false 1 (-1) false else sigmEx n m e

/-- Whether an exact result is near a tie of a format (R338). -/
def nearTie (f : Fmt) (x : Ex) : Bool :=
  match x with
  | .mag _ m e st =>
    let d := max ((Nat.log2 m : Int) + e) f.emin - f.p + 1 - e
    let tail := if 12 ≤ d then m / 2 ^ (d - 12).toNat % 4096 else m * 2 ^ (12 - d).toNat % 4096
    (st || (0 < d && m % 2 ^ d.toNat != 0)) && (tail == 0x7FF || tail == 0x800)
  | _ => false

/-- The functions that are rounded under BRM; the others ignore it (R337). -/
def sfuRm (fn : SfuFn) (fpctl : Word) : Rm :=
  match fn with
  | .rcp | .rsq | .sqrt => brmOf fpctl
  | _ => .rne

/-- The twelve-bit format of rcpe for f32 (R339). -/
def Fmt.est : Fmt := ⟨20, 12, -126, 0x7F7FF, some 0x7F800, 0x7FC00⟩

/-- The functions by code (R337). -/
def sfuOf (fn : Nat) : SfuFn :=
  match fn with
  | 0 => .rcp | 1 => .rcpe | 2 => .rsq | 3 => .sqrt | 4 => .exp2 | 5 => .log2 | 6 => .sin | 7 => .cos | 8 => .tanh
  | 9 => .silu | _ => .sigm

/-- One element of vsfu (R336 to R339). A flushed result makes no hole (R234), and an overflow is easy (R337). -/
def laneSfu (lane : Bool) (fn : SfuFn) (t : Ty) (fpctl : Word) (a : Nat) : Lane :=
  let ftz := ftzOn t fpctl
  let f := fmtOf t
  let x := unpackBin f (flushIn t ftz a)
  let est := fn == .rcpe && t == .f32
  let g := if est then Fmt.est else f
  let ex := sfuEx fn x
  let rm := sfuRm fn fpctl
  let flushed := ftz && tinyBin g rm ex
  let big := match x.ilog with
    | some l => ((fn == .rcp || fn == .rcpe) && 126 ≤ l && !flushed) || ((fn == .sin || fn == .cos) && 16 ≤ l)
    | none => false
  if lane && (x.isSub f || big || (x.isZero && (fn == .rcp || fn == .rcpe || fn == .rsq))) then (0, 0, true)
  else
    let tiny := match ex with
      | .mag _ m e st => (m != 0 || st) && (Nat.log2 m : Int) + e < -126
      | _ => false
    let tie := match fn with
      | .rcp | .rcpe | .rsq | .sqrt => false
      | _ => nearTie f ex && !flushed && !(roundBin f rm ex).2.testBit 2
    let r := if ftz then roundFlush g rm ex else roundBin g rm ex
    laneEnd lane ((tiny && !ftz) || tie) (if est then (r.1 * 4096, r.2) else r)

end Sys2Proof.Machine
end

