-- ==== Sys2Proof/Machine/Lanes.lean ====
section
/-! DEFINITION. Positions of a vector entry: operands, masks, results, holes and poison (R143, R156, R160 to R164, R201,
R202, R300, R301, R310 to R314, R317, R328 to R338). -/

namespace Sys2Proof.Machine

/-- A register as an entry reads it: the copy it began with where it also writes the register. -/
def entryReg (h : Hart) (e : VEntry) (n : Nat) : VReg :=
  match e.old.find? (·.1 == n) with
  | some p => p.2
  | none => h.vreg n

/-! ### Stops -/

/-- A stop at a position (R27, R196). -/
def Stop.at (st : Stop) (reg el : Nat) : Stop :=
  match st with
  | .trap t => .trap { t with treg := reg, telem := el }
  | st => st

/-- POISON at an element, with the recorded cause (R195, R202). -/
def poisonStop (reg el cause sub : Nat) : Stop :=
  .trap { cause := .poison, sub := sub % 16, level := sub / 16 % 16, orig := cause, treg := reg, telem := el }

/-- UE at an element read from a vector register (R195, R210). -/
def vrfStop (reg el : Nat) : Stop := .trap { cause := .ue, sub := 1, treg := reg, telem := el }

/-- ILL at an element (R191). -/
def illStop (sub reg el : Nat) : Stop := .trap { cause := .ill, sub := sub, treg := reg, telem := el }

/-- A value that must be seen (R161, R202). -/
inductive Must where
  | val (n : Nat)
  | wait
  | stop (st : Stop)
  deriving DecidableEq, Repr

def mustOf (reg el : Nat) (x : Opnd) : Must :=
  match x with
  | .val v => .val v
  | .hole _ => .wait
  | .poisoned c sub => .stop (poisonStop reg el c sub)
  | .broken => .stop (vrfStop reg el)

/-- Element el of w bits of a register, as an entry must see it. -/
def mustSee (h : Hart) (e : VEntry) (n el w : Nat) : Must := mustOf n el ((entryReg h e n).look (el * w) w)

/-- Whether an element is active (R300): 1 or 0. A hole in the mask delays (R161). -/
def gate (h : Hart) (e : VEntry) (el : Nat) : Must :=
  if e.vmk = 0 then .val 1
  else match mustSee h e 0 el 1 with
    | .val b => .val (if b = e.vmk % 2 then 1 else 0)
    | m => m

/-! ### Positions -/

/-- What became of one position. -/
inductive Pos where
  | done (s : State)
  | wait (s : State)
  | stop (s : State) (st : Stop)

/-- What became of a run of positions, and where it ended. `bp`: a breakpoint halted it there. -/
inductive RunOut where
  | done (s : State)
  | wait (s : State) (el q : Nat)
  | stop (s : State) (el q : Nat) (st : Stop)
  | halt (s : State) (el q : Nat) (bp : Bool)

/-- A position before which a breakpoint halts, if no fault there goes first (R408). -/
def Pos.halts (p : Pos) (s : State) (el q : Nat) : RunOut :=
  match p with
  | .stop s st => .stop s el q st
  | .wait s => .wait s el q
  | .done _ => .halt s el q true

/-- Positions in element order from (el, q) on (R27), up to an element or to a rank that the debug unit stops at, by a step or by a
breakpoint (R408, R410). -/
def runPos (f : State → Nat → Nat → Pos) (rows lim : Nat) (cut : Option (Nat × Bool)) : Nat → Nat → Nat → State → RunOut
  | 0, _, _, s => .done s
  | fuel + 1, el, q, s =>
    if lim ≤ el then .done s
    else if cut = some (el * rows + q, false) then .halt s el q false
    else if cut = some (el * rows + q, true) then (f s el q).halts s el q
    else match f s el q with
      | .done s => if q + 1 < rows then runPos f rows lim cut fuel el (q + 1) s else runPos f rows lim cut fuel (el + 1) 0 s
      | .wait s => .wait s el q
      | .stop s st => .stop s el q st

/-- A register of a hart with an element written (R41, R43). -/
def putElem (s : State) (k n el w v : Nat) : State :=
  let h := s.hartAt k
  s.setHartAt k (h.setVreg n { (h.vreg n).put (el * w) w v with tag := max w 8 })

/-- A register of a hart with an element poisoned (R161). -/
def poisonElem (s : State) (k n el w cause sub : Nat) : State :=
  let h := s.hartAt k
  s.setHartAt k (h.setVreg n { (h.vreg n).putPoison (el * w) w cause sub with tag := max w 8 })

/-- A hole-queue entry with its element made a hole; none when the queue is full (R162, R164). -/
def makeHole (s : State) (k n el w : Nat) (x : HoleEntry) : Option State :=
  let c := s.coreAt (coreOf k)
  match freeHole c with
  | none => none
  | some i =>
    let x := { x with id := i, st := if x.links = [] then .ready else .linked }
    let s := s.setCoreAt (coreOf k) (addHole c x)
    let h := s.hartAt k
    some (s.setHartAt k (h.setVreg n { (h.vreg n).putHole (el * w) w i with tag := max w 8 }))

/-- An operand of a position as read: what is there, and its bits and lowest bit for a link. -/
structure Read where
  what : Opnd
  raw  : Nat
  bit  : Nat
  reg  : Nat

def readReg (v : VReg) (n bit w : Nat) : Read := { what := v.look bit w, raw := v.get bit w, bit := bit, reg := n }

def readSrc (h : Hart) (e : VEntry) (q el : Nat) (x : Src) : Read :=
  match x with
  | .none => ⟨.val 0, 0, 0, 0⟩
  | .val v => ⟨.val v, v, 0, 0⟩
  | .vec r w => readReg (entryReg h e (r.val + q)) (r.val + q) (el * w) w
  | .scale half => readReg (entryReg h e 1) 1 ((128 * half + el / 32) * 8) 8

/-- The operand that settles a position without a value: a broken one before a poisoned one (R197). DESIGN CHOICE (log 62): of two
poisoned operands the first in operand order gives the cause, and a poisoned operand goes before a hole (R161). -/
def firstBad (rs : List Read) : Option (Nat × Opnd) :=
  let broken := rs.find? fun r => r.what == .broken
  let poisoned := rs.find? fun r => match r.what with | .poisoned .. => true | _ => false
  (broken <|> poisoned).map fun r => (r.reg, r.what)

/-- The links of three operands. -/
def linksAll (c : Core) (rs : List Read) : List Link :=
  rs.zipIdx.flatMap fun p => match p.1.what with
    | .hole ids => linksOf c.holes p.2 p.1.bit ids
    | _ => []

/-- Where a position's result goes, and how a hole of it is described. -/
structure Target where
  reg : Nat
  el  : Nat
  w   : Nat

/-- The hole-queue entry for a position of an entry (R162, R345). -/
def holeFor (e : VEntry) (t st : Ty) (d : Reg) (q : Nat) (g : Target) (rs : List Read) (links : List Link) (slot : Nat) :
    HoleEntry :=
  let raw := fun i => BitVec.ofNat 64 ((rs[i]?.map (·.raw)).getD 0)
  let sr := e.maj == 0x25 && e.fn % 8 == 5
  { id := 0, gen := 0, slot := slot, seq := e.seq, age := e.age, row := q, elem := g.el, dreg := d.val
    maskBit := e.maj == 0x1D, sr := sr, maj := e.maj, fn := e.fn, ty := t, sty := st, fpctl := e.fpctl
    srcnt := if sr then e.srcnt else 0, srkey := if sr then e.key else 0
    opa := raw 0, opb := raw 1, opc := raw 2, links := links, wid := g.w, st := .ready }

/-- One element as the function of an entry computes it. `key count`: the SR state; el and q: element and row (R231). -/
def elemFn (lane : Bool) (maj fn : Nat) (t st : Ty) (fpctl : Word) (key count el q x y z : Nat) : Lane :=
  match maj with
  | 0x1C => if t.isInt then (intFused (fn % 4) t x y z, 0, false) else laneFused lane (fn % 4) t fpctl x y z
  | 0x1D => if fn < 0x20 then laneCmp lane (fn % 8) t x y else (maskLogic fn x y, 0, false)
  | 0x1F => if fn = 6 then (wrapT t (x + el : Nat), 0, false) else (x, 0, false)
  | 0x20 => laneSfu lane (sfuOf fn) t fpctl x
  | 0x25 => laneCvt lane st t (fn % 8) fpctl (srBits key count el q) x y
  | 0x31 => (y, 0, false)
  | _ => laneVv lane fn t fpctl x y

/-- Whether the exceptions of an instruction are decimal (R236, R284). -/
def decOp (t st : Ty) : Bool := t == .d64 || st == .d64

/-! ### Room in the hole queue (R160, R164) -/

/-- Whether an instruction may create holes (R160): arithmetic, fused, conversion and special functions with bf16, f32 or d64
results, d64 compares, and relief evaluation. -/
def createsHoles (maj fn : Nat) (t : Ty) : Bool :=
  match maj with
  | 0x1D => fn < 0x20 && t == .d64
  | 0x1F => false
  | 0x1C | 0x20 | 0x25 | 0x31 => t == .bf16 || t == .f32 || t == .d64
  | _ => (t == .bf16 || t == .f32 || t == .d64) && fn != 0x15 && fn != 0x18 && fn != 0x19 &&
      (t == .d64 || (fn != 0x0E && fn != 0x0F))

/-- Elements of a micro-operation of an entry: an element group, of which a register is eight deep, and at most 128 (R42, R164). -/
def groupOf (s : State) (k : Nat) (e : VEntry) : Nat := max 1 (min 128 (s.lenOf k / opWidth e.op))

/-- Whether a register holds a hole in an element group, for elements of w bits of which a group has n. -/
def groupHole (v : VReg) (w n el : Nat) : Bool :=
  v.absent.any fun (p : Nat × Absent) => p.2.fills != [] &&
    el / n * n * w < (p.1 + 1) * 16 && p.1 * 16 < (el / n + 1) * n * w

/-- Whether a micro-operation of an entry may take entries of the hole queue: it may create holes, or reads a hole in a group that
it reads; a permute or a slide may read any group. -/
def takesHoles (h : Hart) (e : VEntry) (n el q : Nat) : Bool :=
  let of := fun (x : Src) => match x with
    | .vec r w => groupHole (entryReg h e (r.val + q)) w n el
    | _ => false
  match e.op with
  | .lane t _ _ _ _ _ a b c => createsHoles e.maj e.fn t || of a || of b || of c
  | .move .compress t _ a _ => groupHole (entryReg h e (a.val + q)) t.width n el
  | .move _ _ _ a b => (entryReg h e (a.val + q)).anyHole || (entryReg h e (b.val + q)).anyHole
  | .spEval .. | .spDx .. => true
  | _ => false

/-- Whether an entry is the oldest of its core that may take entries of the hole queue now (R164). -/
def oldestTaker (s : State) (k : Nat) (e : VEntry) : Bool :=
  (List.range 4).all fun n =>
    let j := coreOf k * 8 + n
    let h := s.hartAt j
    j == k || h.intrap || match h.viq with
      | x :: _ => e.age ≤ x.age || !takesHoles h x (groupOf s j x) x.elem x.row
      | [] => true

/-- Whether a micro-operation may issue (R164): the free entries of the hole queue cover its elements, and 128 more unless it is
the oldest of the core. It is asked where the micro-operation begins, and where its entry goes on within one; the micro-operations
that sweep the rows of a tile go together, so the first asks for the room of all. -/
def holeRoom (s : State) (k : Nat) (e : VEntry) (el q : Nat) : Bool :=
  let n := groupOf s k e
  let resumes := el == e.elem && q == e.row
  let left := min (n - el % n) (e.count - el)
  let free := Config.holeSlots - (s.coreAt (coreOf k)).holes.length
  if el % n != 0 && !resumes || !takesHoles (s.hartAt k) e n el q then true
  else if left ≤ free && oldestTaker s k e then true
  else if q = 0 || resumes then left * e.height + 128 ≤ free else !oldestTaker s k e

/-- A position, where its micro-operation may issue. -/
def roomed (s : State) (k : Nat) (e : VEntry) (el q : Nat) (act : Pos) : Pos := if holeRoom s k e el q then act else .wait s

/-- A position that writes a result, a hole or poison from the operands that were read (R161, R201, R210, R329). A broken word
poisons the element, but in a protected strip it is a stop. DESIGN CHOICE (log 62): an element with a hole and a poisoned operand is
poisoned at once, with no entry. -/
def putPos (s : State) (k : Nat) (e : VEntry) (t st : Ty) (d : Reg) (el q : Nat) (g : Target) (rs : List Read)
    (f : Nat → Nat → Nat → Lane) (moved : Option (VReg × Nat) := none) : Pos :=
  let h := s.hartAt k
  let c := s.coreAt (coreOf k)
  match firstBad rs with
  | some (_, .poisoned cause sub) => .done (poisonElem s k g.reg g.el g.w cause sub)
  | some (n, _) =>
    if h.buffers then .stop s (vrfStop n el)
    else .done ((poisonElem s k g.reg g.el g.w (causeCode .ue) 1).note (vrfStop n el))
  | none =>
    let hole := fun links =>
      match makeHole s k g.reg g.el g.w { holeFor e t st d q g rs links (slotOf k) with moved := moved } with
      | some s => Pos.done s
      | none => .wait s
    let links := linksAll c rs
    if links ≠ [] then hole links
    else
      let raw := fun (i : Nat) => (rs[i]?.map (·.raw)).getD 0
      let (v, fl, hard) := f (raw 0) (raw 1) (raw 2)
      if hard then hole []
      else
        let dec := decOp t st
        let en := enabled e.fpctl dec fl
        let s := s.setHartAt k { h with fpflags := raiseFlags h.fpflags dec fl }
        if en != 0 && !(e.masked && el == e.elem && q == e.row) then
          .stop s (.trap { cause := fpCause dec, sub := firstSub en, treg := g.reg, telem := el })
        else .done (putElem s k g.reg g.el g.w v)

/-- The operands of a compare into v0, whose result masks later instructions: each must be seen (R161, R202). -/
def seeOperands (el : Nat) (rs : List Read) : Option Must :=
  let ms := rs.map fun r => mustOf r.reg el r.what
  let stop := match firstBad rs with | some (n, x) => some (mustOf n el x) | none => none
  stop <|> ms.find? (· == .wait)

/-- A position when its element is active; a mask that must be waited for, or that is poisoned, stops it. -/
def gated (m : Must) (s : State) (act : Pos) : Pos :=
  match m with
  | .val 0 => .done s
  | .val _ => act
  | .wait => .wait s
  | .stop st => .stop s st

/-- One position of a lane entry (R310, R312, R314, R329, R332, R334, R336). -/
def lanePos (k : Nat) (e : VEntry) (t st : Ty) (d : Reg) (wd : Nat) (all : Bool) (a b c : Src) (s : State) (el q : Nat) : Pos :=
  let h := s.hartAt k
  let rs := [a, b, c].map (readSrc h e q el)
  let act := putPos s k e t st d el q ⟨d.val + q, el, wd⟩ rs (elemFn true e.maj e.fn t st e.fpctl e.key e.srcnt el q)
  let controls := e.maj == 0x1D && e.fn < 0x20 && d == 0
  roomed s k e el q <| gated (if all then .val 1 else gate h e el) s
    (match (if controls then seeOperands el rs else none) with
    | some .wait => .wait s
    | some (.stop st) => .stop s st
    | _ => act)

/-- Active elements below one (R317, compress). -/
def activeBelow (h : Hart) (e : VEntry) (el : Nat) : Nat :=
  ((List.range el).filter fun i => gate h e i == .val 1).length

/-- Element src of a moved register, or zero beyond the capacity (R317). -/
def moveRead (h : Hart) (e : VEntry) (n w cap src : Nat) : Read :=
  if src < cap then readReg (entryReg h e n) n (src * w) w else ⟨.val 0, 0, 0, 0⟩

/-- One position of a move (R317). An index that is a hole makes a linked hole, like any operand, whose entry keeps the register that
it moves (R161, log 21). -/
def movePos (k cap : Nat) (e : VEntry) (fn : MoveFn) (t : Ty) (d a b : Reg) (s : State) (el q : Nat) : Pos :=
  let h := s.hartAt k
  let w := t.width
  let n := a.val + q
  let put := fun (el' : Nat) (rs : List Read) =>
    putPos s k e t t d el q ⟨d.val + q, el', w⟩ rs (fun x _ _ => (x, 0, false))
  let act :=
    match fn with
    | .slup => if el < e.y.toNat then Pos.done s else put el [moveRead h e n w cap (el - e.y.toNat)]
    | .sldn => put el [moveRead h e n w cap (el + e.y.toNat)]
    | .compress => put (activeBelow h e el) [moveRead h e n w cap el]
    | .perm =>
      let iw := indexWidth w
      let r := readReg (entryReg h e (b.val + q)) (b.val + q) (el * iw) iw
      match r.what with
      | .val i => put el [moveRead h e n w cap i, r]
      | _ => putPos s k e t t d el q ⟨d.val + q, el, w⟩ [⟨.val 0, 0, 0, 0⟩, r] (fun x _ _ => (x, 0, false))
          (moved := some (entryReg h e n, cap))
  roomed s k e el q <| gated (gate h e el) s act

/-- vperm.ins (R317): one element of each row. -/
def insPos (k : Nat) (e : VEntry) (t : Ty) (d : Reg) (s : State) (el q : Nat) : Pos :=
  if el ≠ e.y.toNat then .done s
  else gated (gate (s.hartAt k) e el) s (.done (putElem s k (d.val + q) el t.width (opnd t e.x)))

end Sys2Proof.Machine
end

