-- ==== Sys2Proof/Machine/VMem.lean ====
section
/-! DEFINITION. Vector loads and stores, streams and spill frames (R25 to R30, R45 to R49, R61 to R68, R111 to R113,
R321 to R326). -/

namespace Sys2Proof.Machine

/-! ### Positions and addresses -/

/-- Every position of an entry from its progress index on, in element order (R27). -/
def positionsFrom (el q rows lim : Nat) : List (Nat × Nat) :=
  (List.range (lim - el)).flatMap fun i =>
    (List.range rows).filterMap fun r => if i = 0 ∧ r < q then none else some (el + i, r)

/-- The address of a position (R321); an index must be seen. `vl` is the entry's count. -/
def addrOf (h : Hart) (e : VEntry) (mode : VMode) (t : Ty) (b : Reg) (el q : Nat) : Must :=
  let n := q * e.count + el
  let base := e.x.toNat
  let idx := fun (scale : Nat) =>
    match mustSee h e (b.val + q) el (indexWidth t.width) with
    | .val i => Must.val ((base + i * scale) % 2 ^ 64)
    | m => m
  match mode with
  | .unit => .val ((base + if t = .mx4 then n / 2 else n * t.size) % 2 ^ 64)
  | .stride => .val ((e.x + BitVec.ofNat 64 n * e.stride).toNat)
  | .index => idx 1
  | .elem => idx t.size

/-- Which nibble of its byte an mx4 position is (R41). -/
def nibbleOf (e : VEntry) (el q : Nat) : Nat := (q * e.count + el) % 2

/-! ### Run-ahead (R25, R30, R110) -/

/-- A memory operation of an entry: its access, whether it uses the unit-stride register (R24), the bytes of a position, the
register that faults name, the address of a position, what a store's position writes, and its nibble of an mx4 byte. -/
structure MemOp where
  acc  : Access
  unit : Bool := false
  size : Nat
  reg  : Nat
  addr : Hart → Nat → Nat → Must
  data : Hart → Nat → Nat → Must := fun _ _ _ => .val 0
  nib  : Option (Nat → Nat → Nat) := none

/-- An access of a position that the run-ahead pipeline has let through. -/
structure Acc where
  el    : Nat
  q     : Nat
  va    : Nat
  place : Place
  page  : Option TlbEntry

/-- Where a segment ends (R25): with the instruction, before a page too many, at a position whose mask or index it must wait for,
or at the first position that faults. -/
inductive AheadEnd where
  | all
  | more (rest : List (Nat × Nat))
  | wait (el q : Nat)
  | stop (el q : Nat) (st : Stop)

/-- A segment: the state with the translations kept, its accesses in element order, all translations of the instruction. -/
structure Ahead where
  s     : State
  accs  : List Acc
  pages : List TlbEntry
  fin   : AheadEnd

/-- What a target says against a write, register blocks included. -/
def writeStop (s : State) (k : Nat) (p : Place) (va : Nat) : Option Stop :=
  match p.loc with
  | .regs a => if regAccepts s (coreOf k) true a then none else some (memTrap .access 2 va)
  | _ => targetWriteStop s k p va

/-- The translation of one position (R16, R22, R25, R32): where it goes, and what its target says against a write. -/
def MemOp.goes (m : MemOp) (k : Nat) (pages : List TlbEntry) (s : State) (va : Nat) : Except Stop (Place × Option TlbEntry × State) :=
  match aligned va m.size with
  | .error st => .error st
  | .ok _ =>
    match translateBy pages s k m.acc m.unit va with
    | .error st => .error st
    | .ok (p, page, s) =>
      match (if m.acc = .load then none else writeStop s k p va) with
      | some st => .error st
      | none => .ok (p, page, s)

/-- A position that must see a poisoned value, and whose data word is broken, reports UE (R197). -/
def MemOp.worse (m : MemOp) (h : Hart) (el q : Nat) (st : Stop) : Stop :=
  match st, m.data h el q with
  | .trap t, .stop (.trap u) => if t.cause = .poison ∧ u.cause = .ue then .trap u else st
  | _, _ => st

/-- The late fault that a target has reported at a position (R28 to R30). -/
def VEntry.lateAt (e : VEntry) (el q : Nat) : Option TrapInfo :=
  match e.late with
  | some (f, r, t) => if f = el ∧ r = q then some t else none
  | none => none

/-- Whether an unordered store has performed a position before (R113). -/
def VEntry.did (e : VEntry) (el q : Nat) : Bool := e.doneAt.any fun p => p.1 == el && p.2.1 == q

/-- The run-ahead pipeline over positions in element order that have not performed, up to a segment's end (R25). `seen`: the pages
that the segment touches. -/
def runAhead (m : MemOp) (k : Nat) (e : VEntry) :
    List (Nat × Nat) → List Nat → List Acc → List TlbEntry → State → Ahead
  | [], _, accs, pages, s => ⟨s, accs, pages, .all⟩
  | (el, q) :: rest, seen, accs, pages, s =>
    let h := s.hartAt k
    if e.did el q then runAhead m k e rest seen accs pages s
    else match gate h e el with
    | .wait => ⟨s, accs, pages, .wait el q⟩
    | .stop st => ⟨s, accs, pages, .stop el q (m.worse h el q st)⟩
    | .val 0 => runAhead m k e rest seen accs pages s
    | .val _ =>
      match m.addr h el q with
      | .wait => ⟨s, accs, pages, .wait el q⟩
      | .stop st => ⟨s, accs, pages, .stop el q (m.worse h el q st)⟩
      | .val va =>
        let page := va / 2 ^ 16
        let seen' := if seen.contains page then seen else page :: seen
        if Config.segmentPages < seen'.length then ⟨s, accs, pages, .more ((el, q) :: rest)⟩
        else match m.goes k pages s va with
          | .error st => ⟨s, accs, pages, .stop el q (st.at (m.reg + q) el)⟩
          | .ok (p, t, s) =>
            if let some f := e.lateAt el q then ⟨s, accs, pages, .stop el q ((Stop.trap { f with taddr := va }).at (m.reg + q) el)⟩ else
            let pages' := match t with | some x => if pages.contains x then pages else pages ++ [x] | none => pages
            runAhead m k e rest seen' (accs ++ [⟨el, q, va, p, t⟩]) pages' s

/-- The ranges of an ARIT entry with one more access: for a target, from the lowest address to the end of the highest (R110). -/
def addSpan (l : List Span) (loc : Loc) (n : Nat) : List Span :=
  match l.find? (·.loc.target == loc.target) with
  | none => l ++ [{ loc := loc, len := n }]
  | some x =>
    let lo := min x.loc.addr loc.addr
    let hi := max (x.loc.addr + x.len) (loc.addr + n)
    l.map fun y => if y.loc.target == loc.target then { loc := loc.target.plus lo, len := hi - lo } else y

/-- The ranges with those of some accesses of n bytes. -/
def spansOf (l : List Span) (accs : List Acc) (n : Nat) : List Span := accs.foldl (fun l a => addSpan l a.place.loc n) l

/-- A range as ARIT entries hold it (R110, R136): what translates of n bytes from an address on. -/
def rangeSpans (s : State) (k : Nat) (acc : Access) (va n : Nat) : List Span :=
  (pieces (2 ^ 16) (va % 2 ^ 64) n).filterMap fun p =>
    match translate s k acc false (p.1 % 2 ^ 64) with
    | .ok (q, _) => some { loc := q.loc, len := p.2 }
    | .error _ => none

/-- An entry that keeps the translations and the ranges of one more segment (R39, R110): with the last it has passed the run-ahead
pipeline. -/
def VEntry.passed (e : VEntry) (a : Ahead) (n : Nat) : VEntry :=
  { e with pages := a.pages, spans := spansOf e.spans a.accs n
           entered := e.entered || match a.fin with | .all | .stop .. => true | _ => false }

/-! ### Loads -/

/-- What became of a load: all positions, a trim at element f (R28), a wait for an index or a mask, a stop. -/
inductive LoadOut where
  | done (s : State)
  | trim (s : State) (f : Nat)
  | wait (s : State)
  | stop (s : State) (el q : Nat) (st : Stop)

/-- The causes that trim a load (R28). -/
def trims (st : Stop) : Bool :=
  match st with
  | .trap t => match t.cause with
    | .align | .page | .perm | .memcap | .access | .remote => true
    | _ => false
  | _ => false

/-- Values loaded land in a register's rows. -/
def landAll (s : State) (k reg w : Nat) (vals : List (Nat × Nat × Nat)) : State :=
  vals.foldl (fun s v => putElem s k (reg + v.2.1) v.1 w v.2.2) s

/-- A copy that is tracked and has failed at some of the bytes that a vector load reads (R70). -/
def trackStop (s : State) (p : Place) (n va : Nat) : Option Stop :=
  match p.loc with
  | .spad c off =>
    (s.coreAt c).tracks.findSome? fun t =>
      if t.dst + t.done < off + n ∧ off < t.dst + t.len then t.fail.map fun f => .trap { f with taddr := va } else none
  | _ => none

/-- The reads of a segment in element order (R27, R70, R210): the values, and the first failure. -/
def loadAccs (k : Nat) (t : Ty) (m : MemOp) (s : State) :
    List Acc → List (Nat × Nat × Nat) → List (Nat × Nat × Nat) × Option (Nat × Nat × Stop)
  | [], vals => (vals, none)
  | a :: rest, vals =>
    match trackStop s a.place m.size a.va with
    | some st => (vals, some (a.el, a.q, st.at (m.reg + a.q) a.el))
    | none =>
      match viewPlace s k a.place m.size a.va with
      | .error st => (vals, some (a.el, a.q, st.at (m.reg + a.q) a.el))
      | .ok b =>
        let v := match m.nib with | some f => leNat b / 16 ^ f a.el a.q % 16 | none => leNat b
        loadAccs k t m s rest (vals ++ [(a.el, a.q, v)])

/-- A load whose first failure is at (el, q): fault-only-first (R28, R29), or a stop (R202, R210). -/
def loadFault (k : Nat) (t : Ty) (m : MemOp) (start : Nat) (s : State) (vals : List (Nat × Nat × Nat)) (el q : Nat) (st : Stop) :
    LoadOut :=
  if trims st && start < el then .trim (landAll s k m.reg t.width (vals.filter (·.1 < el))) el
  else .stop (landAll s k m.reg t.width vals) el q st

/-- A load, segment by segment (R25, R27 to R29, R322). -/
def loadFrom (k : Nat) (e : VEntry) (t : Ty) (m : MemOp) (start : Nat) :
    Nat → List (Nat × Nat) → List TlbEntry → List (Nat × Nat × Nat) → State → LoadOut
  | 0, _, _, vals, s => .done (landAll s k m.reg t.width vals)
  | fuel + 1, poss, pages, vals, s =>
    let a := runAhead m k e poss [] [] pages s
    match a.fin with
    | .wait _ _ => .wait a.s
    | fin =>
      match loadAccs k t m a.s a.accs vals with
      | (vals, some (el, q, st)) => loadFault k t m start a.s vals el q st
      | (vals, none) =>
        match fin with
        | .stop el q st => loadFault k t m start a.s vals el q st
        | .more rest => loadFrom k e t m start fuel rest a.pages vals a.s
        | _ => .done (landAll a.s k m.reg t.width vals)

/-! ### Stores -/

/-- The mask of a position's bytes, and the byte or the number it stores: one nibble of an mx4 byte, the other is merged (R103). -/
def MemOp.put (m : MemOp) (el q v : Nat) : Nat × Nat :=
  match m.nib with
  | some f => if f el q = 0 then (0x0F, v % 16) else (0xF0, v % 16 * 16)
  | none => (0xFF, v)

/-- One position of a store performs (R323). -/
def storeAcc (k : Nat) (m : MemOp) (ordered : Bool) (s : State) (a : Acc) (v : Nat) : Except Stop State :=
  let (mask, x) := m.put a.el a.q v
  match storePlace s k a.place a.page mask ordered (leBytes m.size x) a.va with
  | .error st => .error (st.at (m.reg + a.q) a.el)
  | .ok s => .ok s

/-- What a segment of a store comes to. -/
inductive SegOut where
  | done (s : State)
  | wait (s : State) (el q : Nat)
  | stop (s : State) (el q : Nat) (st : Stop)

/-- The positions of a segment of an ordered store, in element order (R30, R111, R113). -/
def storeAccs (k : Nat) (m : MemOp) : List Acc → State → SegOut
  | [], s => .done s
  | a :: rest, s =>
    match m.data (s.hartAt k) a.el a.q with
    | .wait => .wait s a.el a.q
    | .stop st => .stop s a.el a.q st
    | .val v =>
      match storeAcc k m true s a v with
      | .error st => .stop s a.el a.q st
      | .ok s => storeAccs k m rest s

/-- Segments whose accesses perform in element order: where they ended, and the entry that keeps its run-ahead. A segment that must
wait for a mask or an index performs nothing before all of it is translated (R25). -/
def segmentsFrom (k : Nat) (m : MemOp) (perform : List Acc → State → SegOut) :
    Nat → List (Nat × Nat) → VEntry → State → SegOut × VEntry
  | 0, _, e, s => (.done s, e)
  | fuel + 1, poss, e, s =>
    let a := runAhead m k e poss [] [] e.pages s
    let e := e.passed a m.size
    match a.fin with
    | .wait _ _ => let p := poss.headD (e.elem, e.row)
      (.wait a.s p.1 p.2, e)
    | fin =>
      match perform a.accs a.s with
      | .done s =>
        match fin with
        | .more rest => segmentsFrom k m perform fuel rest e s
        | .stop el q st => (.stop s el q st, e)
        | _ => (.done s, e)
      | r => (r, e)

/-- An ordered store over some positions. -/
def storeFrom (k : Nat) (m : MemOp) (poss : List (Nat × Nat)) (e : VEntry) (s : State) : SegOut × VEntry :=
  segmentsFrom k m (storeAccs k m) (poss.length + 1) poss e s

/-- Whether a position comes after another in element order. -/
def comesAfter (p : Nat × Nat × Loc) (a : Acc) : Bool := a.el < p.1 || (p.1 == a.el && a.q < p.2.1)

/-- Whether a performed later position has written byte i of a position: it keeps that byte (R53, R112). -/
def covered (m : MemOp) (did : List (Nat × Nat × Loc)) (a : Acc) (i : Nat) : Bool :=
  did.any fun b => comesAfter b a && b.2.2.target == a.place.loc.target && b.2.2.addr ≤ a.place.loc.addr + i &&
    a.place.loc.addr + i < b.2.2.addr + m.size &&
    match m.nib with | some f => f a.el a.q == f b.1 b.2.1 | none => true

/-- A position of an unordered store performs, but for the bytes that later positions have written. -/
def storeUnder (k : Nat) (m : MemOp) (did : List (Nat × Nat × Loc)) (s : State) (a : Acc) (v : Nat) : Except Stop State :=
  if (List.range m.size).all fun i => !covered m did a i then storeAcc k m false s a v
  else
    let (mask, x) := m.put a.el a.q v
    (List.range m.size).foldl (fun r i =>
      match r with
      | .error st => .error st
      | .ok s =>
        if covered m did a i then .ok s
        else storePlace s k { a.place with loc := a.place.loc.plus i } a.page mask false [BitVec.ofNat 8 (x / 256 ^ i)] a.va)
      (.ok s)

/-- What one pass of an unordered store leaves (R113): positions performed and where, whether it must wait, the lowest poisoned
position, and the first fault. -/
structure Loose where
  s    : State
  did  : List (Nat × Nat × Loc)
  wait : Bool := false
  bad  : Option (Nat × Nat × Stop) := none
  stop : Option (Nat × Nat × Stop) := none

/-- The positions of an unordered store up to its first fault, those that are present and have not performed yet (R30, R112,
R113). -/
def storeLoose (k : Nat) (m : MemOp) : List Acc → Loose → Loose
  | [], l => l
  | a :: rest, l =>
    match m.data (l.s.hartAt k) a.el a.q with
    | .wait => storeLoose k m rest { l with wait := true }
    | .stop (.trap t) =>
      if t.cause = .poison then storeLoose k m rest { l with bad := l.bad <|> some (a.el, a.q, .trap t) }
      else { l with stop := some (a.el, a.q, .trap t) }
    | .stop st => { l with stop := some (a.el, a.q, st) }
    | .val v =>
      match storeUnder k m l.did l.s a v with
      | .error st => { l with stop := some (a.el, a.q, st) }
      | .ok s => storeLoose k m rest { l with s := s, did := l.did ++ [(a.el, a.q, a.place.loc)] }

/-- An unordered store over all its segments: each performs up to its first fault; one that must wait for a mask or an index performs
nothing yet (R25). -/
def looseFrom (k : Nat) (m : MemOp) : Nat → List (Nat × Nat) → VEntry → Loose → Loose × VEntry
  | 0, _, e, l => (l, e)
  | fuel + 1, poss, e, l =>
    let a := runAhead m k e poss [] [] e.pages l.s
    let e := e.passed a m.size
    match a.fin with
    | .wait _ _ => ({ l with s := a.s, wait := true }, e)
    | fin =>
      let l := storeLoose k m a.accs { l with s := a.s }
      if l.stop.isSome then (l, e)
      else match fin with
        | .more rest => looseFrom k m fuel rest e l
        | .stop el q st => ({ l with stop := some (el, q, st) }, e)
        | _ => (l, e)

/-! ### Streams (R61 to R68) -/

/-- The elements of a stream, its linear position, and the position a linear one stands for. -/
def Stream.total (x : Stream) : Nat := (x.cnt.take x.ndim).foldl (· * ·) 1

def linear : List Nat → List Nat → Nat
  | c :: cs, p :: ps => p + c * linear cs ps
  | _, _ => 0

def Stream.at (x : Stream) : Nat := linear (x.cnt.take x.ndim) (x.pos.take x.ndim)

def spread : List Nat → Nat → List Nat
  | [], _ => []
  | [_], p => [p]
  | c :: cs, p => p % c :: spread cs (p / c)

def Stream.goTo (x : Stream) (p : Nat) : Stream :=
  { x with pos := (spread (x.cnt.take x.ndim) p ++ List.replicate (4 - x.ndim) 0).take 4 }

/-- The address of an element of a stream (R61). -/
def Stream.addr (x : Stream) (p : Nat) : Nat :=
  let off := ((spread (x.cnt.take x.ndim) p).zip x.str).foldl (fun (a : Int) (q : Nat × Int) => a + q.1 * q.2) 0
  wrapNat 64 (x.base + off)

/-- A hart with the stream of a register replaced. -/
def Hart.setStream (h : Hart) (x : Stream) : Hart :=
  { h with streams := h.streams.map fun y => if y.reg = x.reg then x else y }

/-- The reads of a stream from its position on, as a memory operation (R64). -/
def Stream.op (x : Stream) (acc : Access) : MemOp :=
  { acc := acc, size := x.ty.size, reg := x.reg, addr := fun _ el _ => .val (x.addr (x.at + el)) }

/-- A read of a read-bound register (R64): an active load, which trims vl at the stream's end and at a fault. -/
def streamRead (s : State) (k : Nat) (e : VEntry) (x : Stream) : LoadOut :=
  let h := s.hartAt k
  let p := x.at
  let vl := min h.vl (x.total - p)
  let trimmed := decide (vl < h.vl)
  let s := s.setHartAt k { h with vl := vl }
  let move := fun (s : State) (n : Nat) => s.setHartAt k ((s.hartAt k).setStream (x.goTo (p + n)))
  if vl = 0 then (if trimmed then .trim s 0 else .done s)
  else
    match loadFrom k { e with late := none } x.ty (x.op .load) 0 (vl + 1) (positionsFrom 0 0 1 vl) [] [] s with
    | .done s => if trimmed then .trim (move s vl) vl else .done (move s vl)
    | .trim s f => .trim (move (s.setHartAt k { s.hartAt k with vl := f }) f) f
    | r => r

/-- The fields of a stream control block (R61). -/
def streamOf (reg block : Nat) (b : List Byte) : Stream :=
  let f := fun (off n : Nat) => leNat ((b.drop off).take n)
  let ctl := f 8 2
  { reg := reg, block := block, base := f 0 8, ty := Ty.ofCode (ctl % 16), write := ctl.testBit 4, ndim := bits ctl 6 5 + 1
    cnt := (List.range 4).map fun i => f (16 + 4 * i) 4
    str := (List.range 4).map fun i => toSigned 32 (f (32 + 4 * i) 4)
    pos := (List.range 4).map fun i => f (48 + 4 * i) 4 }

/-- What bind refuses (R62): reserved bits, a type that memory has not, a count of zero. -/
def blockOk (x : Stream) (b : List Byte) : Bool :=
  bits (leNat ((b.drop 8).take 2)) 15 7 == 0 && leNat ((b.drop 12).take 4) == 0 &&
  x.ty != .f64 && x.ty != .res && x.ty != .mx4 && (x.cnt.take x.ndim).all (· != 0)

/-- The check of a read stream's digest against the fill records (R66). -/
def digestStop (s : State) (k : Nat) (x : Stream) (digest : Nat) : Option Stop :=
  let pat := fun (sub : Nat) => some (.trap { cause := .pattern, sub := sub, treg := x.reg, taddr := x.base })
  if digest = 0 ∨ x.write then none
  else match window s k x.base with
    | some (.ok ⟨.spad c off, _, _⟩) =>
      match (s.coreAt c).fills.find? fun r => r.1 ≤ off && off < r.2.1 with
      | some r => if r.2.2 = digest then none else pat 1
      | none => pat 2
    | _ => pat 2

/-- vstm.bind (R57, R62, R66, R324). DESIGN CHOICE (log 76): the block's address is translated first, so an aligned address outside the
scalar data memory that does not translate reports PAGE or PERM, and not ACCESS TARGET. DESIGN CHOICE (log 64): a position POSk that is not below its count, in a dimension below the
last, is no ground that R62 lists: the bind succeeds, and the stream goes on from the linear position that it amounts to. -/
def bindStream (s : State) (k reg va : Nat) : Except Stop State := do
  aligned va 64
  let (p, s) ← translate s k .load false va
  match p.loc with
  | .sdm c off =>
    if c != coreOf k then .error (memTrap .access 2 va)
    else
      let b ← viewPlace s k p 64 va
      let h := s.hartAt k
      let x := streamOf reg off b
      if reg < 2 || (h.stream? reg).isSome || Config.streamSlots ≤ h.streams.length || !blockOk x b then
        .error (illStop 1 reg 0)
      else match digestStop s k x (leNat ((b.drop 10).take 2)) with
        | some st => .error st
        | none => .ok (s.setHartAt k { h with streams := h.streams ++ [x] })
  | _ => .error (memTrap .access 2 va)

/-- vstm.unbind (R68). -/
def unbindStream (s : State) (k reg : Nat) : Except Stop State :=
  let h := s.hartAt k
  match h.stream? reg with
  | none => .error (illStop 1 reg 0)
  | some x =>
    let s := writeBackStream k s x
    .ok (s.setHartAt k { s.hartAt k with streams := h.streams.filter (·.reg != reg) })

/-! ### Spill frames (R46 to R49, R326) -/

/-- The registers of a mask, ascending. -/
def maskRegs (m : Nat) : List Nat := (List.range 32).filter m.testBit

/-- The code of a granule (R160). -/
def granuleCode (x : Absent) : Nat := if x.fills ≠ [] then 1 else if x.poison ≠ 0 then 2 else 0

/-- The presence map of a register's bytes below HW (R47). -/
def presenceMap (v : VReg) : List Byte :=
  (List.range (v.hw / 8)).map fun i =>
    BitVec.ofNat 8 (((List.range 4).map fun j => granuleCode (Table.get {} v.absent (4 * i + j)) * 4 ^ j).foldl (· + ·) 0)

/-- Bytes padded with zeros to a multiple of 64. -/
def pad64 (b : List Byte) : List Byte := b ++ List.replicate (roundUp64 b.length - b.length) 0

/-- The code of a width tag (R47). -/
def tagCode (t : Nat) : Nat := match t with | 8 => 0 | 16 => 1 | 32 => 2 | _ => 3

/-- Whether a register's frame data carries a presence map (R48). -/
def needsMap (v : VReg) : Bool := v.anyPoison || v.anyHole

/-- A spill frame of some registers (R46 to R48). -/
def frameOf (v : Nat → VReg) (len mask : Nat) : List Byte :=
  let regs := maskRegs mask
  let entry := fun n => leBytes 4 ((v n).hw + tagCode (v n).tag * 2 ^ 16 + if needsMap (v n) then 2 ^ 20 else 0)
  let data := fun n => Memory.readBytes (v n).bytes 0 (v n).hw ++ if needsMap (v n) then pad64 (presenceMap (v n)) else []
  let body := pad64 (regs.flatMap entry) ++ regs.flatMap data
  leBytes 2 0x5346 ++ leBytes 1 1 ++ leBytes 1 (if regs.any fun n => needsMap (v n) then 1 else 0) ++ leBytes 4 len ++
    leBytes 4 mask ++ leBytes 4 (64 + body.length) ++ List.replicate 48 0 ++ body

/-- A register as a frame holds it, before it is cut to the register length (R49). -/
structure Saved where
  reg  : Nat
  hw   : Nat
  tag  : Nat
  pm   : Bool
  data : List Byte
  map  : List Byte

/-- The registers of a frame, from its length table on. -/
def savedRegs (b : List Byte) (table : List Byte) : List Nat → Nat → List Saved
  | [], _ => []
  | n :: rest, off =>
    let w := leNat (table.take 4)
    let hw := w % 2 ^ 16
    let pm := w.testBit 20
    let after := off + hw + if pm then roundUp64 (hw / 8) else 0
    { reg := n, hw := hw, tag := 8 * 2 ^ bits w 17 16, pm := pm, data := (b.drop off).take hw
      map := (b.drop (off + hw)).take (hw / 8) } :: savedRegs b (table.drop 4) rest after

/-- The registers a frame's bytes hold, if the frame is well formed (R326). DESIGN CHOICE (log 70): an HW that is not a multiple of 64,
which R326's list does not name, is as bad as what it names (ILL IMAGE). -/
def parseFrame (b : List Byte) : Option (List Saved) :=
  let f := fun (off n : Nat) => leNat ((b.drop off).take n)
  let regs := maskRegs (f 8 4)
  let table := (b.drop 64).take (4 * regs.length)
  let start := 64 + roundUp64 (4 * regs.length)
  let saved := savedRegs b table regs start
  let size := start + (saved.map fun x => x.hw + if x.pm then roundUp64 (x.hw / 8) else 0).foldl (· + ·) 0
  let reserved := (List.range regs.length).all fun i =>
    let w := f (64 + 4 * i) 4
    bits w 31 21 == 0 && bits w 19 18 == 0 && w % 64 == 0
  let codes := saved.all fun x => !x.pm || x.map.all fun c => (List.range 4).all fun j => c.toNat / 4 ^ j % 4 != 3
  if f 0 2 == 0x5346 && f 2 1 == 1 && f 3 1 < 2 && ((b.drop 16).take 48).all (· == 0) && f 12 4 == size && reserved && codes
  then some saved else none

/-- A register filled from a frame (R49). A hole that a frame of crest holds awaits an entry as given. DESIGN CHOICE (log 63): a
vstm.fill takes a granule of code 01, which no spill writes, as present. -/
def Saved.reg' (x : Saved) (len : Nat) (log : Option (Nat × Nat)) (awaits : Nat → List (Nat × Nat)) : VReg :=
  let hw := min x.hw len
  let code : Nat → Nat := fun g => ((x.map[g / 4]?).getD 0).toNat / 4 ^ (g % 4) % 4
  let absent := if x.pm then (List.range (hw / 2)).filterMap fun g =>
      let c := code g
      if c = 2 then some (g, ({ poison := 0xFFFF } : Absent))
      else if c = 1 ∧ awaits g ≠ [] then some (g, { fills := awaits g })
      else none
    else []
  { bytes := Memory.writeBytes [] 0 (x.data.take hw), hw := hw, tag := x.tag, absent := absent
    elem := hw * 8 / x.tag, log := if absent.any fun (p : Nat × Absent) => p.2.poison != 0 then log else none }

/-- vstm.fill: the frame is read whole before any register is written (R325, R326). It answers SIZE. DESIGN CHOICE (log 70): SIZE bytes
are read before the header is judged, so a fault of that range goes before ILL IMAGE. What a poisoned granule's record holds when the register held none is free (log 7). -/
def fillRegs (s : State) (k va : Nat) : Except Stop (Nat × State) := do
  aligned va 64
  let (head, s) ← loadRange s k va 64
  let size := leNat ((head.drop 12).take 4)
  let (rest, s) ← loadRange s k (va + 64) (size - 64)
  let h := s.hartAt k
  match parseFrame (head ++ rest) with
  | none => .error (illStop 2 0x3F 0)
  | some regs =>
    if regs.any fun x => (h.stream? x.reg).isSome then .error (illStop 1 0x3F 0)
    else
      let len := s.lenOf k
      let free := (Config.freeWord s.free).toNat
      let h := regs.foldl (fun (h : Hart) x =>
        h.setVreg x.reg (x.reg' len (some ((h.vreg x.reg).log.getD (bits free 7 0, bits free 15 8))) fun _ => [])) h
      .ok (size, (s.setHartAt k h).draw)

/-- The translations of a range of virtual addresses, page by page, and the offset and the stop of the first that fails (R25). -/
def rangeAhead (k : Nat) (acc : Access) (va : Nat) : List (Nat × Nat) → List TlbEntry → State →
    State × List TlbEntry × Option (Nat × Stop)
  | [], pages, s => (s, pages, none)
  | p :: rest, pages, s =>
    match translateBy pages s k acc false (p.1 % 2 ^ 64) with
    | .error st => (s, pages, some (p.1 - va, st))
    | .ok (_, t, s) => rangeAhead k acc va rest (pages ++ t.toList) s

/-- The bytes of a frame or an image are stored in ascending order from byte `i` on (R30): how many are stored, and the
stop if not all. -/
def storeBytes (pages : List TlbEntry) (k va : Nat) : Nat → List Byte → State → State × Nat × Option Stop
  | i, [], s => (s, i, none)
  | i, b :: rest, s =>
    match storeBy pages s k false true 1 0xFF ((va + i) % 2 ^ 64) b.toNat with
    | .ok s => storeBytes pages k va (i + 1) rest s
    | .error st => (s, i, some st)

/-- A frame stored as an ordered vector store of its bytes, from byte i on (R48): all of its pages are translated first (R25). -/
def storeFrame (s : State) (k va i : Nat) (bytes : List Byte) : State × Nat × Option Stop :=
  let (s, pages, bad) := rangeAhead k .store va (pieces (2 ^ 16) (va + i) (bytes.length - i)) [] s
  match bad with
  | none => storeBytes pages k va i (bytes.drop i) s
  | some (o, st) =>
    let o := max i o
    match storeBytes pages k va i ((bytes.take o).drop i) s with
    | (s, j, some st) => (s, j, some st)
    | (s, j, none) => (s, j, some (match st with | .trap t => .trap { t with taddr := (va + o) % 2 ^ 64 } | st => st))

end Sys2Proof.Machine
end

