-- ==== Sys2Proof/Machine/Vector.lean ====
section
/-! DEFINITION. How far an entry of the vector instruction queue gets, operation by operation (R30, R113, R156, R201, R202,
R238, R239, R309, R315 to R319, R326, R335, R340 to R342, R388). -/

namespace Sys2Proof.Machine

/-- What a turn of an entry comes to: completed, waiting for a fill or for room in the hole queue, stopped, or halted by
the debug unit. -/
inductive Run where
  | done (s : State) (e : VEntry)
  | wait (s : State) (e : VEntry)
  | stop (s : State) (e : VEntry) (st : Stop)
  | halt (s : State) (e : VEntry)

/-- An entry at a position; a MASKED element that is still to come stays masked, and a breakpoint that has halted there is past. -/
def VEntry.to (e : VEntry) (el q : Nat) : VEntry :=
  let still := el == e.elem && q == e.row
  { e with elem := el, row := q, masked := e.masked && still, broke := e.broke && still }

/-- An entry that the debug unit halts at a position. -/
def VEntry.haltsAt (e : VEntry) (el q : Nat) (bp : Bool) : VEntry :=
  let e := e.to el q
  { e with broke := e.broke || bp }

/-- The progress that a run of positions leaves. -/
def ofRunOut (e : VEntry) (r : RunOut) : Run :=
  match r with
  | .done s => .done s (e.to e.count 0)
  | .wait s el q => .wait s (e.to el q)
  | .stop s el q st => .stop s (e.to el q) st
  | .halt s el q bp => .halt s (e.haltsAt el q bp)

/-- Whether an entry keeps its progress as a count of bytes or of cells. -/
def VOp.counts (op : VOp) : Bool := match op with | .spill .. | .mxSpill .. | .mxFill .. | .spGspill | .spGfill => true | _ => false

/-- How many positions an entry has finished (R27, R48, R362). -/
def VEntry.rank (e : VEntry) : Nat := if e.op.counts then e.aux else e.elem * e.height + e.row

/-- Whether an entry's positions finish in the phase it is in: with write-bound registers, in the store of the last stream (R65). -/
def finalPhase (h : Hart) (e : VEntry) : Bool :=
  match outStreams h e with
  | [] => true
  | l => e.phase == 1 + l.length

/-- The rank at which the debug unit halts an entry, and whether by a breakpoint (R408, R410). -/
def debugCut (s : State) (k : Nat) (e : VEntry) : Option (Nat × Bool) :=
  let h := s.hartAt k
  if !finalPhase h e then none
  else
    let rows := e.height
    let bp := (breakpointElem s k e.pc (e.rank / rows) (e.broke || e.rank % rows != 0)).filter (· < e.count)
    match bp.map (· * rows), h.stepElems.map (e.rank + ·) with
    | some b, some r => some (if b ≤ r then (b, true) else (r, false))
    | some b, none => some (b, true)
    | none, r => r.map (·, false)

/-- An entry that performs its positions one by one. -/
def runEach (s : State) (k : Nat) (e : VEntry) (f : State → Nat → Nat → Pos) : Run :=
  ofRunOut e (runPos f e.height e.count (debugCut s k e) (e.count * e.height + 1) e.elem e.row s)

/-- A halt of an entry that has performed the positions below one; a breakpoint halts only where an attempt at the position meets no
fault (R408). -/
def haltAt (s : State) (e : VEntry) (el q : Nat) (bp : Bool) (attempt : Run) : Run :=
  match attempt with
  | .stop .. | .wait .. => if bp then attempt else .halt s (e.haltsAt el q bp)
  | _ => .halt s (e.haltsAt el q bp)

/-- An entry with one position, before which a breakpoint or nothing halts (R374, R408). -/
def runWhole (s : State) (k : Nat) (e : VEntry) (act : Run) : Run :=
  if debugCut s k e = some (0, true) then
    match act with
    | .stop .. => act
    | _ => .halt s (e.haltsAt 0 0 true)
  else act

/-! ### Reductions and what reads a whole row -/

/-- The active elements of a register that must all be seen, from one on (R202). -/
inductive Row where
  | vals (l : List (Nat × Nat))
  | wait
  | stop (el : Nat) (st : Stop)

def rowFrom (h : Hart) (e : VEntry) (reg w : Nat) : List Nat → List (Nat × Nat) → Row
  | [], acc => .vals acc
  | el :: rest, acc =>
    match gate h e el with
    | .wait => .wait
    | .stop st => .stop el st
    | .val 0 => rowFrom h e reg w rest acc
    | .val _ =>
      match mustSee h e reg el w with
      | .wait => .wait
      | .stop st => .stop el st
      | .val v => rowFrom h e reg w rest (acc ++ [(el, v)])

def rowOf (h : Hart) (e : VEntry) (reg w : Nat) : Row := rowFrom h e reg w (List.range e.count) []

/-- What a row comes to. -/
def Row.on (r : Row) (s : State) (e : VEntry) (f : List (Nat × Nat) → Run) : Run :=
  match r with
  | .wait => .wait s e
  | .stop el st => .stop s (e.to el 0) st
  | .vals l => f l

/-- An entry that sees a whole row and then acts. The debug unit halts it where it has seen the elements below one (DESIGN CHOICE,
log 79): what it makes of them it writes at its end. -/
def withRow (s : State) (k : Nat) (e : VEntry) (reg w : Nat) (f : List (Nat × Nat) → Run) : Run :=
  let h := s.hartAt k
  match (debugCut s k e).filter (·.1 < e.count) with
  | none => (rowOf h e reg w).on s e f
  | some (c, bp) =>
    (rowFrom h e reg w (List.range c) []).on s e fun _ =>
      haltAt s e c 0 bp ((rowFrom h e reg w [c] []).on s e fun _ => .done s e)

/-- The synchronising read queue without the entry of the oldest vector entry that owes a scalar result. -/
def Hart.synced' (h : Hart) : Hart := { h with sync := h.sync.eraseP fun r => r.num.isNone }

/-- A scalar result is delivered, and its entry of the synchronising read queue is freed (R150). -/
def deliver (s : State) (k : Nat) (e : VEntry) (d : Reg) (v : Word) : Run :=
  .done (s.setHartAt k ((s.hartAt k).setReg d v).synced') (e.to e.count 0)

/-- Pairwise combination of neighbours, with the flags raised so far (R238). -/
def pairUp (f : Nat → Nat → Nat × Nat) : List Nat → Nat → List Nat × Nat
  | a :: b :: rest, fl =>
    let (v, x) := f a b
    let (l, fl) := pairUp f rest (Nat.lor fl x)
    (v :: l, fl)
  | l, fl => (l, fl)

def treeUp (f : Nat → Nat → Nat × Nat) : Nat → List Nat → Nat → List Nat × Nat
  | 0, l, fl => (l, fl)
  | n + 1, l, fl => let (l, fl) := pairUp f l fl
    treeUp f n l fl

/-- The canonical order: blocks of 32, each a tree, added to the accumulator (R238). -/
def canonFold (f : Nat → Nat → Nat × Nat) (ident : Nat) (v : Nat → Nat) (vl : Nat) : Nat → Nat → Nat × Nat → Nat × Nat
  | 0, _, acc => acc
  | n + 1, b, (acc, fl) =>
    let t := (List.range 32).map fun i => if 32 * b + i < vl then v (32 * b + i) else ident
    let (t, fl) := treeUp f 5 t fl
    let (acc, x) := f acc (t.headD ident)
    canonFold f ident v vl n (b + 1) (acc, Nat.lor fl x)

/-- One lane's own elements, in ascending index (R239); a lane without any has the identity. -/
def laneSum (f : Nat → Nat → Nat × Nat) (ident : Nat) : List Nat → Nat × Nat
  | [] => (ident, 0)
  | x :: rest => rest.foldl (fun (a : Nat × Nat) y => let (r, fl) := f a.1 y
      (r, Nat.lor a.2 fl)) (x, 0)

/-- The order by lanes: each lane its own elements, then a tree, then the start (R239). -/
def laneFold (f : Nat → Nat → Nat × Nat) (ident : Nat) (v : Nat → Nat) (vl lanes start : Nat) : Nat × Nat :=
  let sums := (List.range lanes).map fun ln => laneSum f ident (((List.range vl).filter (· % lanes == ln)).map v)
  let (t, fl) := treeUp f (Nat.log2 lanes) (sums.map (·.1)) ((sums.map (·.2)).foldl Nat.lor 0)
  let (r, x) := f (t.headD ident) start
  (r, Nat.lor fl x)

/-- The step and the identity of a floating-point or decimal reduction (R238, R315). -/
def redStep (fn : RedFn) (t : Ty) (fpctl : Word) (a b : Nat) : Nat × Nat :=
  match fn with
  | .min => minMaxT t false a b
  | .max => minMaxT t true a b
  | _ => addT t (rmOf t fpctl) a b

def redIdent (fn : RedFn) (t : Ty) : Nat :=
  match fn with
  | .min => infOf t false
  | .max => infOf t true
  | _ => if t = .d64 then packDec true 0 369 else 2 ^ (t.width - 1)

/-- A floating-point or decimal reduction: the value and the flags (R238, R239). -/
def redFloat (fn : RedFn) (t : Ty) (fpctl : Word) (lanes vl start : Nat) (l : List (Nat × Nat)) : Nat × Nat :=
  let ident := redIdent fn t
  let v := fun i => Table.get ident l i
  if vl = 0 then (start, 0)
  else if fpctl.toNat.testBit 7 then canonFold (redStep fn t fpctl) ident v vl ((vl + 31) / 32) 0 (start, 0)
  else laneFold (redStep fn t fpctl) ident v vl lanes start

/-- An integer reduction (R315). -/
def redInt (fn : RedFn) (t : Ty) (start : Nat) (l : List (Nat × Nat)) : Nat :=
  let f := match fn with
    | .sum => BinFn.add | .min => .min | .max => .max | .and => .and | .or => .or | .xor => .xor
  l.foldl (fun a x => intBin f t a x.2) start

/-- vred.sum to vred.xor (R315). -/
def runRed (s : State) (k : Nat) (e : VEntry) (fn : RedFn) (t : Ty) (d a : Reg) : Run :=
  withRow s k e a.val t.width fun l =>
    let start := opnd t e.y
    if t.isInt then deliver s k e d (ext t (redInt fn t start l))
    else
      let (v, fl) := redFloat fn t e.fpctl (s.lenOf k / 64) e.count start l
      let dec := t == .d64
      let h := s.hartAt k
      let s := s.setHartAt k { h with fpflags := raiseFlags h.fpflags dec fl }
      let en := enabled e.fpctl dec fl
      if en != 0 && !e.masked then
        .stop s (e.to 0 0) (.trap { cause := fpCause dec, sub := firstSub en, treg := a.val })
      else deliver s k e d (ext t v)

/-- The better of two packed words (R316). -/
def betterIdx (wantMax : Bool) (best c : Nat) : Nat :=
  if wantMax then
    if best / 2 ^ 32 < c / 2 ^ 32 || (best / 2 ^ 32 == c / 2 ^ 32 && c % 2 ^ 32 < best % 2 ^ 32) then c else best
  else if c < best then c else best

/-- vred.minidx and vred.maxidx (R316). -/
def runRedIdx (s : State) (k : Nat) (e : VEntry) (wantMax : Bool) (t : Ty) (d a : Reg) : Run :=
  withRow s k e a.val t.width fun l =>
    let base := if d = 0 then 0 else e.z.toNat % 2 ^ 32
    let key := fun (v : Nat) => if t.isSigned then (v + 2 ^ (t.width - 1)) % 2 ^ t.width else v
    let best := l.foldl (fun b x => betterIdx wantMax b (key x.2 * 2 ^ 32 + (base + x.1) % 2 ^ 32)) e.y.toNat
    deliver s k e d (BitVec.ofNat 64 best)

/-- vred.mpop and vred.mfirst (R315). -/
def runMpop (s : State) (k : Nat) (e : VEntry) (d a : Reg) : Run :=
  withRow s k e a.val 1 fun l => deliver s k e d (BitVec.ofNat 64 (l.filter (·.2 == 1)).length)
def runMfirst (s : State) (k : Nat) (e : VEntry) (d a : Reg) : Run :=
  withRow s k e a.val 1 fun l => deliver s k e d (match l.find? (·.2 == 1) with
    | some p => BitVec.ofNat 64 p.1
    | none => BitVec.allOnes 64)

/-- vperm.xtr (R317). -/
def runXtr (s : State) (k : Nat) (e : VEntry) (t : Ty) (d a : Reg) : Run :=
  let i := e.y.toNat
  if s.lenOf k * 8 / t.width ≤ i then deliver s k e d 0
  else match mustSee (s.hartAt k) e a.val i t.width with
    | .wait => .wait s e
    | .stop st => .stop s e st
    | .val v => deliver s k e d (ext t v)

/-! ### vwhile (R309) -/

/-- One element of the compare; a failing element ends it. DESIGN CHOICE (log 77): a d64 element that is not canonical compares by its
value at once, since no rule gives this compare a hole. -/
def whilePos (k : Nat) (e : VEntry) (a : Reg) (cond : Nat) (t : Ty) (s : State) (el : Nat) : Pos × Bool :=
  let h := s.hartAt k
  match gate h e el with
  | .wait => (.wait s, true)
  | .stop st => (.stop s st, true)
  | .val 0 => (.done s, true)
  | .val _ =>
    match mustSee h e a.val el t.width with
    | .wait => (.wait s, true)
    | .stop st => (.stop s st, true)
    | .val v =>
      let (r, fl, _) := laneCmp false cond t v (opnd t e.z)
      let dec := t == .d64
      let en := enabled e.fpctl dec fl
      let s := s.setHartAt k { h with fpflags := raiseFlags h.fpflags dec fl }
      if en != 0 && !(e.masked && el == e.elem) then
        (.stop s (.trap { cause := fpCause dec, sub := firstSub en, treg := a.val, telem := el }), true)
      else (.done s, r == 1)

/-- The elements of a list, until one fails; `lim`: where they end. -/
def whileFrom (k : Nat) (e : VEntry) (a : Reg) (cond : Nat) (t : Ty) (lim : Nat) : List Nat → State → Run
  | [], s => .done s (e.to lim 0)
  | el :: rest, s =>
    match whilePos k e a cond t s el with
    | (.done s, true) => whileFrom k e a cond t lim rest s
    | (.done s, false) => .done s (e.to el 0)
    | (.wait s, _) => .wait s (e.to el 0)
    | (.stop s st, _) => .stop s (e.to el 0) st

/-- The mask is split at the first failing element, and the branch is resolved (log 22). -/
def splitMask (s : State) (k : Nat) (e : VEntry) (first off : Nat) : Run :=
  let s := (List.range e.count).foldl (fun s i => putElem s k 0 i 1 (if i < first then 1 else 0)) s
  let h := s.hartAt k
  let s := if first = e.count then s.setHartAt k { h with pc := e.pc - BitVec.ofNat 64 (4 * off) } else s
  .done s (e.to e.count 0)

/-- vwhile (R309). -/
def runWhile (s : State) (k : Nat) (e : VEntry) (a : Reg) (cond off : Nat) (t : Ty) : Run :=
  let cut := (debugCut s k e).filter (·.1 < e.count)
  let lim := (cut.map (·.1)).getD e.count
  if e.count = 0 then .done s e
  else match cut, whileFrom k e a cond t lim ((List.range (lim - e.elem)).map (e.elem + ·)) s with
    | some (c, bp), .done s x =>
      if x.elem = c then haltAt s e c 0 bp (whileFrom k e a cond t e.count [c] s) else splitMask s k e x.elem off
    | none, .done s x => splitMask s k e x.elem off
    | _, r => r

/-! ### Compaction (R318, R319) -/

/-- Pairs are written to vd and v(d+1) from element 0 on. -/
def putPairs (s : State) (k : Nat) (t : Ty) (d : Reg) (l : List (Nat × Word × Word)) : State :=
  l.foldl (fun s p =>
    putElem (putElem s k d.val p.1 t.width p.2.1.toNat) k (d.val + 1) p.1 (indexWidth t.width) p.2.2.toNat) s

/-- v0 and vl after a delivery of n pairs. -/
def delivered (s : State) (k : Nat) (e : VEntry) (n : Nat) : State :=
  let s := if e.vmk = 0 then s
    else (List.range n).foldl (fun s i => putElem s k 0 i 1 (if e.vmk = 1 then 1 else 0)) s
  s.setHartAt k { s.hartAt k with vl := n }

/-- The end of a hold or a drain that has set vl: what it wrote is stored under the new vl and mask (R65). -/
def afterDelivery (e : VEntry) (n : Nat) : VEntry := { e.to e.count 0 with count := n, old := [] }

/-- vperm.hold (R318). -/
def runHold (s : State) (k : Nat) (e : VEntry) (t : Ty) (d a : Reg) : Run :=
  withRow s k e a.val t.width fun l =>
    let h := s.hartAt k
    let w := t.width
    let pair := fun (p : Nat × Nat) =>
      (BitVec.ofNat 64 p.2, BitVec.ofNat 64 ((e.y.toNat + p.1) % 2 ^ indexWidth w))
    let dense := !h.vdens.testBit 8 || (h.vdens % 256) * e.count ≤ l.length * 256
    if dense then .done (putPairs s k t d (l.map fun p => (p.1, pair p))) (e.to e.count 0)
    else if h.hold ≠ [] ∧ h.holdW ≠ w then .stop s e (illStop 1 d.val 0)
    else
      let buf := h.hold ++ l.map pair
      let cap := s.lenOf k * 8 / w
      if cap ≤ buf.length then
        let s := s.setHartAt k { h with hold := buf.drop cap, holdW := w }
        let out := (buf.take cap).zipIdx.map fun p => (p.2, p.1)
        .done (delivered (putPairs s k t d out) k e cap) (afterDelivery e cap)
      else .done (s.setHartAt k { h with hold := buf, holdW := w, vl := 0 }) (afterDelivery e 0)

/-- vperm.drain (R319). The buffer is empty at its end. -/
def runDrain (s : State) (k : Nat) (e : VEntry) (t : Ty) (d : Reg) : Run :=
  let h := s.hartAt k
  let n := h.hold.length
  let out := h.hold.zipIdx.map fun p => (p.2, p.1)
  if h.hold ≠ [] ∧ h.holdW ≠ t.width then .stop s e (illStop 1 d.val 0)
  else match (debugCut s k e).filter (·.1 < n) with
    | some (c, bp) => .halt (putPairs s k t d (out.take c)) (e.haltsAt c 0 bp)
    | none =>
      .done (delivered (putPairs (s.setHartAt k { h with hold := [] }) k t d out) k e n) (afterDelivery e n)

/-! ### Conversions to mx4 (R335) -/

/-- The values of a block of 32, with inactive and tail elements as +0. -/
def blockFrom (h : Hart) (e : VEntry) (a w : Nat) : List Nat → List Nat → Except (Option Stop) (List Nat)
  | [], acc => .ok acc
  | el :: rest, acc =>
    if e.count ≤ el then blockFrom h e a w rest (acc ++ [0])
    else match gate h e el with
      | .wait => .error none
      | .stop st => .error (some st)
      | .val 0 => blockFrom h e a w rest (acc ++ [0])
      | .val _ =>
        match mustSee h e a el w with
        | .wait => .error none
        | .stop st => .error (some st)
        | .val v => blockFrom h e a w rest (acc ++ [v])

/-- One element of the quantization, with its block's scale byte. -/
def quantPos (k : Nat) (e : VEntry) (src : Ty) (d a : Reg) (half : Nat) (sr : Bool) (s : State) (el q : Nat) : Pos :=
  let h := s.hartAt k
  let first := el / 32 * 32
  match blockFrom h e a.val src.width ((List.range 32).map (first + ·)) [] with
  | .error none => .wait s
  | .error (some st) => .stop s st
  | .ok xs =>
    let rm := fun i => if sr then Rm.sr (srBits e.key e.srcnt (first + i) 0) else .rne
    let (scale, els, bad) := quantMx4 src rm xs
    let x := xs[el - first]?.getD 0
    let v := unpack src x
    let fl := if bad then (if v.isNan || v.isInf then 1 else 0) else ((els[el - first]?).getD (0, 0)).2
    let active := gate h e el == .val 1
    let en := enabled e.fpctl false fl
    let s := s.setHartAt k { h with fpflags := raiseFlags h.fpflags false fl }
    if en != 0 && !(e.masked && el == e.elem && q == e.row) then
      .stop s (.trap { cause := .fpx, sub := firstSub en, treg := d.val, telem := el })
    else
      let s := putElem s k 1 (128 * half + el / 32) 8 scale
      .done (if active then putElem s k d.val el 4 ((els[el - first]?).getD (0, 0)).1 else s)

def runQuant (s : State) (k : Nat) (e : VEntry) (src : Ty) (d a : Reg) (half : Nat) (sr : Bool) : Run :=
  if e.rows ≠ 1 then .stop s e (illStop 1 d.val 0)
  else runEach s k e (quantPos k e src d a half sr)

/-! ### Loads and stores -/

/-- An entry that performs some positions in element order: those that the debug unit lets it, then the attempt at the one that it
is halted at. `perform` gives a run's end and whether all of its positions have performed. -/
def inCut (s : State) (k : Nat) (e : VEntry) (poss : List (Nat × Nat))
    (perform : List (Nat × Nat) → VEntry → State → Run × Bool) : Run :=
  let h := e.height
  match debugCut s k e with
  | none => (perform poss e s).1
  | some (r, bp) =>
    let before := poss.filter fun p => p.1 * h + p.2 < r
    if before.length = poss.length then (perform poss e s).1
    else match perform before e s with
      | (.done s x, true) =>
        let x := { x with elem := e.elem, row := e.row, entered := e.entered }
        haltAt s x (r / h) (r % h) bp (perform [(r / h, r % h)] x s).1
      | (run, _) => run

/-- The memory operation of a load or a store (R321 to R323). -/
def memOp (e : VEntry) (acc : Access) (mode : VMode) (t : Ty) (d b : Reg) : MemOp :=
  { acc := acc, unit := mode == .unit, size := t.size, reg := d.val
    addr := fun h el q => addrOf h e mode t b el q
    data := fun h el q => if acc = .load then .val 0 else mustSee h e (d.val + q) el t.width
    nib := if t = .mx4 then some (nibbleOf e) else none }

/-- vld (R28, R322). -/
def runLoad (s : State) (k : Nat) (e : VEntry) (mode : VMode) (t : Ty) (d b : Reg) : Run :=
  inCut s k e (positionsFrom e.elem e.row e.height e.count) fun poss e s =>
    match loadFrom k e t (memOp e .load mode t d b) e.elem (poss.length + 1) poss e.pages [] s with
    | .done s => (.done s (e.to e.count 0), true)
    | .trim s f =>
      (.done (s.setHartAt k { s.hartAt k with vl := f }) { e.to f 0 with count := f, flags := Nat.lor e.flags 2 }, false)
    | .wait s => (.wait s e, false)
    | .stop s el q st => (.stop s (e.to el q) st, false)

/-- The bytes that some elements of a type take. -/
def bytesOf (t : Ty) (n : Nat) : Nat := if t = .mx4 then (n + 1) / 2 else n * t.size

/-- Active elements of an entry below its count. -/
def activeCount (h : Hart) (e : VEntry) : Nat := ((List.range e.count).filter fun el => gate h e el == .val 1).length

/-- The strip buffer's room for a vector store, once (R213). -/
def reserveOnce (s : State) (k n : Nat) (e : VEntry) : State × VEntry :=
  if e.took then (s, e) else (if n = 0 then s else reserveStrip s k n, { e with took := true })

/-- Where some segments of an entry ended, and whether all of their positions have performed. -/
def ofSeg (r : SegOut × VEntry) : Run × Bool :=
  match r with
  | (.done s, e) => (.done s (e.to e.count 0), true)
  | (.wait s el q, e) => (.wait s (e.to el q), false)
  | (.stop s el q st, e) => (.stop s (e.to el q) st, false)

/-- The end of a pass of an unordered store (R30, R113), and whether all of its positions have performed. -/
def ofLoose (r : Loose × VEntry) : Run × Bool :=
  let l := r.1
  if l.wait then (.wait l.s { r.2 with doneAt := l.did }, false)
  else
    let e := { r.2 with doneAt := [] }
    match l.bad <|> l.stop with
    | some (el, q, st) => (.stop l.s (e.to el q) st, false)
    | none => (.done l.s (e.to e.count 0), true)

/-- vst (R30, R111 to R113, R323). -/
def runStore (s : State) (k : Nat) (e : VEntry) (mode : VMode) (ordered : Bool) (t : Ty) (d b : Reg) : Run :=
  let (s, e) := reserveOnce s k (bytesOf t (activeCount (s.hartAt k) e * e.height)) e
  let m := memOp e .store mode t d b
  inCut s k e (positionsFrom e.elem e.row e.height e.count) fun poss e s =>
    if ordered then ofSeg (storeFrom k m poss e s)
    else ofLoose (looseFrom k m (poss.length + 1) poss e { s := s, did := e.doneAt })

/-- The stream store of a write-bound register: an ordered store of the active elements below vl from the stream's position; past the
end of the stream it stops (R65). -/
def runStreamStore (s : State) (k : Nat) (e : VEntry) (x : Stream) : Run :=
  let room := x.total - e.aux
  let m : MemOp :=
    { acc := .store, size := x.ty.size, reg := x.reg, addr := fun _ el _ => .val (x.addr (e.aux + el))
      data := fun h el _ => mustOf x.reg el ((h.vreg x.reg).look (el * x.ty.width) x.ty.width) }
  let move := fun (s : State) (n : Nat) =>
    s.setHartAt k ((s.hartAt k).setStream (x.goTo (min (e.aux + n) x.total)))
  if s.lenOf k * 8 < e.count * x.ty.width then .stop s e (illStop 4 x.reg 0)
  else
    inCut s k e (positionsFrom e.elem 0 e.height (min e.count room)) fun poss e s =>
      let all := poss.any (·.1 + 1 == min e.count room) || min e.count room ≤ e.elem
      let last := e.phase == 1 + (outStreams (s.hartAt k) e).length
      let (r, y) := storeFrom k m poss e s
      match (r, { y with entered := e.entered || (last && y.entered) }) with
      | (.done s, e) =>
        if !all then (.done s e, true)
        else if room < e.count then
          (.stop (move s room) (e.to room 0)
            (.trap { cause := .access, sub := 3, treg := x.reg, telem := room, taddr := x.addr (e.aux + room) }), false)
        else (.done (move s e.count) (e.to e.count 0), true)
      | r => ofSeg r

/-- What a count of bytes or cells lets an entry perform: up to a halt of the debug unit, then the attempt at what it is halted at.
`perform n` goes on below n (R48, R362, R408, R410). -/
def inCount (s : State) (k : Nat) (e : VEntry) (n : Nat) (perform : Nat → VEntry → State → Run) : Run :=
  match (debugCut s k e).filter (·.1 < n) with
  | none => perform n e s
  | some (c, bp) =>
    match perform c e s with
    | .done s x => let x := { x with aux := c }
      match perform (c + 1) x s with
      | .stop s' x' st => if bp then .stop s' x' st else .halt s x
      | _ => .halt s { x with broke := bp }
    | r => r

/-- vstm.spill (R48, R324): waits for holes, then stores the frame in ascending order. -/
def runSpill (s : State) (k : Nat) (e : VEntry) (d : Reg) : Run :=
  let h := s.hartAt k
  let mask := e.y.toNat % 2 ^ 32
  if e.x.toNat % 64 ≠ 0 then .stop s e (.trap { cause := .align, sub := 1, taddr := e.x.toNat })
  else
    let frame := frameOf h.vreg (s.lenOf k) mask
    if (maskRegs mask).any fun n => (h.vreg n).anyHole then
      .wait s { e with entered := true, spans := rangeSpans s k .store e.x.toNat frame.length }
    else
      let (s, e) := reserveOnce s k frame.length e
      inCount s k e frame.length fun n e s =>
        match storeFrame s k e.x.toNat e.aux (frame.take n) with
        | (s, i, some st) => .stop s { e with aux := i } (st.at 0x3F i)
        | (s, _, none) => if n = frame.length then deliver s k e d (BitVec.ofNat 64 n) else .done s e

/-- vstm.fill (R326). -/
def runFill (s : State) (k : Nat) (e : VEntry) (d : Reg) : Run :=
  match fillRegs s k e.x.toNat with
  | .error st => .stop s e st
  | .ok (size, s) => deliver s k e d (BitVec.ofNat 64 size)

/-- An operation that either happens or stops. -/
def ofExcept (s : State) (e : VEntry) (r : Except Stop State) : Run :=
  match r with
  | .ok s => .done s (e.to e.count 0)
  | .error st => .stop s e st

/-! ### Presence (R340 to R342) -/

/-- The lowest poisoned element of a register at its width tag, below HW (R341). -/
def poisonedElem (v : VReg) : Option Nat :=
  (List.find? (fun (p : Nat × Absent) => p.2.poison != 0 && p.1 * 2 < v.hw) v.absent).map fun p => p.1 * 16 / v.tag

/-- vsettle (R341). -/
def runSettle (s : State) (k : Nat) (e : VEntry) : Run :=
  let h := s.hartAt k
  let m := e.x.toNat % 2 ^ 32
  let regs := maskRegs (if m = 0 then 2 ^ 32 - 1 else m)
  if regs.any fun n => (h.vreg n).anyHole then .wait s e
  else match regs.findSome? fun n => (poisonedElem (h.vreg n)).map (n, ·) with
    | none => .done s (e.to e.count 0)
    | some (n, el) =>
      let log := (h.vreg n).log.getD (0, 0)
      .stop (freeFailed s k (·.reg == n)) e (poisonStop n el log.1 log.2)

/-- vpres.present and vpres.poisoned (R340). -/
def seenPos (k : Nat) (e : VEntry) (poisoned : Bool) (t : Ty) (d a : Reg) (s : State) (el _q : Nat) : Pos :=
  let h := s.hartAt k
  let p := (entryReg h e a.val).presence (el * t.width) t.width
  gated (gate h e el) s (.done (putElem s k d.val el 1 (if p = (if poisoned then .poisoned else .present) then 1 else 0)))

/-- vpres.heal (R342): what an element was before the heal decides, so that of elements which share a granule each is healed. -/
def healPos (k : Nat) (e : VEntry) (t : Ty) (d : Reg) (s : State) (el _q : Nat) : Pos :=
  let h := s.hartAt k
  let w := t.width
  let act :=
    match (entryReg h e d.val).presence (el * w) w with
    | .hole => Pos.wait s
    | .poisoned => .done (s.setHartAt k (h.setVreg d.val { (h.vreg d.val).putWhole (el * w) w (opnd t e.y) with tag := max w 8 }))
    | .present => .done s
  gated (gate h e el) s act

/-- A register's poison record when nothing of it is poisoned any more (R342). -/
def clearLog (s : State) (k n : Nat) : State :=
  let h := s.hartAt k
  if (h.vreg n).anyPoison then s else s.setHartAt k (h.setVreg n { h.vreg n with log := none })

def runHeal (s : State) (k : Nat) (e : VEntry) (t : Ty) (d : Reg) : Run :=
  match runEach s k e (healPos k e t d) with
  | .done s e => .done (clearLog s k d.val) e
  | r => r

/-! ### Vector atomics (R388) -/

/-- A vector atomic as a memory operation. -/
def amoOp (e : VEntry) (t : Ty) (d b : Reg) : MemOp :=
  { acc := .atomic, size := t.size, reg := d.val
    addr := fun h el _ => match mustSee h e b.val el (indexWidth t.width) with
      | .val i => .val ((e.x.toNat + i) % 2 ^ 64)
      | m => m
    data := fun h el _ => mustSee h e d.val el t.width }

/-- The positions of a segment of a vector atomic, in element order. -/
def amoAccs (k : Nat) (e : VEntry) (fn : AmoFn) (t : Ty) (d : Reg) : List Acc → State → SegOut
  | [], s => .done s
  | a :: rest, s =>
    match mustSee (s.hartAt k) e d.val a.el t.width with
    | .wait => .wait s a.el 0
    | .stop st => .stop s a.el 0 st
    | .val y =>
      match atomicIn s k a.place fn t t.size a.va fun old => some (amoVal fn t old y) with
      | .error st => .stop s a.el 0 (st.at d.val a.el)
      | .ok (old, s) => amoAccs k e fn t d rest (putElem s k d.val a.el t.width old)

/-- A vector atomic commits the strip first; a release waits for the die instants of earlier stores, and what follows an acquire for
its own (R114, R122, R127). -/
def runAmov (s : State) (k : Nat) (e : VEntry) (fn : AmoFn) (t : Ty) (d b : Reg) (ord : Nat) : Run :=
  let s := if e.count = 0 then s else commitStrip s k
  let s := if e.count ≠ 0 && ord.testBit 1 then s.drainRepl else s
  let r := inCut s k e (positionsFrom e.elem e.row e.height e.count) fun poss e s =>
    ofSeg (segmentsFrom k (amoOp e t d b) (amoAccs k e fn t d) (poss.length + 1) poss e s)
  match r with
  | .done s e => .done (if ord.testBit 0 then settleRepl s k else s) e
  | r => r

end Sys2Proof.Machine
end

