-- ==== Sys2Proof/Machine/Matrix.lean ====
section
/-! DEFINITION. The array in matrix mode: cells and tiles, mode and shape, outer products, tile moves, and the memory moves
of both modes (R217, R240, R351 to R362, R373 to R375). -/

namespace Sys2Proof.Machine

/-! ### Cells (R351) -/

/-- The address of byte b of cell (i, j) in the cell stores. -/
def cellAddr (i j b : Nat) : Nat := (i * 128 + j) * 64 + b

/-- `n` bytes of a cell as a number, and the core with them replaced; 64-bit words that are covered are good again (R209). -/
def Core.cell (c : Core) (i j b n : Nat) : Nat := Memory.readNat c.cells (cellAddr i j b) n
def Core.setCell (c : Core) (i j b n v : Nat) : Core :=
  let a := cellAddr i j b
  { c with cells := Memory.writeNat c.cells a n v
           badCells := c.badCells.filter fun w => !(a ≤ w * 8 && w * 8 + 8 ≤ a + n) }

/-- Whether bytes of a cell lie in an uncorrectable word (R209). -/
def Core.badCell (c : Core) (i j b n : Nat) : Bool := badWord c.badCells (cellAddr i j b) n

/-- A word that what an uncorrectable word fed was written to: it cannot be read either (R210). -/
def Core.spoil (c : Core) (bad : Bool) (i j b : Nat) : Core :=
  if bad then { c with badCells := (cellAddr i j b / 8) :: c.badCells.filter (· != cellAddr i j b / 8) } else c

/-- UE, subcode CELL (R195, R210). -/
def cellStop (reg el : Nat) : Stop := .trap { cause := .ue, sub := 2, treg := reg, telem := el }

/-- ILL, subcode ARRAY, at element 0 (R353). -/
def arrayStop : Stop := illStop 5 0x3F 0

/-- Every pair below m and n, in cell order. -/
def pairs (m n : Nat) : List (Nat × Nat) := (List.range m).flatMap fun i => (List.range n).map fun j => (i, j)

/-! ### Checks and operands (R353, R354) -/

/-- Whether the hart's gang has the array (R262, R353). -/
def hasArray (s : State) (k : Nat) : Bool := ((s.gangOf (coreOf k)).map (·.array)).getD false

/-- Whether an array instruction of some modes may execute (R353). -/
def arrayOk (s : State) (k : Nat) (modes : List Nat) : Bool :=
  let c := s.coreAt (coreOf k)
  c.mode != 0 && c.owner == slotOf k && modes.contains c.mode && hasArray s k

/-- Whether a count exceeds a register's capacity at a width (R301, R354). -/
def tooLong (s : State) (k n w : Nat) : Bool := s.lenOf k * 8 < n * w

/-- What the state says of an array instruction before any effect (R353, R354, R375): it traps, it does nothing, or it goes on. -/
inductive Gate where
  | trap (st : Stop)
  | nothing
  | go

/-- An instruction of some modes (R353), which does nothing on an empty array (R375), and what else it asks. -/
def modeGate (s : State) (k : Nat) (modes : List Nat) (more : Gate) : Gate :=
  if !arrayOk s k modes then .trap arrayStop
  else if (s.coreAt (coreOf k)).mvl = 0 then .nothing
  else more

/-- mx.op (R358). -/
def mxOpGate (s : State) (k : Nat) (t : Ty) (a b : Reg) : Gate :=
  let c := s.coreAt (coreOf k)
  modeGate s k [1]
    (if c.tm = 0 ∨ c.tn = 0 then .nothing
     else if t = .mx4 ∧ (a = 1 ∨ b = 1) then .trap arrayStop
     else if tooLong s k c.tm 16 ∨ tooLong s k c.tn 16 then .trap (illStop 4 0x3F 0)
     else .go)

/-- A row or column move (R361, R375): of count n, of row or column i. -/
def lineGate (col : Bool) (s : State) (k i : Nat) : Gate :=
  let c := s.coreAt (coreOf k)
  let n := if col then c.tm else c.tn
  if !arrayOk s k [1, 2] || c.mvl = 0 then .trap arrayStop
  else if n = 0 then .nothing
  else if c.mvl ≤ i then .trap arrayStop
  else if tooLong s k n 32 then .trap (illStop 4 0x3F 0)
  else .go

/-- An instruction behind its gate. -/
def behind (g : Gate) (s : State) (e : VEntry) (act : Run) : Run :=
  match g with
  | .trap st => .stop s e st
  | .nothing => .done s (e.to 0 0)
  | .go => act

/-- What an array instruction sees before it acts: values, a wait (`none`), or a stop. -/
abbrev Seen (α : Type) := Except (Option Stop) α

/-- The fills of some elements have come. -/
def awaitAll (h : Hart) (e : VEntry) (reg w : Nat) (els : List Nat) : Seen Unit :=
  if els.any fun el => ((entryReg h e reg).look (el * w) w matches .hole _) then .error none else .ok ()

/-- The values of some elements, in order; the first that is poisoned stops. -/
def seeAll (h : Hart) (e : VEntry) (reg w : Nat) (els : List Nat) : Seen (List Nat) :=
  els.mapM fun el => match mustSee h e reg el w with
    | .val v => .ok v
    | .wait => .error none
    | .stop st => .error (some st)

/-- The active indices below n (R354). -/
def actives (h : Hart) (e : VEntry) (n : Nat) : Seen (List Nat) :=
  (List.range n).filterMapM fun el => match gate h e el with
    | .val b => .ok (if b = 0 then none else some el)
    | .wait => .error none
    | .stop st => .error (some st)

/-- An instruction that acts on what it has seen. -/
def onSeen (s : State) (e : VEntry) (r : Seen Run) : Run :=
  match r with
  | .ok r => r
  | .error none => .wait s e
  | .error (some st) => .stop s e st

/-- Cells that an instruction reads, with the byte and the length: the first in an uncorrectable word. -/
def brokenCell (c : Core) (cells : List (Nat × Nat × Nat × Nat)) : Option (Nat × Nat) :=
  (cells.find? fun x => c.badCell x.1 x.2.1 x.2.2.1 x.2.2.2).map fun x => (x.1, x.2.1)

/-- An instruction that reads some cells and writes cells: in a protected strip an uncorrectable word that it reads rewinds the strip
(R210), else the strip loses protection (R213). -/
def onCells (s : State) (k : Nat) (e : VEntry) (reg : Nat) (cells : List (Nat × Nat × Nat × Nat)) (act : State → Run) : Run :=
  match brokenCell (s.coreAt (coreOf k)) cells with
  | some (i, j) =>
    if (s.hartAt k).buffers then .stop s e (cellStop reg (i * 128 + j))
    else act ((unprotect s k).note (cellStop reg (i * 128 + j)))
  | none => act (unprotect s k)

/-! ### Exact sums (R240, R242) -/

/-- round(z + the sum of products) into a format, with one rounding to nearest even. -/
def dotRound (f : Fmt) (z : Num) (prods : List (Num × Num)) : Nat :=
  let z0 : Ex := match z with
    | .nan s => .nan s
    | .inf n => .inf n false
    | .fin n m e => .mag n m e false
  (roundBin f .rne (prods.foldl (fun x p => addEx 2 false x.num (mulEx p.1 p.2).num) z0)).1

/-- round_f32(z + x * y) on numbers. -/
def fma32 (z : Nat) (x y : Num) : Nat := dotRound .f32 (unpackBin .f32 z) [(x, y)]

/-! ### Mode and shape (R355, R357) -/

/-- mx.mode (R355). -/
def runMxMode (s : State) (k : Nat) (e : VEntry) (d : Reg) : Run :=
  let c := s.coreAt (coreOf k)
  let m := e.x.toNat
  let mirror := (s.hartAt k).pmode.testBit 0
  if 2 < m then .stop s e (illStop 1 0x3F 0)
  else if m ≠ 0 ∧ (!hasArray s k ∨ mirror) then .stop s e arrayStop
  else if c.mode ≠ 0 ∧ c.owner ≠ slotOf k then .stop s e arrayStop
  else if m = 0 then
    deliver (s.setCoreAt (coreOf k) { c with mode := 0, owner := 0, mvl := 0, tm := 0, tn := 0, tk := 0 }) k e d 0
  else
    let g := floorPow2 (min e.y.toNat (min 128 c.prefixP))
    let c := { c with mode := m, owner := slotOf k, mvl := g, tm := g, tn := g, tk := 0, kgrid := c.kgrid % 2 ^ 16 }
    deliver (s.setCoreAt (coreOf k) c) k e d (BitVec.ofNat 64 g)

/-- The values of one element along K (R357, R358). -/
def perCell (t : Ty) : Nat := match t with | .e4m3 | .e5m2 => 2 | .mx4 => 4 | _ => 1

/-- mx.tshape (R354, R357). -/
def runMxTshape (s : State) (k : Nat) (e : VEntry) (t : Ty) (d : Reg) : Run :=
  match modeGate s k [1, 2] .go with
  | .trap st => .stop s e st
  | .nothing => .done (s.setHartAt k (s.hartAt k).synced') (e.to 0 0)
  | .go =>
    let c := s.coreAt (coreOf k)
    let relief := c.mode == 2
    let x := e.x.toNat
    let p := perCell t
    let kk := bits x 47 32
    if (t == .i8) != relief then .stop s e arrayStop
    else if !relief && kk % p != 0 then .stop s e arrayStop
    else
      let lim := c.mvl / 2 ^ (s.dieAt (dieOf (coreOf k))).grant
      let tm := min (bits x 15 0) lim
      let tn := min (bits x 31 16) lim
      let g := if t = .mx4 ∧ 32 ≤ kk then 32 else p
      let tk := if relief then 0 else min kk 4096 / g * g
      let up := fun (n q : Nat) => (n + q - 1) / q
      let nt := if tm = 0 ∨ tn = 0 then 0
        else min (popcount e.y.toNat 16) (up (bits x 15 0) tm * up (bits x 31 16) tn)
      deliver (s.setCoreAt (coreOf k) { c with tm := tm, tn := tn, tk := tk }) k e d
        (BitVec.ofNat 64 (tm + tn * 2 ^ 16 + tk * 2 ^ 32 + nt * 2 ^ 48))

/-! ### Outer products (R358, R359) -/

/-- The values of a 16-bit element along K (R358), with an E8M0 scale for mx4. -/
def cellVals (t : Ty) (scale v : Nat) : List Num :=
  match t with
  | .mx4 => (List.range 4).map fun r => cvtNum .mx4 (v / 16 ^ r) scale
  | .bf16 => [unpackBin .bf16 v]
  | t => (List.range 2).map fun r => unpackBin (fmtOf t) (v / 256 ^ r % 256)

/-- One accumulation of an outer product. -/
def mxCell (d i j : Nat) (a b : List Num) (c : Core) : Core :=
  c.setCell i j (4 * d) 4 (dotRound .f32 (unpackBin .f32 (c.cell i j (4 * d) 4)) (a.zip b))

/-- mx.op (R358, R359). -/
def runMxOp (s : State) (k : Nat) (e : VEntry) (t : Ty) (d : Nat) (a b : Reg) : Run :=
  behind (mxOpGate s k t a b) s e <|
    let c := s.coreAt (coreOf k)
    let h := s.hartAt k
    onSeen s e do
      let rows := List.range c.tm
      let cols := List.range c.tn
      let scales := if t = .mx4 then rows ++ cols.map (128 + ·) else []
      awaitAll h e a.val 16 rows
      awaitAll h e b.val 16 cols
      awaitAll h e 1 8 scales
      let va ← seeAll h e a.val 16 rows
      let vb ← seeAll h e b.val 16 cols
      let sc ← seeAll h e 1 8 scales
      let act ← actives h e c.tm
      let rowOf := fun i => cellVals t (sc.getD i 0) (va.getD i 0)
      let colOf := fun j => cellVals t (sc.getD (c.tm + j) 0) (vb.getD j 0)
      return onCells s k e (0x20 + d) (act.flatMap fun i => cols.map fun j => (i, j, 4 * d, 4)) fun s =>
        let c := act.foldl (fun c i => cols.foldl (fun c j => mxCell d i j (rowOf i) (colOf j) c) c) (s.coreAt (coreOf k))
        .done (s.setCoreAt (coreOf k) c) (e.to 0 0)

/-! ### Moving tiles (R360, R361) -/

/-- An instruction that reads the same bytes of every cell below mvl, or none, and writes each. -/
def everyCell (s : State) (k : Nat) (e : VEntry) (reads : Option (Nat × Nat × Nat)) (f : Core → Nat → Nat → Core) : Run :=
  let mvl := (s.coreAt (coreOf k)).mvl
  let all := pairs mvl mvl
  let cells := match reads with
    | some (_, b, n) => all.map fun p => (p.1, p.2, b, n)
    | none => []
  onCells s k e (reads.getD (0, 0, 0)).1 cells fun s =>
    .done (s.setCoreAt (coreOf k) (all.foldl (fun c p => f c p.1 p.2) (s.coreAt (coreOf k)))) (e.to 0 0)

/-- mx.zero (R360). -/
def runMxZero (s : State) (k : Nat) (e : VEntry) (d : Nat) : Run :=
  behind (modeGate s k [1, 2] .go) s e <| everyCell s k e none fun c i j => c.setCell i j (4 * d) 4 0

/-- mx.mv (R360). -/
def runMxMv (s : State) (k : Nat) (e : VEntry) (d a : Nat) : Run :=
  behind (modeGate s k [1, 2] .go) s e <| everyCell s k e (some (0x20 + a, 4 * a, 4)) fun c i j =>
    (c.setCell i j (4 * d) 4 (c.cell i j (4 * a) 4)).spoil (c.badCell i j (4 * a) 4) i j (4 * d)

/-- Where a row or column move finds element el of row or column n. -/
def lineCell (col : Bool) (n el : Nat) : Nat × Nat := if col then (el, n) else (n, el)

/-- A row or column move over its count (R361). -/
def lineMove (col : Bool) (s : State) (k : Nat) (e : VEntry) (act : Nat → Run) : Run :=
  let c := s.coreAt (coreOf k)
  behind (lineGate col s k e.y.toNat) s e (act (if col then c.tm else c.tn))

/-- mx.rdrow and mx.rdcol (R361). -/
def runMxRead (s : State) (k : Nat) (e : VEntry) (col : Bool) (d : Reg) (a : Nat) : Run :=
  lineMove col s k e fun n =>
    let c := s.coreAt (coreOf k)
    let at' := lineCell col e.y.toNat
    onSeen s e do
      let act ← actives (s.hartAt k) e n
      let bad := fun el => c.badCell (at' el).1 (at' el).2 (4 * a) 4
      match act.find? bad with
      | some el => if (s.hartAt k).buffers then throw (some (cellStop (0x20 + a) el)) else pure ()
      | none => pure ()
      return .done (act.foldl (fun s el =>
        if bad el then (poisonElem s k d.val el 32 (causeCode .ue) 2).note (cellStop (0x20 + a) el)
        else putElem s k d.val el 32 (c.cell (at' el).1 (at' el).2 (4 * a) 4)) s) (e.to n 0)

/-- mx.wrrow and mx.wrcol (R361). -/
def runMxWrite (s : State) (k : Nat) (e : VEntry) (col : Bool) (d : Nat) (a : Reg) : Run :=
  lineMove col s k e fun n =>
    let h := s.hartAt k
    let at' := lineCell col e.y.toNat
    onSeen s e do
      let act ← actives h e n
      awaitAll h e a.val 32 act
      let vals ← seeAll h e a.val 32 act
      let s := unprotect s k
      let c := (act.zip vals).foldl (fun (c : Core) p => c.setCell (at' p.1).1 (at' p.1).2 (4 * d) 4 p.2) (s.coreAt (coreOf k))
      return .done (s.setCoreAt (coreOf k) c) (e.to 0 0)

/-! ### The memory moves (R362, R373) -/

/-- The words of a cell stored from an address on. The first, with `ord`, follows the die instants of the cells before (R107 row 2). -/
def storeWords (k va : Nat) (ord : Bool) : List Nat → State → Except Stop State
  | [], s => .ok s
  | w :: rest, s => match storeBy [] s k false ord 4 0xFF (va % 2 ^ 64) w with
    | .ok s => storeWords k (va + 4) false rest s
    | .error st => .error st

/-- Words loaded from an address on. -/
def loadWords (k va : Nat) : Nat → State → Except Stop (List Nat × State)
  | 0, s => .ok ([], s)
  | n + 1, s => match load s k false 4 (va % 2 ^ 64) with
    | .ok (w, s) => match loadWords k (va + 4) n s with
      | .ok (ws, s) => .ok (w :: ws, s)
      | .error st => .error st
    | .error st => .error st

/-- One cell of a spill or a fill: `n` words from byte b on. -/
def moveCell (fill : Bool) (k b n reg va i j : Nat) (s : State) : Except Stop State :=
  let c := s.coreAt (coreOf k)
  let tag := fun (st : Stop) => st.at reg (i * 128 + j)
  if fill then
    match loadWords k va n s with
    | .error st => .error (tag st)
    | .ok (ws, s) => .ok (s.setCoreAt (coreOf k) (((s.coreAt (coreOf k)).setCell i j b (4 * n)
        (leNat (ws.flatMap (leBytes 4 ·))))))
  else if c.badCell i j b (4 * n) then .error (cellStop reg (i * 128 + j))
  else
    match storeWords k va true ((List.range n).map fun w => c.cell i j (b + 4 * w) 4) s with
    | .error st => .error (tag st)
    | .ok s => .ok s

/-- A cell's move, or the late fault that a target has reported there (R28 to R30). -/
def moveOne (fill : Bool) (k b n reg base mvl : Nat) (e : VEntry) (s : State) (r : Nat) : Except Stop State :=
  let va := base + 4 * n * r
  match e.lateAt r 0 with
  | some t => .error ((Stop.trap { t with taddr := va % 2 ^ 64 }).at reg (r / mvl * 128 + r % mvl))
  | none => moveCell fill k b n reg va (r / mvl) (r % mvl) s

/-- Cells in cell order; the index of the cell that stops. -/
def moveCells (one : State → Nat → Except Stop State) : List Nat → State → State × Option (Nat × Stop)
  | [], s => (s, none)
  | r :: rest, s =>
    match one s r with
    | .ok s => moveCells one rest s
    | .error st => (s, some (r, st))

/-- mx.spill, mx.fill, sp.gspill and sp.gfill: `n` words of each cell from byte b on (R362, R373). -/
def runMoves (modes : List Nat) (fill : Bool) (b n reg : Nat) (s : State) (k : Nat) (e : VEntry) : Run :=
  behind (modeGate s k modes .go) s e <|
    let mvl := (s.coreAt (coreOf k)).mvl
    if e.x.toNat % 64 ≠ 0 then
      .stop s e (.trap { cause := .align, sub := 1, treg := reg, taddr := e.x.toNat })
    else
      let (s, e) := if fill then (unprotect s k, e) else reserveOnce s k (4 * n * mvl * mvl) e
      inCount s k e (mvl * mvl) fun lim e s =>
        match moveCells (moveOne fill k b n reg e.x.toNat mvl e) ((List.range (lim - e.aux)).map (e.aux + ·)) s with
        | (s, none) => .done s (e.to 0 0)
        | (s, some (r, st)) => .stop s { e with aux := r } st

end Sys2Proof.Machine
end

