-- ==== Sys2Proof/Machine/Relief.lean ====
section
/-! DEFINITION. The array in relief mode: grids, the edge unit, evaluation, training and refinement (R241, R242, R363 to
R373, R375). Edge values are exact rationals until they are rounded. -/

namespace Sys2Proof.Machine

/-! ### Numbers -/

/-- The value of a number as a rational; NaN and the infinities have none, and read as 0. -/
def Num.rat : Num → Rat
  | .fin n m e =>
    let v : Rat := if 0 ≤ e then ((m * 2 ^ e.toNat : Nat) : Rat) else (m : Rat) / ((2 ^ (-e).toNat : Nat) : Rat)
    if n then -v else v
  | _ => 0

/-- A rational rounded to f32 under RNE (R241). -/
def ratRound (v : Rat) : Nat :=
  if v = 0 then 0
  else
    let (q, e, st) := quotient 2 120 v.num.natAbs v.den 0
    (roundBin .f32 .rne (.mag (v.num < 0) q e st)).1

/-- The value of an f32 pattern. -/
def f32 (v : Nat) : Num := unpackBin .f32 v

/-- 1.0 and the canonical NaN of f32. -/
def one32 : Nat := 0x3F800000
def nan32 : Nat := 0x7FC00000

/-! ### The grid (R365) -/

/-- A grid: degree, intervals, knots, pairing. -/
structure Grid where
  deg   : Nat
  g     : Nat
  knots : List Rat
  paired : Bool

/-- Whether knots ascend strictly. -/
def ascending : List Rat → Bool
  | a :: b :: rest => decide (a < b) && ascending (b :: rest)
  | _ => true

/-- The coefficients a grid gives each input. -/
def Grid.nc (x : Grid) : Nat := x.g + x.deg

/-- The grid of a core, when it fits (R365). -/
def gridOf (c : Core) : Option Grid :=
  let k := bits c.kdeg 1 0
  let paired := c.kgrid.testBit 16
  let nk := bits c.kgrid 12 8
  let table := (List.range nk).map fun n => (f32 (c.kn.toList.getD n 0)).rat
  let g := bits c.kgrid 3 0
  let x : Grid :=
    if c.kgrid.testBit 13 then { deg := k, g := nk - 1 - 2 * k, knots := table, paired := paired }
    else
      { deg := k, g := g, paired := paired
        knots := (List.range (g + 2 * k + 1)).map fun (n : Nat) =>
          (f32 c.korg).rat + (((n : Int) - k : Int) : Rat) / (f32 c.kinv).rat }
  let ok := !c.kgrid.testBit 13 || (2 * k + 2 ≤ nk && ascending table)
  if ok && x.nc ≤ (if paired then 16 else 8) then some x else none

/-! ### The edge unit (R367, R368) -/

/-- The B-spline i of a degree on knots, by the Cox-de Boor recursion, where x lies in interval j. -/
def bspline (t : Nat → Rat) (x : Rat) (j : Nat) : Nat → Nat → Rat
  | 0, i => if i = j then 1 else 0
  | p + 1, i =>
    (x - t i) / (t (i + p + 1) - t i) * bspline t x j p i +
    (t (i + p + 2) - x) / (t (i + p + 2) - t (i + 1)) * bspline t x j p (i + 1)

/-- Its derivative. -/
def bsplineD (t : Nat → Rat) (x : Rat) (j k i : Nat) : Rat :=
  (k : Rat) * (bspline t x j (k - 1) i / (t (i + k) - t i) - bspline t x j (k - 1) (i + 1) / (t (i + k + 1) - t (i + 1)))

/-- What the edge unit makes of an input: whether it is out of the domain under DARN, the interval, and the f32 patterns
of b and b', which are empty when no coefficient is read. `nan`: the input is a NaN. -/
structure Edge where
  dark : Bool := false
  nan  : Bool := false
  s    : Nat := 0
  b    : List Nat := []
  bd   : List Nat := []

/-- The values of an interval at a point; `flat`: the derivatives are zero. -/
def Grid.values (x : Grid) (s : Nat) (v : Rat) (flat : Bool) : Edge :=
  let t := fun n => x.knots.getD n 0
  let ns := List.range (x.deg + 1)
  { s := s, b := ns.map fun n => ratRound (bspline t v (x.deg + s) x.deg (s + n))
    bd := ns.map fun n => if flat then 0 else ratRound (bsplineD t v (x.deg + s) x.deg (s + n)) }

/-- NaN values. -/
def Grid.nans (x : Grid) (nan : Bool) (s : Nat) : Edge :=
  let l := List.replicate (x.deg + 1) nan32
  { nan := nan, s := s, b := l, bd := l }

/-- The edge unit (R367). `x` is an f32 pattern. -/
def edgeOf (gr : Grid) (rule x : Nat) : Edge :=
  let v := f32 x
  let lo := gr.knots.getD gr.deg 0
  let hi := gr.knots.getD (gr.deg + gr.g) 0
  if v.isNan then gr.nans true 0
  else
    let below := if v.isInf then v.neg else v.rat < lo
    let above := if v.isInf then !v.neg else hi < v.rat
    let last := gr.g - 1
    if below || above then
      let s := if below then 0 else last
      match rule with
      | 0 => gr.values s (if below then lo else hi) true
      | 1 => if v.isInf then gr.nans false s else gr.values s v.rat false
      | r => { dark := r == 3 }
    else
      let s := ((List.range gr.g).reverse.find? fun s => gr.knots.getD (gr.deg + s) 0 ≤ v.rat).getD 0
      gr.values s v.rat false

/-- silu'(x) = σ(x)(1 + x(1 − σ(x))) at a finite non-zero argument. -/
def siluDEx (neg : Bool) (m : Nat) (e : Int) : Ex :=
  let P := sfuP m e
  let (v, ex) := expNeg P neg m e
  let (q, f) := sigmoidOf P v ex
  let rest := 2 ^ P - toFix P q f
  let xr := if 0 ≤ e then m * 2 ^ e.toNat * rest else m * rest / 2 ^ (-e).toNat
  let u : Int := 2 ^ P + if neg then -(xr : Int) else xr
  nearEx (u < 0) (q * u.natAbs) (f - P)

/-- β and β' of an f32 pattern (R368): 1 identity, 2 silu. -/
def betaOf (base : Nat) (deriv : Bool) (x : Nat) : Nat :=
  let v := f32 x
  if v.isNan then nan32
  else if base = 1 then (if deriv then one32 else x)
  else if !deriv then (roundBin .f32 .rne (sfuEx .silu v)).1
  else match v with
    | .inf n => if n then 0x80000000 else one32
    | .fin n m e => if m = 0 then 0x3F000000 else (roundBin .f32 .rne (siluDEx n m e)).1
    | .nan _ => nan32

/-! ### One input -/

/-- An active input: its index, its value as f32, its edge values, and β and β'. -/
structure Input where
  i  : Nat
  x  : Nat
  ed : Edge
  be : Nat
  bd : Nat

/-- An input of type T as f32 (R367). -/
def widen (t : Ty) (v : Nat) : Nat := if t = .bf16 then v * 2 ^ 16 else v

/-- BASE (R364). -/
def Core.base (c : Core) : Nat := bits c.kdeg 5 4

def inputOf (c : Core) (gr : Grid) (t : Ty) (i v : Nat) : Input :=
  let x := widen t v
  { i := i, x := x, ed := edgeOf gr (bits c.kclamp 1 0) x, be := betaOf c.base false x, bd := betaOf c.base true x }

/-- The cell row of coefficient m of input i (R366). -/
def cellRow (paired : Bool) (i m : Nat) : Nat := if paired then 2 * i + m / 8 else i

/-- A coefficient and the base weight, as numbers. -/
def coeff (c : Core) (p : Bool) (i j m : Nat) : Num := unpackBin .bf16 (c.cell (cellRow p i m) j (2 * (m % 8)) 2)
def weight (c : Core) (p : Bool) (i j : Nat) : Num := unpackBin .bf16 (c.cell (cellRow p i 0) j 16 2)

/-- A cell's value or derivative (R241, R369, R370). -/
def cellValue (c : Core) (p deriv : Bool) (j : Nat) (x : Input) : Nat :=
  let bs := if deriv then x.ed.bd else x.ed.b
  let v := bs.zipIdx.foldl (fun v q => fma32 v (coeff c p x.i j (x.ed.s + q.2)) (f32 q.1)) 0
  if c.base = 0 then v else fma32 v (weight c p x.i j) (f32 (if deriv then x.bd else x.be))

/-- Whether a cell's value reads an uncorrectable word. -/
def cellBroken (c : Core) (p : Bool) (j : Nat) (x : Input) : Bool :=
  (x.ed.b.zipIdx.any fun q => c.badCell (cellRow p x.i (x.ed.s + q.2)) j (2 * ((x.ed.s + q.2) % 8)) 2) ||
  (c.base != 0 && c.badCell (cellRow p x.i 0) j 16 2)

/-- What an evaluation or a training step asks before any effect (R354, R365, R375). `wi`: the width of the registers indexed by
input. An input count whose pairs exceed the 128 rows traps as sp.pair does (log 24). -/
def spGate (s : State) (k wi : Nat) : Gate :=
  let c := s.coreAt (coreOf k)
  modeGate s k [2]
    (if c.tm = 0 ∨ c.tn = 0 then .nothing
     else if tooLong s k c.tm wi ∨ tooLong s k c.tn 32 then .trap (illStop 4 0x3F 0)
     else match gridOf c with
      | none => .trap arrayStop
      | some gr => if gr.paired ∧ 64 < c.tm then .trap arrayStop else .go)

/-- The widths of the registers indexed by input. -/
def spWidth (op : VOp) : Nat := match op with | .spDx t .. => max t.width 32 | .spEval t .. | .spGrad t .. => t.width | _ => 1

/-- What the state says of an array instruction with vector operands, before it reads a stream (R64, R353, R354, R375). -/
def arrayGate (s : State) (k : Nat) (e : VEntry) : Gate :=
  match e.op with
  | .mxOp t _ a b => mxOpGate s k t a b
  | .mxRead col .. | .mxWrite col .. => lineGate col s k e.y.toNat
  | .spEval .. | .spGrad .. | .spDx .. => spGate s k (spWidth e.op)
  | _ => .go

/-- An evaluation or a training step with its inputs. -/
def withInputs (s : State) (k : Nat) (e : VEntry) (t : Ty) (a : Reg) (b : Option Reg)
    (act : Core → Grid → List Input → List Nat → Run) : Run :=
  behind (spGate s k (spWidth e.op)) s e <|
    let c := s.coreAt (coreOf k)
    let h := s.hartAt k
    match gridOf c with
    | none => .stop s e arrayStop
    | some gr => onSeen s e do
      let ins := List.range c.tm
      let on ← actives h e c.tm
      let idle := on == [] && (match e.op with | .spGrad .. => true | _ => false)
      let outs := if idle || b.isNone then [] else List.range c.tn
      let br := (b.getD 0).val
      awaitAll h e a.val t.width (if idle then [] else ins)
      awaitAll h e br 32 outs
      let xs ← seeAll h e a.val t.width on
      let ds ← seeAll h e br 32 outs
      return act c gr ((on.zip xs).map fun p => inputOf c gr t p.1 p.2) ds

/-- The hole-queue entry of a result under DARN (R371). -/
def darnHole (e : VEntry) (k fn : Nat) (t : Ty) (d : Reg) (el x v opc : Nat) : HoleEntry :=
  { id := 0, gen := 0, slot := slotOf k, seq := e.seq, age := e.age, row := 0, elem := el, dreg := d.val, maj := 0x31, fn := fn
    ty := t, sty := .f32, fpctl := e.fpctl, opa := BitVec.ofNat 64 x, opb := BitVec.ofNat 64 v, opc := BitVec.ofNat 64 opc
    links := [], wid := 32, st := .ready }

/-- What one result of an evaluation becomes. -/
inductive Cellout where
  | val (v : Nat)
  | hole (x v opc : Nat)
  | broken
  deriving DecidableEq, Repr

/-- Whether the hole queue has room for some results (R164): for all, and 128 more unless no older instruction of the core may
take entries. -/
def resultRoom (s : State) (k : Nat) (e : VEntry) (l : List (Nat × Cellout)) : Bool :=
  let free := Config.holeSlots - (s.coreAt (coreOf k)).holes.length
  let holes := l.any fun p => match p.2 with | .hole .. => true | _ => false
  !holes || l.length + 128 ≤ free || (l.length ≤ free && oldestTaker s k e)

/-- Results are written, or none is while the hole queue lacks room for all of them (R164, R371). -/
def putResults (s : State) (k : Nat) (e : VEntry) (fn : Nat) (t : Ty) (d : Reg) (n : Nat) (l : List (Nat × Cellout)) : Run :=
  let put := fun (s : Option State) (p : Nat × Cellout) => s.bind fun s =>
    match p.2 with
    | .val v => some (putElem s k d.val p.1 32 v)
    | .broken => some ((poisonElem s k d.val p.1 32 (causeCode .ue) 2).note (cellStop 0x30 p.1))
    | .hole x v opc => makeHole s k d.val p.1 32 (darnHole e k fn t d p.1 x v opc)
  if !resultRoom s k e l then .wait s e
  else match l.foldl put (some s) with
    | some s => .done s (e.to n 0)
    | none => .wait s e

/-- Results that an uncorrectable cell word fed: an open strip rewinds (R210). -/
def unlessBroken (s : State) (k : Nat) (e : VEntry) (l : List (Nat × Cellout)) (r : Run) : Run :=
  match l.find? (·.2 == .broken) with
  | some p => if (s.hartAt k).buffers then .stop s e (cellStop 0x30 p.1) else r
  | none => r

/-! ### sp.eval, sp.grad, sp.dx (R369 to R371) -/

/-- sp.eval (R369, R371). -/
def runSpEval (s : State) (k : Nat) (e : VEntry) (t : Ty) (d a : Reg) : Run :=
  withInputs s k e t a none fun c gr xs _ =>
    let dark := xs.filter (·.ed.dark)
    let one := fun j =>
      if xs.any (cellBroken c gr.paired j) then Cellout.broken
      else
        let y := xs.foldl (fun y x => fma32 y (f32 one32) (f32 (cellValue c gr.paired false j x))) 0
        match dark with
        | x :: _ => .hole x.x y (x.i + dark.length * 2 ^ 16)
        | [] => .val y
    let l := (List.range c.tn).map fun j => (j, one j)
    unlessBroken s k e l (putResults s k e 0 t d c.tn l)

/-- sp.dx (R370, R371). -/
def runSpDx (s : State) (k : Nat) (e : VEntry) (t : Ty) (d a b : Reg) : Run :=
  withInputs s k e t a (some b) fun c gr xs ds =>
    let one := fun (x : Input) =>
      if ds.zipIdx.any fun q => cellBroken c gr.paired q.2 x then Cellout.broken
      else
        let dx := ds.zipIdx.foldl (fun dx q =>
          let v := f32 (cellValue c gr.paired true q.2 x)
          fma32 dx (f32 one32) (f32 (roundBin .f32 .rne (mulEx (f32 q.1) v)).1)) 0
        if x.ed.dark then .hole x.x dx x.i else .val dx
    let l := xs.map fun x => (x.i, one x)
    unlessBroken s k e l (putResults s k e 2 t d c.tm l)

/-- One training step of one cell (R242, R370). -/
def gradCell (gr : Grid) (x : Input) (j delta : Nat) (c : Core) : Core :=
  let dn := f32 delta
  let bs := if x.ed.nan then [] else x.ed.b
  let c := bs.zipIdx.foldl (fun (c : Core) q =>
    let m := x.ed.s + q.2
    let i := cellRow gr.paired x.i m
    let b := 20 + 5 * (m % 8)
    c.setCell i j b 5 (dotRound .g40 (unpackBin .g40 (c.cell i j b 5)) [(dn, f32 q.1)])) c
  if c.base = 0 then c
  else
    let i := cellRow gr.paired x.i 0
    c.setCell i j 60 4 (fma32 (c.cell i j 60 4) dn (f32 x.be))

/-- The accumulators that a training step of one cell reads. -/
def gradReads (c : Core) (gr : Grid) (x : Input) (j : Nat) : List (Nat × Nat × Nat × Nat) :=
  (if x.ed.nan then [] else x.ed.b.zipIdx.map fun q =>
    (cellRow gr.paired x.i (x.ed.s + q.2), j, 20 + 5 * ((x.ed.s + q.2) % 8), 5)) ++
  if c.base = 0 then [] else [(cellRow gr.paired x.i 0, j, 60, 4)]

/-- sp.grad (R370), which changes nothing where every input is inactive (R375). -/
def runSpGrad (s : State) (k : Nat) (e : VEntry) (t : Ty) (a b : Reg) : Run :=
  withInputs s k e t a (some b) fun c gr xs ds =>
    if xs.isEmpty then .done s (e.to 0 0)
    else
      let cells := xs.flatMap fun x => (List.range ds.length).flatMap fun j => gradReads c gr x j
      onCells s k e 0x30 cells fun s =>
        let c := xs.foldl (fun c x => ds.zipIdx.foldl (fun c q => gradCell gr x q.2 q.1 c) c) (s.coreAt (coreOf k))
        .done (s.setCoreAt (coreOf k) c) (e.to 0 0)

/-! ### sp.refine, sp.pair, sp.gzero and the gradient moves (R366, R372, R373) -/

/-- c'_n of a refinement (R372). -/
def refined (deg nc : Nat) (old : Nat → Num) (n : Nat) : Nat :=
  let terms := (List.range nc).filterMap fun m =>
    if 2 * m ≤ n + deg ∧ n + deg - 2 * m ≤ deg + 1 then
      some (Num.fin false (Nat.choose (deg + 1) (n + deg - 2 * m)) (-(deg : Int)), old m)
    else none
  dotRound .bf16 (.fin true 0 0) terms

/-- One input's cells are refined (R372). -/
def refineCell (gr : Grid) (i j : Nat) (c : Core) : Core :=
  let all := if gr.paired then 16 else 8
  let bad := (List.range gr.nc).any fun m => c.badCell (cellRow gr.paired i m) j (2 * (m % 8)) 2
  let new := (List.range all).map fun n =>
    if n < 2 * gr.g + gr.deg then refined gr.deg gr.nc (coeff c gr.paired i j) n else 0
  let c := new.zipIdx.foldl (fun (c : Core) q =>
    (c.setCell (cellRow gr.paired i q.2) j (2 * (q.2 % 8)) 2 q.1).spoil bad (cellRow gr.paired i q.2) j (2 * (q.2 % 8))) c
  (List.range (if gr.paired then 2 else 1)).foldl (fun (c : Core) r => c.setCell (cellRow gr.paired i (8 * r)) j 20 40 0) c

/-- sp.refine (R372). -/
def runSpRefine (s : State) (k : Nat) (e : VEntry) : Run :=
  behind (modeGate s k [2] .go) s e <|
    let c := s.coreAt (coreOf k)
    match gridOf c with
    | none => .stop s e arrayStop
    | some gr =>
      if c.kgrid.testBit 13 || (if gr.paired then 16 else 8) < 2 * gr.g + gr.deg || 254 ≤ bits c.kinv 30 23 then
        .stop s e arrayStop
      else
        let all := pairs (if gr.paired then c.mvl / 2 else c.mvl) c.mvl
        let cells := all.flatMap fun p => (List.range gr.nc).map fun m => (cellRow gr.paired p.1 m, p.2, 2 * (m % 8), 2)
        onCells s k e 0x30 cells fun s =>
          let c := all.foldl (fun c p => refineCell gr p.1 p.2 c) (s.coreAt (coreOf k))
          let c := { c with kgrid := c.kgrid - gr.g + 2 * gr.g, kinv := c.kinv + 2 ^ 23 }
          .done (s.setCoreAt (coreOf k) c) (e.to 0 0)

/-- sp.pair (R366). -/
def runSpPair (s : State) (k : Nat) (e : VEntry) : Run :=
  behind (modeGate s k [2] .go) s e <|
    let c := s.coreAt (coreOf k)
    let v := e.x.toNat
    if 1 < v ∨ (v = 1 ∧ c.mvl < 2 * c.tm) then .stop s e arrayStop
    else .done (s.setCoreAt (coreOf k) { c with kgrid := c.kgrid % 2 ^ 16 + v * 2 ^ 16 }) (e.to 0 0)

/-- sp.gzero (R373). -/
def runSpGzero (s : State) (k : Nat) (e : VEntry) : Run :=
  behind (modeGate s k [2] .go) s e <| everyCell s k e none fun c i j => c.setCell i j 20 44 0

end Sys2Proof.Machine
end

