-- ==== Sys2Proof/Machine/Engine.lean ====
section
/-! DEFINITION. Engine transfers (R55, R56, R66, R72 to R74, R134 to R139, R376 to R385, R393, R442). A transfer runs whole
when it issues (log 3). A collective waits for the flags of the other ranks, a copy for a tracking slot; one that fails while a
scratchpad tracks it signals its completion at its next turn. -/

namespace Sys2Proof.Machine

/-! ### Where a failure is reported (R74, R79, R377) -/

/-- A failed access of a transfer, and the plinth that reported it, or 0. -/
structure EngFail where
  st     : Stop
  plinth : Nat := 0

/-- What an engine access answers. -/
abbrev Eng (α : Type) := Except EngFail α

/-- A failure in the terms of a status word (R377). -/
def EngFail.word (f : EngFail) (dfail patt elem : Nat) : Nat :=
  match f.st with
  | .trap t =>
    elem + patt * 2 ^ 23 + f.plinth * 2 ^ 29 + (t.level % 16 * 16 + t.sub % 16) * 2 ^ 32 + causeCode t.cause * 2 ^ 40 +
      dfail * 2 ^ 48
  | .integrity .. => 0

/-! ### Accesses of a transfer (R134, R380) -/

/-- The engine of a core, and the stride-gather unit of a plinth, as requesters (R94). -/
def engineOf (core : Nat) : Nat := 0x800 + core
def gatherUnit (plinth : Nat) : Nat := 0x500 + plinth

/-- Where one access of a transfer goes: no scalar data memory. -/
def engPlace (s : State) (k : Nat) (acc : Access) (va : Nat) : Eng (Place × State) :=
  match translateAs (engineOf (coreOf k)) [] s k acc false (va % 2 ^ 64) with
  | .error st => .error { st := st }
  | .ok (p, _, s) =>
    match p.loc with
    | .sdm .. => .error { st := memTrap .access 2 (va % 2 ^ 64) }
    | _ => .ok (p, s)

/-- A failure at a place. -/
def failAt (s : State) (p : Place) (st : Stop) : EngFail :=
  { st := st, plinth := match p.loc with | .dev a => plinthOf s.mem a | _ => 0 }

/-- Bytes read at home instants (R125), one by one. -/
def engRead (s : State) (k va : Nat) : Nat → Eng (List Byte × State)
  | 0 => .ok ([], s)
  | n + 1 =>
    match engPlace s k .load va with
    | .error f => .error f
    | .ok (p, s) =>
      match readPlace s k p .load true 1 (va % 2 ^ 64) with
      | .error st => .error (failAt s p st)
      | .ok b =>
        match engRead s k (va + 1) n with
        | .error f => .error f
        | .ok (bs, s) => .ok (b ++ bs, s)

/-- One write request. -/
def engPut (s : State) (k va : Nat) (bytes : List Byte) : Eng State :=
  match engPlace s k .store va with
  | .error f => .error f
  | .ok (p, s) =>
    match writePlace s k p .store bytes (va % 2 ^ 64) with
    | .error st => .error (failAt s p st)
    | .ok s => .ok s

/-- Bytes written one by one. -/
def engWrite (k : Nat) : Nat → List Byte → State → Eng State
  | _, [], s => .ok s
  | va, b :: rest, s => match engPut s k va [b] with
    | .error f => .error f
    | .ok s => engWrite k (va + 1) rest s

/-! ### Copies (R381, R442) -/

/-- The bytes of the next request of a copy: a whole codeword, or on an ENC page a whole sector, where the copy covers
one; else a byte. -/
def copyPart (s : State) (k va left : Nat) : Nat :=
  match engPlace s k .store va with
  | .ok (p, _) =>
    let u := if p.enc then 512 else 64
    if va % u = 0 && u ≤ left then u else 1
  | .error _ => 1

/-- One request of a copy. -/
def copyStep (s : State) (k dst src n : Nat) : Eng State :=
  match engRead s k src n with
  | .error f => .error f
  | .ok (bytes, s) => engPut s k dst bytes

/-- A copy from offset o on, in ascending order: where it ended, and the failure that ended it. A request of several bytes that
fails is made byte by byte. -/
def copyRun (k dst src n : Nat) : Nat → Nat → State → State × Nat × Option EngFail
  | 0, o, s => (s, o, none)
  | fuel + 1, o, s =>
    if n ≤ o then (s, o, none)
    else
      let c := copyPart s k (dst + o) (n - o)
      match copyStep s k (dst + o) (src + o) c with
      | .ok s => copyRun k dst src n fuel (o + c) s
      | .error _ =>
        match copyStep s k (dst + o) (src + o) 1 with
        | .ok s => copyRun k dst src n fuel (o + 1) s
        | .error f => (s, o, some f)

/-- Whether two ranges of n bytes have a byte in common, addresses taken modulo 2^64 (R380, R381). -/
def rangesMeet (a b n : Nat) : Bool := n != 0 && ((b + 2 ^ 64 - a) % 2 ^ 64 < n || (a + 2 ^ 64 - b) % 2 ^ 64 < n)

/-! ### Tracking (R69 to R71) -/

/-- The scratchpad that a destination lies in, and the offset. -/
def spadOf (s : State) (k va : Nat) : Option (Nat × Nat) :=
  match window s k (va % 2 ^ 64) with
  | some (.ok ⟨.spad c off, _, _⟩) => some (c, off)
  | _ => none

/-- Whether every scratchpad among some destinations has a slot to track the copy (R69). A hart has one copy in flight, and a
multicast is one copy, however many of its destinations lie in one scratchpad (DEDUCED, log 26). -/
def trackRoom (s : State) (k : Nat) (dsts : List Nat) : Bool :=
  (dsts.filterMap (spadOf s k)).all fun p => ((s.coreAt p.1).tracks.map (·.hart)).eraseDups.length < Config.trackSlots

/-- The arrival pointers of a copy that failed at offset o take FAILED (R69, R139). -/
def addTrack (s : State) (k dst n o : Nat) (f : EngFail) : State :=
  match spadOf s k dst, f.st with
  | some (c, off), .trap t =>
    let x := s.coreAt c
    s.setCoreAt c { x with tracks :=
      x.tracks ++ [{ hart := k, dst := off, len := min n (Config.spadBytes - off), done := o, fail := some t }] }
  | _, _ => s

/-- The slots of a hart's copies are free (R71). -/
def untrack (s : State) (k : Nat) : State :=
  (s.cores.map (·.1)).foldl (fun s c =>
    let x := s.coreAt c
    s.setCoreAt c { x with tracks := x.tracks.filter (·.hart != k) }) s

/-! ### Completion (R377, R378, R393) -/

/-- The barrier that a completion block names, with room for the bytes of a transfer (R393, R394): its handle. -/
def cplBar (s : State) (k va total : Nat) : Except Stop (BarRef × Nat) := do
  let (handle, _) ← load s k false 8 va
  let r ← barUse s handle
  if 2 ^ 48 ≤ (barGet s r).pend + total then .error (barTrap 6 handle) else .ok (r, handle)

/-- The checks of a completion block (R377, R393), and the state with the bytes pending. A collective that starts again has
added its bytes. -/
def cplIssue (s : State) (k kind : Nat) (e : VEntry) (va total : Nat) : Except Stop (State × VEntry) := do
  if kind = 0 then .ok (s, e)
  else
    aligned va 32
    let (p, s) ← translate s k .store false va
    let ok := match p.loc with
      | .dev _ => p.kind == 0
      | .spad .. => kind != 1
      | _ => false
    if !ok then .error (memTrap .access 2 va)
    else match targetWriteStop s k p va with
      | some st => .error st
      | none =>
        if kind = 2 && e.pend.isNone then
          let (r, handle) ← cplBar s k va total
          let b := barGet s r
          .ok (barSet s r { b with pend := b.pend + total }, { e with pend := some (handle, total) })
        else .ok (s, e)

/-- The completion of a transfer with a status word (R378). A future's resolution, and the fall of a barrier's bytes, are releases
of what the transfer performed (R138). -/
def cplDone (s : State) (k kind : Nat) (e : VEntry) (va status : Nat) : State :=
  if kind = 0 then s
  else
    let s := s.attempt (store s k false 8 (va + 16) status)
    if kind = 1 then
      completeFuture s ((s.partOf (coreOf k)).getD 0) (s.hartAt k).ptbase va (status != 0) (bits status 47 40) (bits status 59 48)
    else if kind = 2 then
      match e.pend.bind fun h => (barRef s k h.1).toOption with
      | some r => barFall s.drainRepl r ((e.pend.map (·.2)).getD 0)
      | none => s
    else s

/-- The pending registers receive their values. -/
def writeRegs (s : State) (k : Nat) (l : List (Reg × Nat)) : State :=
  l.foldl (fun s p => s.setHartAt k ((s.hartAt k).setReg p.1 (BitVec.ofNat 64 p.2))) s

/-- A transfer completes with a status word (R378): the completion follows when the entry has left the queue. One that a scratchpad
tracks as FAILED signals it at its next turn. -/
def engDone (s : State) (k : Nat) (e : VEntry) (kind cva status : Nat) : Run :=
  if s.cores.any fun (p : Nat × Core) => p.2.tracks.any (·.hart == k) then .wait s { e with status := some status }
  else .done s { e.to 0 0 with signal := some (kind, cva, status) }

/-- The completion of a tracked transfer is signalled, and its slots are free (R71, R139). -/
def engSignal (s : State) (k : Nat) (e : VEntry) (kind status : Nat) : Run :=
  .done (untrack s k) { e.to 0 0 with signal := some (kind, e.stride.toNat, status) }

/-- The end of a transfer: all its accesses performed, or a failure. With K = 0 a failure traps at the entry, which keeps
its place and runs again from the operands it stopped with (R378, R379, log 25); else the device is told of the error (R86, R413). -/
def engEnd (s : State) (k : Nat) (e : VEntry) (kind cva dfail patt elem : Nat) (f : Option EngFail)
    (regs : List (Reg × Nat)) (again : VEntry → VEntry) : Run :=
  let s := writeRegs s k regs
  match f with
  | some ⟨.integrity p a, _⟩ => .stop s e (.integrity p a)
  | some f => if kind = 0 then .stop s (again e) f.st else engDone (s.note f.st) k e kind cva (f.word dfail patt elem)
  | none => engDone s k e kind cva (dfail * 2 ^ 48)

/-- ILL, subcodes ENCODING and OVERLAP, of a transfer. -/
def engIll : Stop := illStop 1 0x3F 0
def engOverlap : Stop := illStop 6 0x3F 0

/-- eng.copy (R381). The completion block's address stands in the entry's stride. -/
def runCopy (s : State) (k : Nat) (e : VEntry) (d a b : Reg) (kind : Nat) : Run :=
  let dst := e.z.toNat
  let src := e.x.toNat
  let n := e.y.toNat
  if rangesMeet dst src n then .stop s e engOverlap
  else if !trackRoom s k [dst] then .wait s e
  else match cplIssue s k kind e e.stride.toNat n with
    | .error st => .stop s e st
    | .ok (s, e) =>
      let (s, o, f) := copyRun k dst src n (n + 1) 0 (unprotect s k)
      let s := match f with | some f => if kind = 0 then s else addTrack s k dst n o f | none => s
      engEnd s k e kind e.stride.toNat 0 0 0 f [(d, dst + o), (a, src + o), (b, n - o)] fun e =>
        { e with z := e.z + BitVec.ofNat 64 o, x := e.x + BitVec.ofNat 64 o, y := BitVec.ofNat 64 (n - o) }

/-! ### Multicast (R139, R382) -/

/-- A multicast block. -/
structure Mcast where
  ndest  : Nat
  dfail  : Nat
  offset : Nat
  dests  : List Nat

/-- The fields of 128 bytes, if the block is well formed (R382). -/
def mcastOf (b : List Byte) : Option Mcast :=
  let f := fun (off n : Nat) => leNat ((b.drop off).take n)
  let nd := f 0 1
  if nd = 0 || 12 < nd || f 1 1 != 0 || f 4 4 != 0 || f 112 16 != 0 then none
  else some { ndest := nd, dfail := f 2 2, offset := f 8 8, dests := (List.range nd).map fun i => f (16 + 8 * i) 8 }

/-- Whether two of some ranges meet. -/
def anyMeet (n : Nat) : List Nat → Bool
  | [] => false
  | a :: rest => rest.any (rangesMeet a · n) || anyMeet n rest

/-- The destinations that have not failed, each with its number and first address. -/
def Mcast.live (m : Mcast) : List (Nat × Nat) :=
  (m.dests.zipIdx.filter fun p => !m.dfail.testBit p.2).map fun p => (p.2, p.1 + m.offset)

/-- Each destination receives its copy; the destinations that fail. -/
def mcastRun (k src n : Nat) : List (Nat × Nat) → State → State × List (Nat × Nat × EngFail)
  | [], s => (s, [])
  | (i, dst) :: rest, s =>
    let (s, o, f) := copyRun k dst src n (n + 1) 0 s
    let (s, l) := mcastRun k src n rest s
    (s, (f.map fun f => (i, o, f)).toList ++ l)

/-- What a stop stores into the block (R382). -/
def mcastSave (s : State) (k va offset dfail : Nat) : State :=
  let s := s.attempt (store s k false 8 (va + 8) offset)
  s.attempt (store s k false 2 (va + 2) dfail)

/-- eng.mcast (R378, R382). With K = 0 the first failure ends every destination at its offset (log 26). -/
def runMcast (s : State) (k : Nat) (e : VEntry) (_d a b : Reg) (kind : Nat) : Run :=
  let va := e.z.toNat
  let src := e.x.toNat
  let n := e.y.toNat
  if va % 128 ≠ 0 then .stop s e (memTrap .align 1 va)
  else match loadRange s k va 128 with
    | .error st => .stop s e st
    | .ok (bytes, s) =>
      match mcastOf bytes with
      | none => .stop s e engIll
      | some m =>
        if anyMeet n (src :: m.dests.map (· + m.offset)) then .stop s e engOverlap
        else if !trackRoom s k (m.live.map (·.2)) then .wait s e
        else match cplIssue s k kind e e.stride.toNat (n * m.ndest) with
          | .error st => .stop s e st
          | .ok (s, e) =>
            let s0 := unprotect s k
            let (s, bad) := mcastRun k src n m.live s0
            let dfail := bad.foldl (fun x p => Nat.lor x (2 ^ p.1)) m.dfail
            let first := bad.head?.map (·.2.2)
            if kind = 0 then
              let o := (bad.map (·.2.1)).foldl min n
              let s := if bad = [] then s else mcastSave (mcastRun k src o m.live s0).1 k va (m.offset + o) m.dfail
              engEnd s k e 0 0 m.dfail 0 0 ((bad.find? (·.2.1 == o)).map (·.2.2)) [(a, src + o), (b, n - o)] fun e =>
                { e with x := e.x + BitVec.ofNat 64 o, y := BitVec.ofNat 64 (n - o) }
            else
              let s := bad.foldl (fun s p => addTrack s k (((m.dests[p.1]?).getD 0) + m.offset) n p.2.1 p.2.2) s
              let s := (bad.drop 1).foldl (fun s p => s.note p.2.2.st) s
              engEnd s k e kind e.stride.toNat dfail 0 0 first [(a, src + n), (b, 0)] id

/-! ### Gathers (R72 to R74, R383) -/

/-- One element of a pattern, read for a hart by the plinths that hold it (R73, R74, R99). DESIGN CHOICE (log 65): no rule asks that
BASE be a multiple of the element size; an element that is not aligned is read byte for byte, each codeword under its own check. -/
def pattRead (s : State) (k part : Nat) (p : Pattern) (i j : Nat) : Eng (List Byte × State) :=
  let a := p.base + i * p.pitch + j * 2 ^ p.esize
  let s := s.reach (gatherUnit (plinthOf s.mem a)) a
  let fail := fun (st : Stop) => ({ st := st, plinth := plinthOf s.mem a } : EngFail)
  if p.cols ≤ j || p.limit < a + 2 ^ p.esize then .error (fail (memTrap .access 2 0))
  else match devStop s part (s.evac k .load) a 0 with
    | some st => .error (fail st)
    | none => match devRead s part p.enc a (2 ^ p.esize) 0 with
      | .error st => .error (fail st)
      | .ok b => .ok (b, s)

/-- Elements in order from number n on: the element that fails, and how. -/
def gatherRun (k part : Nat) (p : Pattern) (dst rows cf : Nat) : Nat → Nat → State → State × Option (Nat × EngFail)
  | 0, _, s => (s, none)
  | fuel + 1, n, s =>
    match pattRead s k part p (n % rows) (cf + n / rows) with
    | .error f => (s, some (n, f))
    | .ok (b, s) => match engWrite k (dst + n * 2 ^ p.esize) b s with
      | .error f => (s, some (n, f))
      | .ok s => gatherRun k part p dst rows cf fuel (n + 1) s

/-- The fill record of a gather that completed into a scratchpad (R66). -/
def addFill (s : State) (k start len digest : Nat) : State :=
  match spadOf s k start with
  | some (c, off) =>
    let x := s.coreAt c
    s.setCoreAt c { x with fills := ((off, off + len, digest) :: x.fills).take Config.fillRecords }
  | none => s

/-- The pattern entry a partition names, if it is valid (R72). -/
def pattFor (s : State) (part i : Nat) : Option Pattern :=
  let p := s.partAt part
  if i < p.pattCount then
    let x := s.pattAt (p.pattBase + i)
    if x.valid && x.part == part then some x else none
  else none

/-- eng.gather (R73, R74, R383). The entry's aux holds the columns that earlier runs completed. -/
def runGather (s : State) (k : Nat) (e : VEntry) (d a : Reg) (kind : Nat) : Run :=
  let x := e.x.toNat
  let rows := e.y.toNat
  let cf := bits x 31 16
  let cl := bits x 47 32
  let patt := bits x 5 0
  let part := (s.partOf (coreOf k)).getD 0
  if bits x 63 48 ≠ 0 ∨ bits x 15 6 ≠ 0 ∨ 2 ^ 32 ≤ rows ∨ rows = 0 ∨ cl < cf then .stop s e engIll
  else
    let size := match pattFor s part patt with | some p => 2 ^ p.esize | none => 1
    let total := rows * (cl + 1 - cf) * size
    match cplIssue s k kind e e.stride.toNat total with
    | .error st => .stop s e st
    | .ok (s, e) =>
      let s := unprotect s k
      let (s, f) := match pattFor s part patt with
        | none => (s, some (0, ({ st := memTrap .access 2 0, plinth := (Config.freePlinth s.free).toNat } : EngFail)))
        | some p => gatherRun k part p e.z.toNat rows cf (rows * (cl + 1 - cf)) 0 s
      let cols := match f with | some (n, _) => n / rows | none => cl + 1 - cf
      let row := match f with | some (n, _) => n % rows | none => 0
      let spec := setBits x 31 16 (cf + cols)
      let dst := e.z.toNat + cols * rows * size
      let s := match f, pattFor s part patt with
        | none, some p => addFill s k (e.z.toNat + 2 ^ 64 - e.aux * rows * size % 2 ^ 64) (total + e.aux * rows * size) p.digest
        | _, _ => s.draw
      engEnd s k e kind e.stride.toNat (row / 2 ^ 23) patt (row % 2 ^ 23) (f.map (·.2)) [(d, dst), (a, spec)] fun e =>
        { e with z := BitVec.ofNat 64 dst, x := BitVec.ofNat 64 spec, aux := e.aux + cols }

/-! ### Patterns (R72, R384) -/

/-- The image of a pattern entry, if its fields are in range (R72, R384). -/
def imageOk (b : List Byte) : Bool :=
  let f := fun (off n : Nat) => leNat ((b.drop off).take n)
  let size := 2 ^ f 22 1
  f 8 8 == 0 && f 23 1 == 0 && f 26 6 == 0 && f 22 1 ≤ 4 && f 20 2 != 0 && f 24 2 != 0 && f 16 4 % size == 0 &&
    f 20 2 * size ≤ f 16 4

/-- eng.patt (R384). -/
def runPatt (s : State) (k : Nat) (e : VEntry) : Run :=
  let part := (s.partOf (coreOf k)).getD 0
  let p := s.partAt part
  let i := e.z.toNat
  let va := e.x.toNat
  if 64 ≤ i then .stop s e engIll
  else if p.pattCount ≤ i then .stop s e (memTrap .access 2 0)
  else if va = 0 then
    let x := s.pattAt (p.pattBase + i)
    .done (s.setPattAt (p.pattBase + i) { x with valid := false }) (e.to 0 0)
  else if va % 8 ≠ 0 then .stop s e (memTrap .align 1 va)
  else match loadRange s k va 32 with
    | .error st => .stop s e st
    | .ok (b, s) =>
      let f := fun (off n : Nat) => leNat ((b.drop off).take n)
      let base := f 0 8
      if !imageOk b then .stop s e engIll
      else match window s k base with
        | some (.error st) => .stop s e st
        | some (.ok _) => .stop s e (memTrap .access 2 base)
        | none =>
          match lookup s k .load false base with
          | .error st => .stop s e st
          | .ok (t, s) =>
            match rightsStop t .load ((s.hartAt k).priv == .user) base with
            | some st => .stop s e st
            | none =>
              match placeOf t base with
              | .error st => .stop s e st
              | .ok ⟨.dev a, _, _⟩ =>
                if let some st := capStop s part (s.evac k .load) a base then .stop s e st
                else if 2 ≤ t.kind then .stop s e (memTrap .access 2 base)
                else
                  .done (s.setPattAt (p.pattBase + i)
                    { base := a, limit := t.pbase + 2 ^ t.lg, pitch := f 16 4, cols := f 20 2, esize := f 22 1, valid := true
                      enc := t.enc, digest := f 24 2, part := part }) (e.to 0 0)
              | .ok _ => .stop s e (memTrap .access 2 base)

/-! ### Collectives (R385) -/

/-- A collective block. -/
structure Coll where
  src   : Nat
  dst   : Nat
  count : Nat
  ty    : Ty
  op    : Nat
  nrank : Nat
  rank  : Nat
  group : Nat
  seq   : Nat
  cpl   : Nat

/-- The fields of 64 bytes, if they are in range. -/
def collOf (kind : Nat) (b : List Byte) : Option Coll :=
  let f := fun (off n : Nat) => leNat ((b.drop off).take n)
  let x : Coll := { src := f 0 8, dst := f 8 8, count := f 16 4, ty := Ty.ofCode (f 20 1), op := f 21 1, nrank := f 22 1, rank := f 23 1
                    group := f 24 8, seq := f 32 4, cpl := f 56 8 }
  let types : List Nat := [2, 3, 6, 7, 8, 9]
  if x.count = 0 || 2 ^ 24 < x.count || !types.contains (f 20 1) || 2 < x.op || x.nrank < 2 || 64 < x.nrank || x.nrank ≤ x.rank ||
    x.seq = 0 || f 36 20 != 0 || (kind = 0 && x.cpl != 0) then none
  else some x

/-- One step of a reduction (R385). -/
def collOp (t : Ty) (op acc v : Nat) : Nat :=
  match op with
  | 0 => if t.isInt then intBin .add t acc v else (addT t .rne acc v).1
  | n =>
    if t.isInt then intBin (if n = 1 then .min else .max) t acc v else (minMaxT t (n == 2) acc v).1

/-- A number of n bytes that a transfer reads. -/
def engNat (s : State) (k va n : Nat) : Eng (Nat × State) :=
  match engRead s k va n with
  | .error f => .error f
  | .ok (b, s) => .ok (leNat b, s)

/-- Element i reduced over the ranks from one on, in ascending order. -/
def collElem (k : Nat) (x : Coll) (i : Nat) : List Nat → Option Nat → State → Eng (Nat × State)
  | [], acc, s => .ok (acc.getD 0, s)
  | r :: rest, acc, s => do
    let (base, s) ← engNat s k (x.group + 16 * r) 8
    let (v, s) ← engNat s k (base + i * x.ty.size) x.ty.size
    collElem k x i rest (some (match acc with | none => v | some a => collOp x.ty x.op a v)) s

/-- Elements from i on. -/
def collRun (k : Nat) (x : Coll) : Nat → Nat → State → State × Option EngFail
  | 0, _, s => (s, none)
  | fuel + 1, i, s =>
    match collElem k x i (List.range x.nrank) none s with
    | .error f => (s, some f)
    | .ok (v, s) => match engWrite k (x.dst + i * x.ty.size) (leBytes x.ty.size v) s with
      | .error f => (s, some f)
      | .ok s => collRun k x fuel (i + 1) s

/-- Whether every rank's flag has reached SEQ. -/
def collReady (s : State) (k : Nat) (x : Coll) : List Nat → Eng Bool
  | [] => .ok true
  | r :: rest => do
    let (f, s) ← engNat s k (x.group + 16 * r + 8) 8
    if x.seq ≤ f then collReady s k x rest else .ok false

/-- The time a collective waits (R385), in reference ticks. -/
def collLimit : Nat := 2 ^ 27

/-- The ranges that a collective touches: its own SRC and DST, and the SRC of every other rank. -/
def Coll.spans (x : Coll) (s : State) (k : Nat) : List Span :=
  let n := x.count * x.ty.size
  let others := (List.range x.nrank).flatMap fun r =>
    match engNat s k (x.group + 16 * r) 8 with
    | .ok (a, _) => rangeSpans s k .load a n
    | .error _ => []
  rangeSpans s k .load x.src n ++ rangeSpans s k .store x.dst n ++ others

/-- A collective that has set its flag: it waits, fails or reduces. -/
def collGo (s : State) (k : Nat) (e : VEntry) (x : Coll) (kind : Nat) : Run :=
  let fin := fun (s : State) f => engEnd s k e kind x.cpl 0 0 0 f [] (·.park)
  match collReady s k x (List.range x.nrank) with
  | .error f => fin s (some f)
  | .ok false =>
    if e.aux + collLimit ≤ s.reftime then fin s (some { st := memTrap .remote 3 (x.group % 2 ^ 64) }) else .wait s e
  | .ok true => let (s, f) := collRun k x x.count 0 s
    fin s f

/-- The issue of a collective (R385): the checks of its block, and its flag, a release of system scope. -/
def collStart (s : State) (k : Nat) (e : VEntry) (kind : Nat) : Run :=
  let va := e.x.toNat
  if va % 64 ≠ 0 then .stop s e (memTrap .align 1 va)
  else match loadRange s k va 64 with
    | .error st => .stop s e st
    | .ok (b, s) =>
      match collOf kind b with
      | none => .stop s e engIll
      | some x =>
        if rangesMeet x.src x.dst (x.count * x.ty.size) then .stop s e engOverlap
        else match cplIssue s k kind e x.cpl (x.count * x.ty.size) with
          | .error st => .stop s e st
          | .ok (s, e) =>
            let s := (unprotect s k).drainRepl
            match engWrite k (x.group + 16 * x.rank + 8) (leBytes 8 x.seq) s with
            | .error f => engEnd s k e kind x.cpl 0 0 0 (some f) [] id
            | .ok s => collGo s k { e with aux := s.reftime, block := b, entered := true, spans := x.spans s k } x kind

/-- eng.coll (R385): while it waits, the entry keeps its block, and in aux the time at which it set its flag. -/
def runColl (s : State) (k : Nat) (e : VEntry) (kind : Nat) : Run :=
  if e.block = [] then collStart s k e kind
  else match collOf kind e.block with
    | some x => collGo s k e x kind
    | none => collStart s k e kind

/-- An engine entry by its fn (R376). -/
def runEng (s : State) (k : Nat) (e : VEntry) (fn : Nat) (d a b : Reg) (kind : Nat) : Run :=
  match e.status, fn with
  | some status, _ => engSignal s k e kind status
  | none, 0 => runCopy s k e d a b kind
  | none, 1 => runMcast s k e d a b kind
  | none, 2 => runGather s k e d a kind
  | none, 3 => runPatt s k e
  | none, _ => runColl s k e kind

end Sys2Proof.Machine
end

