-- ==== Sys2Proof/Machine/Queue.lean ====
section
/-! DEFINITION. The vector instruction queue: commit, the run of its oldest entry, setvl and setrows, and the built-in fill
routines (R62 to R65, R147, R149 to R156, R198, R213, R301, R302, R307, R308, R325, R347, R404, R405, R408, R410, R432). -/

namespace Sys2Proof.Machine

/-! ### Trace (R404, R405) -/

/-- Whether entries of the hole queue come from a queue entry. -/
def madeHoles (s : State) (k : Nat) (e : VEntry) : Bool :=
  (s.coreAt (coreOf k)).holes.any fun (p : Nat × HoleEntry) => p.2.slot == slotOf k && p.2.age == e.age

/-! ### The start of an entry -/

/-- Whether an entry works under vl (R301, R354). -/
def counted (op : VOp) : Bool :=
  match op with
  | .xtr .. | .bind .. | .unbind .. | .spill .. | .fill .. | .settle | .setvl .. | .setrows .. | .eng .. | .ctl .. => false
  | .mxMode .. | .mxTshape .. | .mxOp .. | .mxZero .. | .mxMv .. | .mxRead .. | .mxWrite .. | .mxSpill .. | .mxFill ..
  | .spEval .. | .spGrad .. | .spDx .. | .spRefine | .spPair | .spGzero | .spGspill | .spGfill => false
  | _ => true

/-- Whether an entry issues to no pipe: a write of a configuration or control register, an entry without an element, and an array
instruction on an empty array. -/
def quiet (s : State) (k : Nat) (e : VEntry) : Bool :=
  match e.op with
  | .ctl .. | .setvl .. | .setrows .. => true
  | .drain .. | .mxMode .. => false
  | op => (counted op && op.owes.isNone && e.count == 0) || (pipeOf e == 4 && (s.coreAt (coreOf k)).mvl == 0)

/-- A begin record (R404). -/
def openTrace (s : State) (k : Nat) (e : VEntry) : State :=
  trace s k (pipeOf e) false e.seq e.elem 0 e.row e.pc

/-- The checks before an entry performs anything (R65, R143, R301, R325). -/
def checkEntry (s : State) (k : Nat) (e : VEntry) : Option Stop :=
  let h := s.hartAt k
  let rows := e.height
  let bound := fun n => (h.stream? n).isSome
  let long := fun w => s.lenOf k * 8 < h.vl * w
  if (tileRegs e.op).any fun r => r % rows != 0 || (1 < rows && r == 0) then some (illStop 1 0x3F 0)
  else if 1 < rows && ((destsOf e.op ++ sourcesOf e.op).flatMap (tileOf rows)).any bound then some (illStop 1 0x3F 0)
  else if counted e.op && (long (opWidth e.op) || (outStreams h e).any (long ·.ty.width)) then some (illStop 4 0x3F 0)
  else none

/-- The reads of the streams that source registers are bound to (R64). Each is a load of the stream's type under the vl that is
left, and checks its length as one (R301). -/
def readStreams (k : Nat) : List Nat → State → VEntry → Run
  | [], s, e => .done s e
  | r :: rest, s, e =>
    match ((s.hartAt k).stream? r).filter (!·.write) with
    | none => readStreams k rest s { e with reads := e.reads + 1 }
    | some x =>
      if s.lenOf k * 8 < min (s.hartAt k).vl (x.total - x.at) * x.ty.width then .stop s e (illStop 4 r 0)
      else match streamRead s k e x with
        | .done s => readStreams k rest s { e with reads := e.reads + 1 }
        | .trim s _ => readStreams k rest s { e with reads := e.reads + 1, flags := Nat.lor e.flags 2 }
        | .wait s => .wait s e
        | .stop s _ _ st => .stop s e st

/-- An entry begins: checks, stream reads, its vl (R302), and the copies of registers that it both reads and writes. -/
def beginEntry (s : State) (k : Nat) (e : VEntry) : Run :=
  let e := { e with count := (s.hartAt k).vl }
  match checkEntry s k e with
  | some st => .stop s e st
  | none =>
    match readStreams k ((sourcesOf e.op).drop e.reads) s e with
    | .done s e =>
      let h := s.hartAt k
      let both := (e.writes.filter fun n => e.reads'.contains n).eraseDups
      .done s { e with count := h.vl, phase := 1, old := both.map fun n => (n, h.vreg n) }
    | r => r

/-! ### setvl and setrows (R213, R307, R308) -/

/-- The grant of a setvl (R307). -/
def grantOf (s : State) (k w request : Nat) : Nat :=
  let cap := vlBytes s k * 8 / w
  min request (max (cap / 2 ^ (s.dieAt (dieOf (coreOf k))).grant) (min 32 cap))

/-- What a checkpoint keeps of a hart at a setvl (R212, R213, R232). -/
def checkpointOf (h : Hart) (e : VEntry) : Checkpoint :=
  let named : Nat → Option Reg := fun lo =>
    if h.ckvmask.testBit (lo + 5) then some ⟨bits h.ckvmask (lo + 4) lo % 32, Nat.mod_lt _ (by decide)⟩ else none
  { sregs := (List.finRange 32).filterMap fun r => if h.ckmask.testBit r.val && r != 0 then some (r, h.reg r) else none
    vregs := ((named 0).toList ++ (named 8).toList).map fun r => (r, h.vreg r.val)
    streams := h.streams, pc := e.pc, count := h.srcount, seq := e.seq }

/-- The strips of a setvl (R213): the open one commits; with STRIPS a new one begins. AGAIN stays at the rewind target. -/
def newStrip (s : State) (k : Nat) (e : VEntry) : State :=
  let s := commitStrip s k
  let h := s.hartAt k
  let target := h.again && h.ckpt.any (·.seq == e.seq)
  s.setHartAt k
    (if h.pmode.testBit 1 then { h with ckpt := some (checkpointOf h e), unprot := false, used := 0, again := target }
     else { h with ckpt := none, unprot := false, used := 0, again := false })

/-- setvl at its place in the queue (R307). -/
def runSetvl (s : State) (k : Nat) (e : VEntry) (d : Reg) (w : Nat) : Run :=
  let g := grantOf s k w e.x.toNat
  let s := newStrip (s.setHartAt k ({ s.hartAt k with vl := g }.setReg d (BitVec.ofNat 64 g))) k e
  deliver s k e d (BitVec.ofNat 64 g)

/-- The tile height of a request (R308). -/
def rowsOf (n : Nat) : Nat := if n < 2 then 1 else if n < 4 then 2 else if n < 8 then 4 else 8

/-! ### What an entry does -/

/-- A queued write of a control register (R149, R253): a value that its map forbids traps ILL and changes nothing. One that showed at
its commit has y = 1. -/
def runCtl (s : State) (k : Nat) (e : VEntry) (fn num : Nat) : Run :=
  let new := ctlNew s k fn num e.x.toNat
  if e.y = 1 then .done s e
  else if !ctlAtCommit num && ctlAllowed num new then .done (ctlPut s k num new) e
  else .stop s e (illStop 1 0x3F 0)

/-- A turn of an entry that has begun. -/
def runOp (s : State) (k : Nat) (e : VEntry) : Run :=
  let whole := runWhole s k e
  match e.op with
  | .lane t st d wd _ all a b c => runEach s k e (lanePos k e t st d wd all a b c)
  | .move fn t d a b => runEach s k e (movePos k (s.lenOf k * 8 / t.width) e fn t d a b)
  | .ins t d => runEach s k e (insPos k e t d)
  | .xtr t d a => whole (runXtr s k e t d a)
  | .hold t d a => runHold s k e t d a
  | .drain t d => runDrain s k e t d
  | .quant src d a half sr => runQuant s k e src d a half sr
  | .vwhile _ a cond off t => runWhile s k e a cond off t
  | .red fn t d a => runRed s k e fn t d a
  | .redIdx wantMax t d a => runRedIdx s k e wantMax t d a
  | .mpop d a => runMpop s k e d a
  | .mfirst d a => runMfirst s k e d a
  | .ld mode t d b => runLoad s k e mode t d b
  | .st mode ordered t d b => runStore s k e mode ordered t d b
  | .bind d => whole (ofExcept s e (bindStream s k d.val e.x.toNat))
  | .unbind d => whole (ofExcept s e (unbindStream s k d.val))
  | .spill d => runSpill s k e d
  | .fill d => whole (runFill s k e d)
  | .settle => whole (runSettle s k e)
  | .seen poisoned t d a => runEach s k e (seenPos k e poisoned t d a)
  | .heal t d => runHeal s k e t d
  | .amov fn t d b ord => runAmov s k e fn t d b ord
  | .mxMode d => whole (runMxMode s k e d)
  | .mxTshape t d => whole (runMxTshape s k e t d)
  | .mxOp t d a b => whole (runMxOp s k e t d a b)
  | .mxZero d => whole (runMxZero s k e d)
  | .mxMv d a => whole (runMxMv s k e d a)
  | .mxRead col d a => whole (runMxRead s k e col d a)
  | .mxWrite col d a => whole (runMxWrite s k e col d a)
  | .mxSpill d => runMoves [1, 2] false (4 * d) 1 (0x20 + d) s k e
  | .mxFill d => runMoves [1, 2] true (4 * d) 1 (0x20 + d) s k e
  | .spEval t d a => whole (runSpEval s k e t d a)
  | .spGrad t a b => whole (runSpGrad s k e t a b)
  | .spDx t d a b => whole (runSpDx s k e t d a b)
  | .spRefine => whole (runSpRefine s k e)
  | .spPair => whole (runSpPair s k e)
  | .spGzero => whole (runSpGzero s k e)
  | .spGspill => runMoves [2] false 20 11 0x30 s k e
  | .spGfill => runMoves [2] true 20 11 0x30 s k e
  | .setvl d w => whole (runSetvl s k e d w)
  | .setrows d => whole (deliver s k e d (BitVec.ofNat 64 (rowsOf e.x.toNat)))
  | .eng fn d a b kind => whole (runEng s k e fn d a b kind)
  | .ctl fn num => runCtl s k e fn num

/-- The progress of the registers an entry writes (R154). ROW is relative to the register's place in its tile. -/
def markRegs (s : State) (k : Nat) (e : VEntry) (busy : Bool) : State :=
  let regs := ((destsOf e.op).flatMap fun d => (List.range e.height).map fun q => (d + q, q)) ++ e.maskDest.map (·, 0)
  let row := fun q => if busy then (e.row + 8 - q) % 8 else 0
  regs.foldl (fun s p =>
    let h := s.hartAt k
    s.setHartAt k (h.setVreg p.1 { h.vreg p.1 with busy := busy, elem := e.elem, row := row p.2 })) s

/-- An entry turns to the store of a stream, with room for it in the strip buffer (R65, R213). -/
def beginStream (s : State) (k : Nat) (e : VEntry) (i : Nat) (x : Stream) : State × VEntry :=
  let e := { e with phase := 2 + i, aux := x.at, elem := 0, row := 0, late := none, broke := false }
  let n := activeCount (s.hartAt k) { e with count := min e.count (x.total - x.at) }
  (if n = 0 then s else reserveStrip s k (bytesOf x.ty n), e)

/-- The stream stores of an entry whose registers are written, from its phase on. At the end the entry stands at its count. -/
def storeStreams (k : Nat) : Nat → State → VEntry → Run
  | 0, s, e => .done s e
  | n + 1, s, e =>
    match (outStreams (s.hartAt k) e)[e.phase - 2]? with
    | none => .done s (e.to e.count 0)
    | some x =>
      match runStreamStore s k e x with
      | .done s e =>
        match (outStreams (s.hartAt k) e)[e.phase - 1]? with
        | none => .done s (e.to e.count 0)
        | some y =>
          let (s, e) := beginStream s k e (e.phase - 1) y
          storeStreams k n s e
      | r => r

/-- The registers are written, and the stream stores follow. -/
def afterOp (s : State) (k : Nat) (e : VEntry) : Run :=
  match outStreams (s.hartAt k) e with
  | [] => .done s e
  | x :: _ =>
    let (s, e) := beginStream s k e 0 x
    storeStreams k 3 s e

/-- What an entry that has begun does at its turn; its registers are no longer BUSY when it is done (R154). -/
def goOn (s : State) (k : Nat) (e : VEntry) : Run :=
  let r := if 2 ≤ e.phase then storeStreams k 3 s e
    else match runOp s k e with
      | .done s e => afterOp s k e
      | r => r
  match r with
  | .done s e => .done (markRegs s k e false) e
  | r => r

/-- The turn of an entry that has begun, with a begin record before the first position that it performs (R404). -/
def traced (s : State) (k : Nat) (e : VEntry) : Run :=
  if e.opened || quiet s k e then goOn s k e
  else
    let first := fun (e : VEntry) => e.rank == 0 && e.phase < 2
    let act := fun (r : Run) => if tracing s k (pipeOf e) then goOn (openTrace s k e) k { e with opened := true } else r
    match goOn s k { e with opened := true } with
    | .wait s' e' => if first e' then .wait s' { e' with opened := false } else act (.wait s' e')
    | .halt s' e' => if first e' then .halt s' { e' with opened := false } else act (.halt s' e')
    | r => act r

/-- As far as the oldest entry gets now. An array instruction that its gate stops, or that has nothing to do, reads no stream
(R353, R354, R375). -/
def advance (s : State) (k : Nat) (e : VEntry) : Run :=
  if e.phase ≠ 0 then traced s k e
  else match arrayGate s k e with
    | .trap st => .stop s e st
    | .nothing => .done s (e.to 0 0)
    | .go =>
      match beginEntry s k e with
      | .done s e => traced s k e
      | r => r

/-! ### The queue -/

/-- The positions that an entry has finished since it stood in the queue as another (R410). -/
def VEntry.since (e old : VEntry) (h : Hart) : Nat :=
  if finalPhase h e then e.rank - (if old.phase = e.phase then old.rank else 0) else 0

/-- The oldest entry keeps its place with the progress it has made (R152, R156), which a debug step counts (R410). -/
def keep (s : State) (k : Nat) (e : VEntry) : State :=
  let s := markRegs s k e true
  let h := s.hartAt k
  s.setHartAt k { h with
    viq := e :: h.viq.tail, stepElems := h.stepElems.map (· - ((h.viq.head?.map fun o => e.since o h).getD 0)) }

/-- The oldest entry has finished and leaves the queue: reads that stood behind it come closer (R150), and a debug step of elements
ends with it (R410). -/
def retire (s : State) (k : Nat) : State :=
  let h := s.hartAt k
  let sync := h.sync.map fun r => { r with ahead := r.ahead - 1 }
  let s := settleSync (reapHoles (s.setHartAt k { h with viq := h.viq.tail, sync := sync, done := h.done + 1 }) k) k
  if h.stepElems.isSome then haltHart s k else s

/-- What follows a turn of the oldest entry (R153, R237, R378, R404), and whether it only waits. `old`: the flags before it. -/
def settle (k old : Nat) (r : Run) : State × Bool :=
  let mark := fun (s : State) (e : VEntry) =>
    { e with flags := if madeHoles s k e then Nat.lor e.flags 1 else e.flags
             raised := Nat.lor e.raised (Nat.land (s.hartAt k).fpflags (2 ^ 64 - 1 - old)) }
  match r with
  | .done s e =>
    let s := retire (closeTrace s k (mark s e) 0).1 k
    (match e.signal with
      | some (kind, va, status) => cplDone s k kind e va status
      | none => s, false)
  | .wait s e => (keep s k (mark s e), true)
  | .halt s e => (haltHart (keep s k (mark s e)) k, false)
  | .stop s e st =>
    let e := mark s e
    let (s, e) := if (s.hartAt k).rewindsOn st then (s, e) else closeTrace s k e 4
    let s := keep s k e
    (raise s k (s.hartAt k).pc (some e.seq) st, false)

/-- Whether a read of fpflags stands before every entry of the queue and waits for holes: what follows it raises and clears no flag
before it has delivered (R150, R237). -/
def Hart.flagsRead (h : Hart) : Bool := h.sync.any fun r => r.num == some 0x081 && r.ahead == 0

/-- A turn of the oldest entry of a hart's queue, and whether it only waits. -/
def headTurn (s : State) (k : Nat) : State × Bool :=
  let s := settleSync s k
  let h := s.hartAt k
  match h.viq with
  | [] => (s, true)
  | e :: _ => if h.flagsRead then (s, true) else settle k h.fpflags (advance s k e)

def runHead (s : State) (k : Nat) : State := (headTurn s k).1

/-- Whether a hart may commit a vector instruction (R147, R198). -/
def Hart.commits (h : Hart) : Bool := h.kind == .vector && !h.intrap

/-- Whether an entry cannot commit yet: the queue is full (R149), or it would be the ninth entry of the synchronising read queue
(R150). -/
def Hart.full (h : Hart) (op : VOp) : Bool :=
  Config.viqSlots ≤ h.viq.length || (op.owes.isSome && Config.syncSlots ≤ h.sync.length)

/-- Whether an entry rounds stochastically, and so counts in srseed (R232). -/
def VEntry.rounds (e : VEntry) : Bool :=
  match e.op with
  | .lane .. => e.maj == 0x25 && e.fn % 8 == 5
  | .quant _ _ _ _ sr => sr
  | _ => false

/-- The committed form of an entry: the tag, and the control values of the hart (R149, R302). -/
def committed (s : State) (e : VEntry) : VEntry :=
  let h := s.hart
  let e := { e with seq := h.seq, pc := h.pc, rows := h.vrows, vmk := h.vmk, fpctl := h.fpctl, age := s.core.age
                    stride := match e.op with | .eng .. => e.stride | _ => h.vstride }
  if e.rounds then { e with key := h.srkey, srcnt := h.srcount } else e

/-- An entry joins the queue; the oldest runs at once (log 3). Only vector instructions count tags: a control-register write carries the
tag of the instruction after it (DESIGN CHOICE, log 66). -/
def push (s : State) (e : VEntry) : State :=
  let h := s.hart
  let c := s.core
  let e := committed s e
  let counts := match e.op with | .ctl .. => false | _ => true
  let s := s.setCore { c with age := c.age + 1 }
  let s := s.setHart { h with
    viq := h.viq ++ [e], pc := h.pc + 4
    seq := if counts then (h.seq + 1) % 2 ^ 32 else h.seq
    srcount := if e.rounds then (h.srcount + 1) % 2 ^ 32 else h.srcount
    sync := h.sync ++ (e.op.owes.map fun d => ({ reg := d } : SyncRead)).toList }
  if h.viq = [] then runHead s s.turn else s

/-- A vector instruction commits with the operands and control values of the hart (R149, R302); where it cannot yet, the hart
stalls. -/
def commit (s : State) (e : VEntry) : State :=
  if !s.hart.commits then illegal s
  else if s.hart.full e.op then stall s
  else push s e

/-! ### Writes of control registers (R149, R252, R253, R281, R302) -/

/-- A queued write: a value that a later commit captures shows at once, where it is allowed. -/
def ctlCommit (s : State) (fn n : Nat) (x : Word) : State :=
  let new := ctlNew s s.turn fn n x.toNat
  let e : VEntry := { op := .ctl fn n, maj := 0x0A, fn := fn, x := x }
  if s.hart.full e.op then stall s
  else if ctlAtCommit n && ctlAllowed n new then push (ctlPut s s.turn n new) { e with y := 1 }
  else push s e

/-- A write form: an entry of the queue, or at once. -/
def ctlWrite (fn : Nat) (a : Reg) (num : BitVec 12) (s : State) : Out :=
  let n := num.toNat
  let h := s.hart
  match ctlStop s n true (0x28000000 + a.val * 2 ^ 16 + n * 16 + fn) with
  | some st => .next (stop s st)
  | none =>
    if ctlQueued n && h.commits then .next (ctlCommit s fn n (h.reg a))
    else
      let new := ctlNew s s.turn fn n (h.reg a).toNat
      if !ctlAllowed n new then .next (illegal s)
      else if n = 0x100 ∧ bits new 9 8 < (s.partAt ((s.partOf (coreOf s.turn)).getD 0)).spawnGrant then .next (privileged s)
      else
        let s' := ctlPut s s.turn n new
        .next (finish s' s'.hart)

/-- ctl.wr (R281). -/
def execCtlWr (a : Reg) (num : BitVec 12) (s : State) : Out := ctlWrite 1 a num s

/-- ctl.set (R281). -/
def execCtlSet (a : Reg) (num : BitVec 12) (s : State) : Out := ctlWrite 2 a num s

/-- ctl.clr (R281). -/
def execCtlClr (a : Reg) (num : BitVec 12) (s : State) : Out := ctlWrite 3 a num s

/-! ### setvl and setrows at commit (R307, R308) -/

/-- The width that WID selects. -/
def widOf (wid : BitVec 2) : Nat :=
  match wid.toNat with | 0 => 32 | 1 => 64 | 2 => 16 | _ => 8

/-- Whether a setvl may take a checkpoint: what it keeps of the scalar side is that of its place in program order, so it then
commits behind no unfinished entry (R213). -/
def Hart.checkpoints (h : Hart) : Bool :=
  h.ckpt.isSome || h.pmode.testBit 1 || h.viq.any fun e => match e.op with | .ctl _ 0x008 => true | _ => false

/-- setvl (R307). -/
def execSetvl (d a : Reg) (wid : BitVec 2) (s : State) : Out :=
  let h := s.hart
  if h.commits && h.checkpoints && (h.viq != [] || h.sync != []) then .next (stall s)
  else .next (commit s { op := .setvl d (widOf wid), maj := 0x18, fn := 0, x := h.reg a })

/-- setrows (R308): the tile height shows to later commits at once. -/
def execSetrows (d a : Reg) (s : State) : Out :=
  let h := s.hart
  if h.commits && !h.full (.setrows d) then
    .next (push (s.setHart { h with vrows := rowsOf (h.reg a).toNat }) { op := .setrows d, maj := 0x18, fn := 1, x := h.reg a })
  else .next (commit s { op := .setrows d, maj := 0x18, fn := 1, x := h.reg a })

/-! ### Built-in fill routines (R347, R432) -/

/-- A helper's registers s5 to s9 after a built-in routine: no rule gives their values (log 7). -/
def scratchRegs (s : State) (h : Hart) : Hart :=
  (List.range 5).foldl (fun (h : Hart) i => { h with s := h.s.setIfInBounds (5 + i) (Config.freeWord (s.free + i)) }) h

/-- The result and the flags of the function that a hole-queue record names (R345, R347). -/
def recordFn (b : List Byte) (fpctl : Word) : Nat × Nat :=
  let (v, fl, _) := elemFn false (field b 8 1) (field b 9 1) (Ty.ofCode (field b 10 1)) (Ty.ofCode (field b 11 1)) fpctl (field b 48 4)
    (field b 20 4) (field b 4 2) (field b 3 1) (field b 24 8) (field b 32 8) (field b 40 8)
  (v, fl)

/-- The end of a built-in routine: it executes hq.take again (R347). -/
def builtinEnd (s : State) (k : Nat) : State :=
  let h := s.hartAt k
  s.setHartAt k { h with pc := 0, slot := .waiting, wait := .hole, taken := none, done := h.done + 1
                         builtin := if h.intrap then h.builtin else none }

/-- One step of a built-in routine (R347, R432): it computes the result of the record at s10, or fills it under the HANDLE in s11 and
waits for the next entry. -/
def builtinStep (s : State) (k : Nat) : State :=
  let h := s.hartAt k
  match h.builtin with
  | some (.fill v) =>
    match heldEntry s k (h.reg 11) with
    | some e => builtinEnd (fillHeld s k e (v.toNat % 2 ^ e.wid) h.fpflags) k
    | none => if heldDropped h (h.reg 11) then builtinEnd s k else raise s k h.pc none (plainTrap .ill 1)
  | _ =>
    match loadRange s k (h.reg 10).toNat 64 with
    | .error st => raise s k h.pc none st
    | .ok (b, s) =>
      let h := s.hartAt k
      let (v, fl) := recordFn b h.fpctl
      let dec := decOp (Ty.ofCode (field b 10 1)) (Ty.ofCode (field b 11 1))
      let h' := { h with fpflags := raiseFlags h.fpflags dec fl }
      let en := enabled h.fpctl dec fl
      if en != 0 && !h.masked then
        raise (s.setHartAt k h') k h.pc none (.trap { cause := fpCause dec, sub := firstSub en })
      else
        let h' := scratchRegs s { h' with builtin := some (.fill (BitVec.ofNat 64 v)), masked := false, done := h.done + 1 }
        { s.setHartAt k h' with free := s.free + 5 }

end Sys2Proof.Machine
end

