-- ==== Sys2Proof/Machine/VecArith.lean ====
section
/-! DEFINITION. Element arithmetic in vector registers: vv, vx, vi and vq (R310, R311, R328, R332). -/

namespace Sys2Proof.Machine

/-- An element-by-element instruction over a tile: T in, T out. -/
def laneT (maj fn : Nat) (t : Ty) (d : Reg) (a b c : Src) (s : State) : Out :=
  .next (commit s { op := .lane t t d t.width true false a b c, maj := maj, fn := fn })

/-- A vector operand of type T, and a scalar one as a pattern of T (R271, R310). -/
def vsrc (t : Ty) (r : Reg) : Src := .vec r t.width
def ssrc (s : State) (t : Ty) (r : Reg) : Src := .val (opnd t (s.hart.reg r))

/-- The immediate of vi and vcmp (R310): signed for i types, unsigned for n types and for shifts. -/
def isrc (t : Ty) (shift : Bool) (imm : BitVec 5) : Src :=
  .val (if t.isSigned && !shift then wrapNat t.width imm.toInt else imm.toNat)

/-- The forms of vv, vx and vi. -/
def vvForm (fn : Nat) (d a b : Reg) (t : Ty) (s : State) : Out := laneT 0x19 fn t d (vsrc t a) (vsrc t b) .none s
def vxForm (fn : Nat) (d a b : Reg) (t : Ty) (s : State) : Out := laneT 0x1A fn t d (vsrc t a) (ssrc s t b) .none s
def viForm (fn : Nat) (d a : Reg) (imm : BitVec 5) (t : Ty) (s : State) : Out :=
  laneT 0x1B fn t d (vsrc t a) (isrc t (fn == 0x0C || fn == 0x0D) imm) .none s

/-- The forms of vq (R332): the addend is a vector, or a scalar read at commit. -/
def vqForm (fn : Nat) (d a b c : Reg) (t3 : BitVec 3) (s : State) : Out :=
  let t := (Ty.ofCode3 t3.toNat).getD .res
  laneT 0x1C fn t d (vsrc t a) (vsrc t b) (if fn < 4 then vsrc t c else ssrc s t c) s

/-- vv.add.T (R311). -/
def execVvAdd (d a b : Reg) (t : Ty) (s : State) : Out := vvForm 0x00 d a b t s

/-- vv.sub.T (R311). -/
def execVvSub (d a b : Reg) (t : Ty) (s : State) : Out := vvForm 0x01 d a b t s

/-- vv.adds.T (R311). -/
def execVvAdds (d a b : Reg) (t : Ty) (s : State) : Out := vvForm 0x02 d a b t s

/-- vv.subs.T (R311). -/
def execVvSubs (d a b : Reg) (t : Ty) (s : State) : Out := vvForm 0x03 d a b t s

/-- vv.mul.T (R311). -/
def execVvMul (d a b : Reg) (t : Ty) (s : State) : Out := vvForm 0x04 d a b t s

/-- vv.mulh.T (R311). -/
def execVvMulh (d a b : Reg) (t : Ty) (s : State) : Out := vvForm 0x05 d a b t s

/-- vv.div.T (R311). -/
def execVvDiv (d a b : Reg) (t : Ty) (s : State) : Out := vvForm 0x06 d a b t s

/-- vv.rem.T (R311). -/
def execVvRem (d a b : Reg) (t : Ty) (s : State) : Out := vvForm 0x07 d a b t s

/-- vv.and.T (R311). -/
def execVvAnd (d a b : Reg) (t : Ty) (s : State) : Out := vvForm 0x08 d a b t s

/-- vv.or.T (R311). -/
def execVvOr (d a b : Reg) (t : Ty) (s : State) : Out := vvForm 0x09 d a b t s

/-- vv.xor.T (R311). -/
def execVvXor (d a b : Reg) (t : Ty) (s : State) : Out := vvForm 0x0A d a b t s

/-- vv.andn.T (R311). -/
def execVvAndn (d a b : Reg) (t : Ty) (s : State) : Out := vvForm 0x0B d a b t s

/-- vv.shl.T (R311). -/
def execVvShl (d a b : Reg) (t : Ty) (s : State) : Out := vvForm 0x0C d a b t s

/-- vv.shr.T (R311). -/
def execVvShr (d a b : Reg) (t : Ty) (s : State) : Out := vvForm 0x0D d a b t s

/-- vv.min.T (R311). -/
def execVvMin (d a b : Reg) (t : Ty) (s : State) : Out := vvForm 0x0E d a b t s

/-- vv.max.T (R311). -/
def execVvMax (d a b : Reg) (t : Ty) (s : State) : Out := vvForm 0x0F d a b t s

/-- vv.pcnt.T (R311). -/
def execVvPcnt (d a : Reg) (t : Ty) (s : State) : Out := laneT 0x19 0x12 t d (vsrc t a) .none .none s

/-- vv.clz.T (R311). -/
def execVvClz (d a : Reg) (t : Ty) (s : State) : Out := laneT 0x19 0x13 t d (vsrc t a) .none .none s

/-- vv.ctz.T (R311). -/
def execVvCtz (d a : Reg) (t : Ty) (s : State) : Out := laneT 0x19 0x14 t d (vsrc t a) .none .none s

/-- vv.mv.T (R311). -/
def execVvMv (d b : Reg) (t : Ty) (s : State) : Out := laneT 0x19 0x15 t d .none (vsrc t b) .none s

/-- vv.neg.T (R328). -/
def execVvNeg (d a : Reg) (t : Ty) (s : State) : Out := laneT 0x19 0x18 t d (vsrc t a) .none .none s

/-- vv.abs.T (R328). -/
def execVvAbs (d a : Reg) (t : Ty) (s : State) : Out := laneT 0x19 0x19 t d (vsrc t a) .none .none s

/-- vv.quant.d64 (R328). -/
def execVvQuant (d a b : Reg) (s : State) : Out := vvForm 0x1A d a b .d64 s

/-- vx.add.T (R311). -/
def execVxAdd (d a b : Reg) (t : Ty) (s : State) : Out := vxForm 0x00 d a b t s

/-- vx.sub.T (R311). -/
def execVxSub (d a b : Reg) (t : Ty) (s : State) : Out := vxForm 0x01 d a b t s

/-- vx.adds.T (R311). -/
def execVxAdds (d a b : Reg) (t : Ty) (s : State) : Out := vxForm 0x02 d a b t s

/-- vx.subs.T (R311). -/
def execVxSubs (d a b : Reg) (t : Ty) (s : State) : Out := vxForm 0x03 d a b t s

/-- vx.mul.T (R311). -/
def execVxMul (d a b : Reg) (t : Ty) (s : State) : Out := vxForm 0x04 d a b t s

/-- vx.mulh.T (R311). -/
def execVxMulh (d a b : Reg) (t : Ty) (s : State) : Out := vxForm 0x05 d a b t s

/-- vx.div.T (R311). -/
def execVxDiv (d a b : Reg) (t : Ty) (s : State) : Out := vxForm 0x06 d a b t s

/-- vx.rem.T (R311). -/
def execVxRem (d a b : Reg) (t : Ty) (s : State) : Out := vxForm 0x07 d a b t s

/-- vx.and.T (R311). -/
def execVxAnd (d a b : Reg) (t : Ty) (s : State) : Out := vxForm 0x08 d a b t s

/-- vx.or.T (R311). -/
def execVxOr (d a b : Reg) (t : Ty) (s : State) : Out := vxForm 0x09 d a b t s

/-- vx.xor.T (R311). -/
def execVxXor (d a b : Reg) (t : Ty) (s : State) : Out := vxForm 0x0A d a b t s

/-- vx.andn.T (R311). -/
def execVxAndn (d a b : Reg) (t : Ty) (s : State) : Out := vxForm 0x0B d a b t s

/-- vx.shl.T (R311). -/
def execVxShl (d a b : Reg) (t : Ty) (s : State) : Out := vxForm 0x0C d a b t s

/-- vx.shr.T (R311). -/
def execVxShr (d a b : Reg) (t : Ty) (s : State) : Out := vxForm 0x0D d a b t s

/-- vx.min.T (R311). -/
def execVxMin (d a b : Reg) (t : Ty) (s : State) : Out := vxForm 0x0E d a b t s

/-- vx.max.T (R311). -/
def execVxMax (d a b : Reg) (t : Ty) (s : State) : Out := vxForm 0x0F d a b t s

/-- vx.mv.T (R311). -/
def execVxMv (d b : Reg) (t : Ty) (s : State) : Out := laneT 0x1A 0x15 t d .none (ssrc s t b) .none s

/-- vx.quant.d64 (R328). -/
def execVxQuant (d a b : Reg) (s : State) : Out := vxForm 0x1A d a b .d64 s

/-- vi.add.T (R311). -/
def execViAdd (d a : Reg) (imm : BitVec 5) (t : Ty) (s : State) : Out := viForm 0x00 d a imm t s

/-- vi.sub.T (R311). -/
def execViSub (d a : Reg) (imm : BitVec 5) (t : Ty) (s : State) : Out := viForm 0x01 d a imm t s

/-- vi.adds.T (R311). -/
def execViAdds (d a : Reg) (imm : BitVec 5) (t : Ty) (s : State) : Out := viForm 0x02 d a imm t s

/-- vi.subs.T (R311). -/
def execViSubs (d a : Reg) (imm : BitVec 5) (t : Ty) (s : State) : Out := viForm 0x03 d a imm t s

/-- vi.mul.T (R311). -/
def execViMul (d a : Reg) (imm : BitVec 5) (t : Ty) (s : State) : Out := viForm 0x04 d a imm t s

/-- vi.mulh.T (R311). -/
def execViMulh (d a : Reg) (imm : BitVec 5) (t : Ty) (s : State) : Out := viForm 0x05 d a imm t s

/-- vi.div.T (R311). -/
def execViDiv (d a : Reg) (imm : BitVec 5) (t : Ty) (s : State) : Out := viForm 0x06 d a imm t s

/-- vi.rem.T (R311). -/
def execViRem (d a : Reg) (imm : BitVec 5) (t : Ty) (s : State) : Out := viForm 0x07 d a imm t s

/-- vi.and.T (R311). -/
def execViAnd (d a : Reg) (imm : BitVec 5) (t : Ty) (s : State) : Out := viForm 0x08 d a imm t s

/-- vi.or.T (R311). -/
def execViOr (d a : Reg) (imm : BitVec 5) (t : Ty) (s : State) : Out := viForm 0x09 d a imm t s

/-- vi.xor.T (R311). -/
def execViXor (d a : Reg) (imm : BitVec 5) (t : Ty) (s : State) : Out := viForm 0x0A d a imm t s

/-- vi.andn.T (R311). -/
def execViAndn (d a : Reg) (imm : BitVec 5) (t : Ty) (s : State) : Out := viForm 0x0B d a imm t s

/-- vi.shl.T (R311). -/
def execViShl (d a : Reg) (imm : BitVec 5) (t : Ty) (s : State) : Out := viForm 0x0C d a imm t s

/-- vi.shr.T (R311). -/
def execViShr (d a : Reg) (imm : BitVec 5) (t : Ty) (s : State) : Out := viForm 0x0D d a imm t s

/-- vi.min.T (R311). -/
def execViMin (d a : Reg) (imm : BitVec 5) (t : Ty) (s : State) : Out := viForm 0x0E d a imm t s

/-- vi.max.T (R311). -/
def execViMax (d a : Reg) (imm : BitVec 5) (t : Ty) (s : State) : Out := viForm 0x0F d a imm t s

/-- vi.mv.T (R311). -/
def execViMv (d : Reg) (imm : BitVec 5) (t : Ty) (s : State) : Out := laneT 0x1B 0x15 t d .none (isrc t false imm) .none s

/-- vq.fma.T (R332). -/
def execVqFma (d a b c : Reg) (t3 : BitVec 3) (s : State) : Out := vqForm 0 d a b c t3 s

/-- vq.fms.T (R332). -/
def execVqFms (d a b c : Reg) (t3 : BitVec 3) (s : State) : Out := vqForm 1 d a b c t3 s

/-- vq.fnma.T (R332). -/
def execVqFnma (d a b c : Reg) (t3 : BitVec 3) (s : State) : Out := vqForm 2 d a b c t3 s

/-- vq.fnms.T (R332). -/
def execVqFnms (d a b c : Reg) (t3 : BitVec 3) (s : State) : Out := vqForm 3 d a b c t3 s

/-- vq.sfma.T (R332). -/
def execVqSfma (d a b c : Reg) (t3 : BitVec 3) (s : State) : Out := vqForm 4 d a b c t3 s

/-- vq.sfms.T (R332). -/
def execVqSfms (d a b c : Reg) (t3 : BitVec 3) (s : State) : Out := vqForm 5 d a b c t3 s

/-- vq.sfnma.T (R332). -/
def execVqSfnma (d a b c : Reg) (t3 : BitVec 3) (s : State) : Out := vqForm 6 d a b c t3 s

/-- vq.sfnms.T (R332). -/
def execVqSfnms (d a b c : Reg) (t3 : BitVec 3) (s : State) : Out := vqForm 7 d a b c t3 s

end Sys2Proof.Machine
end

