-- ==== Sys2Proof/Machine/VecMask.lean ====
section
/-! DEFINITION. Compares, mask logic, reductions and vwhile (R309, R312 to R316). -/

namespace Sys2Proof.Machine

/-- A compare writes mask bits in one row (R312). -/
def cmpForm (fn : Nat) (t : Ty) (d a : Reg) (y : Src) (s : State) : Out :=
  .next (commit s { op := .lane t t d 1 false false (vsrc t a) y .none, maj := 0x1D, fn := fn })

/-- Mask logic ignores vmk (R314). -/
def maskForm (fn : Nat) (d : Reg) (a b : Src) (s : State) : Out :=
  .next (commit s { op := .lane .i8 .i8 d 1 false true a b .none, maj := 0x1D, fn := fn })

/-- A reduction with a start value, and for the index forms a base in s[d] (R315, R316). -/
def redForm (op : VOp) (fn : Nat) (d b : Reg) (s : State) : Out :=
  .next (commit s { op := op, maj := 0x1E, fn := fn, y := s.hart.reg b, z := s.hart.reg d })

/-- The types that the fn of a vwhile names (R309). -/
def whileTy (t3 : BitVec 3) : Ty := Ty.ofWhile t3.toNat

/-- vwhile.cond.T (R309). -/
def execVwhile (d a : Reg) (cond : BitVec 3) (off : BitVec 9) (t3 : BitVec 3) (s : State) : Out := 
  .next (commit s { op := .vwhile d a cond.toNat off.toNat (whileTy t3), maj := 0x18, fn := 8 + t3.toNat, z := s.hart.reg d })

/-- vcmp.cond.T (R312). -/
def execVcmp (d a b : Reg) (t : Ty) (cond : BitVec 3) (s : State) : Out := cmpForm cond.toNat t d a (vsrc t b) s

/-- vcmp.condx.T (R312). -/
def execVcmpX (d a b : Reg) (t : Ty) (cond : BitVec 3) (s : State) : Out := cmpForm (8 + cond.toNat) t d a (ssrc s t b) s

/-- vcmp.condi.T (R312). -/
def execVcmpI (d a : Reg) (imm : BitVec 5) (t : Ty) (cond : BitVec 3) (s : State) : Out := cmpForm (16 + cond.toNat) t d a (isrc t false imm) s

/-- vcmp.mand (R314). -/
def execVcmpMand (d a b : Reg) (s : State) : Out := maskForm 0x20 d (.vec a 1) (.vec b 1) s

/-- vcmp.mor (R314). -/
def execVcmpMor (d a b : Reg) (s : State) : Out := maskForm 0x21 d (.vec a 1) (.vec b 1) s

/-- vcmp.mxor (R314). -/
def execVcmpMxor (d a b : Reg) (s : State) : Out := maskForm 0x22 d (.vec a 1) (.vec b 1) s

/-- vcmp.mandn (R314). -/
def execVcmpMandn (d a b : Reg) (s : State) : Out := maskForm 0x23 d (.vec a 1) (.vec b 1) s

/-- vcmp.mset (R314). -/
def execVcmpMset (d : Reg) (s : State) : Out := maskForm 0x24 d .none .none s

/-- vcmp.mclr (R314). -/
def execVcmpMclr (d : Reg) (s : State) : Out := maskForm 0x25 d .none .none s

/-- vred.sum.T (R315). -/
def execVredSum (d a b : Reg) (t : Ty) (s : State) : Out := redForm (.red .sum t d a) 0 d b s

/-- vred.min.T (R315). -/
def execVredMin (d a b : Reg) (t : Ty) (s : State) : Out := redForm (.red .min t d a) 1 d b s

/-- vred.max.T (R315). -/
def execVredMax (d a b : Reg) (t : Ty) (s : State) : Out := redForm (.red .max t d a) 2 d b s

/-- vred.and.T (R315). -/
def execVredAnd (d a b : Reg) (t : Ty) (s : State) : Out := redForm (.red .and t d a) 3 d b s

/-- vred.or.T (R315). -/
def execVredOr (d a b : Reg) (t : Ty) (s : State) : Out := redForm (.red .or t d a) 4 d b s

/-- vred.xor.T (R315). -/
def execVredXor (d a b : Reg) (t : Ty) (s : State) : Out := redForm (.red .xor t d a) 5 d b s

/-- vred.minidx.T (R316). -/
def execVredMinidx (d a b : Reg) (t : Ty) (s : State) : Out := redForm (.redIdx false t d a) 6 d b s

/-- vred.maxidx.T (R316). -/
def execVredMaxidx (d a b : Reg) (t : Ty) (s : State) : Out := redForm (.redIdx true t d a) 7 d b s

/-- vred.mpop (R315). -/
def execVredMpop (d a : Reg) (s : State) : Out := redForm (.mpop d a) 8 d 0 s

/-- vred.mfirst (R315). -/
def execVredMfirst (d a : Reg) (s : State) : Out := redForm (.mfirst d a) 9 d 0 s

end Sys2Proof.Machine
end

