-- ==== Sys2Proof/Machine/VecMove.lean ====
section
/-! DEFINITION. Permutes and compaction (R317 to R319), presence (R340 to R342). -/

namespace Sys2Proof.Machine

/-- A permute with the scalar operands that it reads. -/
def permForm (op : VOp) (fn : Nat) (x y : Word) (s : State) : Out :=
  .next (commit s { op := op, maj := 0x1F, fn := fn, x := x, y := y })

/-- A presence instruction. -/
def presForm (op : VOp) (fn : Nat) (x y : Word) (s : State) : Out :=
  .next (commit s { op := op, maj := 0x24, fn := fn, x := x, y := y })

/-- vperm.slup.T (R317). -/
def execVpermSlup (d a b : Reg) (t : Ty) (s : State) : Out := permForm (.move .slup t d a 0) 0 0 (s.hart.reg b) s

/-- vperm.sldn.T (R317). -/
def execVpermSldn (d a b : Reg) (t : Ty) (s : State) : Out := permForm (.move .sldn t d a 0) 1 0 (s.hart.reg b) s

/-- vperm.perm.T (R317). -/
def execVpermPerm (d a b : Reg) (t : Ty) (s : State) : Out := permForm (.move .perm t d a b) 2 0 0 s

/-- vperm.compress.T (R317). -/
def execVpermCompress (d a : Reg) (t : Ty) (s : State) : Out := permForm (.move .compress t d a 0) 3 0 0 s

/-- vperm.xtr.T (R317). -/
def execVpermXtr (d a b : Reg) (t : Ty) (s : State) : Out := permForm (.xtr t d a) 4 0 (s.hart.reg b) s

/-- vperm.ins.T (R317). -/
def execVpermIns (d a b : Reg) (t : Ty) (s : State) : Out := permForm (.ins t d) 5 (s.hart.reg a) (s.hart.reg b) s

/-- vperm.iota.T (R317). -/
def execVpermIota (d b : Reg) (t : Ty) (s : State) : Out := 
  permForm (.lane t t d t.width true false (ssrc s t b) .none .none) 6 0 0 s

/-- vperm.hold.T (R318). -/
def execVpermHold (d a b : Reg) (t : Ty) (s : State) : Out := permForm (.hold t d a) 8 0 (s.hart.reg b) s

/-- vperm.drain.T (R319). -/
def execVpermDrain (d : Reg) (t : Ty) (s : State) : Out := permForm (.drain t d) 9 0 0 s

/-- vsettle (R341). -/
def execVsettle (a : Reg) (s : State) : Out := presForm .settle 0 (s.hart.reg a) 0 s

/-- vpres.present.T (R340). -/
def execVpresPresent (d a : Reg) (t : Ty) (s : State) : Out := presForm (.seen false t d a) 1 0 0 s

/-- vpres.poisoned.T (R340). -/
def execVpresPoisoned (d a : Reg) (t : Ty) (s : State) : Out := presForm (.seen true t d a) 2 0 0 s

/-- vpres.heal.T (R342). -/
def execVpresHeal (d b : Reg) (t : Ty) (s : State) : Out := presForm (.heal t d) 3 0 (s.hart.reg b) s

end Sys2Proof.Machine
end

