-- ==== Sys2Proof/Machine/VecFloat.lean ====
section
/-! DEFINITION. Conversions and special functions (R333 to R339). -/

namespace Sys2Proof.Machine

/-- A special function (R336, R337). -/
def sfuForm (fn : Nat) (d a : Reg) (t : Ty) (s : State) : Out := laneT 0x20 fn t d (vsrc t a) .none .none s

/-- vcvt.S.D (R334). -/
def execVcvt (d a b : Reg) (t src : Ty) (rnd : BitVec 3) (s : State) : Out := 
  let fn := src.code * 8 + rnd.toNat
  let op : VOp :=
    if t = .mx4 then .quant src d a b.val (rnd == 5)
    else .lane t src d t.width true false (vsrc src a) (if src = .mx4 then .scale b.val else .none) .none
  .next (commit s { op := op, maj := 0x25, fn := fn })

/-- vsfu.rcp.T (R337). -/
def execVsfuRcp (d a : Reg) (t : Ty) (s : State) : Out := sfuForm 0 d a t s

/-- vsfu.rcpe.T (R339). -/
def execVsfuRcpe (d a : Reg) (t : Ty) (s : State) : Out := sfuForm 1 d a t s

/-- vsfu.rsq.T (R337). -/
def execVsfuRsq (d a : Reg) (t : Ty) (s : State) : Out := sfuForm 2 d a t s

/-- vsfu.sqrt.T (R337). -/
def execVsfuSqrt (d a : Reg) (t : Ty) (s : State) : Out := sfuForm 3 d a t s

/-- vsfu.exp2.T (R337). -/
def execVsfuExp2 (d a : Reg) (t : Ty) (s : State) : Out := sfuForm 4 d a t s

/-- vsfu.log2.T (R337). -/
def execVsfuLog2 (d a : Reg) (t : Ty) (s : State) : Out := sfuForm 5 d a t s

/-- vsfu.sin.T (R337). -/
def execVsfuSin (d a : Reg) (t : Ty) (s : State) : Out := sfuForm 6 d a t s

/-- vsfu.cos.T (R337). -/
def execVsfuCos (d a : Reg) (t : Ty) (s : State) : Out := sfuForm 7 d a t s

/-- vsfu.tanh.T (R337). -/
def execVsfuTanh (d a : Reg) (t : Ty) (s : State) : Out := sfuForm 8 d a t s

/-- vsfu.silu.T (R337). -/
def execVsfuSilu (d a : Reg) (t : Ty) (s : State) : Out := sfuForm 9 d a t s

/-- vsfu.sigm.T (R337). -/
def execVsfuSigm (d a : Reg) (t : Ty) (s : State) : Out := sfuForm 10 d a t s

end Sys2Proof.Machine
end

