-- ==== Sys2Proof/Machine/VecMem.lean ====
section
/-! DEFINITION. Vector loads, stores, streams, frames and atomics (R62, R68, R321 to R326, R388). -/

namespace Sys2Proof.Machine

/-- A load with its base (R321). -/
def loadForm (mode : VMode) (d a b : Reg) (t : Ty) (s : State) : Out :=
  .next (commit s { op := .ld mode t d b, maj := 0x21, x := s.hart.reg a })

/-- A store with its base. -/
def storeForm (mode : VMode) (ordered : Bool) (d a b : Reg) (t : Ty) (s : State) : Out :=
  .next (commit s { op := .st mode ordered t d b, maj := 0x22, fn := if ordered then 0 else 1, x := s.hart.reg a })

/-- Streams and frames (R324). -/
def stmForm (op : VOp) (x y : Word) (s : State) : Out := .next (commit s { op := op, maj := 0x23, x := x, y := y })

/-- A vector atomic (R388). -/
def amovForm (fn : AmoFn) (d a b : Reg) (t : Ty) (ord : BitVec 2) (s : State) : Out :=
  .next (commit s { op := .amov fn t d b ord.toNat, maj := 0x0C, x := s.hart.reg a })

/-- vld.unit.T (R322). -/
def execVldUnit (d a : Reg) (t : Ty) (s : State) : Out := loadForm .unit d a 0 t s

/-- vld.stride.T (R322). -/
def execVldStride (d a : Reg) (t : Ty) (s : State) : Out := loadForm .stride d a 0 t s

/-- vld.index.T (R322). -/
def execVldIndex (d a b : Reg) (t : Ty) (s : State) : Out := loadForm .index d a b t s

/-- vld.elem.T (R322). -/
def execVldElem (d a b : Reg) (t : Ty) (s : State) : Out := loadForm .elem d a b t s

/-- vst.unit.T (R323). -/
def execVstUnit (d a : Reg) (t : Ty) (s : State) : Out := storeForm .unit true d a 0 t s

/-- vst.unitu.T (R323). -/
def execVstUnitu (d a : Reg) (t : Ty) (s : State) : Out := storeForm .unit false d a 0 t s

/-- vst.stride.T (R323). -/
def execVstStride (d a : Reg) (t : Ty) (s : State) : Out := storeForm .stride true d a 0 t s

/-- vst.strideu.T (R323). -/
def execVstStrideu (d a : Reg) (t : Ty) (s : State) : Out := storeForm .stride false d a 0 t s

/-- vst.index.T (R323). -/
def execVstIndex (d a b : Reg) (t : Ty) (s : State) : Out := storeForm .index true d a b t s

/-- vst.indexu.T (R323). -/
def execVstIndexu (d a b : Reg) (t : Ty) (s : State) : Out := storeForm .index false d a b t s

/-- vst.elem.T (R323). -/
def execVstElem (d a b : Reg) (t : Ty) (s : State) : Out := storeForm .elem true d a b t s

/-- vst.elemu.T (R323). -/
def execVstElemu (d a b : Reg) (t : Ty) (s : State) : Out := storeForm .elem false d a b t s

/-- vstm.bind (R62). -/
def execVstmBind (d a : Reg) (s : State) : Out := stmForm (.bind d) (s.hart.reg a) 0 s

/-- vstm.unbind (R68). -/
def execVstmUnbind (d : Reg) (s : State) : Out := stmForm (.unbind d) 0 0 s

/-- vstm.spill (R48). -/
def execVstmSpill (d a b : Reg) (s : State) : Out := stmForm (.spill d) (s.hart.reg a) (s.hart.reg b) s

/-- vstm.fill (R326). -/
def execVstmFill (d a : Reg) (s : State) : Out := stmForm (.fill d) (s.hart.reg a) 0 s

/-- amo.vadd (R388). -/
def execAmoVadd (d a b : Reg) (t : Ty) (_sys : Bool) (ord : BitVec 2) (s : State) : Out := 
  amovForm .add d a b t ord s

/-- amo.vmin (R388). -/
def execAmoVmin (d a b : Reg) (t : Ty) (_sys : Bool) (ord : BitVec 2) (s : State) : Out := 
  amovForm .min d a b t ord s

/-- amo.vmax (R388). -/
def execAmoVmax (d a b : Reg) (t : Ty) (_sys : Bool) (ord : BitVec 2) (s : State) : Out := 
  amovForm .max d a b t ord s

/-- amo.vswap (R388). -/
def execAmoVswap (d a b : Reg) (t : Ty) (_sys : Bool) (ord : BitVec 2) (s : State) : Out := 
  amovForm .swap d a b t ord s

end Sys2Proof.Machine
end

