-- ==== Sys2Proof/Machine/ArrayInsn.lean ====
section
/-! DEFINITION. The instructions of the array and of the engines (R354, R376). -/

namespace Sys2Proof.Machine

/-- An array instruction with its scalar operands. -/
def arrayForm (op : VOp) (maj fn : Nat) (x y : Word) (s : State) : Out :=
  .next (commit s { op := op, maj := maj, fn := fn, x := x, y := y })

/-- The next register; s[b+1] of a transfer holds its completion block's address (R376). -/
def succReg (r : Reg) : Reg := pairOf r

/-- A transfer with its operands (R376). -/
def engForm (fn : Nat) (d a b : Reg) (kind : BitVec 4) (s : State) : Out :=
  let h := s.hart
  .next (commit s { op := .eng fn d a b kind.toNat, maj := 0x33, fn := fn, x := h.reg a, y := h.reg b, z := h.reg d
                    stride := h.reg (succReg b) })

/-- mx.mode (R355). -/
def execMxMode (d a b : Reg) (s : State) : Out := arrayForm (.mxMode d) 0x30 0 (s.hart.reg a) (s.hart.reg b) s

/-- mx.tshape.T (R357). -/
def execMxTshape (d a b : Reg) (t : Ty) (s : State) : Out := arrayForm (.mxTshape t d) 0x30 1 (s.hart.reg a) (s.hart.reg b) s

/-- mx.op.T (R359). -/
def execMxOp (d a b : Reg) (t : Ty) (s : State) : Out := arrayForm (.mxOp t d.val a b) 0x30 2 0 0 s

/-- mx.zero (R360). -/
def execMxZero (d : Reg) (s : State) : Out := arrayForm (.mxZero d.val) 0x30 3 0 0 s

/-- mx.mv (R360). -/
def execMxMv (d a : Reg) (s : State) : Out := arrayForm (.mxMv d.val a.val) 0x30 4 0 0 s

/-- mx.rdrow (R361). -/
def execMxRdrow (d a b : Reg) (s : State) : Out := arrayForm (.mxRead false d a.val) 0x30 5 0 (s.hart.reg b) s

/-- mx.rdcol (R361). -/
def execMxRdcol (d a b : Reg) (s : State) : Out := arrayForm (.mxRead true d a.val) 0x30 6 0 (s.hart.reg b) s

/-- mx.wrrow (R361). -/
def execMxWrrow (d a b : Reg) (s : State) : Out := arrayForm (.mxWrite false d.val a) 0x30 7 0 (s.hart.reg b) s

/-- mx.wrcol (R361). -/
def execMxWrcol (d a b : Reg) (s : State) : Out := arrayForm (.mxWrite true d.val a) 0x30 8 0 (s.hart.reg b) s

/-- mx.spill (R362). -/
def execMxSpill (d a : Reg) (s : State) : Out := arrayForm (.mxSpill d.val) 0x30 9 (s.hart.reg a) 0 s

/-- mx.fill (R362). -/
def execMxFill (d a : Reg) (s : State) : Out := arrayForm (.mxFill d.val) 0x30 10 (s.hart.reg a) 0 s

/-- sp.eval.T (R369). -/
def execSpEval (d a : Reg) (t : Ty) (s : State) : Out := arrayForm (.spEval t d a) 0x31 0 0 0 s

/-- sp.grad.T (R370). -/
def execSpGrad (a b : Reg) (t : Ty) (s : State) : Out := arrayForm (.spGrad t a b) 0x31 1 0 0 s

/-- sp.dx.T (R370). -/
def execSpDx (d a b : Reg) (t : Ty) (s : State) : Out := arrayForm (.spDx t d a b) 0x31 2 0 0 s

/-- sp.refine (R372). -/
def execSpRefine (s : State) : Out := arrayForm .spRefine 0x31 3 0 0 s

/-- sp.pair (R366). -/
def execSpPair (a : Reg) (s : State) : Out := arrayForm .spPair 0x31 4 (s.hart.reg a) 0 s

/-- sp.gzero (R373). -/
def execSpGzero (s : State) : Out := arrayForm .spGzero 0x31 5 0 0 s

/-- sp.gspill (R373). -/
def execSpGspill (a : Reg) (s : State) : Out := arrayForm .spGspill 0x31 6 (s.hart.reg a) 0 s

/-- sp.gfill (R373). -/
def execSpGfill (a : Reg) (s : State) : Out := arrayForm .spGfill 0x31 7 (s.hart.reg a) 0 s

/-- eng.copy (R381). -/
def execEngCopy (d a b : Reg) (k : BitVec 4) (s : State) : Out := engForm 0 d a b k s

/-- eng.mcast (R382). -/
def execEngMcast (d a b : Reg) (k : BitVec 4) (s : State) : Out := engForm 1 d a b k s

/-- eng.gather (R383). -/
def execEngGather (d a b : Reg) (k : BitVec 4) (s : State) : Out := engForm 2 d a b k s

/-- eng.patt (R384). -/
def execEngPatt (d a : Reg) (s : State) : Out := engForm 3 d a 0 0 s

/-- eng.coll (R385). -/
def execEngColl (a : Reg) (k : BitVec 4) (s : State) : Out := engForm 4 0 a 0 k s

end Sys2Proof.Machine
end

