-- ==== Sys2Proof/Machine/Context.lean ====
section
/-! DEFINITION. Context images: csave and crest (R165, R176, R204 to R206, R295, R296). The layout within the sections is
the model's own (log 12). -/

namespace Sys2Proof.Machine

/-! ### Sections -/

/-- CRC-32 of a list of bytes (IEEE 802.3 polynomial, bits reflected) (R204). -/
def crcBit : Nat → Nat → Nat
  | 0, c => c
  | n + 1, c => crcBit n (if c % 2 = 1 then Nat.xor (c / 2) 0xEDB88320 else c / 2)
def crc32 (b : List Byte) : Nat :=
  Nat.xor (b.foldl (fun c x => crcBit 8 (Nat.xor c x.toNat)) 0xFFFFFFFF) 0xFFFFFFFF

/-- A section with its header and padding (R204). -/
def sectionOf (kind slot : Nat) (body : List Byte) : List Byte :=
  pad64 (leBytes 1 kind ++ leBytes 1 slot ++ leBytes 2 0 ++ leBytes 4 body.length ++ leBytes 4 (crc32 body) ++ leBytes 4 0 ++ body)

/-- An image of sections (R204). -/
def imageOf (len mvl : Nat) (mirror : Bool) (sections : List (List Byte)) : List Byte :=
  let body := sections.flatMap id
  leBytes 2 0x4349 ++ leBytes 1 1 ++ leBytes 1 sections.length ++ leBytes 4 (64 + body.length) ++ leBytes 2 len ++
    leBytes 1 mvl ++ leBytes 1 mirror.toNat ++ leBytes 52 0 ++ body

/-- Eight bytes a number. -/
def words (ns : List Nat) : List Byte := ns.flatMap (leBytes 8 ·)

/-- The i-th eight bytes of a list, as a number. -/
def wordAt (b : List Byte) (i : Nat) : Nat := leNat ((b.drop (8 * i)).take 8)

/-- The words of a trap bank. -/
def TrapBank.words (b : TrapBank) : List Nat := (List.range 8).map fun i => (b.get i).toNat

/-- A fault that waits for the hart to resume (R177), as three words. -/
def pendingWords (t : Option TrapInfo) : List Nat :=
  match t with
  | none => [0, 0, 0]
  | some t => [1 + causeCode t.cause * 2 ^ 8 + t.sub % 16 * 2 ^ 16 + t.level % 16 * 2 ^ 20 + t.orig % 256 * 2 ^ 24,
      t.treg % 64 + t.telem % 2 ^ 14 * 2 ^ 8, t.taddr % 2 ^ 64]

/-- The fault that three words hold. -/
def pendingOf (w : Nat → Nat) : Option TrapInfo :=
  if (w 0).testBit 0 then
    let cause := ([Cause.ill, .priv, .align, .page, .perm, .memcap, .remote, .access, .fpx, .decx, .poison, .fut2, .pattern, .ue,
      .mismatch, .bar, .svc, .break_].find? fun c => causeCode c == bits (w 0) 15 8).getD .none
    some { cause := cause, sub := bits (w 0) 19 16, level := bits (w 0) 23 20, orig := bits (w 0) 31 24, treg := bits (w 1) 5 0
           telem := bits (w 1) 21 8, taddr := w 2 }
  else none

/-- HART (R204): s1 to s31, pc, privilege, ptbase, prio, boost.REQ, fpctl, fpflags, srseed, the U and the S bank. The last
words keep what a resumed hart needs: the disabled exceptions of R200, a fault of R177, the stopped bar.sync instructions (R392), and
what its fetches see (R117). -/
def hartBody (h : Hart) : List Byte :=
  words ((List.range 31).map (fun i => (h.s.toList.getD (i + 1) 0).toNat) ++
    [h.pc.toNat, if h.priv = .supervisor then 1 else 0, h.ptbase.toNat, h.spawnMin * 2 ^ 8, h.boostReq, h.fpctl.toNat, h.fpflags,
     h.srkey * 2 ^ 32 + h.srcount] ++ h.ubank.words ++ h.sbank.words ++
    [(if h.masked then 1 else 0) + 2 * min 4 h.synced.length] ++ pendingWords h.pending ++
    (List.range 4).flatMap (fun i => match h.synced[i]? with | some (pc, handle, p) => [pc.toNat, handle, p] | none => [0, 0, 0]) ++
    [h.codeAt, h.fenced])

/-- VECTOR (R204): the frame, then vl, vrows, vmk, vstride, vlcap, pmode, vdens, vpx0 to vpx31, ckmask, ckvmask, strip. -/
def vectorBody (h : Hart) (len : Nat) : List Byte :=
  frameOf h.vreg len (2 ^ 32 - 1) ++
  words ([h.vl, h.vrows, h.vmk, h.vstride.toNat, h.vlcap, h.pmode, h.vdens] ++ (List.range 32).map (vpxOf h) ++
    [h.ckmask, h.ckvmask, stripWord h])

/-- One slot of STREAMS. -/
def streamWords (x : Option Stream) : List Nat :=
  match x with
  | none => List.replicate 16 0
  | some x => [1 + (if x.write then 2 else 0) + x.reg * 2 ^ 8 + x.ty.code * 2 ^ 16 + x.ndim * 2 ^ 24, x.block, x.base] ++
      (List.range 4).map (fun i => x.cnt.getD i 0) ++ (List.range 4).map (fun i => wrapNat 64 (x.str.getD i 0)) ++
      (List.range 4).map (fun i => x.pos.getD i 0) ++ [0]

/-- STREAMS (R68, R204). -/
def streamsBody (h : Hart) : List Byte := words ((List.range Config.streamSlots).flatMap fun i => streamWords h.streams[i]?)

/-- QUEUE, HOLD and HOLES (R204): the number under which the machine keeps their contents. -/
def tokenBody (token : Nat) : List Byte := words [1, token, 0, 0, 0, 0]

/-- MATRIX (R204, R352, R356, R363, R364). -/
def matrixBody (c : Core) : List Byte :=
  words ([c.owner * 2 ^ 12 + c.mode * 2 ^ 8 + c.mvl, c.tm, c.tn, c.tk] ++ c.kn.toList ++ [c.korg, c.kinv, c.kgrid, c.kdeg, c.kclamp]) ++
  Memory.readBytes c.cells 0 0x100000

/-- SPAD (R66, R204): the scratchpad and its fill records. -/
def spadBody (c : Core) : List Byte :=
  Memory.readBytes c.spad 0 Config.spadBytes ++
  words ((List.range Config.fillRecords).flatMap fun i =>
    match c.fills[i]? with | some (lo, hi, digest) => [lo, hi, digest] | none => [0, 0, 0])

/-- SDM (R204). -/
def sdmBody (c : Core) : List Byte := Memory.readBytes c.sdm 0 Config.sdmBytes

/-- The sections of a slot. -/
def slotSections (h : Hart) (len n token : Nat) : List (List Byte) :=
  sectionOf 1 n (hartBody h) ::
    if n < 4 then [sectionOf 2 n (vectorBody h len), sectionOf 3 n (tokenBody token), sectionOf 4 n (streamsBody h),
                   sectionOf 5 n (tokenBody token), sectionOf 6 n (tokenBody token)]
    else []

/-- The sections of a core. -/
def coreSections (c : Core) : List (List Byte) :=
  [sectionOf 7 0xFF (matrixBody c), sectionOf 8 0xFF (spadBody c), sectionOf 9 0xFF (sdmBody c)]

/-- The size of a section with a body of n bytes. -/
def sectionSize (n : Nat) : Nat := roundUp64 (16 + n)

/-- The size of an image with every HW at LEN and every register with a presence map (R295). -/
def imageBound (slots : List Nat) (core : Bool) (len : Nat) : Nat :=
  let vector := 64 + 128 + 32 * (len + roundUp64 (len / 8)) + 42 * 8
  let slot := fun (n : Nat) => sectionSize 584 + if n < 4 then sectionSize vector + 3 * sectionSize 48 + sectionSize 1024 else 0
  64 + (slots.map slot).foldl (· + ·) 0 +
    if core then sectionSize (25 * 8 + 0x100000) + sectionSize (Config.spadBytes + 384) + sectionSize Config.sdmBytes else 0

/-! ### csave (R205, R295) -/

/-- The slots of a core in a mask that are not EMPTY. -/
def namedSlots (s : State) (core mask : Nat) : List Nat := (liveSlots s core).filter mask.testBit

/-- A hart stopped for its image: the strip commits and runs on without protection, streams write back, its accesses have performed,
the queue is parked (R63, R116, R176, R205, R379). -/
def stopForImage (s : State) (k : Nat) : State :=
  let s := untrack (settleRepl (writeBackStreams (unprotect s k) k) k) k
  s.setHartAt k (s.hartAt k).park

/-- The hart slot that another slot's csave stops (R176): a helper that holds an entry gives it up, and its state. -/
def stopSlot (s : State) (k : Nat) : State :=
  let s := stopForImage s k
  let h := s.hartAt k
  match h.taken.filter (· < Config.holeSlots) with
  | some id =>
    let c := s.coreAt (coreOf k)
    let s := s.setCoreAt (coreOf k)
      { c with holes := c.holes.map fun (p : Nat × HoleEntry) =>
          (p.1, if p.1 == id && p.2.st == HoleState.taken then { p.2 with st := .ready } else p.2) }
    s.setHartAt k (helperRestart h)
  | none => s

/-- Whether a helper that keeps running holds an entry of some slot (R165). -/
def entriesTaken (s : State) (core : Nat) (slots : List Nat) : Bool :=
  (s.coreAt core).holes.any fun (p : Nat × HoleEntry) => p.2.st == .taken && slots.contains p.2.slot

/-- The uncorrectable word that an image would hold, if any (R209, R210). -/
def imageBad (s : State) (core : Nat) (slots : List Nat) (withCore : Bool) : Option Stop :=
  let c := s.coreAt core
  match (slots.filter (· < 4)).findSome? fun n =>
      (List.range 32).find? fun r => !((s.hartAt (core * 8 + n)).vreg r).bad.isEmpty with
  | some r => some (vrfStop r 0)
  | none =>
    if !withCore then none
    else match c.badCells, c.badSpad, c.badSdm with
      | _ :: _, _, _ => some (cellStop 0x3F 0)
      | [], w :: _, _ => some (memTrap .ue 3 (8 * w))
      | [], [], w :: _ => some (memTrap .ue 4 (8 * w))
      | [], [], [] => none

/-- What the image keeps of a hart's hole-queue entries (R165). -/
def holesOf (s : State) (k : Nat) : List HoleEntry :=
  ((s.coreAt (coreOf k)).holes.map (·.2)).filter (·.slot == slotOf k)

/-- The number of the next contents that the machine keeps. -/
def nextToken (s : State) : Nat := 1 + (s.archive.map (·.1)).foldl max 0

/-- The sections of slots, and the machine with the contents of their internal ones kept. -/
def imageSlots (core : Nat) : List Nat → State → List (List Byte) × State
  | [], s => ([], s)
  | n :: rest, s =>
    let k := core * 8 + n
    let h := s.hartAt k
    let token := nextToken s
    let here := slotSections h (s.lenOf k) n token
    let s := if n < 4 then { s with archive := Table.set s.archive token (h, holesOf s k) } else s
    let (more, s) := imageSlots core rest s
    (here ++ more, s)

/-- The words of an image are stored in ascending order (R205, R127): how far, and the stop if not to the end. -/
def storeImage (k va : Nat) : Nat → List Byte → State → State × Option Stop
  | 0, _, s => (s, none)
  | n + 1, b, s =>
    match storeBy [] s k false true 8 0xFF (va % 2 ^ 64) (leNat (b.take 8)) with
    | .ok s => storeImage k (va + 8) n (b.drop 8) s
    | .error st => (s, some st)

/-- The slot states after a csave (R295): stopped, or as they were. -/
def leaveSlots (keep : Bool) (core : Nat) (slots : List Nat) (s : State) : State :=
  if keep then s
  else slots.foldl (fun s n => let k := core * 8 + n; s.setHartAt k { s.hartAt k with slot := .stopped, wait := .held }) s

/-- The image that a csave writes, and the machine with every named slot stopped. The executing hart's own section holds the
address after the csave and 0 in s[d] (R295). -/
def csaveImage (d : Reg) (core : Nat) (slots : List Nat) (withCore : Bool) (s : State) : List Byte × State :=
  let h := s.hart
  let (slotPart, t) := imageSlots core slots (s.setHart ((h.setReg d 0).next))
  let c := t.coreAt core
  let mirror := slots.any fun n => (t.hartAt (core * 8 + n)).pmode.testBit 0
  (imageOf (s.lenOf s.turn) c.mvl mirror (slotPart ++ if withCore then coreSections c else []), { s with archive := t.archive })

/-- csave (R205, R295). A csave that faults leaves the slots it stopped as they were (log 12). -/
def execCsave (d a : Reg) (slots : BitVec 8) (keep core : Bool) (s : State) : Out :=
  let h := s.hart
  let n := coreOf s.turn
  let named := namedSlots s n slots.toNat
  let others := named.filter (· != slotOf s.turn)
  let va := (h.reg a).toNat
  if h.priv = .user then .next (privileged s)
  else if va = 0 then .next (writeReg s d (BitVec.ofNat 64 (imageBound named core (s.lenOf s.turn))))
  else if va % 64 ≠ 0 then .next (stop s (memTrap .align 1 va))
  else
    let t := unprotect (others.foldl (fun s m => stopSlot s (n * 8 + m)) s) s.turn
    let t := if named.contains (slotOf s.turn) then stopForImage t t.turn else t
    if entriesTaken t n named then .next (stall s)
    else match imageBad t n named core with
      | some st => .next (stop t st)
      | none =>
        let (image, t) := csaveImage d n named core t
        match storeImage s.turn va (image.length / 8) image t with
        | (t, some st) => .next (stop t st)
        | (t, none) => .next (leaveSlots keep n others (writeReg t d (BitVec.ofNat 64 image.length)))

/-- The dump of a halted hart, which the steward writes as a csave would (R410): a header that names its oldest unfinished instruction
by SEQ, the hart's tpc and the progress index, then the image. DESIGN CHOICE (log 80): the header's layout, SEQ, tpc, ELEM and ROW in a
64-byte line; no instruction asks for a dump. -/
def dumpOf (s : State) (k : Nat) : List Byte :=
  let h := s.hartAt k
  let (seq, el, row) := match h.viq.head? with | some e => (e.seq, e.elem, e.row) | none => (h.seq, 0, 0)
  let (sections, _) := imageSlots (coreOf k) [slotOf k] s
  pad64 (leBytes 4 seq ++ leBytes 8 h.pc.toNat ++ leBytes 2 el ++ leBytes 1 row) ++
    imageOf (s.lenOf k) (s.coreAt (coreOf k)).mvl (h.pmode.testBit 0) sections

/-! ### crest (R206, R296) -/

/-- A section of an image that is being restored. -/
structure Section where
  kind : Nat
  slot : Nat
  body : List Byte

/-- The sections of an image after its header; none: a CHECK fails, a reserved byte is not zero, or the bytes are no
sections (R204, R206). -/
def parseSections : Nat → List Byte → Option (List Section)
  | 0, b => if b = [] then some [] else none
  | n + 1, b =>
    let f := fun (off n : Nat) => leNat ((b.drop off).take n)
    let size := f 4 4
    let body := (b.drop 16).take size
    if b.length < sectionSize size || f 2 2 != 0 || f 12 4 != 0 || f 8 4 != crc32 body then none
    else (parseSections n (b.drop (sectionSize size))).map ({ kind := f 0 1, slot := f 1 1, body := body } :: ·)

/-- Whether a value lies in a register's map (R253). -/
def inMap (n v : Nat) : Bool := Nat.land v (ctlMask n) == v && ctlAllowed n v

/-- Whether a number has only the bits of a mask. -/
def within (mask v : Nat) : Bool := Nat.land v mask == v

/-- A trap bank from words; none where a reserved bit is set (R153, R193 to R196). -/
def TrapBank.ofWords (b : List Byte) (i : Nat) : Option TrapBank :=
  let w := fun j => BitVec.ofNat 64 (wordAt b (i + j))
  let masks := [2 ^ 64 - 4, 0xFCFF, 0xFFFF, 2 ^ 64 - 1, 0xFFFFFFFF3F, 0x3F, 0x3FFF, 2 ^ 64 - 1]
  if masks.zipIdx.all fun p => within p.1 (w p.2).toNat then
    some { tvec := w 0, tcause := w 1, tsub := w 2, tpc := w 3, tviq := w 4, treg := w 5, telem := w 6, taddr := w 7 }
  else none

/-- A hart with the contents of a HART section; none: a value outside its register's map. The ASID of a slot stays (R296); an
EMPTY slot has that of the executing hart, whose gang it joins. `code`: how long the record of device-memory writes is. -/
def restoreHart (b : List Byte) (asid code : Nat) (h : Hart) : Option Hart :=
  let w := wordAt b
  match TrapBank.ofWords b 39, TrapBank.ofWords b 47 with
  | some ubank, some sbank =>
    if b.length != 584 || 1 < w 32 || !inMap 0x180 (w 33 % 2 ^ 52) || !inMap 0x100 (w 34) || !inMap 0x101 (w 35) ||
        !inMap 0x080 (w 36) || !inMap 0x081 (w 37) then none
    else
      let s := Vector.ofFn fun (i : Fin 32) => if i = 0 then 0 else BitVec.ofNat 64 (w (i.val - 1))
      some { h with
        s := s, pc := BitVec.ofNat 64 (w 31), priv := if w 32 = 1 then .supervisor else .user
        ptbase := BitVec.ofNat 64 (setBits (w 33) 63 52 (if h.slot = .empty then asid else bits h.ptbase.toNat 63 52))
        spawnMin := w 34 / 2 ^ 8, boostReq := w 35, fpctl := BitVec.ofNat 64 (w 36), fpflags := w 37
        srkey := w 38 / 2 ^ 32, srcount := w 38 % 2 ^ 32, ubank := ubank, sbank := sbank
        masked := (w 55).testBit 0, pending := pendingOf fun i => w (56 + i)
        synced := (List.range (min 4 (w 55 / 2))).map fun i => (BitVec.ofNat 64 (w (59 + 3 * i)), w (60 + 3 * i), w (61 + 3 * i))
        codeAt := min (w 71) code, fenced := min (w 72) code }
  | _, _ => none

/-- A vector register with the presence and the poison record that the machine kept, where the frame tells the same. -/
def rejoin (kept v : VReg) : VReg :=
  { v with
    absent := v.absent.map fun (p : Nat × Absent) =>
      let x := Table.get {} kept.absent p.1
      (p.1, if granuleCode x = granuleCode p.2 then x else p.2)
    log := if v.log.isSome then some (kept.log.getD (0, 0)) else none }

/-- A hart with the contents of a VECTOR section. Its registers are not cut to any register length: R206 refuses those that do
not fit. -/
def restoreVector (b : List Byte) (h : Hart) : Option Hart :=
  let size := leNat ((b.drop 12).take 4)
  let w := wordAt (b.drop size)
  match parseFrame (b.take size) with
  | none => none
  | some regs =>
    if b.length != size + 336 || regs.length != 32 || !inMap 1 (w 1) || !inMap 2 (w 2) || !inMap 5 (w 4) || 3 < w 5 || !inMap 9 (w 6) ||
        !inMap 0xD0 (w 39) || !inMap 0xD1 (w 40) || !within 0xFFFFFFC7 (w 41) || 4096 < w 0 ||
        !((List.range 32).all fun n => within 0xF0001FFF (w (7 + n))) then none
    else
      let px := fun (n : Nat) (v : VReg) => let x := w (7 + n)
        { v with busy := x.testBit 31, row := bits x 30 28, elem := bits x 12 0 }
      let h := { h with vl := w 0, vrows := w 1, vmk := w 2, vstride := BitVec.ofNat 64 (w 3), vlcap := w 4, pmode := w 5, vdens := w 6
                        ckmask := w 39, ckvmask := w 40, rewinds := bits (w 41) 31 16, used := bits (w 41) 15 6
                        again := (w 41).testBit 2, unprot := (w 41).testBit 1
                        ckpt := none, strip := [] }
      some (regs.foldl (fun (h : Hart) x =>
        h.setVreg x.reg (px x.reg (x.reg' 0x10000 (some (0, 0)) fun _ => [(Config.holeSlots, 0xFFFF)]))) h)

/-- One slot of a STREAMS section. -/
def restoreStream (b : List Byte) (i : Nat) : Option Stream :=
  let w := fun j => wordAt b (16 * i + j)
  if (w 0).testBit 0 then
    some { reg := bits (w 0) 15 8 % 32, block := w 1, base := w 2, ty := Ty.ofCode (bits (w 0) 19 16), write := (w 0).testBit 1
           ndim := bits (w 0) 26 24, cnt := (List.range 4).map (w <| 3 + ·), str := (List.range 4).map fun j => toSigned 64 (w (7 + j))
           pos := (List.range 4).map (w <| 11 + ·) }
  else none

/-- Whether a kgrid may have a value: PAIR, and the intervals that sp.refine reaches from G = 7 (R364, R372). -/
def gridMap (v : Nat) : Bool := within 0x13F0F v && bits v 3 0 != 0 && bits v 3 0 ≤ 14 && bits v 12 8 ≤ 16

/-- A core with the contents of a MATRIX section. -/
def restoreMatrix (b : List Byte) (c : Core) : Option Core :=
  let w := wordAt b
  let kn := (List.range 16).map fun i => w (4 + i)
  if b.length != 200 + 0x100000 || 2 < bits (w 0) 11 8 || 128 < bits (w 0) 7 0 || 2 ^ 15 ≤ w 0 || 128 < w 1 || 128 < w 2 || 4096 < w 3 ||
      !kn.all (inMap 0x50) || !inMap 0x44 (w 20) || !inMap 0x45 (w 21) || !gridMap (w 22) || !inMap 0x47 (w 23) || !inMap 0x48 (w 24) then none
  else some { c with
    owner := bits (w 0) 14 12, mode := bits (w 0) 11 8, mvl := bits (w 0) 7 0, tm := w 1, tn := w 2, tk := w 3
    kn := Vector.ofFn fun (i : Fin 16) => w (4 + i.val), korg := w 20, kinv := w 21, kgrid := w 22, kdeg := w 23, kclamp := w 24
    cells := Memory.writeBytes [] 0 (b.drop 200), badCells := [] }

/-- A core with the contents of a SPAD section. -/
def restoreSpad (b : List Byte) (c : Core) : Option Core :=
  if b.length != Config.spadBytes + 384 then none
  else
    let w := wordAt (b.drop Config.spadBytes)
    let fills := (List.range Config.fillRecords).filterMap fun i =>
      if w (3 * i + 1) = 0 then none else some (w (3 * i), w (3 * i + 1), w (3 * i + 2))
    some { c with spad := Memory.writeBytes [] 0 (b.take Config.spadBytes), fills := fills, badSpad := [] }

/-- A core with the contents of an SDM section. -/
def restoreSdm (b : List Byte) (c : Core) : Option Core :=
  if b.length != Config.sdmBytes then none else some { c with sdm := Memory.writeBytes [] 0 b, badSdm := [] }

/-- The contents that the machine kept for an internal section. -/
def keptOf (s : State) (b : List Byte) : Option (Hart × List HoleEntry) :=
  if b.length = 48 ∧ wordAt b 0 = 1 ∧ (b.drop 16).all (· == 0) then Table.find? s.archive (wordAt b 1) else none

/-- A core with its harts and the hole-queue entries to restore, while an image is being read. -/
structure Restoring where
  core  : Core
  harts : List (Nat × Hart)
  holes : List (Nat × List HoleEntry)
  /-- The image has a SPAD section. -/
  spad  : Bool := false

/-- The hart of a slot that is being restored, as the core has it until a section names it. -/
def Restoring.hart (r : Restoring) (n : Nat) (dflt : Hart) : Hart := ((r.harts.find? (·.1 == n)).map (·.2)).getD dflt
def Restoring.put (r : Restoring) (n : Nat) (h : Hart) : Restoring := { r with harts := Table.set r.harts n h }

/-- What a slot is before its image fills it: its place in the gang stays (R296); an EMPTY slot takes the kind that the gang's
shape gives it. -/
def slotBase (s : State) (core n : Nat) : Hart :=
  let h := s.hartAt (core * 8 + n)
  if h.slot = .empty then
    let nh := match s.gangOf core with | some g => g.nh | none => 0
    { gang := (s.coreAt core).gang, kind := if n < 4 then .vector else if 8 - nh ≤ n then .helper else .scalar
      codeAt := s.mem.past.length, fenced := s.mem.past.length, retired := s.reftime }
  else { slot := h.slot, codeAt := h.codeAt, fenced := h.fenced, ptbase := h.ptbase, gang := h.gang, kind := h.kind, index := h.index, filltab := h.filltab, retired := h.retired, done := h.done, halted := h.halted }

/-- One section is taken into what is being restored (R204, R206, R296); none: ILL, subcode IMAGE. -/
def takeSection (s : State) (core : Nat) (r : Restoring) (x : Section) : Option Restoring :=
  let h := r.hart x.slot (slotBase s core x.slot)
  if x.kind = 0 ∨ 9 < x.kind then none
  else if 7 ≤ x.kind then
    if x.slot ≠ 0xFF then none
    else (if x.kind = 7 then restoreMatrix x.body r.core else if x.kind = 8 then restoreSpad x.body r.core
          else restoreSdm x.body r.core).map fun c => { r with core := c, spad := r.spad || x.kind == 8 }
  else if 7 < x.slot ∨ (x.kind ≠ 1 ∧ 3 < x.slot) then none
  else match x.kind with
    | 1 => (restoreHart x.body (bits s.hart.ptbase.toNat 63 52) s.mem.past.length h).map (r.put x.slot)
    | 2 => if x.body.length < 64 then none else (restoreVector x.body h).map (r.put x.slot)
    | 3 => (keptOf s x.body).map fun p => r.put x.slot { h with viq := p.1.viq, seq := p.1.seq, sync := p.1.sync }
    | 4 => if x.body.length = 1024 then
        some (r.put x.slot { h with streams := (List.range Config.streamSlots).filterMap (restoreStream x.body) })
      else none
    | 5 => (keptOf s x.body).map fun p => r.put x.slot { h with hold := p.1.hold, holdW := p.1.holdW }
    | _ => (keptOf s x.body).map fun p =>
        { r.put x.slot { h with v := Vector.ofFn (fun (i : Fin 32) => rejoin (p.1.vreg i.val) (h.vreg i.val))
                                ckpt := if h.unprot then p.1.ckpt else none } with
          holes := r.holes ++ [(x.slot, p.2)] }

/-- Sections in order. -/
def takeSections (s : State) (core : Nat) : Restoring → List Section → Option Restoring
  | r, [] => some r
  | r, x :: rest => (takeSection s core r x).bind fun r => takeSections s core r rest

/-- The header of an image (R204, R206): its size, its MVL and MIRROR; none: ILL, subcode IMAGE. -/
def parseHeader (b : List Byte) : Option (Nat × Nat × Nat × Bool) :=
  let f := fun (off n : Nat) => leNat ((b.drop off).take n)
  if f 0 2 = 0x4349 ∧ f 2 1 = 1 ∧ f 11 1 < 2 ∧ f 10 1 ≤ 128 ∧ (b.drop 12).all (· == 0) ∧ 64 ≤ f 4 4 ∧ f 4 4 % 64 = 0 then
    some (f 3 1, f 4 4, f 10 1, f 11 1 = 1)
  else none

/-- New indexes for entries that join a core's hole queue, in order. -/
def newIds (taken : List Nat) : List HoleEntry → List (Nat × Nat)
  | [] => []
  | e :: rest =>
    let i := ((List.range Config.holeSlots).find? fun i => !taken.contains i).getD 0
    (e.id, i) :: newIds (i :: taken) rest

/-- A register whose holes await entries under other numbers. -/
def VReg.renumber (v : VReg) (ids : List (Nat × Nat)) : VReg :=
  let f := fun (i : Nat) => match ids.find? (·.1 == i) with | some p => p.2 | none => if i < Config.holeSlots then i + Config.holeSlots else i
  let known := fun (q : Nat × Nat) => ids.any (·.1 == q.1)
  { v with absent := v.absent.map fun (p : Nat × Absent) =>
      let g := fun (q : Nat × Nat) => (f q.1, q.2)
      (p.1, { p.2 with fills := p.2.fills.map g, fails := (p.2.fails.filter known).map g }) }

/-- The entries of one slot join the hole queue (R165, R296): their links, their hart's holes and the queue's entries keep
pointing at them. -/
def joinHoles (core slot : Nat) (es : List HoleEntry) (s : State) : State :=
  let c := s.coreAt core
  let ids := newIds (c.holes.map (·.1)) es
  let link := fun (l : Link) => { l with id := match ids.find? (·.1 == l.id) with | some p => p.2 | none => l.id }
  let k := core * 8 + slot
  let h := s.hartAt k
  let older := fun (e : VEntry) => { e with age := e.age + c.age }
  let s := s.setHartAt k (({ h with viq := h.viq.map older }).mapHole (·.renumber ids))
  let top := ((es.map (·.age)) ++ (h.viq.map (·.age))).foldl max 0
  let entry := fun (p : HoleEntry × (Nat × Nat)) => { p.1.mapMoved (·.renumber ids) with
    id := p.2.2, slot := slot, age := p.1.age + c.age
    links := (p.1.links.filter fun l => es.any (·.id == l.id)).map link
    st := if p.1.st = .taken then .ready else p.1.st }
  let c := (es.zip ids).foldl (fun c p => addHole c (entry p)) { c with age := c.age + top + 1 }
  reviveHoles core [slot] (s.setCoreAt core c)

/-- Entries of slots that an image replaces leave the hole queue; a helper that holds one starts again in hq.take. -/
def dropHoles (core : Nat) (slots : List Nat) (s : State) : State :=
  let c := s.coreAt core
  let mine := fun (p : Nat × HoleEntry) => slots.contains p.2.slot
  let gone := (List.filter mine c.holes).map (·.1)
  let s := s.setCoreAt core { c with holes := List.filter (fun p => !mine p) c.holes }
  (List.range 8).foldl (fun s n =>
    let k := core * 8 + n
    let h := s.hartAt k
    match h.taken with
    | some id => if gone.contains id then s.setHartAt k (helperRestart h) else s
    | none => s) s

/-- The restored state (R296): the harts of the named slots, the core, the hole-queue entries. REPL stores of a hart that is replaced
are not the new one's (R105): their die instants have come. -/
def applyImage (s : State) (core : Nat) (r : Restoring) (go : Bool) : State :=
  let slots := r.harts.map (·.1)
  let s := dropHoles core slots (slots.foldl (fun s n => settleRepl s (core * 8 + n)) s)
  let c := s.coreAt core
  let s := s.setCoreAt core { r.core with holes := c.holes, gens := c.gens, age := c.age }
  let s := r.harts.foldl (fun s p =>
    let goes := core * 8 + p.1 == s.turn || go
    s.setHartAt (core * 8 + p.1) (if goes then { p.2.run with retired := s.reftime } else { p.2 with slot := .stopped, wait := .held })) s
  r.holes.foldl (fun s p => joinHoles core p.1 p.2 s) s

/-- What refuses a well-formed image (R206, R296): it does not fit, or a named slot runs. -/
def imageFits (s : State) (core mvl : Nat) (mirror : Bool) (r : Restoring) : Bool :=
  let c := s.coreAt core
  fits { harts := r.harts, core := { mvl := mvl } } c && (!mirror || 8 ≤ c.lanes) &&
  r.harts.all fun p =>
    let h := s.hartAt (core * 8 + p.1)
    core * 8 + p.1 == s.turn || !(h.slot == .running || h.slot == .waiting)

/-- crest (R206, R296). -/
def execCrest (a : Reg) (go : Bool) (s : State) : Out :=
  let core := coreOf s.turn
  let va := (s.hart.reg a).toNat
  let ill := fun (sub : Nat) => stop s (plainTrap .ill sub)
  if s.hart.priv = .user then .next (privileged s)
  else if va % 64 ≠ 0 then .next (stop s (memTrap .align 1 va))
  else match loadRange s s.turn va 64 with
    | .error st => .next (stop s st)
    | .ok (head, t) =>
      match parseHeader head with
      | none => .next (ill 2)
      | some (count, size, mvl, mirror) =>
        match loadRange t s.turn (va + 64) (size - 64) with
        | .error st => .next (stop s st)
        | .ok (rest, t) =>
          let fresh : Restoring := { core := t.coreAt core, harts := [], holes := [] }
          match (parseSections count rest).bind (takeSections t core fresh) with
          | none => .next (ill 2)
          | some r =>
            if !imageFits t core mvl mirror r then .next (ill 3)
            else
              let mine := (t.coreAt core).holes.filter fun (p : Nat × HoleEntry) => !(r.harts.map (·.1)).contains p.2.slot
              let need := (r.holes.map (·.2.length)).foldl (· + ·) 0
              if Config.holeSlots < mine.length + need || (r.spad && (t.coreAt core).tracks != []) then .next (stall s)
              else if (r.harts.map (·.1)).contains (slotOf s.turn) then .next (applyImage t core r go)
              else
                let u := applyImage t core r go
                .next (finish u u.hart)

end Sys2Proof.Machine
end

