-- ==== Sys2Proof/Machine/Issue.lean ====
section
/-! DEFINITION. When an instruction may issue while vector entries before it are unfinished: pending registers (R150, R376), the
address-range interlock table (R110, R136), and what fences and releases wait for (R116, R121 to R123, R138, R158, R384, R389). The
word of an instruction tells all of this. -/

namespace Sys2Proof.Machine

/-! ### Registers -/

/-- The scalar registers that an instruction reads or writes, by the fields of its word (R244 to R249). -/
def scalarsOf (w : Nat) : List Nat :=
  let d := bits w 25 21
  let a := bits w 20 16
  let b := bits w 15 11
  let fn := bits w 6 0
  let l := match bits w 31 26 with
    | 0x01 | 0x04 => [d, a, b]
    | 0x02 | 0x03 | 0x05 | 0x06 | 0x07 | 0x09 | 0x0A | 0x0B | 0x0D | 0x0E | 0x0F | 0x10 => [d, a]
    | 0x0C => if bits w 3 0 = 0x0A then [d, d + 1, a, b, b + 1] else if 0x0C ≤ bits w 3 0 then [a] else [d, a, b]
    | 0x11 => [a, b]
    | 0x18 => if w.testBit 3 then [d] else [d, a]
    | 0x1A => [b]
    | 0x1C => if w.testBit 2 then [bits w 10 6] else []
    | 0x1D => if bits w 6 3 = 1 then [b] else []
    | 0x1E => [d, b]
    | 0x1F => match fn with
      | 0x00 | 0x01 | 0x06 | 0x08 => [b]
      | 0x04 => [d, b]
      | 0x05 => [a, b]
      | _ => []
    | 0x21 | 0x22 => [a]
    | 0x23 => if fn = 0x10 then [d, a, b] else if fn = 0x11 then [d, a] else [a]
    | 0x24 => match fn with
      | 0x00 => [a]
      | 0x03 => [b]
      | _ => []
    | 0x30 => match fn with
      | 0x00 | 0x01 => [d, a, b]
      | 0x05 | 0x06 | 0x07 | 0x08 => [b]
      | 0x09 | 0x0A => [a]
      | _ => []
    | 0x31 => if 0x04 ≤ fn then [a] else []
    | 0x33 => match fn with
      | 0x03 => [d, a]
      | 0x04 => [a]
      | _ => [d, a, b, b + 1]
    | _ => []
  l.filter (· != 0)

/-- The registers that an unfinished transfer advances (R376). -/
def VOp.advances (op : VOp) : List Nat :=
  match op with
  | .eng 0 d a b _ => [d.val, a.val, b.val]
  | .eng 1 _ a b _ => [a.val, b.val]
  | .eng 2 d a _ _ => [d.val, a.val]
  | _ => []

/-- The pending registers of a hart (R150). A stop gives the registers of parked transfers their values (R379). -/
def Hart.pendings (h : Hart) : List Nat :=
  h.sync.map (·.reg.val) ++ if h.intrap then [] else h.viq.flatMap (·.op.advances)

/-! ### Memory -/

/-- Whether an entry may still write vl (R302). -/
def movesVl (h : Hart) (e : VEntry) : Bool :=
  match e.op with
  | .setvl .. | .ld .. | .hold .. | .drain .. => true
  | _ => (sourcesOf e.op).any fun n => (h.stream? n).any (!·.write)

/-- The memory operation of an entry whose positions can be translated before its turn, and the registers that they need. -/
def aheadOp (e : VEntry) : Option (MemOp × List Nat) :=
  let needs := fun (mode : VMode) (b : Reg) => match mode with
    | .index | .elem => tileOf e.height b.val
    | _ => []
  let mask := if e.vmk = 0 then [] else [0]
  match e.op with
  | .ld mode t d b => some (memOp e .load mode t d b, mask ++ needs mode b)
  | .st mode _ t d b => some (memOp e .store mode t d b, mask ++ needs mode b)
  | .amov _ t d b _ => some (amoOp e t d b, b.val :: mask)
  | _ => none

/-- The bytes at a range of a hart's addresses as a load would find them; none where one does not. -/
def peek (s : State) (k va n : Nat) : List Byte :=
  match loadRange s k va n with
  | .ok (b, _) => b
  | .error _ => []

/-- The ranges of a transfer (R136, R376): its source, its destinations, its completion block. -/
def engSpans (s : State) (k : Nat) (e : VEntry) (fn kind : Nat) : List Span :=
  let x := e.x.toNat
  let n := e.y.toNat
  let cpl := if kind = 0 then [] else rangeSpans s k .store e.stride.toNat 32
  let part := (s.partOf (coreOf k)).getD 0
  match fn with
  | 0 => rangeSpans s k .load x n ++ rangeSpans s k .store e.z.toNat n ++ cpl
  | 1 =>
    rangeSpans s k .load x n ++ rangeSpans s k .store e.z.toNat 128 ++ cpl ++
      match mcastOf (peek s k e.z.toNat 128) with
      | some m => m.live.flatMap fun p => rangeSpans s k .store p.2 n
      | none => []
  | 2 =>
    cpl ++ match pattFor s part (bits x 5 0) with
      | some p =>
        { loc := .dev p.base, len := p.limit - p.base } ::
          rangeSpans s k .store e.z.toNat (n * (bits x 47 32 + 1 - bits x 31 16) * 2 ^ p.esize)
      | none => []
  | 3 => rangeSpans s k .load x 32
  | _ => rangeSpans s k .load x 64 ++ match collOf kind (peek s k x 64) with
    | some c => c.spans s k ++ if kind = 0 then [] else rangeSpans s k .store c.cpl 32
    | none => []

/-- The ranges of the streams that an entry reads and writes (R64, R65): of every element that it may reach. -/
def streamSpans (s : State) (k : Nat) (e : VEntry) : List Span :=
  let h := s.hartAt k
  let all := { e with vmk := 0, count := h.vl, late := none }
  let of := fun (acc : Access) (n : Nat) (x : Stream) =>
    spansOf [] (runAhead (x.op acc) k all (positionsFrom 0 0 1 (min n (x.total - x.at))) [] [] [] s).accs x.ty.size
  ((sourcesOf e.op).filterMap fun r => (h.stream? r).filter (!·.write)).flatMap (of .load h.vl) ++
    (outStreams h e).flatMap fun x => of .store (s.lenOf k * 8 / x.ty.width) x

/-- The ranges of an entry that is no load, store or atomic, and whether they stand before the entries before it have finished: a
register or a control value that they change may move them. -/
def fixedSpans (s : State) (k : Nat) (before : List VEntry) (e : VEntry) : Option (List Span) :=
  let h := s.hartAt k
  let base := e.x.toNat
  let still := fun (regs : List Nat) => !before.any fun y => y.writes.any regs.contains
  let cells := fun (fill : Bool) (n : Nat) =>
    let mvl := (s.coreAt (coreOf k)).mvl
    if before.any fun y => match y.op with | .mxMode .. => true | _ => false then none
    else some (rangeSpans s k (if fill then .load else .store) base (4 * n * mvl * mvl))
  match e.op with
  | .spill _ =>
    let mask := e.y.toNat % 2 ^ 32
    if still (maskRegs mask) then some (rangeSpans s k .store base (frameOf h.vreg (s.lenOf k) mask).length) else none
  | .fill _ =>
    if before.any (writesMemory h) then none
    else some (rangeSpans s k .load base (max 64 (leNat ((peek s k base 64).drop 12 |>.take 4))))
  | .bind _ => some (rangeSpans s k .load base 64)
  | .unbind r => some (match h.stream? r.val with | some x => [{ loc := .sdm (coreOf k) x.block, len := 64 }] | none => [])
  | .mxSpill _ => cells false 1
  | .mxFill _ => cells true 1
  | .spGspill => cells false 11
  | .spGfill => cells true 11
  | .eng fn _ _ _ kind => some (engSpans s k e fn kind)
  | _ =>
    if usesMemory h e && !before.any (fun y => movesVl h y || match y.op with | .bind .. | .unbind .. => true | _ => false) then
      some (streamSpans s k e)
    else none

/-- An entry passes the run-ahead pipeline before its turn (R25, R110), where what its addresses need is settled: its vl, its mask, its
indices. -/
def enterOne (s : State) (k : Nat) (before : List VEntry) (e : VEntry) : State × VEntry :=
  let h := s.hartAt k
  if e.entered || Config.aritSlots ≤ (before.map (·.spans.length)).sum then (s, e)
  else
    let x := { e with count := h.vl }
    match aheadOp x with
    | none => match fixedSpans s k before e with
      | some l => (s, { e with spans := l, entered := true })
      | none => (s, e)
    | some (m, needs) =>
      let streams := (destsOf e.op ++ sourcesOf e.op).any fun n => (h.stream? n).isSome
      if streams || before.any (movesVl h) || before.any (fun y => y.writes.any needs.contains) || (checkEntry s k e).isSome then (s, e)
      else
        let a := runAhead m k x (positionsFrom 0 0 x.height x.count) [] [] [] s
        (a.s, x.passed a m.size)

/-- The entries of the queue pass the run-ahead pipeline as far as they can; the oldest load, store or atomic does so at its turn. -/
def enterFrom (k : Nat) (before : List VEntry) : List VEntry → State → List VEntry × State
  | [], s => (before, s)
  | e :: rest, s =>
    let (s, e) := enterOne s k before e
    enterFrom k (before ++ [e]) rest s
def enterAhead (s : State) (k : Nat) : State :=
  match (s.hartAt k).viq with
  | e :: rest =>
    let (s, e) := if (aheadOp e).isSome then (s, e) else enterOne s k [] e
    let (viq, s) := enterFrom k [e] rest s
    s.setHartAt k { s.hartAt k with viq := viq }
  | [] => s

/-- Whether two ranges meet. -/
def Span.meets (x y : Span) : Bool :=
  x.loc.target == y.loc.target && x.loc.addr < y.loc.addr + y.len && y.loc.addr < x.loc.addr + x.len

/-- The bytes of a type's code. -/
def sizeOf (code : Nat) : Nat := (Ty.ofCode code).size

/-- What a scalar instruction accesses, and how: an address and a length (R275, R387, R395). -/
def accessOf (h : Hart) (w : Nat) : Option (Access × Nat × Nat) :=
  let a := regOf (bits w 20 16)
  let fn := bits w 3 0
  match bits w 31 26 with
  | 0x05 => some (.load, (scalarEa h a (BitVec.ofNat 12 w)).toNat, sizeOf (bits w 15 12))
  | 0x06 => some (.store, (scalarEa h a (BitVec.ofNat 12 w)).toNat, sizeOf (bits w 15 12))
  | 0x0C =>
    if 0x0C ≤ fn then none
    else some (if fn = 0 then .load else if fn = 1 then .store else .atomic, (h.reg a).toNat,
      if fn = 0x0A then 16 else sizeOf (bits w 10 7))
  | 0x0F => some (if fn = 4 then .load else .atomic, (h.reg a).toNat, 16)
  | _ => none

/-- Where an access would go, whatever the rights of its page. -/
def goesTo (s : State) (k : Nat) (acc : Access) (va : Nat) : Option Place :=
  match window s k va with
  | some r => r.toOption
  | none => match lookup s k acc false va with
    | .ok (e, _) => (placeOf e va).toOption
    | .error _ => none

/-- Whether a scalar access must wait for vector entries before it (R110, R136). -/
def accessWaits (s : State) (k w : Nat) : Bool :=
  let h := s.hartAt k
  match accessOf h w with
  | none => false
  | some (acc, va, n) =>
    let mem := h.viq.filter (usesMemory h)
    mem.any (fun e => !e.entered) ||
      match goesTo s k acc va with
      | some p => mem.any fun e => e.spans.any (Span.meets { loc := p.loc, len := n })
      | none => false

/-! ### Fences and releases -/

/-- Whether a transfer is attached to the barrier of a handle, with its bytes pending there: an arrival there does not wait for it
(R138, R392). -/
def VEntry.attached (e : VEntry) (handle : Word) : Bool := e.pend.any (·.1 == handle.toNat)

/-- Whether an instruction waits for an entry before it, by what it orders (R102, R116, R121 to R123, R138, R389, R399). A write of
ptbase takes effect for what follows it, so it waits for the accesses before it (R17). -/
def orderWaits (h : Hart) (w : Nat) (e : VEntry) : Bool :=
  let fn := bits w 3 0
  match bits w 31 26 with
  | 0x0A => fn != 0 && bits w 15 4 = 0x180 && usesMemory h e
  | 0x0B => fn = 5 && usesMemory h e
  | 0x0C => fn < 0x0C && w.testBit 5 && usesMemory h e
  | 0x0D =>
    if fn = 1 then (match e.op with | .eng .. => true | _ => false)
    else match (if fn = 7 then 0 else bits w 9 8) with
      | 0 => usesMemory h e
      | 1 => readsMemory h e
      | _ => writesMemory h e
  | 0x0E => (fn = 1 || fn = 3) && usesMemory h e && !e.attached (h.reg (regOf (bits w 20 16)))
  | 0x0F => (fn = 1 || fn = 2 || fn = 3) && usesMemory h e
  | 0x10 => if fn = 1 then true else fn = 0 && usesMemory h e
  | _ => false

/-- Whether an instruction accesses memory or orders accesses, so that an acquire before it holds it back. -/
def afterAcquire (w : Nat) : Bool :=
  match bits w 31 26 with
  | 0x05 | 0x06 | 0x0B | 0x0E | 0x0F | 0x10 => true
  | 0x0C => bits w 3 0 < 0x0C
  | _ => false

/-- Whether an entry is an acquire that has not finished: a vsettle (R119), or a vector atomic with the annotation (R122). -/
def acquires (e : VEntry) : Bool :=
  match e.op with
  | .settle => true
  | .amov _ _ _ _ ord => ord.testBit 0
  | _ => false

/-- Whether a range lies at a peer. -/
def Span.remote (x : Span) : Bool := match x.loc with | .remote .. => true | _ => false

/-- Whether an entry holds every later instruction back until it has finished: a vwhile whose outcome is open (R158; the model runs
nothing past it), eng.patt (R384), and a store that goes, or may yet be found to go, to a KIND 2 page (R130). -/
def holdsBack (h : Hart) (e : VEntry) : Bool :=
  match e.op with
  | .vwhile .. | .eng 3 .. => true
  | .eng .. | .unbind .. => false
  | _ => writesMemory h e && (!e.entered || e.spans.any Span.remote)

/-- Whether the instruction of a word may issue now. -/
def mayIssue (s : State) (k w : Nat) : Bool :=
  let h := s.hartAt k
  if h.viq.isEmpty && h.sync.isEmpty then true
  else if (scalarsOf w).any h.pendings.contains then false
  else if h.intrap then true
  else !(accessWaits s k w || (afterAcquire w && h.viq.any acquires) || h.viq.any (orderWaits h w) || (bits w 31 26 = 0x10 && bits w 3 0 = 1 && !h.sync.isEmpty))

end Sys2Proof.Machine
end

