-- ==== Sys2Proof/Machine/EventsRun.lean ====
section
/-! DEFINITION. Device events of harts, accesses, scheduling and containment (R15, R29, R67, R104, R125, R173 to R177, R198, R216
to R219, R292, R344, R378, R385). An event comes from the inbox and takes no time (log 8). -/

namespace Sys2Proof.Machine

/-! ### Harts and accesses -/

/-- TRAP_ENTRY (R198): the hart whose turn it is stops precisely, at its oldest vector entry if it has one that is not done. -/
def execTrapEntry (t : TrapInfo) (s : State) : Out :=
  let h := s.hart
  .next (if !h.acts then s
    else
      let vec := if h.intrap then none else h.viq.head?.map (·.seq)
      raise s s.turn h.pc vec (.trap t))

/-- TABLE_WALK (R15): a walk for the hart whose turn it is fills the TLB, or faults. -/
def execTableWalk (va : Word) (acc : Access) (s : State) : Out :=
  .next (if !s.hart.acts then s
    else match translate s s.turn acc false va.toNat with
      | .ok (_, s) => s
      | .error st => stop s st)

/-- The partition of a master (R35, R36, R419): none for an unassigned identifier. The steward and the plinths act in
partition 0 (log 17). -/
def masterPart (s : State) (m : Nat) : Option Nat :=
  if m < 0x180 then s.partOf m
  else if 0x200 ≤ m ∧ m < 0x208 then some 0
  else if 0x300 ≤ m ∧ m < 0x304 then (if (s.partAt (m - 0x300)).live then some (m - 0x300) else none)
  else if 0x400 ≤ m ∧ m < 0x440 then (s.portAt (m - 0x400)).part
  else if 0x500 ≤ m ∧ m < 0x508 then some 0
  else none

/-- What a request that a target accepts does there (R76): it reads, writes, or is an atomic of `r.len` bytes. -/
def serve (s : State) (r : Request) (read : Nat → Except Stop (List Byte)) (write : List Byte → Except Stop State) :
    Except Stop (List Byte × State) :=
  match r.amo, r.write with
  | none, none => (read r.len).map fun b => (b, s)
  | none, some b => (write b).map fun s => ([], s)
  | some q, _ =>
    match aligned r.addr r.len with
    | .error st => .error st
    | .ok _ =>
      match read r.len with
      | .error st => .error st
      | .ok b =>
        let old := leNat b
        match q.fn with
        | .ld => .ok (b, s)
        | .cas => if old = q.cmp then (write (leBytes r.len q.y)).map fun s => (b, s) else .ok (b, s)
        | fn => (write (leBytes r.len (amoVal fn q.ty old q.y))).map fun s => (b, s)

/-- How many bytes a request covers. -/
def requestSize (r : Request) : Nat := match r.amo, r.write with | none, some b => b.length | _, _ => r.len

/-- Whether the scratchpad of a core admits a master (R36, R55): its own core, a core of the gang that owns it, the steward. -/
def spadAdmits (s : State) (master c : Nat) : Bool :=
  (0x200 ≤ master && master < 0x208) || master == c || (s.gangOf c).any (·.cores.contains master)

/-- The number under which a master's stores are its own (R105, R127): never that of a hart. -/
def storerOf (m : Nat) : Nat :=
  if 0x300 ≤ m ∧ m < 0x304 then noHart + (m - 0x300) else if 0x400 ≤ m ∧ m < 0x440 then noHart + 16 + (m - 0x400)
  else noHart + 256 + m

/-- A request at device memory (R22, R36, R99, R125, R128, R220, R442): steered granule by granule, checked, performed at home
instants. A steward core's read may use the evacuation path. -/
def performDev (s : State) (r : Request) (part : Nat) : Except Stop (List Byte × State) :=
  let n := requestSize r
  let evac := 0x200 ≤ r.master && r.master < 0x208 && r.write.isNone && r.amo.isNone
  match (pieces 64 r.addr n).findSome? fun p => devStop s part evac p.1 r.addr with
  | some st => .error st
  | none =>
    let s := (pieces 4096 r.addr n).foldl (fun s p => s.reach r.master p.1) s
    serve s r (devRead s part false r.addr · r.addr) (inboundWrite s (storerOf r.master) part r.addr)

/-- A request at the scratchpad of a core (R55, R209, R213). -/
def performSpad (s : State) (r : Request) (c : Nat) : Except Stop (List Byte × State) :=
  let x := s.coreAt c
  let refuse := memTrap .access 2 r.addr
  if Config.spadBytes < r.addr + requestSize r ∨ !spadAdmits s r.master c ∨
      (List.range (requestSize r)).any (fun i => s.inPiece c (r.addr + i)) then .error refuse
  else serve s r
    (fun n => if badWord x.badSpad r.addr n then .error (memTrap .ue 3 r.addr) else .ok (Memory.readBytes x.spad r.addr n))
    (fun b => .ok (s.setCoreAt c (x.writeSpad r.addr b)))

/-- A request at its target (R22, R36, R55, R104): the bytes it reads, and the machine after. A master that holds no access anywhere,
one of a fenced die among them, is refused (R37, R219). -/
def perform (s : State) (r : Request) : Except Stop (List Byte × State) :=
  let refuse := memTrap .access 2 r.addr
  match masterPart s r.master with
  | none => .error refuse
  | some part =>
    match r.spad with
    | some c => if c < 384 then performSpad s r c else .error refuse
    | none =>
      if r.addr + requestSize r ≤ Config.devEnd then performDev s r part
      else if Config.regBase ≤ r.addr ∧ r.addr < Config.regEnd then
        serve s r (regRead s r.master r.addr · r.addr) (regStore s r.master r.addr · r.addr)
      else .error refuse

/-- The machine after a request; a refused one is not performed (R37), a failed tag resets the partition (R220), an uncorrectable
codeword raises its plinth's flag (R86). -/
def afterRequest (s : State) (r : Except Stop (List Byte × State)) : State :=
  match r with
  | .ok (_, s) => s
  | .error (.trap t) => seeError s t
  | .error (.integrity part a) => raise s s.turn 0 none (.integrity part a)

/-- ACCESS_PERFORM (R104): an access of some master performs at its target. -/
def execAccessPerform (r : Request) (s : State) : Out := .next (afterRequest s (perform s r))

/-- Whether a position comes before another in element order (R27). -/
def posBefore (a b : Nat × Nat) : Bool := a.1 < b.1 || (a.1 == b.1 && a.2 < b.2)

/-- Whether a late fault may still be reported at a position of an entry: it has not performed, and neither has a later one (R29,
R30). A spill or a fill of cells counts cells (R362). -/
def VEntry.mayReport (e : VEntry) (elem row : Nat) : Bool :=
  match e.op with
  | .ld .. | .st .. | .amov .. =>
    e.phase < 2 && row < e.height && !posBefore (elem, row) (e.elem, e.row) && e.doneAt.all fun p => posBefore (p.1, p.2.1) (elem, row)
  | .mxSpill _ | .mxFill _ | .spGspill | .spGfill => row = 0 && e.aux ≤ elem
  | _ => false

/-- TARGET_FAULT_REPORT (R28 to R31): the access of a position of the oldest entry faults late. The entry meets the fault when it comes
to the position, at its next turn: it trims, or stops there. -/
def execTargetFaultReport (hart elem row : Nat) (t : TrapInfo) (s : State) : Out :=
  let h := s.hartAt hart
  .next (match h.viq with
    | e :: rest =>
      let first := match e.late with | some (f, q, _) => posBefore (elem, row) (f, q) | none => true
      if !h.intrap && e.mayReport elem row && first then
        s.setHartAt hart { h with viq := { e with late := some (elem, row, t) } :: rest }
      else s
    | [] => s)

/-- REPL_COPY_UPDATE (R103, R125 to R127): the k-th waiting store reaches a die's copy, whole. Stores to one location keep the order of
their home instants on every die, so an earlier one that shares a byte holds it back. -/
def execReplCopyUpdate (die : Fin 4) (k : Nat) (s : State) : Out :=
  let mine := s.mem.repl.filter (·.die == die.val)
  match mine[k]? with
  | none => .next s
  | some u =>
    .next (if (mine.take k).any (·.meets u) then s
      else
        let gone := fun (v : ReplUpdate) => v == u
        { s with mem := { s.mem with repl := s.mem.repl.eraseP gone } })

/-- STREAM_READ_AHEAD (R67): read-ahead data is never older than the ordering rules allow and read-ahead never faults, so
nothing that a program sees changes. -/
def execStreamReadAhead (_hart _slot : Nat) (s : State) : Out := .next s

/-- ENG_COMPLETION (R378): the completion of a transfer of a hart at a completion block. With K = 2 its bytes have fallen already. -/
def execEngCompletion (hart : Nat) (kind : BitVec 4) (block status : Word) (s : State) : Out :=
  .next (cplDone s hart kind.toNat { op := .eng 0 0 0 0 kind.toNat } block.toNat status.toNat)

/-- COLL_TIMEOUT (R385): a collective whose flags are not all reached fails once its time is over. -/
def execCollTimeout (hart : Nat) (s : State) : Out :=
  let h := s.hartAt hart
  .next (match h.viq with
    | e :: _ =>
      if e.block ≠ [] ∧ e.aux + collLimit ≤ s.reftime ∧ h.slot ≠ .empty ∧ !h.intrap then runHead s hart else s
    | [] => s)

/-- HQ_TAKE_DISPATCH (R344): a helper that waits in hq.take starts the oldest READY entry. -/
def execHqTakeDispatch (hart : Nat) (s : State) : Out :=
  let h := s.hartAt hart
  .next (if h.kind == .helper && h.slot == .waiting && h.wait == .hole then dispatchHelper s hart else s)

/-- IDLE_WAKE (R292): the hart leaves its wait and executes its idle to the end. -/
def execIdleWake (hart : Nat) (s : State) : Out :=
  let h := s.hartAt hart
  .next (match h.slot, h.wait with
    | .waiting, .clock d => if d ≤ s.reftime then s.setHartAt hart { h.run with retired := s.reftime } else s
    | _, _ => s)

/-! ### Scheduling -/

/-- PLACEMENT_PASS (R173). -/
def execPlacementPass (die : Fin 4) (s : State) : Out := .next (pass s die.val)

/-- PREEMPT (R173, R176): a gang that runs is stopped, saved and goes to the head of its class queue; a placement pass follows. -/
def execPreempt (gang : Nat) (s : State) : Out :=
  .next (match s.gang? gang, s.task? gang with
    | some g, some t => if g.cores = [] then s else pass (preemptGang s gang) t.die
    | _, _ => s)

/-- PREEMPT_WAIT_EXPIRY (R175): a class 1 or 2 head that has waited for 500 microseconds pre-empts. -/
def execPreemptWaitExpiry (die cls : Fin 4) (s : State) : Out :=
  .next (if cls ≠ 0 ∧ mayPreempt s die.val cls.val then pass s die.val else s)

/-- The first position, in element order, of an entry that has begun whose access has not performed and goes to a page of a KIND (R27,
R177). -/
def openPos (s : State) (k kind : Nat) (e : VEntry) : Option (Nat × Nat) :=
  if e.phase != 1 then none
  else (aheadOp e).bind fun m =>
    ((runAhead m.1 k e (positionsFrom e.elem e.row e.height e.count) [] [] [] s).accs.find? (·.place.kind == kind)).map fun a => (a.el, a.q)

/-- A saved hart whose oldest entry has an open access to a page of a KIND: the access faults when the gang resumes (R177), and a load
trims there where its start index allows (R28). -/
def lateStop (s : State) (k kind : Nat) (t : TrapInfo) (h : Hart) : Hart :=
  match h.viq with
  | e :: rest =>
    match openPos (s.setHartAt k h) k kind e with
    | some (el, q) => { h with viq := { e with late := some (el, q, t) } :: rest }
    | none => h
  | [] => h

/-- What pre-emption saved of a core, with the open accesses of one slot failed. -/
def SavedCore.stopOpen (s : State) (k kind : Nat) (t : TrapInfo) (c : SavedCore) : SavedCore :=
  if c.at_ = coreOf k then
    { c with harts := c.harts.map fun p => (p.1, if p.1 = slotOf k then lateStop s k kind t p.2 else p.2) }
  else c

/-- How long after the request of a pre-emption an access to a peer or to the host may stay open: 15 microseconds (R177). -/
def openLimit : Nat := 1500

/-- The saved contexts of a slot whose pre-emption was requested 15 microseconds ago or more: their open accesses fault (R177). -/
def stopTimeout (s : State) (k kind : Nat) (t : TrapInfo) : State :=
  { s with tasks := s.tasks.map fun (p : Nat × Task) =>
      (p.1, if p.2.stopAt + openLimit ≤ s.reftime then { p.2 with saved := p.2.saved.map (SavedCore.stopOpen s k kind t) } else p.2) }

/-- REMOTE_STOP_TIMEOUT (R34, R177): REMOTE, LINKLOST. -/
def execRemoteStopTimeout (hart : Nat) (t : TrapInfo) (s : State) : Out :=
  .next (stopTimeout s hart 2 { t with cause := .remote, sub := 2, level := 0 })

/-- HOST_STOP_TIMEOUT (R177): ACCESS, TARGET. -/
def execHostStopTimeout (hart : Nat) (t : TrapInfo) (s : State) : Out :=
  .next (stopTimeout s hart 3 { t with cause := .access, sub := 2, level := 0 })

/-! ### Containment -/

/-- GANG_KILL (R218): with the hart whose fault is the reason, if one is. -/
def execGangKill (gang : Nat) (why : KillCause) (s : State) : Out :=
  .next (killGang s gang why.reason ((why.hart.filter fun k => (s.hartAt k).gang == some gang).map (Culprit.ofHart s)))

/-- The die that takes the tasks of a fenced one (R219): the partition's lowest other die with clusters. -/
def refugeDie (s : State) (part die : Nat) : Option Nat :=
  (List.range 4).find? fun d => d != die && !(s.dieAt d).fenced && bits (s.partAt part).clusters (8 * d + 7) (8 * d) != 0

/-- A READY, PENDING or SAVED task of a fenced die moves, or is killed (R219). -/
def moveTask (s : State) (die id : Nat) : State :=
  match s.task? id with
  | none => s
  | some t =>
    if t.die ≠ die ∨ !(t.st == .ready || t.st == .pending || t.st == .saved) then s
    else match refugeDie s t.part die with
      | none => killTask s id .fence
      | some d =>
        let s := unqueue s die t.cls id
        let s := s.setTask id { t with die := d }
        if t.st = .pending then s else enqueue s d t.cls id (!t.saved.isEmpty)

/-- The tasks of a die in the order they move (R172, R219): its queues class by class, those with saved images last in front,
then the pending ones. -/
def movingTasks (s : State) (die : Nat) : List Nat :=
  let queued := (List.range 4).flatMap (queueOf s die)
  let held := fun (id : Nat) => match s.task? id with | some t => !t.saved.isEmpty | none => false
  let waiting := (List.filter (fun (p : Nat × Task) => p.2.st == .pending && p.2.die == die) s.tasks).map (·.1)
  queued.filter (fun id => !held id) ++ (queued.filter held).reverse ++ waiting

/-- DIE_FENCE (R37, R219). -/
def execDieFence (die : Fin 4) (s : State) : Out :=
  if s.stew.replay then .next (s.diverge .fence)
  else
    let s := s.setDieAt die.val { s.dieAt die.val with fenced := true }
    let on := (List.filter (fun (p : Nat × Gang) => p.2.cores.any (dieOf · == die.val)) s.gangs).map (·.1)
    let s := on.foldl (fun s g => killGang s g .fence none) s
    let s := { s with mem := { s.mem with repl := s.mem.repl.filter (·.die != die.val) } }
    let s := (movingTasks s die.val).foldl (fun s id => moveTask s die.val id) s
    .next ((List.range 4).foldl pass s)

/-- The gang of a core is pre-empted (R216). -/
def clearCore (s : State) (core : Nat) : State :=
  match (s.coreAt core).gang with
  | some g => preemptGang s g
  | none => s

/-- LANE_GROUP_RETIRE (R216, R413): the gang is saved, the group leaves service, the task waits for cores that it fits. -/
def execLaneGroupRetire (core : Nat) (group : Fin 8) (s : State) : Out :=
  if s.stew.replay then .next (s.diverge .lanes)
  else
    let s := clearCore s core
    let c := s.coreAt core
    let s := s.setCoreAt core { c with lanesFailed := Nat.lor c.lanesFailed (2 ^ group.val) }
    .next (pass s (dieOf core))

/-- ARRAY_ROW_GROUP_RETIREMENT (R217, R413): the prefix shrinks for good. A gang whose array reaches past it is pre-empted, as
for a lane group, so that cells outside are never used again. -/
def execArrayRowGroupRetirement (core : Nat) (column : Bool) (group : Fin 4) (s : State) : Out :=
  if s.stew.replay then .next (s.diverge .array)
  else
    let mark := fun (c : Core) =>
      if column then { c with colsFailed := Nat.lor c.colsFailed (2 ^ group.val) }
      else { c with rowsFailed := Nat.lor c.rowsFailed (2 ^ group.val) }
    let past := (mark (s.coreAt core)).prefixP < (s.coreAt core).mvl
    let s := if past then clearCore s core else s
    let s := s.setCoreAt core (mark (s.coreAt core))
    .next (if past then pass s (dieOf core) else s)

/-! ### Debug -/

/-- A debug command reaches the debug unit after an unlock only (R402, R428). -/
def debugEvent (s : State) (f : State) : Out := .next (if s.stew.unlocked then f else s)

/-- DBG_HALT (R409). -/
def execDbgHalt (hart : Nat) (s : State) : Out := debugEvent s (haltHart s hart)

/-- DBG_RESUME (R409). -/
def execDbgResume (hart : Nat) (s : State) : Out := debugEvent s (resumeHart s hart none none)

/-- DBG_STEP_INSTRUCTION (R410): COUNT is 1 to 65,535 (R402). -/
def execDbgStepInstruction (hart count : Nat) (s : State) : Out :=
  debugEvent s (if count = 0 ∨ 65535 < count then s else resumeHart s hart (some count) none)

/-- DBG_STEP_ELEMENTS (R410). -/
def execDbgStepElements (hart count : Nat) (s : State) : Out :=
  debugEvent s (if count = 0 ∨ 65535 < count then s else resumeHart s hart none (some count))

/-- BREAKPOINT_HIT (R408): breakpoint k of the hart's core halts a hart that stands before its instruction. -/
def execBreakpointHit (hart : Nat) (k : Fin 4) (s : State) : Out :=
  let h := s.hartAt hart
  .next (if h.acts && breakpointAt s hart h.pc false k.val then haltHart s hart else s)

/-- TRACE_SAMPLE (R407): one record for each slot of SLOTS, when a sample period is set and over. -/
def execTraceSample (core : Nat) (s : State) : Out :=
  let ctl := dbgReg s core 0
  let c := s.coreAt core
  .next (if bits ctl 47 24 = 0 ∨ s.reftime < c.sampled + bits ctl 47 24 then s
    else
      ((List.range 8).filter fun n => ctl.testBit (16 + n)).foldl (fun s n => traceSlotSample s (core * 8 + n))
        (s.setCoreAt core { c with sampled := s.reftime }))

end Sys2Proof.Machine
end

