-- ==== Sys2Proof/Machine/EventsPower.lean ====
section
/-! DEFINITION. Device events of power, clocks and time (R183 to R188, R405, R412, R413, R429, R430, R440). -/

namespace Sys2Proof.Machine

/-! ### The power grant (R183) -/

/-- The grant after a sample, and the counts of consecutive samples above and below: a change of grant counts anew. -/
def grantStep (d : Die) (percent : Nat) : Die :=
  let above := if 95 < percent then d.above + 1 else 0
  let below := if percent < 80 then d.below + 1 else 0
  if d.grant < 2 ∧ 2 ≤ above then { d with grant := d.grant + 1, above := 0, below := 0 }
  else if 0 < d.grant ∧ 50 ≤ below then { d with grant := d.grant - 1, above := 0, below := 0 }
  else { d with above := above, below := below }

/-- GOVERNOR_SAMPLE (R183): one every microsecond; `percent` is the current in hundredths of the fused ceiling. In replay the grant
stays at VLMAX (R412). -/
def execGovernorSample (die : Fin 4) (percent : Nat) (s : State) : Out :=
  let d := s.dieAt die.val
  .next (if s.stew.replay ∨ s.reftime < d.sampled + 100 then s
    else s.setDieAt die.val { grantStep d percent with sampled := s.reftime })

/-! ### Clocks (R184 to R188) -/

/-- A cluster's clock settings change. A cluster that comes above 1.0 GHz counts for the interval (R186), and a change of the
lane clock writes SYNC records (R405). -/
def setClock (s : State) (cl : Nat) (f : Cluster → Cluster) : State :=
  let old := s.clusterAt cl
  let new := f old
  let traced := s.setClusterAt cl new
  let s := if new.step = old.step then traced else syncCluster traced cl
  if new.step < 2 then
    let d := s.dieAt (cl / 8)
    s.setDieAt (cl / 8) { d with hot := Nat.lor d.hot (2 ^ (cl % 8)) }
  else s

/-- The clusters of a die. -/
def clustersOf (die : Nat) : List Nat := (List.range 8).map (8 * die + ·)

/-- Every cluster's ceiling on a die changes; in replay a thermal clock step ends the replay (R413). -/
def setCeilings (s : State) (die : Nat) (f : Cluster → Nat) : State :=
  if s.stew.replay then s.diverge .thermal
  else (clustersOf die).foldl (fun s cl => setClock s cl fun c => { c with ceil := f c }) s

/-- A die's thermal state changes at this tick. -/
def thermal (s : State) (die : Nat) (beyond cooled : Bool) : State :=
  s.setDieAt die { s.dieAt die with tooHot := beyond, cooled := cooled, stepped := s.reftime }

/-- THERMAL_OVER (R184): each ceiling goes one step below the clock its cluster runs at, down to 0.25 GHz. -/
def execThermalOver (die : Fin 4) (s : State) : Out :=
  .next (setCeilings (thermal s die.val true false) die.val fun c => min 5 (c.step + 1))

/-- THERMAL_STEP_DOWN (R184): one further step every 10 microseconds while the temperature stays above the ceiling. -/
def execThermalStepDown (die : Fin 4) (s : State) : Out :=
  let d := s.dieAt die.val
  .next (if d.tooHot ∧ d.stepped + 1000 ≤ s.reftime then
      setCeilings (thermal s die.val true false) die.val fun c => min 5 (c.ceil + 1)
    else s)

/-- THERMAL_RECOVER (R184): the temperature is 5 degrees below the fused ceiling. -/
def execThermalRecover (die : Fin 4) (s : State) : Out := .next (thermal s die.val false true)

/-- THERMAL_STEP_UP (R184): one step up for each 100 microseconds below the threshold. -/
def execThermalStepUp (die : Fin 4) (s : State) : Out :=
  let d := s.dieAt die.val
  .next (if d.cooled && d.stepped + 10000 ≤ s.reftime && (clustersOf die.val).any (fun cl => (s.clusterAt cl).ceil != 0) then
      setCeilings (thermal s die.val false true) die.val fun c => c.ceil - 1
    else s)

/-- The clock step that a boost.REQ asks for (R185). -/
def requestStep (req : Nat) : Nat := 2 - req

/-- A cluster's request (R185, R440): the largest REQ of the harts placed on it that are neither EMPTY nor STOPPED; replay
ignores requests (R412). -/
def clusterRequest (s : State) (cl : Nat) : Nat :=
  if s.stew.replay then 0
  else ((List.range 96).map fun n =>
    let h := s.hartAt (cl * 96 + n)
    if h.slot == .running || h.slot == .waiting then h.boostReq else 0).foldl max 0

/-- The low-water cluster among phases, newest first: the one named most often, a tie to the more recent (R187). -/
def lowWater (phases : List Nat) : Option Nat :=
  phases.foldl (fun best c =>
    match best with
    | none => some c
    | some b => if phases.count b < phases.count c then some c else some b) none

/-- The pool and its registers at an interval end (R186 to R188, R440), before the clocks are set. -/
def poolStep (d : Die) : Die :=
  let pool := if d.hot = 0 then min 64 (d.permits + 1) else d.permits - popcount (d.hot &&& (0xFF ^^^ d.free)) 8
  let since := if 16 < pool then 0 else d.since
  let low := lowWater (d.record.take since)
  let reached := !d.lock && pool == 0
  { d with permits := pool, since := since, lowc := low.getD 0xF
           lock := if reached then true else if d.lock && 32 ≤ pool then false else d.lock }

/-- The clock that the pool gives a cluster for the next interval (R187). -/
def nextClock (s : State) (old new : Die) (cl : Nat) : Nat :=
  if new.lock then
    if !old.lock && (s.clusterAt cl).step < 2 then 1 else 2
  else if 16 < new.permits || new.lowc == cl % 8 then requestStep (clusterRequest s cl)
  else 2

/-- The end of an interval on a die. -/
def intervalEnd (s : State) (die : Nat) : State :=
  let old := s.dieAt die
  let new := poolStep old
  let clocks := (clustersOf die).map fun cl => (cl, nextClock s old new cl)
  let free := if new.lock && !old.lock then
      ((clocks.filter (·.2 == 1)).map fun p => 2 ^ (p.1 % 8)).foldl (· + ·) 0
    else 0
  let s := s.setDieAt die { new with hot := 0, free := free, interval := s.reftime }
  clocks.foldl (fun s p => setClock s p.1 fun c => { c with want := p.2 }) s

/-- BOOST_INTERVAL_END (R186, R187, R440): an interval ends where reftime is a multiple of 400, once. -/
def execBoostIntervalEnd (die : Fin 4) (s : State) : Out :=
  .next (if s.reftime % 400 = 0 ∧ (s.dieAt die.val).interval < s.reftime then intervalEnd s die.val else s)

/-! ### Energy and watchdogs -/

/-- ENERGY_UPDATE (R430): one every microsecond. -/
def execEnergyUpdate (microjoules : Nat) (s : State) : Out :=
  .next (if s.reftime < s.stew.energyAt + 100 then s
    else { s with stew := { s.stew with energy := min (2 ^ 64 - 1) (s.stew.energy + microjoules), energyAt := s.reftime } })

/-- The time a watchdog allows a RUNNING hart without retiring an instruction (R429). -/
def hangLimit : Nat := 2 ^ 27

/-- HANG_WATCHDOG (R417, R429): a hang notice in the layout of a kill record with REASON 0; the gang runs on. -/
def execHangWatchdog (hart : Nat) (s : State) : Out :=
  let h := s.hartAt hart
  .next (if h.slot == .running && h.acts && !h.halted && h.retired + hangLimit ≤ s.reftime then
      let task := match h.gang.bind s.task? with | some t => t.desc | none => 0
      let notice := killRecord task 0 (coreOf hart) (some (.ofTrap hart h.pc { cause := .none }))
      send s ((s.partOf (coreOf hart)).getD 0) (message 4 notice) false
    else s)

end Sys2Proof.Machine
end

