-- ==== Sys2Proof/Machine/EventsMem.lean ====
section
/-! DEFINITION. Device events of live stack retirement and of the fabric ports (R33, R34, R81 to R97, R417, R419, R420). -/

namespace Sys2Proof.Machine

/-! ### Starting a retirement (R86, R87) -/

/-- PLINTH_FAILING (R86): the count of corrected symbols has passed its threshold, or an uncorrectable codeword has been found. -/
def execPlinthFailing (stack : Fin 8) (s : State) : Out := .next (raiseFailing s stack.val)

/-- Whether the retirement of a stack may begin (R86): it is first in turn, none is in progress, two stacks live, no replay. -/
def mayDrop (s : State) (stack : Nat) : Bool :=
  s.mem.queued.head? == some stack && s.mem.leaving.isNone && s.mem.phase % 2 == 0 && 2 ≤ liveCount s && !s.stew.replay

/-! ### The retirement notice (R88, R417) -/

/-- What a stage-2 table holds at an index, where the walker can read it. -/
def entry2 (s : State) (level a : Nat) : Option (Nat ⊕ Leaf) :=
  if Config.devEnd ≤ a then none
  else match readEntry s 0 a with
    | .ok e => (walkEntry true level e).toOption
    | .error _ => none

/-- The KIND 0 leaf of a page, as partition physical base, size as a power of two, and device base. -/
def leafOf (pa level : Nat) (l : Leaf) : List (Nat × Nat × Nat) := if l.kind = 0 then [(pa, levelLg level, l.base)] else []

/-- The leaves of a stage-2 table, ascending. A partition physical address has 52 bits, so of a root table the first 64 entries
are read. -/
def leaves2 (s : State) : Nat → Nat → Nat → List (Nat × Nat × Nat)
  | 0, table, pa =>
    (List.range 1024).flatMap fun i =>
      match entry2 s 0 (table + 8 * i) with
      | some (.inr l) => leafOf (pa + i * 2 ^ levelLg 0) 0 l
      | _ => []
  | n + 1, table, pa =>
    (List.range (if n = 2 then 64 else 1024)).flatMap fun i =>
      match entry2 s (n + 1) (table + 8 * i) with
      | some (.inr l) => leafOf (pa + i * 2 ^ levelLg (n + 1)) (n + 1) l
      | some (.inl next) => leaves2 s n next (pa + i * 2 ^ levelLg (n + 1))
      | none => []

/-- Runs of pages that touch, in 64 KiB units: base and length. -/
def joinRuns : List (Nat × Nat) → List (Nat × Nat)
  | [] => []
  | (b, n) :: rest =>
    match joinRuns rest with
    | (b', n') :: more => if b + n = b' then (b, n + n') :: more else (b, n) :: (b', n') :: more
    | [] => [(b, n)]

/-- A run as consecutive ranges of at most 64 GiB. -/
def splitRun : Nat → Nat × Nat → List (Nat × Nat)
  | 0, _ => []
  | fuel + 1, (b, n) => if n ≤ 2 ^ 20 then [(b, n)] else (b, 2 ^ 20) :: splitRun fuel (b + 2 ^ 20, n - 2 ^ 20)

/-- The partition physical ranges of a partition whose leaves fall in a band of device memory (R88). -/
def bandRanges (s : State) (part lo hi : Nat) : List (Nat × Nat) :=
  let inBand := (leaves2 s 3 (s.partAt part).root2 0).filter fun l => lo ≤ l.2.2 && l.2.2 < hi
  (joinRuns (inBand.map fun l => (l.1 / 2 ^ 16, 2 ^ (l.2.1 - 16)))).flatMap fun r => splitRun (r.2 / 2 ^ 20 + 1) r

/-- The body of a notice (R417): the stack, up to four ranges, MORE, the new CAP and PHASE. -/
def noticeBody (s : State) (stack : Nat) (ranges : List (Nat × Nat)) (more : Bool) : List Byte :=
  leBytes 1 stack ++ leBytes 1 ranges.length ++ leBytes 1 more.toNat ++ leBytes 5 0 ++ leBytes 8 (s.mem.cap * 4096) ++
    leBytes 4 s.mem.phase ++ leBytes 4 0 ++ ranges.flatMap (fun r => leBytes 8 (r.1 % 2 ^ 36 * 2 ^ 28 + r.2)) ++
    List.replicate (32 - 8 * ranges.length) 0

/-- The notices of one partition, four ranges each; one with none where the band holds nothing of it. -/
def notices (s : State) (stack : Nat) : Nat → List (Nat × Nat) → List (List Byte)
  | 0, _ => []
  | fuel + 1, rs =>
    let more := 4 < rs.length
    message 1 (noticeBody s stack (rs.take 4) more) :: if more then notices s stack fuel (rs.drop 4) else []

/-- RETIRE_DROP (R87, R88): CAP falls by one stack, the band closes, every partition is told. The steward reads the stage-2 tables
where they lie, those in the band too (R22). -/
def execRetireDrop (stack : Fin 8) (s : State) : Out :=
  .next (if !mayDrop s stack.val then s
    else
      let top := s.mem.cap
      let cap := (liveCount s - 1) * Config.granulesPerStack
      let before := s
      let s := s.setRegs { s.mem with
        cap := cap, queued := s.mem.queued.tail, leaving := some stack.val, returned := 0, front := cap, dropAt := s.reftime }
      (liveParts s).foldl (fun s p =>
        let rs := bandRanges before p (cap * 4096) (top * 4096)
        (notices s stack.val (rs.length / 4 + 1) rs).foldl (fun s m => send s p m false) s) s)

/-! ### Emptying the band (R88, R89) -/

/-- Ranges in 64 MiB units cut off at a ceiling (R88). -/
def cutRanges (top : Nat) (rs : List (Nat × Nat)) : List (Nat × Nat) :=
  rs.filterMap fun r => if top ≤ r.1 then none else some (r.1, min r.2 (top - r.1))

/-- A partition has returned the band: its access tables close to it (R88). -/
def giveBack (s : State) (part : Nat) : State :=
  let p := s.partAt part
  let s := s.setPartAt part { p with ranges := cutRanges (s.mem.cap / 2 ^ 14) p.ranges }
  { s with mem := { s.mem with returned := Nat.lor s.mem.returned (2 ^ part) } }

/-- RANGE_RETURN (R88). -/
def execRangeReturn (part : Fin 4) (s : State) : Out :=
  .next (if s.mem.leaving.isSome && s.mem.phase % 2 == 0 && (s.partAt part.val).live then giveBack s part.val else s)

/-- PARTITION_DEADLINE (R88): a partition that has not returned the band is reset, which counts as a return. -/
def execPartitionDeadline (part : Fin 4) (s : State) : Out :=
  .next (if s.mem.leaving.isSome && s.mem.dropAt + s.mem.deadline ≤ s.reftime && s.mem.phase % 2 == 0 && (s.partAt part.val).live && !s.mem.returned.testBit part.val then
      giveBack (resetPartition s part.val) part.val
    else s)

/-- Whether a range that a transfer holds meets the band. -/
def State.touchesBand (s : State) (x : Span) : Bool :=
  match x.loc with
  | .dev a => s.mem.cap * 4096 < a + x.len && a < popcount s.mem.oldLive 8 * Config.granulesPerStack * 4096
  | _ => false

/-- Whether a transfer that is outstanding touches the band (R89). -/
def bandBusy (s : State) : Bool :=
  s.harts.any fun (p : Nat × Hart) => p.2.viq.any fun e =>
    (match e.op with | .eng .. => true | _ => false) && e.spans.any s.touchesBand

/-- WALK_START (R89): the band is empty. -/
def execWalkStart (s : State) : Out :=
  .next (match s.mem.leaving with
    | some x =>
      if s.mem.phase % 2 == 0 && (liveParts s).all s.mem.returned.testBit && !bandBusy s then
        s.setRegs { s.mem with
          phase := (s.mem.phase + 1) % 2 ^ 32, oldLive := s.mem.live, live := s.mem.live &&& (0xFF ^^^ 2 ^ x)
          step := 1, stage := 0, infl := 0, moved := [], front := (liveCount s - 1) * Config.granulesPerStack, replays := 0 }
      else s
    | none => s)

/-! ### The walk (R90 to R97) -/

/-- Granules that steps 2 and 3 may still move, in the step that runs. -/
def MemSys.left (m : MemSys) : Nat := if m.step = 2 then m.front - m.staged else m.front

/-- The moves in flight once the walker has at least `infl` of them, of the 512 that it may have (R90). -/
def MemSys.window (m : MemSys) (infl : Nat) : Nat := max m.infl (min (max 1 infl) (min 512 m.left))

/-- The granules whose moves are in flight in a window of `n` below FRONT (R90). -/
def MemSys.flying (m : MemSys) (n : Nat) : List Nat :=
  ((List.range n).map fun off => m.front - 1 - off).filter fun g => !m.moved.contains g

/-- GRANULE_MOVE (R90): a copy completes. In step 1 the staging copies complete in order; in steps 2 and 3 any of the moves in
flight may be the one, and how many those are is the walker's choice: both are free values (log 53). -/
def execGranuleMove (s : State) : Out :=
  .next (if s.mem.phase % 2 = 0 then s
    else if s.mem.step = 1 then moveDone s s.mem.stage
    else
      let n := s.mem.window (Config.movesStarted s.free)
      let gs := s.mem.flying n
      match gs[Config.moveEnding s.free % gs.length]? with
      | some g => moveDone { s.setRegs { s.mem with infl := n } with free := s.free + 1 } g
      | none => s)

/-- COPY_BROADCAST (R94): a requester's copy takes memphase and memfront as they stand. -/
def execCopyBroadcast (requester : Nat) (s : State) : Out :=
  .next { s with mem := { s.mem with copies := Table.set s.mem.copies requester s.mem.version } }

/-! ### Fabric ports -/

/-- Translations of a port that a generation leaves behind (R33). -/
def dropPort (s : State) (port : Nat) : State :=
  let names := fun (e : TlbEntry) => e.kind == 2 && bits e.pbase 49 44 == port
  let core := fun (c : Core) => { c with tlb := c.tlb.filter fun e => !names e }
  let hart := fun (h : Hart) => { h with utr := match h.utr with | some e => if names e then none else some e | none => none }
  { s with cores := s.cores.map fun (p : Nat × Core) => (p.1, core p.2), harts := s.harts.map fun (p : Nat × Hart) => (p.1, hart p.2) }

/-- A port's link state changes and its generation increments (R33). An access that has been translated under the old generation
and has not performed is lost: its translation says so (R34). -/
def portChange (s : State) (port : Nat) (up : Bool) : State :=
  let p := s.portAt port
  dropPort (s.setPortAt port { p with up := up, gen := (p.gen + 1) % 256 }) port

/-- LINK_DOWN (R33, R34). -/
def execLinkDown (port : Fin 64) (s : State) : Out := .next (portChange s port.val false)

/-- LINK_UP (R33, R34). -/
def execLinkUp (port : Fin 64) (s : State) : Out := .next (portChange s port.val true)

/-- PEER_RESET (R33). -/
def execPeerReset (port : Fin 64) (s : State) : Out := .next (portChange s port.val (s.portAt port.val).up)

/-- Whether an inbound window of a port holds an address with the right that a request needs (R36). -/
def windowHolds (p : Port) (r : Request) : Bool :=
  let needR := r.write.isNone || r.amo.isSome
  let needW := r.write.isSome || r.amo.any (·.fn != .ld)
  p.windows.any fun w => w.base ≤ r.addr && r.addr + requestSize r ≤ w.base + w.len && (!needR || w.r) && (!needW || w.w)

/-- An inbound request acts as its port's master (R35), where a window of the port holds its address (R36, R419). -/
def serveFabric (s : State) (port : Nat) (r : Request) : State :=
  if windowHolds (s.portAt port) r then afterRequest s (perform s { r with master := 0x400 + port, spad := none }) else s

/-- A port's bucket at a tick (R420). -/
def Port.refill (p : Port) (now : Nat) : Port :=
  { p with tokens := min p.depth (p.tokens + (now - p.since) * p.rate), since := now }

/-- The requests that wait at a port are served, oldest first, while its bucket holds a token (R420). -/
def drainPort (port : Nat) : Nat → State → State
  | 0, s => s
  | n + 1, s =>
    let p := (s.portAt port).refill s.reftime
    match p.waiting with
    | [] => s
    | r :: rest =>
      if p.tokens = 0 then s.setPortAt port p
      else drainPort port n (serveFabric (s.setPortAt port { p with waiting := rest, tokens := p.tokens - 1 }) port r)

/-- A request that a port accepts: it waits for the policer, and is never refused by it (R420). -/
def fabricRequest (s : State) (port : Nat) (r : Request) : State :=
  let p := s.portAt port
  if p.up then drainPort port (p.waiting.length + 1) (s.setPortAt port { p with waiting := p.waiting ++ [r] }) else s

/-- Every port serves what waits there (R420). -/
def drainPorts (s : State) : State :=
  (s.mem.ports.filter fun (p : Nat × Port) => p.2.waiting != []).foldl (fun s p => drainPort p.1 p.2.waiting.length s) s

/-- FABRIC_INBOUND_REQUEST (R411, R420). -/
def execFabricInboundRequest (port : Fin 64) (r : Request) (s : State) : Out :=
  .next (fabricRequest (s.arrives (.port port.val r)) port.val r)

end Sys2Proof.Machine
end

