-- ==== Sys2Proof/Machine/EventsHost.lean ====
section
/-! DEFINITION. Device events of the host link, register blocks, management, boot and replay (R1, R36, R84, R133, R411 to R413,
R415 to R430, R444). -/

namespace Sys2Proof.Machine

/-! ### BAR 2 (R133, R414 to R416) -/

/-- A function's identifier as a requester (R35). -/
def hostMaster (fn : Nat) : Nat := 0x300 + fn

/-- Whether a leaf has the right for a request's direction (R416). -/
def Leaf.lets (l : Leaf) (acc : Access) : Bool := (acc == .store || l.r) && (acc == .load || l.w)

/-- Where an inbound request through the window goes; an error: it is not performed (R416). -/
def windowPlace (s : State) (fn off n : Nat) (acc : Access) : Except Stop Nat :=
  let p := s.partAt fn
  let pa := p.winbase + off
  let refuse := memTrap .access 2 pa
  if 2 ^ 36 < off + n || 2 ^ 52 < pa + n then .error refuse
  else match walk2 s fn pa pa with
    | .error (.stop st) => .error st
    | .error _ => .error refuse
    | .ok (l, d) =>
      if l.kind != 0 || Config.devEnd < d + n || !l.lets acc then .error refuse
      else match devStop s fn false d pa, devStop s fn false (d + n - 1) pa with
        | none, none => .ok d
        | some st, _ => .error st
        | _, some st => .error st

/-- A request that is not performed: it is logged as an uncorrectable non-fatal error, and a health message names the partition physical
address (R416, R417). -/
def windowRefused (s : State) (fn off : Nat) (st : Stop) : State :=
  let s := match st with | .trap t => seeError s t | _ => s
  let p := s.partAt fn
  send (s.setPartAt fn { p with aer := true }) fn (message 5 (leBytes 8 (p.winbase + off))) false

/-- A request that the window lets through and the plinth stops: an uncorrectable codeword raises the plinth's flag (R86), a failed
tag resets the partition (R220). -/
def plinthStopped (s : State) (st : Stop) : State :=
  match st with
  | .trap t => seeError s t
  | st => raise s s.turn 0 none st

/-- A request within one granule: what it returns, none where it is refused or stopped. The walk and the request go to the plinths as
the function's (R94, R99). -/
def windowDo (s : State) (fn off n : Nat) (acc : Access) (run : State → Nat → Except Stop (List Byte × State)) :
    Option (List Byte) × State :=
  let s := s.reachTables2 (hostMaster fn) fn ((s.partAt fn).winbase + off)
  match windowPlace s fn off n acc with
  | .error st => (none, windowRefused s fn off st)
  | .ok d =>
    let s := s.reach (hostMaster fn) d
    match run s d with
    | .ok (b, s) => (some b, s)
    | .error st => (none, plinthStopped s st)

/-- A posted write within one granule. On a granule that is mapped REPL it is a REPL store, whose die instants follow (R125, log 42). -/
def hostPut (s : State) (fn off : Nat) (data : List Byte) : State :=
  (windowDo s fn off data.length .store fun s d => (inboundWrite s (storerOf (hostMaster fn)) fn d data).map fun s => ([], s)).2

/-- A posted write through the window, granule by granule. -/
def hostWrite (s : State) (fn off : Nat) (data : List Byte) : State :=
  (pieces 4096 off data.length).foldl (fun s p => hostPut s fn p.1 ((data.drop (p.1 - off)).take p.2)) s

/-- The AtomicOps that the endpoint completes: FetchAdd and Swap at 32 and 64 bits, CAS at 32, 64 and 128 bits (R414). -/
def completes (fn : AmoFn) (n : Nat) : Bool :=
  match fn with
  | .add | .swap => n == 4 || n == 8
  | .cas => n == 4 || n == 8 || n == 16
  | _ => false

/-- What the last request of a function that returns something returned to the host; none for Unsupported Request. -/
def answerHost (fn : Nat) (r : Option (List Byte) × State) : State := r.2.setPartAt fn { r.2.partAt fn with lastRead := r.1 }

/-- An AtomicOp through the window (R414): one that the endpoint does not complete, or that is not aligned, is an Unsupported Request. -/
def hostAtomic (s : State) (fn off : Nat) (q : AmoReq) (n : Nat) : State :=
  let pa := (s.partAt fn).winbase + off
  answerHost fn (if completes q.fn n && off % n == 0 then
      windowDo s fn off n .atomic fun s d =>
        serve s { master := hostMaster fn, addr := d, write := none, len := n, amo := some q }
          (fun n => devRead s fn false d n pa) (inboundWrite s (storerOf (hostMaster fn)) fn d)
    else (none, s.setPartAt fn { s.partAt fn with aer := true }))

/-- A write TLP through the window: a function whose partition does not exist is hidden (R414). -/
def hostData (s : State) (fn off : Nat) (d : HostData) : State :=
  if !(s.partAt fn).live then s
  else match d with
  | .bytes b => hostWrite s fn off b
  | .atomic q n => hostAtomic s fn off q n

/-- HOST_INBOUND_WRITE (R133, R411, R414): it performs in arrival order. -/
def execHostInboundWrite (fn : Fin 4) (off : Nat) (data : HostData) (s : State) : Out :=
  .next (hostData (s.arrives (.write fn.val off data)) fn.val off data)

/-- A read within one granule. -/
def hostGet (s : State) (fn off len : Nat) : Option (List Byte) × State :=
  windowDo s fn off len .load fun s d => (devRead s fn false d len ((s.partAt fn).winbase + off)).map fun b => (b, s)

/-- A read through the window, granule by granule. -/
def hostRead (fn : Nat) : List (Nat × Nat) → State → Option (List Byte) × State
  | [], s => (some [], s)
  | p :: rest, s =>
    match hostGet s fn p.1 p.2 with
    | (none, s) => (none, s)
    | (some b, s) => match hostRead fn rest s with
      | (none, s) => (none, s)
      | (some bs, s) => (some (b ++ bs), s)

/-! ### BAR 0 and the service block (R415 to R418, R430) -/

/-- MBHEAD (R415). -/
def mbheadOf (s : State) (fn : Nat) : Nat :=
  let p := s.partAt fn
  p.mbhead + (if fn = 0 ∧ s.stew.cmdBusy then 2 ^ 62 else 0) + if p.mbdrop then 2 ^ 63 else 0

/-- The function's latch takes bits 63:32 of energy, of the update that bits 31:0 come from (R430). -/
def latchEnergy (s : State) (fn : Nat) : State := s.setPartAt fn { s.partAt fn with energyHi := s.stew.energy / 2 ^ 32 }

/-- A read of a BAR 0 register from its first byte on (R415, R430). DESIGN CHOICE (log 83): CMD and HSPAWN are write-only and other
offsets name nothing, so a read of them is an Unsupported Request. -/
def barRead (s : State) (fn off n : Nat) : Option (List Byte) × State :=
  let p := s.partAt fn
  let reg := fun (size v : Nat) => some ((leBytes size v).take n)
  match off with
  | 0x000 => (reg 8 (mbheadOf s fn), s)
  | 0x008 => (reg 8 p.mbtail, s)
  | 0x010 => (reg 8 p.mbbase, s)
  | 0x020 => (reg 8 p.winbase, s)
  | 0x100 => (reg 4 s.stew.energy, latchEnergy s fn)
  | 0x104 => (reg 4 p.energyHi, s)
  | _ => (none, s)

/-- A read TLP (R133, R415): what it returns. A function whose partition does not exist is hidden (R414). -/
def hostReadAt (s : State) (fn : Nat) (a : HostAddr) (n : Nat) : State :=
  if !(s.partAt fn).live then s
  else answerHost fn (match a with
    | .window off => hostRead fn (pieces 4096 off n) s
    | .register off => barRead s fn off n)

/-- HOST_INBOUND_READ (R133, R411, R415). -/
def execHostInboundRead (fn : Fin 4) (off : HostAddr) (len : Nat) (s : State) : Out :=
  .next (hostReadAt (s.arrives (.read fn.val off len)) fn.val off len)

/-- ENERGY_LO_READ (R430): a read of ENERGY_LO. -/
def execEnergyLoRead (fn : Fin 4) (s : State) : Out :=
  .next (hostReadAt (s.arrives (.read fn.val (.register 0x100) 4)) fn.val (.register 0x100) 4)

/-- MBTAIL (R415, R417): slots free, and held kill records go out. -/
def writeMbtail (s : State) (fn v : Nat) : State :=
  let p := s.partAt fn
  flushHost fn p.mbheld.length (s.setPartAt fn { p with mbtail := v % 256, mbdrop := false })

/-- MBBASE, 4 KiB aligned (R415): another value is ignored (log 83). -/
def writeMbbase (s : State) (fn v : Nat) : State :=
  if v % 2 ^ 12 = 0 then s.setPartAt fn { s.partAt fn with mbbase := v } else s

/-- WINBASE (R416): a value that is not a multiple of 64 GiB is ignored. -/
def writeWinbase (s : State) (fn v : Nat) : State :=
  if v % 2 ^ 36 = 0 then s.setPartAt fn { s.partAt fn with winbase := v } else s

/-- CMD (R415, R425 to R427): function 0 submits the address of a command block, while no command is outstanding; another function's
write is ignored. DESIGN CHOICE (log 81): so is an address that is not 4 KiB aligned. -/
def submit (s : State) (fn v : Nat) : State :=
  if fn = 0 ∧ !s.stew.cmdBusy ∧ v % 2 ^ 12 = 0 then { s with stew := { s.stew with cmdBusy := true, cmd := v } } else s

/-! ### Host spawns (R444) -/

/-- A partition virtual address as a user access on a KIND 0 page would find it: the steward walks and accesses (R94, R99). -/
def hostPlace (s : State) (part : Nat) (ctx : Word) (acc : Access) (va : Nat) : Except Stop (Place × State) :=
  match windowIn none 0 va with
  | some (.error st) => .error st
  | some (.ok _) => .error (memTrap .access 2 va)
  | none =>
    let s := s.reachTables steward part ctx va
    match walkBoth s part ctx va with
    | .error st => .error st
    | .ok e =>
      match rightsStop e acc true va, placeOf e va with
      | some st, _ => .error st
      | none, .error st => .error st
      | none, .ok p =>
        match p.loc with
        | .dev a =>
          if p.kind != 0 then .error (memTrap .access 2 va)
          else match devStop s part false a va with
            | some st => .error st
            | none => .ok (p, s.reach steward a)
        | _ => .error (memTrap .access 2 va)

/-- The spawn of a write that has no reserved bit set. -/
def hostSpawn (s : State) (part : Nat) (v : Nat) : Except Stop State := do
  let p := s.partAt part
  let die := bits v 1 0
  let va := bits v 55 6 * 64
  let ill : Stop := plainTrap .ill 1
  if bits v 63 56 != 0 || bits v 5 3 != 0 || bits p.clusters (8 * die + 7) (8 * die) == 0 || p.hsctx == 0 then .error ill
  else
    let (d, s) ← hostPlace s part p.hsctx .atomic va
    let b ← readAt s part d 0 64 va
    let launch := field b 32 8
    let (l, s) ← if launch = 0 then .ok (List.replicate 64 0, s)
      else do
        aligned launch 64
        let (q, s) ← hostPlace s part p.hsctx .load launch
        (readAt s part q 0 64 launch).map fun l => (l, s)
    if !descOk b (hsprioOf p) || !launchOk l then .error ill
    else spawnAt s part d (BitVec.ofNat 64 va) b (startOf l p.hsctx p.hstvec (hsprioOf p) (BitVec.ofNat 64 launch)) (v.testBit 2) die

/-- A write of HSPAWN (R417, R444): a refusal is told by a message of kind 6; an uncorrectable codeword that it met raises the plinth's
flag (R86). -/
def writeHspawn (s : State) (fn v : Nat) : State :=
  match hostSpawn s fn v with
  | .ok s => s
  | .error (.trap t) =>
    send (seeError s t) fn (message 6 (leBytes 8 v ++ leBytes 1 (causeCode t.cause) ++ leBytes 1 0 ++ leBytes 2 (tsubOf t))) false
  | .error (.integrity part a) => raise s s.turn 0 none (.integrity part a)

/-- A write of a BAR 0 register (R414, R415): a function whose partition does not exist is hidden. -/
def barWrite (s : State) (fn off v : Nat) : State :=
  if !(s.partAt fn).live then s
  else match off with
    | 0x008 => writeMbtail s fn v
    | 0x010 => writeMbbase s fn v
    | 0x020 => writeWinbase s fn v
    | 0x040 => submit s fn v
    | 0x050 => writeHspawn s fn v
    | _ => s

/-- A write TLP to BAR 0, which a recording logs (R411). -/
def hostRegister (s : State) (fn off v : Nat) : State := barWrite (s.arrives (.register fn off v)) fn off v

/-- MBTAIL_WRITE (R415, R417). -/
def execMbtailWrite (fn : Fin 4) (value : Word) (s : State) : Out := .next (hostRegister s fn.val 0x008 value.toNat)

/-- WINBASE_WRITE (R416). -/
def execWinbaseWrite (fn : Fin 4) (value : Word) (s : State) : Out := .next (hostRegister s fn.val 0x020 value.toNat)

/-- HOST_SPAWN (R444). -/
def execHostSpawn (fn : Fin 4) (value : Word) (s : State) : Out := .next (hostRegister s fn.val 0x050 value.toNat)

/-- DMBASE_WRITE (R418). -/
def execDmbaseWrite (part : Fin 4) (value : Word) (s : State) : Out := .next (writeDmbase s part.val value.toNat)

/-- DMTAIL_WRITE (R418). -/
def execDmtailWrite (part : Fin 4) (value : Word) (s : State) : Out := .next (writeDmtail s part.val value.toNat)

/-- One of three ceilings, and the ceilings with it replaced (R422). -/
def Ceilings.get (c : Ceilings) (i : Fin 3) : Nat := match i with | 0 => c.volts | 1 => c.amps | 2 => c.heat
def Ceilings.put (c : Ceilings) (i : Fin 3) (v : Nat) : Ceilings :=
  match i with | 0 => { c with volts := v } | 1 => { c with amps := v } | 2 => { c with heat := v }

/-- A steward write of what its firmware may set: memwalk.RATE (R84), its deadline (R88), the rate of a port's policer up to the loaded
value (R420), its own targets up to the fused ceilings (R422); none: the address names nothing of that. DESIGN CHOICE (log 72): a value
outside the bounds is ignored. -/
def writeSteward (s : State) (addr v : Nat) : Option State :=
  if addr = Config.plinthRate then
    some (if 256 ≤ v % 2 ^ 16 ∧ v % 2 ^ 16 ≤ 12000 then { s with mem := { s.mem with rate := v % 2 ^ 16 } } else s)
  else if addr = Config.returnDeadline then some { s with mem := { s.mem with deadline := v } }
  else match Config.policerOf addr, Config.targetOf addr with
    | some port, _ =>
      let p := s.portAt port.val
      some (if v ≤ p.loaded then s.setPortAt port.val { p.refill s.reftime with rate := v } else s)
    | none, some i =>
      some (if v ≤ s.stew.fused.get i then { s with stew := { s.stew with targets := s.stew.targets.put i v } } else s)
    | none, none => none

/-- REGISTER_WRITE (R36, R84, R402, R415, R418): a write of a 64-bit register. The host link's address is a BAR 0 offset. The reserved
bits of memwalk are ignored (R5). -/
def execRegisterWrite (master addr : Nat) (value : Word) (s : State) : Out :=
  let v := value.toNat
  .next (if 0x300 ≤ master ∧ master < 0x304 then hostRegister s (master - 0x300) addr v
    else match if 0x200 ≤ master ∧ master < 0x208 then writeSteward s addr v else none with
      | some t => t
      | none => if regAccepts s master true addr then regWrite s (addr / 8 * 8) v else s)

/-! ### Management commands (R421, R424 to R428) -/

/-- Bytes that no rule fixes (log 7). -/
def freeBytes (s : State) (n : Nat) : List Byte := (List.range n).map fun i => Config.freeByte (s.free + i)

/-- A draw from the entropy source (R411, R412): in replay the next draw that the log has injected. -/
def drawEntropy (s : State) (n : Nat) : List Byte × State :=
  match (if s.stew.replay then s.stew.entropy else []) with
  | b :: rest => (b, { s with stew := { s.stew with entropy := rest } })
  | [] => (freeBytes s n, ({ s with free := s.free + n }).arrives (.entropy (freeBytes s n)))

/-- Bytes of a command's block (R426). -/
def blockBytes (c : Command) (s : State) (off n : Nat) : List Byte :=
  match c.port with
  | some b => (b.drop off).take n
  | none => Memory.readBytes s.mem.host (s.stew.cmd + off) n

/-- The payload of a PART command (R426). -/
def partOp (num : Nat → Nat → Nat) (plen : Nat) : Option CmdOp :=
  let n := num 88 2
  let range := fun (i : Nat) => num (96 + 8 * i) 8
  if num 66 6 != 0 || num 90 6 != 0 || 3 < num 65 1 || plen != 32 + 8 * n then none
  else if num 64 1 = 1 ∧ 1 ≤ n ∧ n ≤ 16 then
    if (List.range n).any fun i => bits (range i) 15 14 != 0 || bits (range i) 63 30 != 0 then none
    else some (.create (num 65 1) (num 72 8) (num 80 8) ((List.range n).map fun i => (bits (range i) 13 0, bits (range i) 29 16)))
  else if num 64 1 = 2 ∧ n = 0 then some (.destroy (num 65 1))
  else none

/-- What a block asks for (R426); none where it is malformed (R427 step 1). DESIGN CHOICE (log 81): so is a PLEN that is not that of the
OPCODE's payload, a stack, a partition or an NRANGE outside its range, a RESULT that is not 64-byte aligned on the host link, and a
message that ends before its payload. -/
def parseCommand (c : Command) (s : State) : Option CmdOp :=
  let num := fun off n => leNat (blockBytes c s off n)
  let plen := num 4 4
  let fits := match c.port with | some b => 64 + plen ≤ b.length | none => num 16 8 % 64 == 0
  if num 2 2 != 0 || num 24 40 != 0 || 16640 < plen || !fits then none
  else match num 0 2 with
    | 1 => if plen = 8 ∧ num 64 1 < 8 ∧ num 65 7 = 0 then some (.retire (num 64 1)) else none
    | 2 => partOp num plen
    | 3 => if plen = 8 ∧ num 64 1 < 4 ∧ num 65 7 = 0 then some (.reset (num 64 1)) else none
    | 4 => if plen = 32 then some (.quote (blockBytes c s 64 32)) else none
    | 5 => if plen = 0 then some .challenge else if plen = 16640 then some (.unlock (blockBytes c s 64 32)) else none
    | 6 => if plen = 0 then some .record else none
    | _ => none

/-- The result block of a command (R427): on the host link bytes 8 on first, the SEQ last, and no command is outstanding any more; on
the management port it leaves as one message. -/
def writeResult (s : State) (c : Command) (status : Nat) (result : List Byte) : State :=
  let seq := blockBytes c s 8 8
  let rest := leBytes 4 status ++ leBytes 4 result.length ++ leBytes 48 0 ++ result
  match c.port with
  | some _ => { s with stew := { s.stew with sent := s.stew.sent ++ [seq ++ rest] } }
  | none =>
    let at_ := leNat (blockBytes c s 16 8)
    let host := Memory.writeBytes (Memory.writeBytes s.mem.host (at_ + 8) rest) at_ seq
    { s with mem := { s.mem with host := host }, stew := { s.stew with cmdBusy := false } }

/-- RETIRE (R86, R87, R425). DESIGN CHOICE (log 67): the stack that is already retiring is refused, one that already waits is done
without effect; R86 says neither. -/
def retireStack (s : State) (stack : Nat) : State × Option (List Byte) :=
  if s.mem.live.testBit stack ∧ 2 ≤ liveCount s ∧ s.mem.leaving ≠ some stack then (queueStack s stack, some []) else (s, none)

/-- Whether another partition holds a cluster, a port or a range. -/
def heldByOther (s : State) (part clusters ports : Nat) (ranges : List (Nat × Nat)) : Bool :=
  (liveParts s).any fun p =>
    let q := s.partAt p
    p != part && ((q.clusters &&& clusters) != 0 || (q.ports &&& ports) != 0 ||
      q.ranges.any fun r => ranges.any fun x => r.1 < x.1 + x.2 && x.1 < r.1 + r.2)

/-- The inbound windows that the steward gives a partition's ports (R36): its device memory, for reads and writes. -/
def windowsOf (s : State) (part : Option Nat) : List Window :=
  match part with
  | some p => ((s.partAt p).ranges.take 16).map fun r => { base := r.1 * 2 ^ 26, len := r.2 * 2 ^ 26, r := true, w := true }
  | none => []

/-- Ports change hands. -/
def assignPorts (s : State) (ports : Nat) (part : Option Nat) : State :=
  ((List.range 64).filter ports.testBit).foldl (fun s n =>
    s.setPortAt n { s.portAt n with part := part, windows := windowsOf s part }) s

/-- PART, create (R421, R426): the steward gives it the pattern entries and die barriers of its number (log 6). -/
def createPart (s : State) (part clusters ports : Nat) (ranges : List (Nat × Nat)) : State × Option (List Byte) :=
  if part = 0 ∨ (s.partAt part).live ∨ heldByOther s part clusters ports ranges then (s, none)
  else
    let p : Partition := { live := true, clusters := clusters, ranges := ranges, ports := ports, pattBase := 16 * part
                           pattCount := 16, barBase := 8 * part, barCount := 8 }
    (assignPorts (s.setPartAt part p) ports (some part), some [])

/-- A range of device memory reads as zero (R421): no codeword of it is unreadable, no sector encrypted. -/
def zeroRange (s : State) (r : Nat × Nat) : State :=
  let lo := r.1 * 2 ^ 26
  let hi := (r.1 + r.2) * 2 ^ 26
  { s with mem := { s.mem with
    dev := Memory.clear s.mem.dev lo hi
    bad := List.filter (fun p => p.1 * 64 < lo || hi ≤ p.1 * 64) s.mem.bad
    sectors := List.filter (fun p => p.1 * 512 < lo || hi ≤ p.1 * 512) s.mem.sectors
    repl := s.mem.repl.filter fun u => u.addr < lo || hi ≤ u.addr } }

/-- PART, destroy (R421). -/
def destroyPart (s : State) (part : Nat) : State × Option (List Byte) :=
  let p := s.partAt part
  if part = 0 ∨ !p.live then (s, none)
  else
    let s := p.ranges.foldl zeroRange (resetPartition s part)
    (assignPorts (s.setPartAt part {}) p.ports none, some [])

/-- RESET (R425). -/
def resetPart (s : State) (part : Nat) : State × Option (List Byte) :=
  if (s.partAt part).live then (resetPartition s part, some []) else (s, none)

/-- The value of a measurement register (R423). -/
def measureValue (digest : List Byte) : List Byte := (List.range 48).map (Config.measureByte digest)

/-- The boot record (R93, R216, R217, R423). -/
def bootRecord (s : State) : List Byte :=
  Config.bootRecord s.stew.retiredStacks ((List.range 384).map fun n =>
    let c := s.coreAt n
    (c.lanesFailed, c.rowsFailed, c.colsFailed))

/-- What a quote says, before its signatures (R427). -/
def quoteBody (s : State) (nonce : List Byte) : List Byte :=
  let lanemask := fun (n : Nat) => let f := (s.coreAt n).lanesFailed; leBytes 8 (f * 2 ^ 8 + (0xFF - f))
  let record := bootRecord s
  nonce ++ leBytes 4 s.stew.measured.length ++ s.stew.measured.flatMap (fun m => measureValue m.2) ++
    leBytes 4 record.length ++ record ++ (List.range 384).flatMap lanemask ++ leBytes 8 s.stew.unlocked.toNat ++ leBytes 8 s.reftime

/-- The quote, with the signatures that the device key gives for it and a draw (R424, R427). -/
def quoteBytes (s : State) (nonce salt : List Byte) : List Byte :=
  quoteBody s nonce ++ (List.range 16608).map (Config.signByte (quoteBody s nonce) salt)

/-- QUOTE (R424, R427). -/
def quote (s : State) (nonce : List Byte) : State × Option (List Byte) :=
  let q := quoteBytes s nonce (drawEntropy s 32).1
  let s := (drawEntropy s 32).2
  ({ s with stew := { s.stew with quotes := s.stew.quotes + 1 } }, some q)

/-- UNLOCK with an empty payload (R428): a challenge of 32 bytes. -/
def giveChallenge (s : State) : State × Option (List Byte) :=
  let b := (drawEntropy s 32).1
  let s := (drawEntropy s 32).2
  ({ s with stew := { s.stew with challenge := some b } }, some b)

/-- UNLOCK with a signed challenge (R427, R428): the challenge must be the one last issued, and is good for one UNLOCK. -/
def unlock (s : State) (challenge : List Byte) (vendor : Bool) : State × Option (List Byte) :=
  let spent := { s.stew with challenge := none }
  if vendor && s.stew.challenge == some challenge then ({ s with stew := { spent with unlocked := true } }, some [])
  else ({ s with stew := spent }, none)

/-- A command runs (R425): the result; none where the device's state refuses it. -/
def runManaged (op : CmdOp) (vendor : Bool) (s : State) : State × Option (List Byte) :=
  match op with
  | .retire stack => retireStack s stack
  | .create part clusters ports ranges => createPart s part clusters ports ranges
  | .destroy part => destroyPart s part
  | .reset part => resetPart s part
  | .quote nonce => quote s nonce
  | .challenge => giveChallenge s
  | .unlock challenge => unlock s challenge vendor
  | .record => ({ s with stew := { s.stew with armed := true } }, some [])

/-- A command through the steps of R427. In replay mode every command but QUOTE is refused. -/
def runCommand (s : State) (c : Command) (vendor : Bool) : State :=
  match parseCommand c s with
  | none => writeResult s c 3 []
  | some op =>
    let seq := leNat (blockBytes c s 8 8)
    if !c.signed then writeResult s c 1 []
    else if seq ≤ s.stew.lastSeq then writeResult s c 2 []
    else
      let s := { s with stew := { s.stew with lastSeq := seq } }
      let r := if s.stew.replay && !(match op with | .quote _ => true | _ => false) then (s, none) else runManaged op vendor s
      match r.2 with
      | none => writeResult r.1 c 4 []
      | some result => writeResult r.1 c 0 result

/-- The steward takes a command that an event names: the block that waits on the host link or came through the management port asks for
it, or is malformed. A block that asks for something else is left to its own event. -/
def takeCommand (s : State) (c : Command) (op : CmdOp) (vendor : Bool) : State :=
  if c.port.isNone && !s.stew.cmdBusy then s
  else match parseCommand c s with
    | some other => if other = op then runCommand (logged s) c vendor else s
    | none => runCommand (logged s) c vendor
where
  logged (s : State) : State := match c.port with | some b => s.arrives (.command b c.signed vendor) | none => s

/-- RETIRE. -/
def execRetire (c : Command) (stack : Fin 8) (s : State) : Out := .next (takeCommand s c (.retire stack.val) false)

/-- PART, create. -/
def execPartCreate (c : Command) (part : Fin 4) (clusters ports : Nat) (ranges : List (Nat × Nat)) (s : State) : Out :=
  .next (takeCommand s c (.create part.val clusters ports ranges) false)

/-- PART, destroy. -/
def execPartDestroy (c : Command) (part : Fin 4) (s : State) : Out := .next (takeCommand s c (.destroy part.val) false)

/-- RESET. -/
def execReset (c : Command) (part : Fin 4) (s : State) : Out := .next (takeCommand s c (.reset part.val) false)

/-- QUOTE: also in replay mode. -/
def execQuote (c : Command) (nonce : List Byte) (s : State) : Out := .next (takeCommand s c (.quote nonce) false)

/-- UNLOCK with an empty payload. -/
def execUnlockChallenge (c : Command) (s : State) : Out := .next (takeCommand s c .challenge false)

/-- UNLOCK with a signed challenge; `vendorSigned`: both signatures of the vendor key over it verify. -/
def execUnlock (c : Command) (challenge : List Byte) (vendorSigned : Bool) (s : State) : Out :=
  .next (takeCommand s c (.unlock challenge) vendorSigned)

/-- RECORD (R411). -/
def execRecord (c : Command) (s : State) : Out := .next (takeCommand s c .record false)

/-! ### Boot and replay (R411 to R413, R423, R429, R443) -/

/-- Partition 0 in replay: one partition owns every cluster, stack and port (R412). -/
def Partition.whole : Partition :=
  { live := true, clusters := 2 ^ 32 - 1, ranges := [(0, 8192)], ports := 2 ^ 64 - 1, pattCount := 64, barCount := 32 }

/-- The memory system after a package reset (R81, R82, R86, R93): what the memories hold stays (log 8). A walk that was under way
ends; a drop stands, so that CAP does not rise, and stacks that failed or wait to retire still do. -/
def packageMem (m : MemSys) (retired : Nat) : MemSys :=
  let live := 0xFF &&& (0xFF ^^^ retired)
  let cap := min m.cap (popcount live 8 * Config.granulesPerStack)
  { dev := m.dev, host := m.host, peers := m.peers, bad := m.bad, sectors := m.sectors
    cap := cap, oldLive := live, live := live, front := cap, failing := m.failing, reported := m.reported
    queued := m.queued, leaving := m.leaving.filter live.testBit }

/-- The ports as boot loads their policers from the signed device configuration (R420). -/
def loadPolicers (s : State) : State :=
  s.stew.policers.foldl (fun s p => s.setPortAt p.1 { s.portAt p.1 with
    rate := p.2.1, loaded := p.2.1, depth := p.2.2, tokens := p.2.2 }) s

/-- The machine right after a package reset, before the boot chain (R216, R217, R420, R423): registers as at reset, the boot record and
what is fused or signed kept. An armed recording starts (R411); with a log, replay mode (R412). -/
def packageState (s : State) (replay : Option (List Arrival)) : State :=
  let ended := match s.mem.leaving with
    | some x => if s.mem.phase % 2 = 1 then 2 ^ x else 0
    | none => 0
  let retired := Nat.lor s.stew.retiredStacks ended
  let core := fun (p : Nat × Core) => (p.1, ({ lanesFailed := p.2.lanesFailed, rowsFailed := p.2.rowsFailed, colsFailed := p.2.colsFailed } : Core))
  let t := { State.reset with
    pace := s.pace, free := s.free, inbox := s.inbox, cores := s.cores.map core
    parts := [(0, if replay.isSome then Partition.whole else Partition.first)]
    mem := packageMem s.mem retired
    stew := { retiredStacks := retired, recording := s.stew.armed, replay := replay.isSome, script := replay.getD []
              chain := s.stew.chain, images := s.stew.images, minVersion := s.stew.minVersion
              fused := s.stew.fused, targets := s.stew.fused, policers := s.stew.policers } }
  loadPolicers (if replay.isSome then assignPorts t (2 ^ 64 - 1) (some 0) else t)

/-- A partition's image has passed boot: it is loaded, its tables are named, and its first task starts (R423, R443). -/
def loadImage (s : State) (r : LoadRequest) : State :=
  let s := r.bytes.foldl (fun s b => s.poke b.1 b.2) s
  let s := s.setPartAt r.part { s.partAt r.part with root2 := r.root2 }
  let start : Start := { ptbase := r.ptbase, tvecS := r.tvec, supervisor := true }
  let t : Task := { desc := 0, phys := 0, enc := false, part := r.part, die := r.die, cls := r.cls, cores := r.cores, nv := r.nv
                    nh := r.nh, np := r.np, entry := r.entry, arg := r.arg, future := 0, start := start, st := .ready }
  let id := s.tasks.length + 1
  pass (enqueue (s.setTask id t) r.die r.cls id false) r.die

/-- Whether the steward loads an image: its partition exists, and its pattern indices fit the partition's range (R72, R269). -/
def loads (s : State) (r : LoadRequest) : Bool := (s.partAt r.part).live && r.patts.all (· < (s.partAt r.part).pattCount)

/-- Why a stage fails its check (R423). -/
def stageFault (c : StageCheck) (least : Nat) : Option BootFault :=
  if !c.rsa then some .rsa else if !c.slh then some .slh else if c.version < least then some .version else none

/-- A stage's digest is extended into its measurement register, and a failure is reported: stage and reason (R423). -/
def measure (s : State) (n : Nat) (c : StageCheck) : State :=
  { s with stew := { s.stew with
    measured := s.stew.measured ++ [(n, c.digest)]
    reports := s.stew.reports ++ ((stageFault c s.stew.minVersion).map fun f => (n, f)).toList } }

/-- The stages of the chain from a number on: one that fails stops boot (R423). -/
def bootStages : Nat → List StageCheck → State → State
  | _, [], s => s
  | n, c :: rest, s =>
    let t := measure s n c
    if (stageFault c s.stew.minVersion).isSome then { t with stew := { t.stew with booted := false } } else bootStages (n + 1) rest t

/-- A partition's image at boot: one that fails stops only its partition (R423). -/
def bootImage (s : State) (r : LoadRequest) : State :=
  let t := measure s (3 + r.part) r.check
  if (stageFault r.check s.stew.minVersion).isNone && loads s r then loadImage t r else t

/-- The boot chain (R423): stages 0 boot ROM, 1 firmware, 2 hypervisor, then the image of each partition. The measured image is in the
log of a recording (R411). -/
def boot (s : State) (chain : BootChain) (images : List LoadRequest) : State :=
  let s := { s with stew := { s.stew with chain := chain, images := images } }
  let s := bootStages 0 [chain.rom, chain.firmware, chain.hypervisor] (s.arrives (.boot images))
  if s.stew.booted then images.foldl bootImage s else s

/-- PACKAGE_RESET (R411, R412, R423). -/
def execPackageReset (replay : Option (List Arrival)) (chain : BootChain) (images : List LoadRequest) (s : State) : Out :=
  .next (boot (packageState s replay) chain images)

/-- STEWARD_WATCHDOG (R429): no acknowledgement for 2^30 ticks, a package reset, which boots what the package booted before. -/
def execStewardWatchdog (s : State) : Out :=
  .next (if s.reftime < s.stew.acked + 2 ^ 30 then s else boot (packageState s none) s.stew.chain s.stew.images)

/-- A recorded event takes place again (R412); none where it cannot be delivered. -/
def inject (s : State) (a : Arrived) : Option State :=
  match a with
  | .write fn off d => some (hostData s fn off d)
  | .read fn a n => some (hostReadAt s fn a n)
  | .register fn off v => some (barWrite s fn off v)
  | .port n r => if (s.portAt n).up then some (fabricRequest s n r) else none
  | .command b signed vendor => some (runCommand s { port := some b, signed := signed } vendor)
  | .entropy b => some { s with stew := { s.stew with entropy := s.stew.entropy ++ [b] } }
  | .boot _ => some s

/-- REPLAY_INJECT (R412, R413): the next entry of the log, at its tick; one that can no longer be delivered at its tick ends the
replay. Another event than the log's next, or before its tick, is none. -/
def execReplayInject (a : Arrival) (s : State) : Out :=
  .next (match s.stew.script with
    | b :: rest =>
      if !s.stew.replay || a ≠ b || s.reftime < a.tick then s
      else if a.tick < s.reftime then s.diverge .arrival
      else match inject { s with stew := { s.stew with script := rest } } a.what with
        | some t => t
        | none => s.diverge .arrival
    | [] => s)

/-- PACKAGE_POWER_OFF (R1). -/
def execPackagePowerOff (s : State) : Out := .next { s with powered := false }

end Sys2Proof.Machine
end

