-- ==== Sys2Proof/Machine/Dispatch.lean ====
section
/-! DEFINITION. The dispatch: one arm per constructor of Instr (R251; the opcode table). -/

namespace Sys2Proof.Machine

/-- The meaning of an instruction or a device event. -/
def exec (i : Instr) (s : State) : Host.Outcome State Fault Refusal :=
  match i with
  | .ill x => Sys2Proof.Machine.execIll x s
  | .ill3f x => Sys2Proof.Machine.execIll3f x s
  | .aluAdd d a b t => Sys2Proof.Machine.execAluAdd d a b t s
  | .aluSub d a b t => Sys2Proof.Machine.execAluSub d a b t s
  | .aluAdds d a b t => Sys2Proof.Machine.execAluAdds d a b t s
  | .aluSubs d a b t => Sys2Proof.Machine.execAluSubs d a b t s
  | .aluMul d a b t => Sys2Proof.Machine.execAluMul d a b t s
  | .aluMulh d a b t => Sys2Proof.Machine.execAluMulh d a b t s
  | .aluDiv d a b t => Sys2Proof.Machine.execAluDiv d a b t s
  | .aluRem d a b t => Sys2Proof.Machine.execAluRem d a b t s
  | .aluAnd d a b t => Sys2Proof.Machine.execAluAnd d a b t s
  | .aluOr d a b t => Sys2Proof.Machine.execAluOr d a b t s
  | .aluXor d a b t => Sys2Proof.Machine.execAluXor d a b t s
  | .aluAndn d a b t => Sys2Proof.Machine.execAluAndn d a b t s
  | .aluShl d a b t => Sys2Proof.Machine.execAluShl d a b t s
  | .aluShr d a b t => Sys2Proof.Machine.execAluShr d a b t s
  | .aluMin d a b t => Sys2Proof.Machine.execAluMin d a b t s
  | .aluMax d a b t => Sys2Proof.Machine.execAluMax d a b t s
  | .aluSlt d a b t => Sys2Proof.Machine.execAluSlt d a b t s
  | .aluSeq d a b t => Sys2Proof.Machine.execAluSeq d a b t s
  | .aluPcnt d a t => Sys2Proof.Machine.execAluPcnt d a t s
  | .aluClz d a t => Sys2Proof.Machine.execAluClz d a t s
  | .aluCtz d a t => Sys2Proof.Machine.execAluCtz d a t s
  | .aluiAdd d a imm => Sys2Proof.Machine.execAluiAdd d a imm s
  | .aluiAnd d a imm => Sys2Proof.Machine.execAluiAnd d a imm s
  | .aluiOr d a imm => Sys2Proof.Machine.execAluiOr d a imm s
  | .aluiXor d a imm => Sys2Proof.Machine.execAluiXor d a imm s
  | .aluiShl d a imm => Sys2Proof.Machine.execAluiShl d a imm s
  | .aluiShr d a imm => Sys2Proof.Machine.execAluiShr d a imm s
  | .aluiSra d a imm => Sys2Proof.Machine.execAluiSra d a imm s
  | .aluiSlt d a imm => Sys2Proof.Machine.execAluiSlt d a imm s
  | .aluiSltu d a imm => Sys2Proof.Machine.execAluiSltu d a imm s
  | .hi d a imm => Sys2Proof.Machine.execHi d a imm s
  | .ld d a t off => Sys2Proof.Machine.execLd d a t off s
  | .st d a t off => Sys2Proof.Machine.execSt d a t off s
  | .brEq a b off => Sys2Proof.Machine.execBrEq a b off s
  | .brNe a b off => Sys2Proof.Machine.execBrNe a b off s
  | .brLt a b off => Sys2Proof.Machine.execBrLt a b off s
  | .brGe a b off => Sys2Proof.Machine.execBrGe a b off s
  | .brLtu a b off => Sys2Proof.Machine.execBrLtu a b off s
  | .brGeu a b off => Sys2Proof.Machine.execBrGeu a b off s
  | .jmp off => Sys2Proof.Machine.execJmp off s
  | .jrGo a => Sys2Proof.Machine.execJrGo a s
  | .jrCall d a => Sys2Proof.Machine.execJrCall d a s
  | .fpuAdd d a b t => Sys2Proof.Machine.execFpuAdd d a b t s
  | .fpuSub d a b t => Sys2Proof.Machine.execFpuSub d a b t s
  | .fpuMul d a b t => Sys2Proof.Machine.execFpuMul d a b t s
  | .fpuDiv d a b t => Sys2Proof.Machine.execFpuDiv d a b t s
  | .fpuSqrt d a t => Sys2Proof.Machine.execFpuSqrt d a t s
  | .fpuFma d a b t => Sys2Proof.Machine.execFpuFma d a b t s
  | .fpuMin d a b t => Sys2Proof.Machine.execFpuMin d a b t s
  | .fpuMax d a b t => Sys2Proof.Machine.execFpuMax d a b t s
  | .fpuEq d a b t => Sys2Proof.Machine.execFpuEq d a b t s
  | .fpuLt d a b t => Sys2Proof.Machine.execFpuLt d a b t s
  | .fpuLe d a b t => Sys2Proof.Machine.execFpuLe d a b t s
  | .fpuUnord d a b t => Sys2Proof.Machine.execFpuUnord d a b t s
  | .fpuNeg d a t => Sys2Proof.Machine.execFpuNeg d a t s
  | .fpuAbs d a t => Sys2Proof.Machine.execFpuAbs d a t s
  | .fpuRcp d a t => Sys2Proof.Machine.execFpuRcp d a t s
  | .fpuRsq d a t => Sys2Proof.Machine.execFpuRsq d a t s
  | .fpuTof32 d a t => Sys2Proof.Machine.execFpuTof32 d a t s
  | .fpuTof64 d a t => Sys2Proof.Machine.execFpuTof64 d a t s
  | .fpuTod64 d a t => Sys2Proof.Machine.execFpuTod64 d a t s
  | .fpuTobf16 d a t => Sys2Proof.Machine.execFpuTobf16 d a t s
  | .fpuTobf16sr d a => Sys2Proof.Machine.execFpuTobf16sr d a s
  | .fpuToi64 d a t => Sys2Proof.Machine.execFpuToi64 d a t s
  | .fpuToi64z d a t => Sys2Proof.Machine.execFpuToi64z d a t s
  | .fpuTon64 d a t => Sys2Proof.Machine.execFpuTon64 d a t s
  | .fpuFromi64 d a t => Sys2Proof.Machine.execFpuFromi64 d a t s
  | .fpuFromn64 d a t => Sys2Proof.Machine.execFpuFromn64 d a t s
  | .fpuQuant d a b => Sys2Proof.Machine.execFpuQuant d a b s
  | .ctlRd d num => Sys2Proof.Machine.execCtlRd d num s
  | .ctlWr a num => Sys2Proof.Machine.execCtlWr a num s
  | .ctlSet a num => Sys2Proof.Machine.execCtlSet a num s
  | .ctlClr a num => Sys2Proof.Machine.execCtlClr a num s
  | .svc n => Sys2Proof.Machine.execSvc n s
  | .tret => Sys2Proof.Machine.execTret s
  | .idle d a => Sys2Proof.Machine.execIdle d a s
  | .brk code => Sys2Proof.Machine.execBrk code s
  | .id d => Sys2Proof.Machine.execId d s
  | .csave d a slots keep coreBit => Sys2Proof.Machine.execCsave d a slots keep coreBit s
  | .crest a go => Sys2Proof.Machine.execCrest a go s
  | .tlbinvPage a scope => Sys2Proof.Machine.execTlbinvPage a scope s
  | .tlbinvAsid a scope => Sys2Proof.Machine.execTlbinvAsid a scope s
  | .tlbinvAll scope => Sys2Proof.Machine.execTlbinvAll scope s
  | .halt => Sys2Proof.Machine.execHalt s
  | .amoLd d a t sys ord => Sys2Proof.Machine.execAmoLd d a t sys ord s
  | .amoSt a b t sys ord => Sys2Proof.Machine.execAmoSt a b t sys ord s
  | .amoSwap d a b t sys ord => Sys2Proof.Machine.execAmoSwap d a b t sys ord s
  | .amoCas d a b t sys ord => Sys2Proof.Machine.execAmoCas d a b t sys ord s
  | .amoAdd d a b t sys ord => Sys2Proof.Machine.execAmoAdd d a b t sys ord s
  | .amoAnd d a b t sys ord => Sys2Proof.Machine.execAmoAnd d a b t sys ord s
  | .amoOr d a b t sys ord => Sys2Proof.Machine.execAmoOr d a b t sys ord s
  | .amoXor d a b t sys ord => Sys2Proof.Machine.execAmoXor d a b t sys ord s
  | .amoMin d a b t sys ord => Sys2Proof.Machine.execAmoMin d a b t sys ord s
  | .amoMax d a b t sys ord => Sys2Proof.Machine.execAmoMax d a b t sys ord s
  | .amoCas2 d a b sys ord => Sys2Proof.Machine.execAmoCas2 d a b sys ord s
  | .amoVadd d a b t sys ord => Sys2Proof.Machine.execAmoVadd d a b t sys ord s
  | .amoVmin d a b t sys ord => Sys2Proof.Machine.execAmoVmin d a b t sys ord s
  | .amoVmax d a b t sys ord => Sys2Proof.Machine.execAmoVmax d a b t sys ord s
  | .amoVswap d a b t sys ord => Sys2Proof.Machine.execAmoVswap d a b t sys ord s
  | .fenAll scope => Sys2Proof.Machine.execFenAll scope s
  | .fenLoad scope => Sys2Proof.Machine.execFenLoad scope s
  | .fenStore scope => Sys2Proof.Machine.execFenStore scope s
  | .fenEng scope => Sys2Proof.Machine.execFenEng scope s
  | .fenPhase d a => Sys2Proof.Machine.execFenPhase d a s
  | .barInit d a => Sys2Proof.Machine.execBarInit d a s
  | .barArrive d a => Sys2Proof.Machine.execBarArrive d a s
  | .barWait d a => Sys2Proof.Machine.execBarWait d a s
  | .barSync d a => Sys2Proof.Machine.execBarSync d a s
  | .futInit d a => Sys2Proof.Machine.execFutInit d a s
  | .futReg d a => Sys2Proof.Machine.execFutReg d a s
  | .futRes d a => Sys2Proof.Machine.execFutRes d a s
  | .futFail d a => Sys2Proof.Machine.execFutFail d a s
  | .futGet d a => Sys2Proof.Machine.execFutGet d a s
  | .futGetTry d a => Sys2Proof.Machine.execFutGetTry d a s
  | .taskSpawn d a => Sys2Proof.Machine.execTaskSpawn d a s
  | .taskSpawnHold d a => Sys2Proof.Machine.execTaskSpawnHold d a s
  | .taskExit => Sys2Proof.Machine.execTaskExit s
  | .taskYield d => Sys2Proof.Machine.execTaskYield d s
  | .hqTake => Sys2Proof.Machine.execHqTake s
  | .hqFill a b => Sys2Proof.Machine.execHqFill a b s
  | .hqFail a b => Sys2Proof.Machine.execHqFail a b s
  | .setvl d a wid => Sys2Proof.Machine.execSetvl d a wid s
  | .setrows d a => Sys2Proof.Machine.execSetrows d a s
  | .vwhile d a cond off t3 => Sys2Proof.Machine.execVwhile d a cond off t3 s
  | .vvAdd d a b t => Sys2Proof.Machine.execVvAdd d a b t s
  | .vvSub d a b t => Sys2Proof.Machine.execVvSub d a b t s
  | .vvAdds d a b t => Sys2Proof.Machine.execVvAdds d a b t s
  | .vvSubs d a b t => Sys2Proof.Machine.execVvSubs d a b t s
  | .vvMul d a b t => Sys2Proof.Machine.execVvMul d a b t s
  | .vvMulh d a b t => Sys2Proof.Machine.execVvMulh d a b t s
  | .vvDiv d a b t => Sys2Proof.Machine.execVvDiv d a b t s
  | .vvRem d a b t => Sys2Proof.Machine.execVvRem d a b t s
  | .vvAnd d a b t => Sys2Proof.Machine.execVvAnd d a b t s
  | .vvOr d a b t => Sys2Proof.Machine.execVvOr d a b t s
  | .vvXor d a b t => Sys2Proof.Machine.execVvXor d a b t s
  | .vvAndn d a b t => Sys2Proof.Machine.execVvAndn d a b t s
  | .vvShl d a b t => Sys2Proof.Machine.execVvShl d a b t s
  | .vvShr d a b t => Sys2Proof.Machine.execVvShr d a b t s
  | .vvMin d a b t => Sys2Proof.Machine.execVvMin d a b t s
  | .vvMax d a b t => Sys2Proof.Machine.execVvMax d a b t s
  | .vvPcnt d a t => Sys2Proof.Machine.execVvPcnt d a t s
  | .vvClz d a t => Sys2Proof.Machine.execVvClz d a t s
  | .vvCtz d a t => Sys2Proof.Machine.execVvCtz d a t s
  | .vvMv d b t => Sys2Proof.Machine.execVvMv d b t s
  | .vvNeg d a t => Sys2Proof.Machine.execVvNeg d a t s
  | .vvAbs d a t => Sys2Proof.Machine.execVvAbs d a t s
  | .vvQuant d a b => Sys2Proof.Machine.execVvQuant d a b s
  | .vxAdd d a b t => Sys2Proof.Machine.execVxAdd d a b t s
  | .vxSub d a b t => Sys2Proof.Machine.execVxSub d a b t s
  | .vxAdds d a b t => Sys2Proof.Machine.execVxAdds d a b t s
  | .vxSubs d a b t => Sys2Proof.Machine.execVxSubs d a b t s
  | .vxMul d a b t => Sys2Proof.Machine.execVxMul d a b t s
  | .vxMulh d a b t => Sys2Proof.Machine.execVxMulh d a b t s
  | .vxDiv d a b t => Sys2Proof.Machine.execVxDiv d a b t s
  | .vxRem d a b t => Sys2Proof.Machine.execVxRem d a b t s
  | .vxAnd d a b t => Sys2Proof.Machine.execVxAnd d a b t s
  | .vxOr d a b t => Sys2Proof.Machine.execVxOr d a b t s
  | .vxXor d a b t => Sys2Proof.Machine.execVxXor d a b t s
  | .vxAndn d a b t => Sys2Proof.Machine.execVxAndn d a b t s
  | .vxShl d a b t => Sys2Proof.Machine.execVxShl d a b t s
  | .vxShr d a b t => Sys2Proof.Machine.execVxShr d a b t s
  | .vxMin d a b t => Sys2Proof.Machine.execVxMin d a b t s
  | .vxMax d a b t => Sys2Proof.Machine.execVxMax d a b t s
  | .vxMv d b t => Sys2Proof.Machine.execVxMv d b t s
  | .vxQuant d a b => Sys2Proof.Machine.execVxQuant d a b s
  | .viAdd d a imm t => Sys2Proof.Machine.execViAdd d a imm t s
  | .viSub d a imm t => Sys2Proof.Machine.execViSub d a imm t s
  | .viAdds d a imm t => Sys2Proof.Machine.execViAdds d a imm t s
  | .viSubs d a imm t => Sys2Proof.Machine.execViSubs d a imm t s
  | .viMul d a imm t => Sys2Proof.Machine.execViMul d a imm t s
  | .viMulh d a imm t => Sys2Proof.Machine.execViMulh d a imm t s
  | .viDiv d a imm t => Sys2Proof.Machine.execViDiv d a imm t s
  | .viRem d a imm t => Sys2Proof.Machine.execViRem d a imm t s
  | .viAnd d a imm t => Sys2Proof.Machine.execViAnd d a imm t s
  | .viOr d a imm t => Sys2Proof.Machine.execViOr d a imm t s
  | .viXor d a imm t => Sys2Proof.Machine.execViXor d a imm t s
  | .viAndn d a imm t => Sys2Proof.Machine.execViAndn d a imm t s
  | .viShl d a imm t => Sys2Proof.Machine.execViShl d a imm t s
  | .viShr d a imm t => Sys2Proof.Machine.execViShr d a imm t s
  | .viMin d a imm t => Sys2Proof.Machine.execViMin d a imm t s
  | .viMax d a imm t => Sys2Proof.Machine.execViMax d a imm t s
  | .viMv d imm t => Sys2Proof.Machine.execViMv d imm t s
  | .vqFma d a b c t3 => Sys2Proof.Machine.execVqFma d a b c t3 s
  | .vqFms d a b c t3 => Sys2Proof.Machine.execVqFms d a b c t3 s
  | .vqFnma d a b c t3 => Sys2Proof.Machine.execVqFnma d a b c t3 s
  | .vqFnms d a b c t3 => Sys2Proof.Machine.execVqFnms d a b c t3 s
  | .vqSfma d a b c t3 => Sys2Proof.Machine.execVqSfma d a b c t3 s
  | .vqSfms d a b c t3 => Sys2Proof.Machine.execVqSfms d a b c t3 s
  | .vqSfnma d a b c t3 => Sys2Proof.Machine.execVqSfnma d a b c t3 s
  | .vqSfnms d a b c t3 => Sys2Proof.Machine.execVqSfnms d a b c t3 s
  | .vcmp d a b t cond => Sys2Proof.Machine.execVcmp d a b t cond s
  | .vcmpX d a b t cond => Sys2Proof.Machine.execVcmpX d a b t cond s
  | .vcmpI d a imm t cond => Sys2Proof.Machine.execVcmpI d a imm t cond s
  | .vcmpMand d a b => Sys2Proof.Machine.execVcmpMand d a b s
  | .vcmpMor d a b => Sys2Proof.Machine.execVcmpMor d a b s
  | .vcmpMxor d a b => Sys2Proof.Machine.execVcmpMxor d a b s
  | .vcmpMandn d a b => Sys2Proof.Machine.execVcmpMandn d a b s
  | .vcmpMset d => Sys2Proof.Machine.execVcmpMset d s
  | .vcmpMclr d => Sys2Proof.Machine.execVcmpMclr d s
  | .vredSum d a b t => Sys2Proof.Machine.execVredSum d a b t s
  | .vredMin d a b t => Sys2Proof.Machine.execVredMin d a b t s
  | .vredMax d a b t => Sys2Proof.Machine.execVredMax d a b t s
  | .vredAnd d a b t => Sys2Proof.Machine.execVredAnd d a b t s
  | .vredOr d a b t => Sys2Proof.Machine.execVredOr d a b t s
  | .vredXor d a b t => Sys2Proof.Machine.execVredXor d a b t s
  | .vredMinidx d a b t => Sys2Proof.Machine.execVredMinidx d a b t s
  | .vredMaxidx d a b t => Sys2Proof.Machine.execVredMaxidx d a b t s
  | .vredMpop d a => Sys2Proof.Machine.execVredMpop d a s
  | .vredMfirst d a => Sys2Proof.Machine.execVredMfirst d a s
  | .vpermSlup d a b t => Sys2Proof.Machine.execVpermSlup d a b t s
  | .vpermSldn d a b t => Sys2Proof.Machine.execVpermSldn d a b t s
  | .vpermPerm d a b t => Sys2Proof.Machine.execVpermPerm d a b t s
  | .vpermCompress d a t => Sys2Proof.Machine.execVpermCompress d a t s
  | .vpermXtr d a b t => Sys2Proof.Machine.execVpermXtr d a b t s
  | .vpermIns d a b t => Sys2Proof.Machine.execVpermIns d a b t s
  | .vpermIota d b t => Sys2Proof.Machine.execVpermIota d b t s
  | .vpermHold d a b t => Sys2Proof.Machine.execVpermHold d a b t s
  | .vpermDrain d t => Sys2Proof.Machine.execVpermDrain d t s
  | .vsfuRcp d a t => Sys2Proof.Machine.execVsfuRcp d a t s
  | .vsfuRcpe d a t => Sys2Proof.Machine.execVsfuRcpe d a t s
  | .vsfuRsq d a t => Sys2Proof.Machine.execVsfuRsq d a t s
  | .vsfuSqrt d a t => Sys2Proof.Machine.execVsfuSqrt d a t s
  | .vsfuExp2 d a t => Sys2Proof.Machine.execVsfuExp2 d a t s
  | .vsfuLog2 d a t => Sys2Proof.Machine.execVsfuLog2 d a t s
  | .vsfuSin d a t => Sys2Proof.Machine.execVsfuSin d a t s
  | .vsfuCos d a t => Sys2Proof.Machine.execVsfuCos d a t s
  | .vsfuTanh d a t => Sys2Proof.Machine.execVsfuTanh d a t s
  | .vsfuSilu d a t => Sys2Proof.Machine.execVsfuSilu d a t s
  | .vsfuSigm d a t => Sys2Proof.Machine.execVsfuSigm d a t s
  | .vldUnit d a t => Sys2Proof.Machine.execVldUnit d a t s
  | .vldStride d a t => Sys2Proof.Machine.execVldStride d a t s
  | .vldIndex d a b t => Sys2Proof.Machine.execVldIndex d a b t s
  | .vldElem d a b t => Sys2Proof.Machine.execVldElem d a b t s
  | .vstUnit d a t => Sys2Proof.Machine.execVstUnit d a t s
  | .vstUnitu d a t => Sys2Proof.Machine.execVstUnitu d a t s
  | .vstStride d a t => Sys2Proof.Machine.execVstStride d a t s
  | .vstStrideu d a t => Sys2Proof.Machine.execVstStrideu d a t s
  | .vstIndex d a b t => Sys2Proof.Machine.execVstIndex d a b t s
  | .vstIndexu d a b t => Sys2Proof.Machine.execVstIndexu d a b t s
  | .vstElem d a b t => Sys2Proof.Machine.execVstElem d a b t s
  | .vstElemu d a b t => Sys2Proof.Machine.execVstElemu d a b t s
  | .vstmBind d a => Sys2Proof.Machine.execVstmBind d a s
  | .vstmUnbind d => Sys2Proof.Machine.execVstmUnbind d s
  | .vstmSpill d a b => Sys2Proof.Machine.execVstmSpill d a b s
  | .vstmFill d a => Sys2Proof.Machine.execVstmFill d a s
  | .vsettle a => Sys2Proof.Machine.execVsettle a s
  | .vpresPresent d a t => Sys2Proof.Machine.execVpresPresent d a t s
  | .vpresPoisoned d a t => Sys2Proof.Machine.execVpresPoisoned d a t s
  | .vpresHeal d b t => Sys2Proof.Machine.execVpresHeal d b t s
  | .vcvt d a b t src rnd => Sys2Proof.Machine.execVcvt d a b t src rnd s
  | .mxMode d a b => Sys2Proof.Machine.execMxMode d a b s
  | .mxTshape d a b t => Sys2Proof.Machine.execMxTshape d a b t s
  | .mxOp d a b t => Sys2Proof.Machine.execMxOp d a b t s
  | .mxZero d => Sys2Proof.Machine.execMxZero d s
  | .mxMv d a => Sys2Proof.Machine.execMxMv d a s
  | .mxRdrow d a b => Sys2Proof.Machine.execMxRdrow d a b s
  | .mxRdcol d a b => Sys2Proof.Machine.execMxRdcol d a b s
  | .mxWrrow d a b => Sys2Proof.Machine.execMxWrrow d a b s
  | .mxWrcol d a b => Sys2Proof.Machine.execMxWrcol d a b s
  | .mxSpill d a => Sys2Proof.Machine.execMxSpill d a s
  | .mxFill d a => Sys2Proof.Machine.execMxFill d a s
  | .spEval d a t => Sys2Proof.Machine.execSpEval d a t s
  | .spGrad a b t => Sys2Proof.Machine.execSpGrad a b t s
  | .spDx d a b t => Sys2Proof.Machine.execSpDx d a b t s
  | .spRefine => Sys2Proof.Machine.execSpRefine s
  | .spPair a => Sys2Proof.Machine.execSpPair a s
  | .spGzero => Sys2Proof.Machine.execSpGzero s
  | .spGspill a => Sys2Proof.Machine.execSpGspill a s
  | .spGfill a => Sys2Proof.Machine.execSpGfill a s
  | .engCopy d a b k => Sys2Proof.Machine.execEngCopy d a b k s
  | .engMcast d a b k => Sys2Proof.Machine.execEngMcast d a b k s
  | .engGather d a b k => Sys2Proof.Machine.execEngGather d a b k s
  | .engPatt d a => Sys2Proof.Machine.execEngPatt d a s
  | .engColl a k => Sys2Proof.Machine.execEngColl a k s
  | .trapEntry t => Sys2Proof.Machine.execTrapEntry t s
  | .tableWalk va acc => Sys2Proof.Machine.execTableWalk va acc s
  | .accessPerform r => Sys2Proof.Machine.execAccessPerform r s
  | .targetFaultReport hart elem row t => Sys2Proof.Machine.execTargetFaultReport hart elem row t s
  | .replCopyUpdate die k => Sys2Proof.Machine.execReplCopyUpdate die k s
  | .streamReadAhead hart slot => Sys2Proof.Machine.execStreamReadAhead hart slot s
  | .engCompletion hart kind block status => Sys2Proof.Machine.execEngCompletion hart kind block status s
  | .collTimeout hart => Sys2Proof.Machine.execCollTimeout hart s
  | .hqTakeDispatch hart => Sys2Proof.Machine.execHqTakeDispatch hart s
  | .idleWake hart => Sys2Proof.Machine.execIdleWake hart s
  | .placementPass die => Sys2Proof.Machine.execPlacementPass die s
  | .preempt gang => Sys2Proof.Machine.execPreempt gang s
  | .preemptWaitExpiry die cls => Sys2Proof.Machine.execPreemptWaitExpiry die cls s
  | .remoteStopTimeout hart t => Sys2Proof.Machine.execRemoteStopTimeout hart t s
  | .hostStopTimeout hart t => Sys2Proof.Machine.execHostStopTimeout hart t s
  | .gangKill gang why => Sys2Proof.Machine.execGangKill gang why s
  | .dieFence die => Sys2Proof.Machine.execDieFence die s
  | .laneGroupRetire core group => Sys2Proof.Machine.execLaneGroupRetire core group s
  | .governorSample die percent => Sys2Proof.Machine.execGovernorSample die percent s
  | .thermalOver die => Sys2Proof.Machine.execThermalOver die s
  | .thermalStepDown die => Sys2Proof.Machine.execThermalStepDown die s
  | .thermalRecover die => Sys2Proof.Machine.execThermalRecover die s
  | .thermalStepUp die => Sys2Proof.Machine.execThermalStepUp die s
  | .boostIntervalEnd die => Sys2Proof.Machine.execBoostIntervalEnd die s
  | .linkDown port => Sys2Proof.Machine.execLinkDown port s
  | .linkUp port => Sys2Proof.Machine.execLinkUp port s
  | .peerReset port => Sys2Proof.Machine.execPeerReset port s
  | .fabricInboundRequest port r => Sys2Proof.Machine.execFabricInboundRequest port r s
  | .hostInboundWrite fn off data => Sys2Proof.Machine.execHostInboundWrite fn off data s
  | .hostInboundRead fn off len => Sys2Proof.Machine.execHostInboundRead fn off len s
  | .plinthFailing stack => Sys2Proof.Machine.execPlinthFailing stack s
  | .retireDrop stack => Sys2Proof.Machine.execRetireDrop stack s
  | .rangeReturn part => Sys2Proof.Machine.execRangeReturn part s
  | .partitionDeadline part => Sys2Proof.Machine.execPartitionDeadline part s
  | .walkStart => Sys2Proof.Machine.execWalkStart s
  | .granuleMove => Sys2Proof.Machine.execGranuleMove s
  | .copyBroadcast requester => Sys2Proof.Machine.execCopyBroadcast requester s
  | .hangWatchdog hart => Sys2Proof.Machine.execHangWatchdog hart s
  | .stewardWatchdog => Sys2Proof.Machine.execStewardWatchdog s
  | .packageReset replay failsAt images => Sys2Proof.Machine.execPackageReset replay failsAt images s
  | .energyUpdate microjoules => Sys2Proof.Machine.execEnergyUpdate microjoules s
  | .energyLoRead fn => Sys2Proof.Machine.execEnergyLoRead fn s
  | .mbtailWrite fn value => Sys2Proof.Machine.execMbtailWrite fn value s
  | .winbaseWrite fn value => Sys2Proof.Machine.execWinbaseWrite fn value s
  | .hostSpawn fn value => Sys2Proof.Machine.execHostSpawn fn value s
  | .dmbaseWrite part value => Sys2Proof.Machine.execDmbaseWrite part value s
  | .dmtailWrite part value => Sys2Proof.Machine.execDmtailWrite part value s
  | .registerWrite master addr value => Sys2Proof.Machine.execRegisterWrite master addr value s
  | .retire c stack => Sys2Proof.Machine.execRetire c stack s
  | .partCreate c part clusters ports ranges => Sys2Proof.Machine.execPartCreate c part clusters ports ranges s
  | .partDestroy c part => Sys2Proof.Machine.execPartDestroy c part s
  | .reset c part => Sys2Proof.Machine.execReset c part s
  | .quote c nonce => Sys2Proof.Machine.execQuote c nonce s
  | .unlockChallenge c => Sys2Proof.Machine.execUnlockChallenge c s
  | .unlock c challenge vendorSigned => Sys2Proof.Machine.execUnlock c challenge vendorSigned s
  | .record c => Sys2Proof.Machine.execRecord c s
  | .dbgHalt hart => Sys2Proof.Machine.execDbgHalt hart s
  | .dbgResume hart => Sys2Proof.Machine.execDbgResume hart s
  | .dbgStepInstruction hart count => Sys2Proof.Machine.execDbgStepInstruction hart count s
  | .dbgStepElements hart count => Sys2Proof.Machine.execDbgStepElements hart count s
  | .breakpointHit hart k => Sys2Proof.Machine.execBreakpointHit hart k s
  | .traceSample core => Sys2Proof.Machine.execTraceSample core s
  | .replayInject a => Sys2Proof.Machine.execReplayInject a s
  | .arrayRowGroupRetirement core column group => Sys2Proof.Machine.execArrayRowGroupRetirement core column group s
  | .packagePowerOff => Sys2Proof.Machine.execPackagePowerOff s

end Sys2Proof.Machine
end

