-- ==== Sys2Proof/Machine/Step.lean ====
section
/-! DEFINITION. One step of the machine: a device event that waits in the inbox, or an act of the hart whose turn it is. -/

namespace Sys2Proof.Machine

/-- What the turn comes to: an instruction to execute, or an act that is already done. -/
inductive Turn where
  | insn (i : Instr) (s : State)
  | act (s : State)

/-- The instruction at the pc of the hart whose turn it is: fetched, decoded, checked (R250, R251). Where it must wait for vector
entries before it, the hart tries again at its next turn. -/
noncomputable def fetchTurn (s : State) : Turn :=
  match fetchWord s s.turn s.hart.pc with
  | .error t => .act (stop s t)
  | .ok (w, s) =>
    match decodeWord w with
    | .error _ => .act (illegalWord s w)
    | .ok i => if !i.wf then .act (illegalWord s w) else if mayIssue s s.turn w then .insn i s else .act s

/-- The scalar side of a hart: a debug step that has nothing left to run (R410), a breakpoint (R408), else the instruction at its
pc. -/
noncomputable def issueTurn (s : State) : Turn :=
  let h := s.hart
  if h.viq.any (holdsBack h) && !h.intrap then .act s
  else if h.stepElems.isSome || breakpointBefore s s.turn h.pc then .act (haltHart s s.turn)
  else fetchTurn s

/-- The turn of a hart with vector entries: the oldest goes on; while it waits, the scalar side goes on (R110, R149), but in a debug
step of elements, which is for the oldest entry alone (R410). -/
noncomputable def vectorTurn (s : State) : Turn :=
  let r := headTurn s s.turn
  if !r.2 || r.1.hart.stepElems.isSome then .act r.1 else issueTurn (enterAhead r.1 s.turn)

/-- The turn of a hart that executes: a fault held for it (log 54), the wait of a helper that holds no entry (R343), a step of a built-in
fill routine, whose instructions lie at an address of the steward's (R262, R432), its oldest vector entry outside a trap handler (R153,
log 3), else its scalar side. -/
noncomputable def runningTurn (s : State) : Turn :=
  let h := s.hart
  match h.pending with
  | some t => .act (raise (s.setHart { h with pending := none }) s.turn h.pc (if h.intrap then none else h.viq.head?.map (·.seq)) (.trap t))
  | none =>
    if h.kind == .helper && h.pc == 0 && h.taken.isNone then .act (s.setHart { h with slot := .waiting, wait := .hole })
    else if h.builtin.isSome && h.pc == Config.builtinPc then .act (builtinStep s s.turn)
    else if h.queued then vectorTurn s
    else issueTurn (settleSync s s.turn)

/-- The turn of the hart: while it waits, its vector queue goes on. -/
noncomputable def turnOf (s : State) : Turn :=
  let h := s.hart
  if h.acts then runningTurn s
  else if h.slot = .waiting then
    if waitOver s s.turn then
      if h.wait == .hole then .act (dispatchHelper s s.turn) else runningTurn (s.setHart { h.run with retired := s.reftime })
    else if h.queued then .act (runHead s s.turn)
    else .act s
  else .act s

/-- The machine after a turn of a hart: the time that it took, and the requests that wait at the ports (R420). -/
def endTurn (before after : State) : State := drainPorts (tick before after)

/-- One step. -/
noncomputable def step (s : State) : Host.Outcome State Fault Refusal :=
  if s.powered = false then .fault .powerOff
  else if s.stew.booted = false then .fault .bootStopped
  else if s.stew.diverged.isSome then .fault .replayDiverged
  else
    match s.inbox with
    | e :: rest =>
      match exec e { s with inbox := rest } with
      | .next u => .next (settleNoted u)
      | .fault f => .fault f
      | .refused r => .refused r
    | [] =>
      match turnOf s with
      | .act t => .next (endTurn s t)
      | .insn i t =>
        match exec i t with
        | .next u => .next (endTurn s u)
        | .fault f => .fault f
        | .refused r => .refused r

/-- Where the hart whose turn it is fetches, when that is device memory. -/
def fetchPlace (s : State) : Option Nat :=
  if s.hart.slot = .running then
    match translate s s.turn .fetch false s.hart.pc.toNat with
    | .ok (p, _) => match p.loc with
      | .dev a => some a
      | _ => none
    | .error _ => none
  else none

/-- Tables that map the first 64 GiB of device memory onto itself, stage 2 at 0x10000 and stage 1 at 0x14000, with a hart
that runs at 0x20000 in supervisor privilege in slot 0 of core 0 (log 1). -/
def withHart (s : State) : State :=
  let dev := s.mem.dev
  let dev := Memory.writeNat dev 0x10000 8 0x12001
  let dev := Memory.writeNat dev 0x12000 8 0x1F
  let dev := Memory.writeNat dev 0x14000 8 0x16001
  let dev := Memory.writeNat dev 0x16000 8 0x3F
  let s := { s with mem := { s.mem with dev := dev }, turn := 0, inbox := [] }
  let s := s.setPartAt 0 { s.partAt 0 with root2 := 0x10000 }
  s.setHartAt 0 { s.hartAt 0 with slot := .running, kind := .vector, priv := .supervisor, pc := 0x20000,
                                  ptbase := 0x14000, codeAt := s.mem.past.length }

/-- The state with an instruction stored where the next step fetches it, for a hart that sees the store (R117, log 1). -/
def State.withFetchWord (s : State) (_nbits w : Nat) : State :=
  match fetchPlace s with
  | some a =>
    let s := s.setHart { s.hart with codeAt := s.mem.past.length }
    { s with mem := { s.mem with dev := Memory.writeNat s.mem.dev a 4 (w % 2 ^ 32) }, inbox := [] }
  | none =>
    let s := withHart s
    { s with mem := { s.mem with dev := Memory.writeNat s.mem.dev 0x20000 4 (w % 2 ^ 32) } }

end Sys2Proof.Machine
end

