-- ==== Sys2Proof/Safety.lean ====
section
/-! DEFINITION. What the claims speak of: what counts as a sound state, what a program reads of the machine byte by byte, the
values that R271 to R274 give, and the states after an instruction that completes. -/

namespace Sys2Proof.Machine.Claim

/-! ### Sound memories -/

/-- Every memory outside the cores is in its canonical form (log 2): device memory, the host's and the peers'. -/
def memOk (s : State) : Prop :=
  Memory.wf s.mem.dev = true ∧ Memory.wf s.mem.host = true ∧
  ∀ (p : Nat) (m : Memory), (p, m) ∈ s.mem.peers → Memory.wf m = true

/-! ### What a program reads -/

/-- The byte at a location. -/
def byteAt (s : State) (l : Loc) : Byte :=
  match l with
  | .dev a => Memory.read1 s.mem.dev a
  | .spad c o => Memory.read1 (s.coreAt c).spad o
  | .sdm c o => Memory.read1 (s.coreAt c).sdm o
  | .remote p a => Memory.read1 (Table.get [] s.mem.peers p) a
  | .host a => Memory.read1 s.mem.host a
  | .regs a => BitVec.ofNat 8 (regValue s (a / 8 * 8) / 256 ^ (a % 8))

/-- Locations of memory; register blocks are none. -/
def isMem (l : Loc) : Bool := match l with | .regs _ => false | _ => true

/-- The location some bytes after another lies in the same memory. -/
def stored (l : Loc) (n : Nat) (x : Loc) : Prop := ∃ i, i < n ∧ x = l.plus i

/-- A place on chip, or on a KIND 0 page without ENC, whose bytes a hart may read or write: a plinth delivers it and serves
the hart's partition, no protected strip holds it, no word of it is uncorrectable (R22, R36, R209, R213, R220). -/
def serves (s : State) (k : Nat) (p : Place) (n : Nat) : Prop :=
  match p.loc with
  | .dev a => p.kind = 0 ∧ p.enc = false ∧ s.mem.cap * 4096 > a ∧ s.owns ((s.partOf (coreOf k)).getD 0) a = true ∧
      Table.find? s.mem.bad (a / 64) = none ∧
      (Table.find? s.mem.sectors (a / 512) = none ∨ Table.find? s.mem.sectors (a / 512) = some .plain)
  | .spad c o => s.inPiece c o = false ∧ badWord (s.coreAt c).badSpad o n = false
  | .sdm c o => badWord (s.coreAt c).badSdm o n = false
  | _ => False

/-- Bytes of the executing core's scratchpad, by virtual address in the local window (R10, R50), that no protected strip holds and
that no uncorrectable word holds. -/
def inSpad (s : State) (va n : Nat) : Prop :=
  Config.localBase ≤ va ∧ va + n ≤ Config.localBase + Config.spadBytes ∧
  badWord s.core.badSpad (va - Config.localBase) n = false ∧
  ∀ i, i < n → s.inPiece (coreOf s.turn) (va + i - Config.localBase) = false

/-- The scratchpad byte at a virtual address of the local window. -/
def spadByte (s : State) (va : Nat) : Byte := Memory.read1 s.core.spad (va - Config.localBase)

/-- The executing hart has no open protected strip (R213). -/
def noStrip (s : State) : Prop := s.hart.ckpt = none ∧ s.hart.strip = [] ∧ s.hart.used = 0

/-! ### Values of scalar instructions -/

/-- The operand of a type (R271). -/
abbrev cut (t : Ty) (x : Word) : BitVec t.width := x.setWidth t.width

/-- A value of a type in a register: i types extend their sign, every other type zeros (R271). -/
def wide (t : Ty) (v : BitVec t.width) : Word := if t.isSigned then v.signExtend 64 else v.setWidth 64

/-- Saturation (R221). -/
def saturate (signed : Bool) (w : Nat) (x : Int) : BitVec w :=
  if signed then BitVec.ofInt w (max (-(2 ^ (w - 1))) (min (2 ^ (w - 1) - 1) x))
  else BitVec.ofInt w (max 0 (min (2 ^ w - 1) x))

/-- The value of a pattern as a signed or an unsigned number. -/
def val (signed : Bool) {w : Nat} (x : BitVec w) : Int := if signed then x.toInt else x.toNat

/-- add, sub, adds, subs, mul, mulh (R272, R311). -/
def arith (fn : BinFn) (sg : Bool) {w : Nat} (x y : BitVec w) : Option (BitVec w) :=
  match fn with
  | .add => some (x + y)
  | .sub => some (x - y)
  | .adds => some (saturate sg w (val sg x + val sg y))
  | .subs => some (saturate sg w (val sg x - val sg y))
  | .mul => some (x * y)
  | .mulh => some (if sg then (x.signExtend (2 * w) * y.signExtend (2 * w)).extractLsb' w w
      else (x.setWidth (2 * w) * y.setWidth (2 * w)).extractLsb' w w)
  | _ => none

/-- div and rem (R272, R311): a zero divisor gives all ones and the dividend, and a signed quotient is cut towards zero. -/
def divide (fn : BinFn) (sg : Bool) {w : Nat} (x y : BitVec w) : Option (BitVec w) :=
  match fn with
  | .div => some (if y = 0 then BitVec.allOnes w else if sg then x.sdiv y else x / y)
  | .rem => some (if y = 0 then x else if sg then x.srem y else x % y)
  | _ => none

/-- and, or, xor, andn, shl, shr (R272, R311): a shift counts modulo the width. -/
def logic (fn : BinFn) (sg : Bool) {w : Nat} (x y : BitVec w) : Option (BitVec w) :=
  match fn with
  | .and => some (x &&& y)
  | .or => some (x ||| y)
  | .xor => some (x ^^^ y)
  | .andn => some (x &&& ~~~y)
  | .shl => some (x <<< (y.toNat % w))
  | .shr => some (if sg then x.sshiftRight (y.toNat % w) else x >>> (y.toNat % w))
  | _ => none

/-- min and max (R272, R311). -/
def extreme (fn : BinFn) (sg : Bool) {w : Nat} (x y : BitVec w) : Option (BitVec w) :=
  match fn with
  | .min => some (if (if sg then y.slt x else y.ult x) then y else x)
  | .max => some (if (if sg then x.slt y else x.ult y) then y else x)
  | _ => none

/-- Every integer function of two operands. -/
def intFn2 (fn : BinFn) (sg : Bool) {w : Nat} (x y : BitVec w) : Option (BitVec w) :=
  (arith fn sg x y) <|> (divide fn sg x y) <|> (logic fn sg x y) <|> (extreme fn sg x y)

/-- pcnt, clz and ctz (R272, R311). -/
def intFn1 (fn : UnFn) {w : Nat} (x : BitVec w) : Option Nat :=
  match fn with
  | .pcnt => some ((List.range w).countP fun i => x.getLsbD i)
  | .clz => some ((List.range w).takeWhile fun i => !x.getMsbD i).length
  | .ctz => some ((List.range w).takeWhile fun i => !x.getLsbD i).length
  | _ => none

/-- The scalar forms of two operands: function, destination, sources and type. -/
def alu2 (i : Instr) : Option (BinFn × Reg × Reg × Reg × Ty) :=
  match i with
  | .aluAdd d a b t => some (.add, d, a, b, t)
  | .aluSub d a b t => some (.sub, d, a, b, t)
  | .aluAdds d a b t => some (.adds, d, a, b, t)
  | .aluSubs d a b t => some (.subs, d, a, b, t)
  | .aluMul d a b t => some (.mul, d, a, b, t)
  | .aluMulh d a b t => some (.mulh, d, a, b, t)
  | .aluDiv d a b t => some (.div, d, a, b, t)
  | .aluRem d a b t => some (.rem, d, a, b, t)
  | .aluAnd d a b t => some (.and, d, a, b, t)
  | .aluOr d a b t => some (.or, d, a, b, t)
  | .aluXor d a b t => some (.xor, d, a, b, t)
  | .aluAndn d a b t => some (.andn, d, a, b, t)
  | .aluShl d a b t => some (.shl, d, a, b, t)
  | .aluShr d a b t => some (.shr, d, a, b, t)
  | .aluMin d a b t => some (.min, d, a, b, t)
  | .aluMax d a b t => some (.max, d, a, b, t)
  | _ => none

/-- The values of alui and hi (R273, R274). -/
def immValue (i : Instr) (r : Reg → Word) : Option (Reg × Word) :=
  match i with
  | .aluiAdd d a n => some (d, BitVec.ofInt 64 ((r a).toInt + n.toInt))
  | .aluiAnd d a n => some (d, r a &&& BitVec.ofInt 64 n.toInt)
  | .aluiOr d a n => some (d, r a ||| BitVec.ofInt 64 n.toInt)
  | .aluiXor d a n => some (d, r a ^^^ BitVec.ofInt 64 n.toInt)
  | .aluiShl d a n => some (d, BitVec.ofNat 64 ((r a).toNat * 2 ^ n.toNat))
  | .aluiShr d a n => some (d, BitVec.ofNat 64 ((r a).toNat / 2 ^ n.toNat))
  | .aluiSra d a n => some (d, BitVec.ofInt 64 ((r a).toInt / 2 ^ n.toNat))
  | .aluiSlt d a n => some (d, if (r a).toInt < n.toInt then 1 else 0)
  | .aluiSltu d a n => some (d, if (r a).toNat < (BitVec.ofInt 64 n.toInt).toNat then 1 else 0)
  | .hi d a n => some (d, BitVec.ofNat 64 ((r a).toNat * 65536 + n.toNat))
  | _ => none

/-! ### States after an instruction -/

/-- The hart after an instruction that writes at most one scalar register and goes on to the next: nothing else of the hart
changes. `done` and `masked` are the model's own (R410, R200). -/
def stepped (h : Hart) (d : Reg) (v : Word) : Hart :=
  { h with s := if d = 0 then h.s else h.s.set d.val v, pc := h.pc + 4, done := h.done + 1, masked := false }

/-- The machine with the executing hart replaced, and nothing else. -/
def withTurn (s : State) (h : Hart) : State := { s with harts := Table.set s.harts s.turn h }

/-- The machine after an instruction of the executing hart that only writes s[d]. -/
def wrote (s : State) (d : Reg) (v : Word) : State := withTurn s (stepped s.hart d v)

/-- The machine after an instruction of the executing hart that only moves its pc. -/
def jumped (s : State) (h : Hart) (pc : Word) : State :=
  withTurn s { h with pc := pc, done := h.done + 1, masked := false }

end Sys2Proof.Machine.Claim
end

