-- ==== Sys2Proof/Claims/Scalar.lean ====
section
/-! DEFINITION. What the claims about scalar instructions speak of: floating-point results, control registers, traps. -/

namespace Sys2Proof.Machine.Claim

/-- The rows of the opcode table that have no word: the device's events. -/
def isEvent (i : Instr) : Bool :=
  match i with
  | .trapEntry _ | .tableWalk _ _ | .accessPerform _ | .targetFaultReport _ _ _ _ | .replCopyUpdate _ _ | .streamReadAhead _ _
  | .engCompletion _ _ _ _ | .collTimeout _ | .hqTakeDispatch _ | .idleWake _ | .placementPass _ | .preempt _
  | .preemptWaitExpiry _ _ | .remoteStopTimeout _ _ | .hostStopTimeout _ _ | .gangKill _ _ | .dieFence _ | .laneGroupRetire _ _
  | .governorSample _ _ | .thermalOver _ | .thermalStepDown _ | .thermalRecover _ | .thermalStepUp _ | .boostIntervalEnd _
  | .linkDown _ | .linkUp _ | .peerReset _ | .fabricInboundRequest _ _ | .hostInboundWrite _ _ _ | .hostInboundRead _ _ _
  | .plinthFailing _ | .retireDrop _ | .rangeReturn _ | .partitionDeadline _ | .walkStart | .granuleMove | .copyBroadcast _
  | .hangWatchdog _ | .stewardWatchdog | .packageReset _ _ _ | .energyUpdate _ | .energyLoRead _ | .mbtailWrite _ _
  | .winbaseWrite _ _ | .hostSpawn _ _ | .dmbaseWrite _ _ | .dmtailWrite _ _ | .registerWrite _ _ _ | .retire _ _
  | .partCreate _ _ _ _ _ | .partDestroy _ _ | .reset _ _ | .quote _ _ | .unlockChallenge _ | .unlock _ _ _ | .record _
  | .dbgHalt _ | .dbgResume _ | .dbgStepInstruction _ _ | .dbgStepElements _ _ | .breakpointHit _ _ | .traceSample _
  | .replayInject _ | .arrayRowGroupRetirement _ _ _ | .packagePowerOff => true
  | _ => false

/-! ### Floating point -/

/-- The operand of a floating-point or decimal type, as a pattern (R271). -/
def pat (t : Ty) (h : Hart) (r : Reg) : Nat := (h.reg r).toNat % 2 ^ t.width

/-- What an fpu instruction delivers (R285 to R288): its destination, whether its exceptions are decimal (R284), the value, the
flags it raises. -/
def fpuValue (i : Instr) (h : Hart) : Option (Reg × Bool × Word × Nat) :=
  let out := fun (d : Reg) (dec : Bool) (r : Nat × Nat) => some (d, dec, BitVec.ofNat 64 r.1, r.2)
  let truth := fun (d : Reg) (dec : Bool) (r : Bool × Nat) => some (d, dec, if r.1 then (1 : Word) else 0, r.2)
  let rm := fun (t : Ty) => if t = .d64 then drmOf h.fpctl else brmOf h.fpctl
  match i with
  | .fpuAdd d a b t => out d (t == .d64) (addT t (rm t) (pat t h a) (pat t h b))
  | .fpuSub d a b t => out d (t == .d64) (subT t (rm t) (pat t h a) (pat t h b))
  | .fpuMul d a b t => out d (t == .d64) (mulT t (rm t) (pat t h a) (pat t h b))
  | .fpuDiv d a b t => out d (t == .d64) (divT t (rm t) (pat t h a) (pat t h b))
  | .fpuSqrt d a t => out d (t == .d64) (sqrtT t (rm t) (pat t h a))
  | .fpuFma d a b t => out d (t == .d64) (fmaT t (rm t) false false (pat t h a) (pat t h b) (pat t h d))
  | .fpuMin d a b t => out d (t == .d64) (minMaxT t false (pat t h a) (pat t h b))
  | .fpuMax d a b t => out d (t == .d64) (minMaxT t true (pat t h a) (pat t h b))
  | .fpuEq d a b t => truth d (t == .d64) (cmpEq t (pat t h a) (pat t h b))
  | .fpuLt d a b t => truth d (t == .d64) (cmpLt t (pat t h a) (pat t h b))
  | .fpuLe d a b t => truth d (t == .d64) (cmpLe t (pat t h a) (pat t h b))
  | .fpuUnord d a b t => truth d (t == .d64) (cmpUnord t (pat t h a) (pat t h b))
  | .fpuNeg d a t => out d false ((pat t h a) ^^^ 2 ^ (t.width - 1), 0)
  | .fpuAbs d a t => out d false ((pat t h a) % 2 ^ (t.width - 1), 0)
  | .fpuRcp d a t => out d (t == .d64) (roundBin (fmtOf t) (rm t) (rcpEx (unpack t (pat t h a))))
  | .fpuRsq d a t => out d (t == .d64) (roundBin (fmtOf t) (rm t) (rsqEx (unpack t (pat t h a))))
  | .fpuTof32 d a t => out d (t == .d64) (convertT t .f32 (brmOf h.fpctl) (pat t h a))
  | .fpuTof64 d a t => out d (t == .d64) (convertT t .f64 (brmOf h.fpctl) (pat t h a))
  | .fpuTod64 d a t => out d true (convertT t .d64 (drmOf h.fpctl) (pat t h a))
  | .fpuTobf16 d a t => out d (t == .d64) (convertT t .bf16 (brmOf h.fpctl) (pat t h a))
  | .fpuToi64 d a t => out d (t == .d64) (toIntT t .i64 (rm t) (pat t h a))
  | .fpuToi64z d a t => out d (t == .d64) (toIntT t .i64 .rtz (pat t h a))
  | .fpuTon64 d a t => out d (t == .d64) (toIntT t .n64 (rm t) (pat t h a))
  | .fpuFromi64 d a t => out d (t == .d64) (fromIntT t (rm t) (h.reg a).toInt)
  | .fpuFromn64 d a t => out d (t == .d64) (fromIntT t (rm t) (h.reg a).toNat)
  | .fpuQuant d a b => out d true (quantT (drmOf h.fpctl) (pat .d64 h a) (pat .d64 h b))
  | _ => none

/-- Flags in fpflags: BFL in bits 4:0, DFL in bits 20:16 (R237). -/
def flagBits (dec : Bool) (fl : Nat) : Nat := if dec then fl * 65536 else fl

/-- The raised flags whose exceptions are enabled: BTE and DTE of fpctl (R236). -/
def trapped (fpctl : Word) (dec : Bool) (fl : Nat) : Nat :=
  fl &&& (if dec then fpctl.toNat / 2 ^ 16 % 32 else fpctl.toNat / 2 ^ 8 % 32)

/-- The first enabled exception in the order of R195. -/
def firstOf (fl : Nat) : Nat :=
  if fl.testBit 0 then 1 else if fl.testBit 1 then 2 else if fl.testBit 2 then 3 else if fl.testBit 3 then 4 else 5

/-- A hart with flags raised. -/
def flagged (h : Hart) (dec : Bool) (fl : Nat) : Hart := { h with fpflags := h.fpflags ||| flagBits dec fl }

/-! ### Rounding, as the pseudocode of R226 writes it, over the reals -/

/-- The real that a pattern of a binary format stands for; NaN and the infinities stand for none. -/
noncomputable def real (f : Fmt) (v : Nat) : Option ℝ :=
  match unpackBin f v with
  | .fin neg m e => some ((if neg then -1 else 1) * (m : ℝ) * (2 : ℝ) ^ e)
  | _ => none

/-- Whether k grows by one (R226), for the four modes that fpctl.BRM selects. -/
noncomputable def grows (rm : Rm) (neg : Bool) (k : Nat) (fr : ℝ) : Prop :=
  match rm with
  | .rne => 1 / 2 < fr ∨ (fr = 1 / 2 ∧ k % 2 = 1)
  | .rtz => False
  | .rup => neg = false ∧ 0 < fr
  | .rdn => neg = true ∧ 0 < fr
  | _ => False

open Classical in
/-- round_bin of a real that is not zero (R226): the rounded magnitude k * q, and whether something was cut off. -/
noncomputable def rounded (f : Fmt) (rm : Rm) (x : ℝ) : ℝ × Prop :=
  let e := max (Int.log 2 |x|) f.emin
  let q := (2 : ℝ) ^ (e - f.p + 1)
  let k := ⌊|x| / q⌋.toNat
  let fr := |x| / q - k
  ((if grows rm (decide (x < 0)) k fr then (k : ℝ) + 1 else k) * q, 0 < fr)

/-- The greatest finite value of a format. -/
noncomputable def greatest (f : Fmt) : ℝ := (real f f.top).getD 0

/-- A result v with flags fl is the real x rounded: it is s * k * q where that is no more than F.max, and INEXACT is raised just when
something was cut off (R226, R230). -/
def isRounded (f : Fmt) (rm : Rm) (x : ℝ) (r : Nat × Nat) : Prop :=
  (rounded f rm x).1 ≤ greatest f →
    real f r.1 = some ((if x < 0 then -1 else 1) * (rounded f rm x).1) ∧ (r.2.testBit 4 = true ↔ (rounded f rm x).2)

/-! ### Traps -/

/-- Whether a trap of a cause goes to the U bank of a hart (R191, R192, R199). -/
def toUser (h : Hart) (c : Cause) : Bool :=
  (c == .fpx || c == .decx || c == .poison || c == .fut2 || c == .pattern || c == .break_) &&
  !h.ubank.intrap && (h.ubank.tvec &&& ~~~3#64) != 0

/-- A user-class cause raised while the U bank handles a trap (R199). -/
def nests (h : Hart) (c : Cause) : Bool :=
  (c == .fpx || c == .decx || c == .poison || c == .fut2 || c == .pattern || c == .break_) && h.ubank.intrap

/-- tcause as trap entry writes it (R194): CAUSE, PL, VEC, RESUME 0, NESTED, INTRAP. -/
def causeWord (h : Hart) (vec : Bool) (c : Cause) : Nat :=
  causeCode c + (if h.priv = .supervisor then 2 ^ 10 else 0) + (if vec then 2 ^ 11 else 0) + (if nests h c then 2 ^ 14 else 0) + 2 ^ 15

/-- The eight registers of a bank at trap entry outside a vector entry (R153, R193 to R196). -/
def bankAt (b : TrapBank) (h : Hart) (tpc : Word) (t : TrapInfo) : TrapBank :=
  { tvec := b.tvec, tcause := BitVec.ofNat 64 (causeWord h false t.cause), tpc := tpc
    tsub := BitVec.ofNat 64 (t.orig % 256 * 256 + t.level % 16 * 16 + t.sub % 16)
    tviq := BitVec.ofNat 64 (h.viq.length + (match h.viq.head? with | some e => e.seq * 256 | none => 0))
    treg := BitVec.ofNat 64 (t.treg % 64), telem := BitVec.ofNat 64 (t.telem % 2 ^ 14), taddr := BitVec.ofNat 64 t.taddr }

/-- The hart after trap entry at a scalar instruction (R148, R198): the bank written, the privilege raised by the S bank and the hart
STOPPED while that handler runs, the pc at the bank's handler, the queue parked. -/
def trapHart (h : Hart) (tpc : Word) (t : TrapInfo) : Hart :=
  let h := { h with viq := h.viq.map VEntry.park }
  if toUser h t.cause then { h with slot := .running, ubank := bankAt h.ubank h tpc t, pc := h.ubank.tvec &&& ~~~3#64 }
  else { h with
    slot := .stopped, wait := .handler, sbank := bankAt h.sbank h tpc t, pc := h.sbank.tvec &&& ~~~3#64, priv := .supervisor }

/-- A hart that takes a trap: no trap in its S bank, a handler there, no open strip that a UE would rewind, no stream bound, no debug
step under way; a helper has a handler of its own (R203). -/
def trapReady (h : Hart) : Prop :=
  h.sbank.intrap = false ∧ (h.sbank.tvec &&& ~~~3#64) ≠ 0 ∧ h.ckpt = none ∧ h.streams = [] ∧ h.stepsLeft = none ∧
  h.stepElems = none ∧ (h.kind = .helper → (h.ubank.tvec &&& ~~~3#64) ≠ 0)

/-- The machine after the executing hart took a trap at its instruction. -/
def trapped' (s : State) (tpc : Word) (t : TrapInfo) : State := withTurn s (trapHart s.hart tpc t)

/-! ### Control registers -/

/-- What a ctl write puts into the RW bits of a register (R252, R253): forms 1 ctl.wr, 2 ctl.set, 3 ctl.clr. -/
def ctlValue (fn : Nat) (old x : Nat) : Nat :=
  match fn with | 1 => x | 2 => old ||| x | _ => old &&& (2 ^ 64 - 1 - x)

/-- The write forms by number. -/
def ctlForm (fn : Fin 3) (a : Reg) (num : BitVec 12) : Instr :=
  match fn with | 0 => .ctlWr a num | 1 => .ctlSet a num | 2 => .ctlClr a num

/-- Nothing of the executing hart's vector side is under way: it may commit, its queues are empty, no entry of the hole queue is in
use, the core's debug unit is as after reset, no debug step runs. -/
def idleQueue (s : State) : Prop :=
  s.hart.kind = .vector ∧ s.hart.intrap = false ∧ s.hart.viq = [] ∧ s.hart.sync = [] ∧ s.hart.stepElems = none ∧ s.core.holes = [] ∧
  s.core.dbg = []

/-- Registers that ctl.rd reads of a vector hart in supervisor privilege, with the values their maps give (R252). -/
def ctlList (s : State) : List (Nat × Nat) :=
  let h := s.hart
  let c := s.core
  [(0x000, h.vl), (0x001, h.vrows), (0x002, h.vmk), (0x003, h.vstride.toNat), (0x005, h.vlcap), (0x008, h.pmode), (0x009, h.vdens),
   (0x040, c.owner * 2 ^ 12 + c.mode * 2 ^ 8 + c.mvl), (0x041, c.tm), (0x042, c.tn), (0x043, c.tk), (0x044, c.korg), (0x045, c.kinv),
   (0x046, c.kgrid), (0x047, c.kdeg), (0x048, c.kclamp), (0x080, h.fpctl.toNat), (0x082, h.srkey * 2 ^ 32 + h.srcount),
   (0x084, h.filltab.toNat), (0x0C0, s.mem.cap * 2 ^ 12), (0x0C1, s.mem.oldLive * 2 ^ 40 + s.mem.live * 2 ^ 32 + s.mem.phase),
   (0x0D0, h.ckmask), (0x0D1, h.ckvmask), (0x103, s.stew.energy), (0x104, s.now % 2 ^ 64), (0x105, s.now / 20 % 2 ^ 64),
   (0x140, h.sbank.tvec.toNat), (0x141, h.sbank.tcause.toNat), (0x142, h.sbank.tsub.toNat), (0x143, h.sbank.tpc.toNat),
   (0x144, h.sbank.tviq.toNat), (0x145, h.sbank.treg.toNat), (0x146, h.sbank.telem.toNat), (0x147, h.sbank.taddr.toNat),
   (0x150, h.ubank.tvec.toNat), (0x151, h.ubank.tcause.toNat), (0x152, h.ubank.tsub.toNat), (0x153, h.ubank.tpc.toNat),
   (0x154, h.ubank.tviq.toNat), (0x155, h.ubank.treg.toNat), (0x156, h.ubank.telem.toNat), (0x157, h.ubank.taddr.toNat),
   (0x180, h.ptbase.toNat)]

/-! ### Memory -/

/-- The n bytes at a location, as a little-endian number (R4). -/
def numAt (s : State) (l : Loc) (n : Nat) : Nat := leNat ((List.range n).map fun i => byteAt s (l.plus i))

/-- Memory after n bytes from a location on took the bytes of a number, and nothing else changed. -/
def memAfter (s t : State) (l : Loc) (n v : Nat) : Prop :=
  (∀ i, i < n → byteAt t (l.plus i) = BitVec.ofNat 8 (v / 256 ^ i)) ∧
  ∀ x, isMem x = true → ¬ stored l n x → byteAt t x = byteAt s x

/-- Memory that holds what it held. -/
def memSame (s t : State) : Prop := ∀ x, isMem x = true → byteAt t x = byteAt s x

end Sys2Proof.Machine.Claim
end

