-- ==== Sys2Proof/Claims/Sync.lean ====
section
/-! DEFINITION. What the claims about atomics, barriers, futures, tasks and context images speak of: what stays, and what an atomic
writes. -/

namespace Sys2Proof.Machine.Claim

/-! ### What stays -/

/-- Every hart but the executing one is as it was. -/
def hartsSame (s t : State) : Prop := ∀ k, k ≠ s.turn → t.hartAt k = s.hartAt k

/-- A core but for its memories with their fill records and uncorrectable words, and the translations that it keeps. -/
def Core.rest (c : Core) : Core := { c with spad := [], sdm := [], fills := [], badSpad := [], badSdm := [], tlb := [] }

/-- The memory system but for what memories hold and the record of their writes. -/
def MemSys.rest (m : MemSys) : MemSys := { m with dev := [], host := [], peers := [], bad := [], sectors := [], repl := [], past := [] }

/-- Everything but the executing hart and the contents of memories is as it was: the other harts, the registers and cells of the
cores, the memory system, partitions, tasks, gangs, dies, clusters, the steward. The free values that a walk may draw are the
model's own (log 7). -/
def restSame (s t : State) : Prop :=
  hartsSame s t ∧ (∀ c, Core.rest (t.coreAt c) = Core.rest (s.coreAt c)) ∧ MemSys.rest t.mem = MemSys.rest s.mem ∧
  t.parts = s.parts ∧ t.tasks = s.tasks ∧ t.gangs = s.gangs ∧ t.placements = s.placements ∧ t.dies = s.dies ∧
  t.clusters = s.clusters ∧ t.stew = s.stew ∧ t.archive = s.archive ∧ t.turn = s.turn ∧ t.now = s.now ∧ t.powered = s.powered ∧ t.inbox = s.inbox

/-- Memory outside some ranges holds what it held. -/
def memOutside (s t : State) (ranges : List (Loc × Nat)) : Prop :=
  ∀ x, isMem x = true → (∀ r, r ∈ ranges → ¬ stored r.1 r.2 x) → byteAt t x = byteAt s x

/-! ### Atomics -/

/-- What an atomic returns and writes: its destination (s0 where it returns nothing), address register, type and ordering, and the
new value from the old one; none: nothing is written (R387). -/
structure Amo where
  d : Reg
  a : Reg
  t : Ty
  acquire : Bool
  release : Bool
  new : (old : BitVec t.width) → Option (BitVec t.width)

/-- The scalar atomics (R387). The f32 sums and extremes round under RNE and raise nothing. -/
def amoOf (i : Instr) (r : Reg → Word) : Option Amo :=
  let two := fun (fn : BinFn) (float : Nat → Nat → Nat) (d a b : Reg) (t : Ty) (o : BitVec 2) =>
    some { d := d, a := a, t := t, acquire := o.getLsbD 0, release := o.getLsbD 1
           new := fun old =>
             if t = .f32 then some (BitVec.ofNat t.width (float old.toNat (cut t (r b)).toNat))
             else intFn2 fn t.isSigned old (cut t (r b)) : Amo }
  let keep := fun (d a : Reg) (t : Ty) (o : BitVec 2) (new : BitVec t.width → Option (BitVec t.width)) =>
    some { d := d, a := a, t := t, acquire := o.getLsbD 0, release := o.getLsbD 1, new := new : Amo }
  match i with
  | .amoLd d a t _ o => keep d a t o fun _ => none
  | .amoSt a b t _ o => keep 0 a t o fun _ => some (cut t (r b))
  | .amoSwap d a b t _ o => keep d a t o fun _ => some (cut t (r b))
  | .amoCas d a b t _ o => keep d a t o fun old => if old = cut t (r d) then some (cut t (r b)) else none
  | .amoAdd d a b t _ o => two .add (fun x y => (addT .f32 .rne x y).1) d a b t o
  | .amoAnd d a b t _ o => two .and (fun x _ => x) d a b t o
  | .amoOr d a b t _ o => two .or (fun x _ => x) d a b t o
  | .amoXor d a b t _ o => two .xor (fun x _ => x) d a b t o
  | .amoMin d a b t _ o => two .min (fun x y => (minMaxT .f32 false x y).1) d a b t o
  | .amoMax d a b t _ o => two .max (fun x y => (minMaxT .f32 true x y).1) d a b t o
  | _ => none

/-! ### Open strips (R114) -/

/-- No requester's copy differs from the registers of live stack retirement, and no walk is under way (R94, R95). -/
def mapsAgree (s : State) : Prop := s.mem.phase % 2 = 0 ∧ s.mem.was = []

/-- A buffered store of the executing hart that its target accepts: on chip, or within one plain codeword. -/
def lands (s : State) (b : StripStore) : Prop :=
  match b.place.loc with
  | .spad c o => s.inPiece c o = false
  | .sdm _ _ => True
  | .dev a => a % 64 + b.bytes.length ≤ 64 ∧ serves s s.turn b.place b.bytes.length
  | _ => False

/-- An open strip whose stores are all accepted where they go. -/
def stripLands (s : State) : Prop := (s.hart.strip ≠ [] → mapsAgree s) ∧ ∀ b, b ∈ s.hart.strip → lands s b

/-- The buffered stores of the executing hart lie in memory: every byte reads as the hart's own loads found it before (R103, R114). -/
def stripStored (s t : State) : Prop := ∀ x, isMem x = true → byteAt t x = stripByte s.hart.strip x (byteAt s x)

/-! ### Barriers -/

/-- A barrier but for the record of who arrived. -/
def shape (b : Barrier) : Nat × Nat × Nat × Nat × Bool := (b.count, b.arrived, b.pend, b.phase, b.broken)

/-- Every barrier but one is as it was. -/
def otherBars (s t : State) (r : BarRef) : Prop :=
  ∀ q : BarRef, ¬ (q.die = r.die ∧ q.own = r.own ∧ q.num = r.num) → barGet t q = barGet s q

/-- A usable barrier that a handle names (R390, R394). -/
def barrierReady (s : State) (a : Reg) (r : BarRef) : Prop :=
  barRef s s.turn (s.hart.reg a).toNat = .ok r ∧ (barGet s r).broken = false ∧ 0 < (barGet s r).count

/-! ### Futures and tasks -/

/-- A future word as the number its sixteen bytes make (R395). -/
def futNat (cont gen st cause code : Nat) : Nat := cont + gen * 2 ^ 64 + st * 2 ^ 96 + cause * 2 ^ 104 + code * 2 ^ 112

/-- A plain place in device memory that serves the executing hart for n bytes and that stands at a multiple of them. -/
def plainPlace (s : State) (p : Place) (n : Nat) : Prop := serves s s.turn p n ∧ ∃ a, p.loc = .dev a ∧ a % n = 0

/-- The 64 bytes at a place. -/
def bytes64 (s : State) (l : Loc) : List Byte := (List.range 64).map fun i => byteAt s (l.plus i)

/-- No task waits in a class queue of a die. -/
def queuesEmpty (s : State) (die : Nat) : Prop := ∀ cls, queueOf s die cls = []

/-- A die whose queues are empty, whose cores are all taken, and whose gangs a head of a class does not pre-empt: a task of that
class waits (R173, R175). -/
def crowded (s : State) (die cls : Nat) : Prop :=
  queuesEmpty s die ∧ (∀ c, dieOf c = die → (s.coreAt c).gang ≠ none) ∧ ∀ p, p ∈ s.gangs → p.2.cls ≤ cls

/-- A trap bank whose registers hold no reserved bit (R153, R193 to R196). -/
def bankLegal (b : TrapBank) : Prop :=
  b.tvec.toNat % 4 = 0 ∧ b.tcause.toNat &&& 0xFCFF = b.tcause.toNat ∧ b.tsub.toNat < 2 ^ 16 ∧
  b.tviq.toNat &&& 0xFFFFFFFF3F = b.tviq.toNat ∧ b.treg.toNat < 64 ∧ b.telem.toNat < 2 ^ 14

/-- The core of the executing hart traces nothing (R403). -/
def untraced (s : State) : Prop := s.core.dbg = []

end Sys2Proof.Machine.Claim
end

