-- ==== Sys2Proof/Claims/Vector.lean ====
section
/-! DEFINITION. What the claims about vector instructions speak of: operands and results of element instructions, a hart that is
ready for one, what it leaves. -/

namespace Sys2Proof.Machine.Claim

/-! ### Element instructions -/

/-- An element instruction: major and function (R243, R256 to R261), the types of its result and of its source, its destination,
the width of a result, whether it sweeps a tile (R143), whether it ignores the mask (R314), its three operands. -/
structure LaneI where
  maj   : Nat
  fn    : Nat
  t     : Ty
  st    : Ty
  d     : Reg
  w     : Nat
  tiled : Bool
  all   : Bool
  a     : Src
  b     : Src
  c     : Src

/-- The instructions that compute each element from the same element of their operands (R310 to R314, R328 to R337); `r` reads the
scalar registers. -/
def laneOf (i : Instr) (r : Reg → Word) : Option LaneI :=
  let vec := fun (t : Ty) (x : Reg) => Src.vec x t.width
  let num := fun (t : Ty) (x : Reg) => Src.val ((r x).toNat % 2 ^ t.width)
  let imm := fun (t : Ty) (shift : Bool) (n : BitVec 5) =>
    Src.val (if t.isSigned && !shift then (BitVec.ofInt t.width n.toInt).toNat else n.toNat)
  let quad := fun (t3 : BitVec 3) => (Ty.ofCode3 t3.toNat).getD .res
  let elem := fun (maj fn : Nat) (t : Ty) (d : Reg) (a b c : Src) =>
    some { maj := maj, fn := fn, t := t, st := t, d := d, w := t.width, tiled := true, all := false, a := a, b := b, c := c : LaneI }
  let bit := fun (fn : Nat) (t : Ty) (d : Reg) (a b : Src) =>
    some { maj := 0x1D, fn := fn, t := t, st := t, d := d, w := 1, tiled := false, all := false, a := a, b := b, c := .none : LaneI }
  let mask := fun (fn : Nat) (d : Reg) (a b : Src) =>
    some { maj := 0x1D, fn := fn, t := .i8, st := .i8, d := d, w := 1, tiled := false, all := true, a := a, b := b, c := .none : LaneI }
  match i with
  | .vvAdd d a b t => elem 0x19 0 t d (vec t a) (vec t b) .none
  | .vvSub d a b t => elem 0x19 1 t d (vec t a) (vec t b) .none
  | .vvAdds d a b t => elem 0x19 2 t d (vec t a) (vec t b) .none
  | .vvSubs d a b t => elem 0x19 3 t d (vec t a) (vec t b) .none
  | .vvMul d a b t => elem 0x19 4 t d (vec t a) (vec t b) .none
  | .vvMulh d a b t => elem 0x19 5 t d (vec t a) (vec t b) .none
  | .vvDiv d a b t => elem 0x19 6 t d (vec t a) (vec t b) .none
  | .vvRem d a b t => elem 0x19 7 t d (vec t a) (vec t b) .none
  | .vvAnd d a b t => elem 0x19 8 t d (vec t a) (vec t b) .none
  | .vvOr d a b t => elem 0x19 9 t d (vec t a) (vec t b) .none
  | .vvXor d a b t => elem 0x19 10 t d (vec t a) (vec t b) .none
  | .vvAndn d a b t => elem 0x19 11 t d (vec t a) (vec t b) .none
  | .vvShl d a b t => elem 0x19 12 t d (vec t a) (vec t b) .none
  | .vvShr d a b t => elem 0x19 13 t d (vec t a) (vec t b) .none
  | .vvMin d a b t => elem 0x19 14 t d (vec t a) (vec t b) .none
  | .vvMax d a b t => elem 0x19 15 t d (vec t a) (vec t b) .none
  | .vvPcnt d a t => elem 0x19 18 t d (vec t a) .none .none
  | .vvClz d a t => elem 0x19 19 t d (vec t a) .none .none
  | .vvCtz d a t => elem 0x19 20 t d (vec t a) .none .none
  | .vvNeg d a t => elem 0x19 24 t d (vec t a) .none .none
  | .vvAbs d a t => elem 0x19 25 t d (vec t a) .none .none
  | .vvMv d b t => elem 0x19 0x15 t d .none (vec t b) .none
  | .vvQuant d a b => elem 0x19 0x1A .d64 d (vec .d64 a) (vec .d64 b) .none
  | .vxAdd d a b t => elem 0x1A 0 t d (vec t a) (num t b) .none
  | .vxSub d a b t => elem 0x1A 1 t d (vec t a) (num t b) .none
  | .vxAdds d a b t => elem 0x1A 2 t d (vec t a) (num t b) .none
  | .vxSubs d a b t => elem 0x1A 3 t d (vec t a) (num t b) .none
  | .vxMul d a b t => elem 0x1A 4 t d (vec t a) (num t b) .none
  | .vxMulh d a b t => elem 0x1A 5 t d (vec t a) (num t b) .none
  | .vxDiv d a b t => elem 0x1A 6 t d (vec t a) (num t b) .none
  | .vxRem d a b t => elem 0x1A 7 t d (vec t a) (num t b) .none
  | .vxAnd d a b t => elem 0x1A 8 t d (vec t a) (num t b) .none
  | .vxOr d a b t => elem 0x1A 9 t d (vec t a) (num t b) .none
  | .vxXor d a b t => elem 0x1A 10 t d (vec t a) (num t b) .none
  | .vxAndn d a b t => elem 0x1A 11 t d (vec t a) (num t b) .none
  | .vxShl d a b t => elem 0x1A 12 t d (vec t a) (num t b) .none
  | .vxShr d a b t => elem 0x1A 13 t d (vec t a) (num t b) .none
  | .vxMin d a b t => elem 0x1A 14 t d (vec t a) (num t b) .none
  | .vxMax d a b t => elem 0x1A 15 t d (vec t a) (num t b) .none
  | .vxMv d b t => elem 0x1A 0x15 t d .none (num t b) .none
  | .vxQuant d a b => elem 0x1A 0x1A .d64 d (vec .d64 a) (num .d64 b) .none
  | .viAdd d a n t => elem 0x1B 0 t d (vec t a) (imm t false n) .none
  | .viSub d a n t => elem 0x1B 1 t d (vec t a) (imm t false n) .none
  | .viAdds d a n t => elem 0x1B 2 t d (vec t a) (imm t false n) .none
  | .viSubs d a n t => elem 0x1B 3 t d (vec t a) (imm t false n) .none
  | .viMul d a n t => elem 0x1B 4 t d (vec t a) (imm t false n) .none
  | .viMulh d a n t => elem 0x1B 5 t d (vec t a) (imm t false n) .none
  | .viDiv d a n t => elem 0x1B 6 t d (vec t a) (imm t false n) .none
  | .viRem d a n t => elem 0x1B 7 t d (vec t a) (imm t false n) .none
  | .viAnd d a n t => elem 0x1B 8 t d (vec t a) (imm t false n) .none
  | .viOr d a n t => elem 0x1B 9 t d (vec t a) (imm t false n) .none
  | .viXor d a n t => elem 0x1B 10 t d (vec t a) (imm t false n) .none
  | .viAndn d a n t => elem 0x1B 11 t d (vec t a) (imm t false n) .none
  | .viShl d a n t => elem 0x1B 12 t d (vec t a) (imm t true n) .none
  | .viShr d a n t => elem 0x1B 13 t d (vec t a) (imm t true n) .none
  | .viMin d a n t => elem 0x1B 14 t d (vec t a) (imm t false n) .none
  | .viMax d a n t => elem 0x1B 15 t d (vec t a) (imm t false n) .none
  | .viMv d n t => elem 0x1B 0x15 t d .none (imm t false n) .none
  | .vqFma d a b c t3 => elem 0x1C 0 (quad t3) d (vec (quad t3) a) (vec (quad t3) b) (vec (quad t3) c)
  | .vqFms d a b c t3 => elem 0x1C 1 (quad t3) d (vec (quad t3) a) (vec (quad t3) b) (vec (quad t3) c)
  | .vqFnma d a b c t3 => elem 0x1C 2 (quad t3) d (vec (quad t3) a) (vec (quad t3) b) (vec (quad t3) c)
  | .vqFnms d a b c t3 => elem 0x1C 3 (quad t3) d (vec (quad t3) a) (vec (quad t3) b) (vec (quad t3) c)
  | .vqSfma d a b c t3 => elem 0x1C 4 (quad t3) d (vec (quad t3) a) (vec (quad t3) b) (num (quad t3) c)
  | .vqSfms d a b c t3 => elem 0x1C 5 (quad t3) d (vec (quad t3) a) (vec (quad t3) b) (num (quad t3) c)
  | .vqSfnma d a b c t3 => elem 0x1C 6 (quad t3) d (vec (quad t3) a) (vec (quad t3) b) (num (quad t3) c)
  | .vqSfnms d a b c t3 => elem 0x1C 7 (quad t3) d (vec (quad t3) a) (vec (quad t3) b) (num (quad t3) c)
  | .vcmp d a b t cond => bit cond.toNat t d (vec t a) (vec t b)
  | .vcmpX d a b t cond => bit (8 + cond.toNat) t d (vec t a) (num t b)
  | .vcmpI d a n t cond => bit (16 + cond.toNat) t d (vec t a) (imm t false n)
  | .vcmpMand d a b => mask 32 d (.vec a 1) (.vec b 1)
  | .vcmpMor d a b => mask 33 d (.vec a 1) (.vec b 1)
  | .vcmpMxor d a b => mask 34 d (.vec a 1) (.vec b 1)
  | .vcmpMandn d a b => mask 35 d (.vec a 1) (.vec b 1)
  | .vcmpMset d => mask 0x24 d .none .none
  | .vcmpMclr d => mask 0x25 d .none .none
  | .vpermIota d b t => elem 0x1F 6 t d (num t b) .none .none
  | .vsfuRcp d a t => elem 0x20 0 t d (vec t a) .none .none
  | .vsfuRcpe d a t => elem 0x20 1 t d (vec t a) .none .none
  | .vsfuRsq d a t => elem 0x20 2 t d (vec t a) .none .none
  | .vsfuSqrt d a t => elem 0x20 3 t d (vec t a) .none .none
  | .vsfuExp2 d a t => elem 0x20 4 t d (vec t a) .none .none
  | .vsfuLog2 d a t => elem 0x20 5 t d (vec t a) .none .none
  | .vsfuSin d a t => elem 0x20 6 t d (vec t a) .none .none
  | .vsfuCos d a t => elem 0x20 7 t d (vec t a) .none .none
  | .vsfuTanh d a t => elem 0x20 8 t d (vec t a) .none .none
  | .vsfuSilu d a t => elem 0x20 9 t d (vec t a) .none .none
  | .vsfuSigm d a t => elem 0x20 10 t d (vec t a) .none .none
  | .vcvt d a b t src rnd =>
    if t = .mx4 then none
    else some { maj := 0x25, fn := src.code * 8 + rnd.toNat, t := t, st := src, d := d, w := t.width, tiled := true, all := false
                a := .vec a src.width, b := if src = .mx4 then .scale b.val else .none, c := .none }
  | _ => none

/-- The rows an element instruction sweeps (R143). -/
def LaneI.rows (x : LaneI) (h : Hart) : Nat := if x.tiled then h.vrows else 1

/-- An element of a vector register. -/
def elemAt (h : Hart) (n el w : Nat) : Nat := (h.vreg n).get (el * w) w

/-- An operand of the element in a row. -/
def operand (h : Hart) (x : Src) (el q : Nat) : Nat :=
  match x with
  | .none => 0
  | .val v => v
  | .vec r w => elemAt h (r.val + q) el w
  | .scale half => elemAt h 1 (128 * half + el / 32) 8

/-- Whether an element is active under vmk (R300, R304). -/
def active (h : Hart) (el : Nat) : Bool := h.vmk == 0 || elemAt h 0 el 1 == h.vmk % 2

/-- Whether an element instruction acts on an element. -/
def LaneI.acts (x : LaneI) (h : Hart) (el q : Nat) : Bool := decide (el < h.vl) && decide (q < x.rows h) && (x.all || active h el)

/-- What the lane computes for an element: pattern, flags, whether it is hard (R310 to R314, R328 to R338). -/
def LaneI.result (x : LaneI) (h : Hart) (el q : Nat) : Lane :=
  elemFn true x.maj x.fn x.t x.st h.fpctl h.srkey h.srcount el q (operand h x.a el q) (operand h x.b el q) (operand h x.c el q)

/-- Whether its exceptions are decimal (R236). -/
def LaneI.dec (x : LaneI) : Bool := x.t == .d64 || x.st == .d64

/-- The operands of registers with their widths, the destination among them. -/
def LaneI.regs (x : LaneI) : List (Nat × Nat) :=
  let one := fun (y : Src) => match y with | .vec r w => [(r.val, w)] | _ => []
  (x.d.val, x.w) :: (one x.a ++ one x.b ++ one x.c)

/-- The register length takes the vector, and the numbers of tiled operands are multiples of the rows other than 0 (R143, R301). -/
def roomFor (s : State) (rows : Nat) (regs : List (Nat × Nat)) : Prop :=
  (∀ p, p ∈ regs → s.hart.vl * p.2 ≤ 8 * s.lenOf s.turn) ∧
  (rows = 1 ∨ ((rows = 2 ∨ rows = 4 ∨ rows = 8) ∧ ∀ p, p ∈ regs → p.1 % rows = 0 ∧ p.1 ≠ 0))

/-- A vector hart with nothing under way, no stream bound, every element of its registers present. -/
def vecReady (s : State) : Prop :=
  idleQueue s ∧ s.hart.streams = [] ∧ ∀ n, (s.hart.vreg n).absent = [] ∧ (s.hart.vreg n).bad = []

/-! ### What a vector instruction leaves -/

/-- The hart after a vector instruction that completed at once: its registers, the flags, vl, the hold buffer, the streams and the
pc may be other ones, the rest only went on. -/
def vecHart (s t : State) : Prop :=
  t.hart = { s.hart with
    v := t.hart.v, s := t.hart.s, fpflags := t.hart.fpflags, vl := t.hart.vl, srcount := t.hart.srcount, hold := t.hart.hold
    holdW := t.hart.holdW, streams := t.hart.streams, pc := t.hart.pc
    seq := (s.hart.seq + 1) % 2 ^ 32, done := s.hart.done + 1 }

/-- The machine with another executing hart; in its core the commit age of the hole queue, which is the model's own, goes on. -/
def vecNext (s : State) (h : Hart) : State :=
  { s with harts := Table.set s.harts s.turn h
           cores := Table.set s.cores (coreOf s.turn) { s.core with age := s.core.age + 1 } }

/-- The machine after a vector instruction that changed only its hart. -/
def vecDone (s t : State) : Prop := vecHart s t ∧ t = vecNext s t.hart

/-- A hart whose vector instruction delivered a scalar result and is done. -/
def delivers (h : Hart) (d : Reg) (v : Word) : Hart :=
  { h with s := if d = 0 then h.s else h.s.set d.val v, pc := h.pc + 4, seq := (h.seq + 1) % 2 ^ 32, done := h.done + 1 }

/-- The other harts of the core have no vector instruction under way. -/
def othersIdle (s : State) : Prop := ∀ n, n < 4 → coreOf s.turn * 8 + n ≠ s.turn → (s.hartAt (coreOf s.turn * 8 + n)).viq = []

/-- vl, the hold buffer, the streams and srseed stay, the pc moves on. -/
def flowSame (s t : State) : Prop :=
  t.hart.vl = s.hart.vl ∧ t.hart.hold = s.hart.hold ∧ t.hart.holdW = s.hart.holdW ∧ t.hart.streams = s.hart.streams ∧
  t.hart.srcount = s.hart.srcount ∧ t.hart.pc = s.hart.pc + 4

/-- The scalar registers and the flags stay as well. -/
def scalarSame (s t : State) : Prop := t.hart.s = s.hart.s ∧ t.hart.fpflags = s.hart.fpflags ∧ flowSame s t

/-- A scalar result is delivered (R150, R270): one register, no vector register. -/
def delivered' (s t : State) (d : Reg) (v : Word) : Prop :=
  vecDone s t ∧ t.hart.v = s.hart.v ∧ flowSame s t ∧ ∀ r, t.hart.reg r = if r = d ∧ r ≠ 0 then v else s.hart.reg r

/-- A tile of registers written element by element: every element of every row has the new value or the old one, other registers
are as they were, everything written is present, and HW rises to the unit of the highest written byte (R45). -/
def wroteTile (s t : State) (d w rows : Nat) (new : Nat → Nat → Option Nat) : Prop :=
  (∀ q el, q < rows → elemAt t.hart (d + q) el w = (match new el q with | some v => v % 2 ^ w | none => elemAt s.hart (d + q) el w)) ∧
  (∀ n, n < 32 → (∀ q, q < rows → n ≠ d + q) → t.hart.vreg n = s.hart.vreg n) ∧
  (∀ q, q < rows → (t.hart.vreg (d + q)).absent = [] ∧ (t.hart.vreg (d + q)).bad = [] ∧ (t.hart.vreg (d + q)).busy = false ∧
    ∀ n, (t.hart.vreg (d + q)).hw ≤ n ↔
      (s.hart.vreg (d + q)).hw ≤ n ∧ ∀ el, (new el q).isSome = true → ((el + 1) * w + 511) / 512 * 64 ≤ n)

/-- The flags of the hart after some were raised (R237). -/
def raisedBy (s t : State) (raised : Nat → Prop) : Prop :=
  ∀ b, t.hart.fpflags.testBit b = true ↔ s.hart.fpflags.testBit b = true ∨ raised b

/-! ### Moves -/

/-- A move (R317): type, destination, source, the register of indexes, and the source element of a destination element; none: the
destination element is not written. An element beyond the capacity is zero. -/
structure MoveI where
  t : Ty
  d : Reg
  a : Reg
  idx : List (Nat × Nat)
  from' : (cap el q : Nat) → Option Nat

/-- How many elements below one are active. -/
def activeCount (h : Hart) (el : Nat) : Nat := ((List.range el).filter fun i => active h i).length

/-- vperm.slup, vperm.sldn and vperm.perm. -/
def moveOf (i : Instr) (h : Hart) : Option MoveI :=
  match i with
  | .vpermSlup d a b t => some { t := t, d := d, a := a, idx := []
                                 from' := fun _ el _ => if el < (h.reg b).toNat then none else some (el - (h.reg b).toNat) }
  | .vpermSldn d a b t => some { t := t, d := d, a := a, idx := [], from' := fun _ el _ => some (el + (h.reg b).toNat) }
  | .vpermPerm d a b t => some { t := t, d := d, a := a, idx := [(b.val, if t.width ≤ 32 then 32 else 64)]
                                 from' := fun _ el q => some (elemAt h (b.val + q) el (if t.width ≤ 32 then 32 else 64)) }
  | _ => none

/-! ### Reductions -/

/-- The active elements with their values, in ascending order. -/
def rowVals (h : Hart) (a : Reg) (w : Nat) : List (Nat × Nat) :=
  ((List.range h.vl).filter fun el => active h el).map fun el => (el, elemAt h a.val el w)

/-- A reduction of R315 by name: function, type, destination, source, the start's register. -/
def redOf (i : Instr) : Option (RedFn × Ty × Reg × Reg × Reg) :=
  match i with
  | .vredSum d a b t => some (.sum, t, d, a, b)
  | .vredMin d a b t => some (.min, t, d, a, b)
  | .vredMax d a b t => some (.max, t, d, a, b)
  | .vredAnd d a b t => some (.and, t, d, a, b)
  | .vredOr d a b t => some (.or, t, d, a, b)
  | .vredXor d a b t => some (.xor, t, d, a, b)
  | _ => none

/-- The integer function of a reduction. -/
def redBin (fn : RedFn) : BinFn :=
  match fn with | .sum => .add | .min => .min | .max => .max | .and => .and | .or => .or | .xor => .xor

/-- The step of a floating-point or decimal reduction, with the flags it raises, and its identity (R238, R315). -/
def redStep' (fn : RedFn) (t : Ty) (fpctl : Word) (a b : Nat) : Nat × Nat :=
  match fn with
  | .min => minMaxT t false a b
  | .max => minMaxT t true a b
  | _ => addT t (if t = .d64 then drmOf fpctl else brmOf fpctl) a b
def redZero (fn : RedFn) (t : Ty) : Nat :=
  match fn with
  | .min => infOf t false
  | .max => infOf t true
  | _ => if t = .d64 then 0xDFE0000000000000 else 2 ^ (t.width - 1)

/-- A binary tree over 2^n values from one on: neighbours first (R238). Values carry the flags raised so far. -/
def tree (f : Nat → Nat → Nat × Nat) (v : Nat → Nat) : Nat → Nat → Nat × Nat
  | 0, lo => (v lo, 0)
  | n + 1, lo =>
    let x := tree f v n lo
    let y := tree f v n (lo + 2 ^ n)
    ((f x.1 y.1).1, x.2 ||| y.2 ||| (f x.1 y.1).2)

/-- A step on values with flags. -/
def after (f : Nat → Nat → Nat × Nat) (x y : Nat × Nat) : Nat × Nat := ((f x.1 y.1).1, x.2 ||| y.2 ||| (f x.1 y.1).2)

/-- The canonical order of R238: trees over blocks of 32, added to the accumulator in ascending order. -/
def inBlocks (f : Nat → Nat → Nat × Nat) (v : Nat → Nat) (vl start : Nat) : Nat × Nat :=
  (List.range ((vl + 31) / 32)).foldl (fun acc n => after f acc (tree f v 5 (32 * n))) (start, 0)

/-- The order by lanes of R239: lane ln takes elements ln, ln + L, …; a tree joins the lanes; the start comes last. -/
def byLanes (f : Nat → Nat → Nat × Nat) (v : Nat → Nat) (ident vl lg start : Nat) : Nat × Nat :=
  let lane := fun ln => match (List.range vl).filter fun i => i % 2 ^ lg == ln with
    | [] => (ident, 0)
    | i :: rest => rest.foldl (fun acc j => after f acc (v j, 0)) (v i, 0)
  let sums := tree f (fun ln => (lane ln).1) lg 0
  let flags := (List.range (2 ^ lg)).foldl (fun fl ln => fl ||| (lane ln).2) 0
  ((f sums.1 start).1, flags ||| sums.2 ||| (f sums.1 start).2)

/-! ### vwhile -/

/-- Whether an element passes the compare of a vwhile, and the flags it raises (R285, R309). -/
def passes (cond : Nat) (t : Ty) (x y : Nat) : Bool × Nat :=
  if t.isInt then
    let n := val t.isSigned (BitVec.ofNat t.width x)
    let m := val t.isSigned (BitVec.ofNat t.width y)
    (match cond with
      | 0 => decide (n = m) | 1 => decide (n ≠ m) | 2 => decide (n < m) | 3 => decide (m ≤ n) | 4 => decide (n ≤ m)
      | _ => decide (m < n), 0)
  else
    match cond with
    | 0 => cmpEq t x y
    | 1 => (!(cmpEq t x y).1, (cmpEq t x y).2)
    | 2 => cmpLt t x y
    | 3 => cmpLe t y x
    | 4 => cmpLe t x y
    | _ => cmpLt t y x

/-! ### Memory -/

/-- A vector load or store by its mode: type, data register, base register, index register. -/
structure MemI where
  mode : VMode
  t : Ty
  d : Reg
  a : Reg
  b : Reg

/-- The vector loads (R322). -/
def loadOf (i : Instr) : Option MemI :=
  match i with
  | .vldUnit d a t => some ⟨.unit, t, d, a, 0⟩
  | .vldStride d a t => some ⟨.stride, t, d, a, 0⟩
  | .vldIndex d a b t => some ⟨.index, t, d, a, b⟩
  | .vldElem d a b t => some ⟨.elem, t, d, a, b⟩
  | _ => none

/-- The vector stores, ordered and unordered (R323). -/
def storeOf (i : Instr) : Option MemI :=
  match i with
  | .vstUnit d a t => some ⟨.unit, t, d, a, 0⟩
  | .vstUnitu d a t => some ⟨.unit, t, d, a, 0⟩
  | .vstStride d a t => some ⟨.stride, t, d, a, 0⟩
  | .vstStrideu d a t => some ⟨.stride, t, d, a, 0⟩
  | .vstIndex d a b t => some ⟨.index, t, d, a, b⟩
  | .vstIndexu d a b t => some ⟨.index, t, d, a, b⟩
  | .vstElem d a b t => some ⟨.elem, t, d, a, b⟩
  | .vstElemu d a b t => some ⟨.elem, t, d, a, b⟩
  | _ => none

/-- The width of index elements (R317, R321). -/
def idxWidth (t : Ty) : Nat := if t.width ≤ 32 then 32 else 64

/-- The address of a position (R321). -/
def MemI.addr (x : MemI) (h : Hart) (el q : Nat) : Word :=
  let n := BitVec.ofNat 64 (q * h.vl + el)
  let i := BitVec.ofNat 64 (elemAt h (x.b.val + q) el (idxWidth x.t))
  match x.mode with
  | .unit => h.reg x.a + (if x.t = .mx4 then BitVec.ofNat 64 ((q * h.vl + el) / 2) else n * BitVec.ofNat 64 x.t.size)
  | .stride => h.reg x.a + n * h.vstride
  | .index => h.reg x.a + i
  | .elem => h.reg x.a + i * BitVec.ofNat 64 x.t.size

/-- The registers a vector access names, with their widths. -/
def MemI.regs (x : MemI) : List (Nat × Nat) :=
  (x.d.val, x.t.width) :: (match x.mode with | .index => [(x.b.val, idxWidth x.t)] | .elem => [(x.b.val, idxWidth x.t)] | _ => [])

/-- The positions that a vector access performs, in element order (R27). -/
def positions (h : Hart) : List (Nat × Nat) :=
  ((List.range h.vl).filter fun el => active h el).flatMap fun el => (List.range h.vrows).map fun q => (el, q)

/-- Every position of a vector access lies aligned in the core's own scratchpad. -/
def MemI.local' (x : MemI) (s : State) : Prop :=
  ∀ p, p ∈ positions s.hart → (x.addr s.hart p.1 p.2).toNat % x.t.size = 0 ∧ inSpad s (x.addr s.hart p.1 p.2).toNat x.t.size

/-- The last of some bytes at an address, or what was there. -/
def lastByte (l : List (Nat × Byte)) (a : Nat) (old : Byte) : Byte :=
  match (l.reverse.find? fun p => p.1 == a) with | some p => p.2 | none => old

/-- The machine after a vector instruction that wrote memory of the core: the hart as `vecHart` says, every other hart, register,
cell and memory of other cores as they were. -/
def vecStored (s t : State) : Prop :=
  vecHart s t ∧ hartsSame s t ∧ t.mem = s.mem ∧ (∀ c, c ≠ coreOf s.turn → t.coreAt c = s.coreAt c) ∧
  Core.rest t.core = Core.rest { s.core with age := s.core.age + 1 } ∧ t.core.sdm = s.core.sdm ∧ t.core.tlb = s.core.tlb ∧
  t.parts = s.parts ∧ t.tasks = s.tasks ∧ t.gangs = s.gangs ∧ t.dies = s.dies ∧ t.turn = s.turn

end Sys2Proof.Machine.Claim
end

