-- ==== Sys2Proof/Claims/Array.lean ====
section
/-! DEFINITION. What the claims about the array and the engines speak of: a hart that owns the array, cells and tiles, relief values,
transfers between places of one scratchpad. -/

namespace Sys2Proof.Machine.Claim

/-! ### The array -/

/-- A vector hart of a gang with the array that owns it in one of some modes with some cells, all readable (R352, R353). -/
def arrayReady (s : State) (modes : List Nat) : Prop :=
  vecReady s ∧ noStrip s ∧ s.core.mode ∈ modes ∧ s.core.mode ≠ 0 ∧ s.core.owner = slotOf s.turn ∧ hasArray s s.turn = true ∧
  0 < s.core.mvl ∧ s.core.mvl ≤ 128 ∧ s.core.tm ≤ 128 ∧ s.core.tn ≤ 128 ∧ s.core.badCells = []

/-- A core but for what array instructions write. -/
def Core.still (c : Core) : Core :=
  { c with cells := [], badCells := [], mode := 0, owner := 0, mvl := 0, tm := 0, tn := 0, tk := 0, kgrid := 0, kinv := 0 }

/-- The machine after an array instruction: only the hart, the cells, the shape and the grid of its core, and the commit age of the
hole queue. -/
def arrayDone (s t : State) : Prop :=
  vecHart s t ∧
  t = { s with harts := Table.set s.harts s.turn t.hart, cores := Table.set s.cores (coreOf s.turn) t.core } ∧
  Core.still t.core = Core.still { s.core with age := s.core.age + 1 } ∧ t.core.badCells = s.core.badCells

/-- Mode, owner and lengths stay. -/
def shapeSame (s t : State) : Prop :=
  t.core.mode = s.core.mode ∧ t.core.owner = s.core.owner ∧ t.core.mvl = s.core.mvl ∧ t.core.tm = s.core.tm ∧ t.core.tn = s.core.tn ∧
  t.core.tk = s.core.tk

/-- The grid stays. -/
def gridSame (s t : State) : Prop := t.core.kgrid = s.core.kgrid ∧ t.core.kinv = s.core.kinv

/-- No register of the hart changes but the pc. -/
def regsSame (s t : State) : Prop := t.hart.v = s.hart.v ∧ scalarSame s t

/-- One scalar register takes a value. -/
def regTakes (s t : State) (d : Reg) (v : Word) : Prop :=
  t.hart.v = s.hart.v ∧ t.hart.fpflags = s.hart.fpflags ∧ flowSame s t ∧ ∀ r, t.hart.reg r = if r = d ∧ r ≠ 0 then v else s.hart.reg r

/-- Byte b of cell (i, j), and word w of it (R351). -/
def cellByte (s : State) (i j b : Nat) : Nat := s.core.cell i j b 1
def cellWord (s : State) (i j w : Nat) : Nat := s.core.cell i j (4 * w) 4

/-- A tile of words takes new values; every other word of every cell is as it was. -/
def tileSet (s t : State) (d : Nat) (new : Nat → Nat → Option Nat) : Prop :=
  ∀ i j w, j < 128 → w < 16 →
    cellWord t i j w = match (if w = d then new i j else none) with | some v => v % 2 ^ 32 | none => cellWord s i j w

/-- Cells as they were, but for some bytes. -/
def cellsBut (s t : State) (hit : Nat → Nat → Nat → Prop) : Prop :=
  ∀ i j b, j < 128 → b < 64 → ¬ hit i j b → cellByte t i j b = cellByte s i j b

/-- The least power of two rule of a granted length (R355). -/
def granted (n g : Nat) : Prop := (n = 0 ∧ g = 0) ∨ (g ≤ n ∧ n < 2 * g ∧ ∃ p, g = 2 ^ p)

/-- The array instructions that a hart without the array cannot execute (R353). -/
def needsArray (i : Instr) : Bool :=
  match i with
  | .mxTshape .. | .mxOp .. | .mxZero .. | .mxMv .. | .mxRdrow .. | .mxRdcol .. | .mxWrrow .. | .mxWrcol .. | .mxSpill .. | .mxFill ..
  | .spEval .. | .spGrad .. | .spDx .. | .spRefine | .spPair .. | .spGzero | .spGspill .. | .spGfill .. => true
  | _ => false

/-! ### Relief -/

/-- A hart in relief mode with a grid that fits, whose inputs have cells (R365, R366). -/
def reliefReady (s : State) (gr : Grid) : Prop :=
  arrayReady s [2] ∧ gridOf s.core = some gr ∧ (gr.paired = true → s.core.tm ≤ 64)

/-- Input i of an instruction, as f32 (R367). -/
def inputAt (s : State) (t : Ty) (a : Reg) (i : Nat) : Nat := widen t (elemAt s.hart a.val i t.width)

/-- The edge values of an input under the core's rule. -/
def edgeAt (s : State) (gr : Grid) (t : Ty) (a : Reg) (i : Nat) : Edge := edgeOf gr (bits s.core.kclamp 1 0) (inputAt s t a i)

/-- An active input outside the domain under DARN (R371). -/
def dark (s : State) (gr : Grid) (t : Ty) (a : Reg) (i : Nat) : Prop :=
  i < s.core.tm ∧ active s.hart i = true ∧ (edgeAt s gr t a i).dark = true

/-- The value of cell (i, j) at its input, or its derivative: one rounded step per coefficient, then the base (R369, R370). -/
def cellSum (s : State) (gr : Grid) (t : Ty) (a : Reg) (deriv : Bool) (i j : Nat) : Nat :=
  let e := edgeAt s gr t a i
  let b := if deriv then e.bd else e.b
  let v := (List.range b.length).foldl (fun v n => fma32 v (coeff s.core gr.paired i j (e.s + n)) (f32 (b.getD n 0))) 0
  if s.core.base = 0 then v
  else fma32 v (weight s.core gr.paired i j) (f32 (betaOf s.core.base deriv (inputAt s t a i)))

/-- The active inputs in order. -/
def inputs (s : State) : List Nat := (List.range s.core.tm).filter fun i => active s.hart i

/-- Output j (R369). -/
def evalSum (s : State) (gr : Grid) (t : Ty) (a : Reg) (j : Nat) : Nat :=
  (inputs s).foldl (fun y i => fma32 y (f32 one32) (f32 (cellSum s gr t a false i j))) 0

/-- The gradient of input i (R370). -/
def dxSum (s : State) (gr : Grid) (t : Ty) (a b : Reg) (i : Nat) : Nat :=
  (List.range s.core.tn).foldl (fun dx j =>
    fma32 dx (f32 one32) (f32 (roundBin .f32 .rne (mulEx (f32 (elemAt s.hart b.val j 32)) (f32 (cellSum s gr t a true i j)))).1)) 0

/-- An element is a hole, with its READY entry as R371 gives it. -/
def darnEntry (s t : State) (fn : Nat) (d : Reg) (el x v opc : Nat) : Prop :=
  (t.hart.vreg d.val).presence (el * 32) 32 = .hole ∧
  ∃ id e, Table.find? t.core.holes id = some e ∧ e.id = id ∧ e.st = .ready ∧ e.slot = slotOf s.turn ∧ e.seq = s.hart.seq ∧ e.row = 0 ∧
    e.elem = el ∧ e.dreg = d.val ∧ e.wid = 32 ∧ e.maj = 0x31 ∧ e.fn = fn ∧ e.fpctl = s.hart.fpctl ∧ e.opa = BitVec.ofNat 64 x ∧
    e.opb = BitVec.ofNat 64 v ∧ e.opc = BitVec.ofNat 64 opc ∧ e.links = []

/-- Gradient accumulator m of input i and output j, and their base gradient (R242, R351). -/
def gradAcc (s : State) (gr : Grid) (i j m : Nat) : Nat := s.core.cell (cellRow gr.paired i m) j (20 + 5 * (m % 8)) 5
def gradBase (s : State) (gr : Grid) (i j : Nat) : Nat := s.core.cell (cellRow gr.paired i 0) j 60 4

/-- The spline values of degree 1, 2 and 3 on a uniform grid, and their derivatives by t (R367). -/
def splineAt (k : Nat) (t : Rat) : List Rat :=
  match k with
  | 1 => [1 - t, t]
  | 2 => [(1 - t) ^ 2 / 2, (-2 * t ^ 2 + 2 * t + 1) / 2, t ^ 2 / 2]
  | _ => [(1 - t) ^ 3 / 6, (3 * t ^ 3 - 6 * t ^ 2 + 4) / 6, (-3 * t ^ 3 + 3 * t ^ 2 + 3 * t + 1) / 6, t ^ 3 / 6]
def slopeAt (k : Nat) (t : Rat) : List Rat :=
  match k with
  | 1 => [-1, 1]
  | 2 => [t - 1, 1 - 2 * t, t]
  | _ => [-(1 - t) ^ 2 / 2, (3 * t ^ 2 - 4 * t) / 2, (-3 * t ^ 2 + 2 * t + 1) / 2, t ^ 2 / 2]

/-- The edge values of an interval at a parameter, rounded; `flat`: no slope. -/
def edgeAtT (k s : Nat) (t kinv : Rat) (flat : Bool) : Edge :=
  { s := s, b := (splineAt k t).map ratRound, bd := (slopeAt k t).map fun v => if flat then 0 else ratRound (kinv * v) }

/-! ### Transfers -/

/-- A location of the core's own scratchpad by virtual address (R10). -/
def spadLoc (s : State) (va : Nat) : Loc := .spad (coreOf s.turn) (va - Config.localBase)

/-- n bytes from an address on hold what n bytes from another held. -/
def copied (s t : State) (dst src n : Nat) : Prop := ∀ i, i < n → byteAt t (spadLoc s (dst + i)) = byteAt s (spadLoc s (src + i))

/-- Ranges of n bytes without a byte in common. -/
def apart (a n b m : Nat) : Prop := a + n ≤ b ∨ b + m ≤ a

/-- A transfer with no completion block, or with a status block in the core's own scratchpad (R377). -/
def blockReady (s : State) (kind : BitVec 4) (va : Nat) : Prop :=
  kind.toNat = 0 ∨ (kind.toNat = 3 ∧ va % 32 = 0 ∧ inSpad s va 32)

/-- The bytes a completion writes, and what they hold (R378). -/
def blockRange (s : State) (kind : BitVec 4) (va : Nat) : List (Loc × Nat) :=
  if kind.toNat = 0 then [] else [(spadLoc s (va + 16), 8)]
def blockDone (s t : State) (kind : BitVec 4) (va status : Nat) : Prop := kind.toNat = 0 ∨ numAt t (spadLoc s (va + 16)) 8 = status

/-- The machine after a transfer: its hart went on with some scalar registers changed; other harts, vector registers, the array, the
tasks, partitions and patterns are as they were. -/
def engDone (s t : State) : Prop :=
  vecHart s t ∧ hartsSame s t ∧ t.hart.v = s.hart.v ∧ t.hart.fpflags = s.hart.fpflags ∧ flowSame s t ∧
  (∀ c, Core.rest (t.coreAt c) = Core.rest (if c = coreOf s.turn then { s.core with age := s.core.age + 1 } else s.coreAt c)) ∧
  t.parts = s.parts ∧ t.tasks = s.tasks ∧ t.turn = s.turn

/-- The registers a transfer advances; a later entry of the list wins. -/
def advanced (s t : State) (l : List (Reg × Nat)) : Prop :=
  ∀ r, t.hart.reg r = match l.reverse.find? fun p => p.1 = r ∧ r ≠ 0 with | some p => BitVec.ofNat 64 p.2 | none => s.hart.reg r

/-- No scratchpad tracks a copy that failed (R69). -/
def untracked (s : State) : Prop := ∀ p, p ∈ s.cores → p.2.tracks = []

/-- The address of the completion block of a transfer but a collective (R376). -/
def cplAddr (s : State) (b : Reg) : Nat := (s.hart.reg (pairOf b)).toNat

end Sys2Proof.Machine.Claim
end

