-- ==== Sys2Proof/Claims/Events.lean ====
section
/-! DEFINITION. What the claims about device events speak of: one hart or one record changed, messages of the steward, commands. -/

namespace Sys2Proof.Machine.Claim

/-- One hart takes new contents, and nothing else changes. -/
def hartSet (s : State) (k : Nat) (h : Hart) : State := { s with harts := Table.set s.harts k h }

/-- The hart after a debug halt (R409). -/
def haltedHart (h : Hart) : Hart :=
  { h with slot := .stopped, wait := .held, halted := true, stepsLeft := none, stepElems := none, viq := h.viq.map VEntry.park }

/-- The hart that goes on after a stop: while its supervisor handler runs it counts as STOPPED (R148). -/
def goesOn (h : Hart) : Hart :=
  if h.sbank.intrap = true then { h with slot := .stopped, wait := .handler } else { h with slot := .running }

/-- The hart that a passed deadline lets go on: its watchdog counts from now (R429). -/
def wakes (s : State) (h : Hart) : Hart := { goesOn h with retired := s.reftime }

/-- The machine but for memories and the mailbox registers of partitions. -/
def systemSame (s t : State) : Prop :=
  t.harts = s.harts ∧ t.gangs = s.gangs ∧ t.tasks = s.tasks ∧ t.dies = s.dies ∧ t.turn = s.turn ∧ t.now = s.now ∧
  ∀ c, Core.rest (t.coreAt c) = Core.rest (s.coreAt c)

/-! ### Accesses -/

/-- No granule of device memory is mapped REPL (R60), and no store to one waits for a die. -/
def unreplicated (s : State) : Prop := s.mem.repl = [] ∧ ∀ a, s.mappedRepl a = false

/-- The target of n bytes of device memory lets a partition in (R22, R36). -/
def opens (s : State) (part a n va : Nat) : Prop := ∀ i, i < n → devStop s part false (a + i) va = none

/-- A collective with K = 3 that has set its flag and waits, in scratchpad, for a rank that has not reached SEQ (R385). -/
def collWaits (s : State) (e : VEntry) (x : Coll) : Prop :=
  collOf 3 e.block = some x ∧ e.phase = 1 ∧ noStrip s ∧ untracked s ∧ s.hart.streams = [] ∧ s.hart.sync = [] ∧
  s.hart.stepElems = none ∧ s.core.holes = [] ∧ s.core.dbg = [] ∧ inSpad s x.group (16 * x.nrank) ∧ x.group % 16 = 0 ∧
  (∃ r, r < x.nrank ∧ numAt s (spadLoc s (x.group + 16 * r + 8)) 8 < x.seq) ∧ x.cpl % 32 = 0 ∧ inSpad s x.cpl 32

/-! ### Messages (R417) -/

/-- A partition that has named no ring; the steward's messages to it go nowhere. -/
def noRings (s : State) (p : Nat) : Prop := (s.partAt p).mbbase = 0 ∧ (s.partAt p).dmbase = 0

/-- A partition whose host ring has room, with no record held and no device ring. -/
def ringReady (s : State) (p : Nat) : Prop :=
  (s.partAt p).mbbase ≠ 0 ∧ (s.partAt p).dmbase = 0 ∧ (s.partAt p).mbheld = [] ∧
  ((s.partAt p).mbhead + 1) % 256 ≠ (s.partAt p).mbtail % 256

/-- The slot that takes the next message. -/
def ringSlot (s : State) (p : Nat) : Nat := (s.partAt p).mbbase + (s.partAt p).mbhead * 64

/-- One message of a kind was written to the host ring; `field o n v`: n bytes of its body at o are v. -/
def told (s t : State) (p kind : Nat) (fields : List (Nat × Nat × Nat)) : Prop :=
  numAt t (.host (ringSlot s p)) 8 = kind ∧
  (∀ f, f ∈ fields → numAt t (.host (ringSlot s p + 8 + f.1)) f.2.1 = f.2.2) ∧
  memOutside s t [(.host (ringSlot s p), 64)] ∧
  t.parts = Table.set s.parts p { s.partAt p with mbhead := ((s.partAt p).mbhead + 1) % 256 }

/-! ### Gangs -/

/-- The cores of a gang are released: no gang, no array, no hole entry, no hart (R352, R399). -/
def released (t : State) (cores : List Nat) : Prop :=
  ∀ c, c ∈ cores → (t.coreAt c).gang = none ∧ (t.coreAt c).mode = 0 ∧ (t.coreAt c).mvl = 0 ∧ (t.coreAt c).holes = [] ∧
    ∀ n, n < 8 → t.hartAt (c * 8 + n) = {}

/-- Harts of other cores and those cores are as they were. -/
def elsewhereSame (s t : State) (cores : List Nat) : Prop :=
  (∀ k, coreOf k ∉ cores → t.hartAt k = s.hartAt k) ∧ ∀ c, c ∉ cores → t.coreAt c = s.coreAt c

/-- No hart of some cores has an open strip or a stream. -/
def noStrips (s : State) (cores : List Nat) : Prop :=
  ∀ c, c ∈ cores → ∀ n, n < 8 → (s.hartAt (c * 8 + n)).strip = [] ∧ (s.hartAt (c * 8 + n)).used = 0 ∧ (s.hartAt (c * 8 + n)).streams = []

/-! ### Commands (R424 to R427) -/

/-- A command through the management port, with its block. -/
def portCommand (block : List Byte) (signed : Bool) : Command := { port := some block, signed := signed }

/-- The little-endian number of n bytes of a command's block (R426). -/
def cmdNum (s : State) (c : Command) (off n : Nat) : Nat := leNat (blockBytes c s off n)

/-- The block of a command by the fields of its table (R426): opcode, length of the payload, SEQ, RESULT, reserved bytes zero. -/
def blockIs (s : State) (c : Command) (opcode plen seq result : Nat) : Prop :=
  cmdNum s c 0 2 = opcode ∧ cmdNum s c 2 2 = 0 ∧ cmdNum s c 4 4 = plen ∧ cmdNum s c 8 8 = seq ∧ cmdNum s c 16 8 = result ∧
  cmdNum s c 24 40 = 0 ∧ match c.port with | some b => 64 + plen ≤ b.length | none => result % 64 = 0

/-- A command that has reached the steward: it came through the management port, or CMD has submitted it; the machine does not record. -/
def arrived (s : State) (c : Command) : Prop := (c.port = none → s.stew.cmdBusy = true) ∧ s.stew.recording = false

/-- A command through the management port that passes the checks of R427. -/
def good (s : State) (c : Command) (op : CmdOp) : Prop :=
  c.port.isSome = true ∧ s.stew.recording = false ∧ parseCommand c s = some op ∧ c.signed = true ∧ s.stew.lastSeq < cmdNum s c 8 8

/-- The result block (R427): SEQ, STATUS, RLEN, 48 zero bytes, the result. -/
def resultBlock (seq : List Byte) (status : Nat) (result : List Byte) : List Byte :=
  seq ++ leBytes 4 status ++ leBytes 4 result.length ++ leBytes 48 0 ++ result

/-- A state with a result block sent through the management port. -/
def answered (s : State) (seq : List Byte) (status : Nat) (result : List Byte) : State :=
  { s with stew := { s.stew with sent := s.stew.sent ++ [resultBlock seq status result] } }

/-- The machine once a command has been accepted. -/
def accepted (s : State) (c : Command) : State := { s with stew := { s.stew with lastSeq := cmdNum s c 8 8 } }

/-- A command that names its event's own work: its answer, done without bytes, and refused. -/
def done (s : State) (c : Command) (t : State) : State := answered t (blockBytes c s 8 8) 0 []
def refused (s : State) (c : Command) : State := answered (accepted s c) (blockBytes c s 8 8) 4 []

/-- The commands by name. -/
def commandOf (i : Instr) : Option Command :=
  match i with
  | .retire c _ => some c
  | .partCreate c _ _ _ _ => some c
  | .partDestroy c _ => some c
  | .reset c _ => some c
  | .quote c _ => some c
  | .unlockChallenge c => some c
  | .unlock c _ _ => some c
  | .record c => some c
  | _ => none

/-- What an event has its command ask for. -/
def asksFor (i : Instr) : Option CmdOp :=
  match i with
  | .retire _ x => some (.retire x.val)
  | .partCreate _ p cl ports ranges => some (.create p.val cl ports ranges)
  | .partDestroy _ p => some (.destroy p.val)
  | .reset _ p => some (.reset p.val)
  | .quote _ n => some (.quote n)
  | .unlockChallenge _ => some .challenge
  | .unlock _ ch _ => some (.unlock ch)
  | .record _ => some .record
  | _ => none

/-- A fabric port that is up, whose bucket holds a token and where nothing waits; the machine does not record (R411, R420). -/
def policed (s : State) (port : Nat) : Prop :=
  s.stew.recording = false ∧ (s.portAt port).up = true ∧ (s.portAt port).waiting = [] ∧ ((s.portAt port).refill s.reftime).tokens ≠ 0

/-- The machine once a port has taken the token of a request (R420). -/
def spent (s : State) (port : Nat) : State :=
  let p := (s.portAt port).refill s.reftime
  s.setPortAt port { p with tokens := p.tokens - 1 }

/-- A device-memory range that the steward or the host writes plainly: one sector, no encryption (R220). -/
def plainRange (s : State) (a n : Nat) : Prop :=
  a % 512 + n ≤ 512 ∧ a + n ≤ Config.devEnd ∧
  (Table.find? s.mem.sectors (a / 512) = none ∨ Table.find? s.mem.sectors (a / 512) = some .plain)

/-- Device memory takes some bytes, and nothing else changes but the marks of the sector and the codeword (R209, R220) and the record
of writes (R117). -/
def devWrote (s t : State) (a : Nat) (bytes : List Byte) : Prop :=
  (∀ i, i < bytes.length → byteAt t (.dev (a + i)) = bytes.getD i 0) ∧ memOutside s t [(.dev a, bytes.length)] ∧
  t = { s with mem := { s.mem with dev := t.mem.dev, bad := t.mem.bad, sectors := t.mem.sectors, past := t.mem.past } }

end Sys2Proof.Machine.Claim
end

