-- ==== Sys2Proof/Claims/Complete.lean ====
section
/-! DEFINITION. What the claims about completion speak of: the conditions, on the machine and the operands alone, under which an
instruction runs to its end, and what it then leaves. -/

namespace Sys2Proof.Machine.Claim

/-- The executing hart went on to its next instruction: no trap was taken, no wait was entered. -/
def went (s t : State) : Prop :=
  t.hart.pc = s.hart.pc + 4 ∧ t.hart.done = s.hart.done + 1 ∧ t.hart.slot = s.hart.slot ∧ t.hart.ubank = s.hart.ubank ∧
  t.hart.sbank = s.hart.sbank ∧ t.hart.viq = s.hart.viq

/-! ### Memory and contexts -/

/-- An aligned location of the core's own scratchpad. -/
def spadAt (s : State) (va n : Nat) : Prop := inSpad s va n ∧ va % n = 0

/-- csave by a supervisor of its own slot, which holds no vector state, into the core's own scratchpad (R295). -/
def csaveReady (s : State) (a : Reg) (slots : BitVec 8) : Prop :=
  let named := namedSlots s (coreOf s.turn) slots.toNat
  s.hart.priv = .supervisor ∧ s.hart.streams = [] ∧ entriesTaken s (coreOf s.turn) named = false ∧ named = [slotOf s.turn] ∧
  4 ≤ slotOf s.turn ∧ s.hart.reg a ≠ 0 ∧ (s.hart.reg a).toNat % 64 = 0 ∧ inSpad s (s.hart.reg a).toNat 704

/-- An image of one scalar hart, with no reserved bit set, that crest may restore into slot n (R206, R296). -/
def crestReady (s : State) (a : Reg) (n len : Nat) (x : Hart) : Prop :=
  let va := (s.hart.reg a).toNat
  let k := coreOf s.turn * 8 + n
  s.hart.priv = .supervisor ∧ va % 64 = 0 ∧ inSpad s va 704 ∧ 4 ≤ n ∧ n < 8 ∧ k ≠ s.turn ∧
  (s.hartAt k).slot = .stopped ∧ (s.hartAt k).kind = .scalar ∧ s.core.holes = [] ∧
  (∀ i, i < 704 → spadByte s (va + i) = (imageOf len 0 false [sectionOf 1 n (hartBody x)]).getD i 0) ∧
  x.ptbase.toNat % 2 ^ 13 = 0 ∧ x.spawnMin < 4 ∧ x.boostReq < 3 ∧ x.fpctl.toNat &&& 0x1F1FDF = x.fpctl.toNat ∧
  x.fpctl.toNat / 4 % 8 < 5 ∧ x.fpflags &&& 0x1F001F = x.fpflags ∧ x.srkey < 2 ^ 32 ∧ x.srcount < 2 ^ 32 ∧
  bankLegal x.ubank ∧ bankLegal x.sbank

/-- A helper that may take the oldest READY entry (R344). -/
def takeReady (s : State) (e : HoleEntry) : Prop :=
  s.hart.kind = .helper ∧ s.hart.taken = none ∧ nextReady s.core = some e ∧ s.hart.filltab = 0 ∧ untraced s ∧ 4 ≤ slotOf s.turn

/-- A helper that holds the entry its operand names, whose element is a hole with no link (R346). -/
def settleReady (s : State) (a : Reg) (e : HoleEntry) : Prop :=
  s.hart.kind = .helper ∧ s.hart.taken = some e.id ∧ Table.find? s.core.holes e.id = some e ∧
  BitVec.ofNat 64 (e.id + e.gen * 256) = s.hart.reg a ∧ untraced s ∧ e.slot < 4 ∧ 4 ≤ slotOf s.turn ∧ e.links = [] ∧
  (e.wid = 1 ∨ e.wid = 8 ∨ e.wid = 16 ∨ e.wid = 32 ∨ e.wid = 64) ∧
  ∀ g, g ∈ granulesOf (e.elem * e.wid) e.wid →
    Table.get {} ((s.hartAt (coreOf s.turn * 8 + e.slot)).vreg (e.dreg + e.row)).absent g =
      { fills := [(e.id, granuleMask (e.elem * e.wid) e.wid g)], poison := 0 }

/-- A future word in plain device memory, aligned, and its state (R395). -/
def futureAt (s s1 : State) (acc : Access) (va : Nat) (p : Place) (st : Nat) : Prop :=
  va % 16 = 0 ∧ translate s s.turn acc false va = .ok (p, s1) ∧ plainPlace s1 p 16 ∧ numAt s1 (p.loc.plus 12) 1 = st

/-- A descriptor and a launch record that task.spawn accepts, where no placement follows (R262, R398). -/
def spawnReady (s s1 s2 : State) (hold : Bool) (a : Reg) (p : Place) (l : List Byte) : Prop :=
  let va := (s.hart.reg a).toNat
  let b := bytes64 s1 p.loc
  let pend := if hold then field b 24 4 - 1 else field b 24 4
  va % 64 = 0 ∧ translate s s.turn .atomic false va = .ok (p, s1) ∧ plainPlace s1 p 64 ∧
  launchBytes s1 s.turn (if field b 32 8 = 0 then (ownLaunch s1 s.turn).toNat else field b 32 8) = .ok (l, s2) ∧ plainPlace s2 p 64 ∧
  descOk b s.hart.spawnMin = true ∧ launchOk l = true ∧ (hold = true → field b 24 4 ≠ 0) ∧ dieOf (coreOf s.turn) < 4 ∧
  (crowded s2 (dieOf (coreOf s.turn)) (field b 30 1) ∨ pend ≠ 0)

/-- A hart of a gang of which another hart has yet to exit (R399). -/
def exitReady (s : State) : Prop :=
  s.hart.kind ≠ .helper ∧ holesOpen s s.turn = false ∧ s.hart.viq.any (usesMemory s.hart) = false ∧ ∃ gid g x c n, s.hart.gang = some gid ∧ s.gang? gid = some g ∧
    s.task? gid = some x ∧ coreOf s.turn ∈ g.cores ∧ c ∈ g.cores ∧ n < 8 ∧ c * 8 + n ≠ s.turn ∧
    (s.hartAt (c * 8 + n)).slot ≠ .empty ∧ (s.hartAt (c * 8 + n)).exited = false ∧ (s.hartAt (c * 8 + n)).kind ≠ .helper

/-! ### Vector instructions -/

/-- A vector hart with one row and nothing under way in its core, whose floating-point exceptions do not trap, and whose vl fits every
type and the hole queue (R143, R164, R236, R301). -/
def oneRow (s : State) : Prop :=
  vecReady s ∧ noStrip s ∧ othersIdle s ∧ s.core.tracks = [] ∧ s.hart.hold = [] ∧ s.hart.vrows = 1 ∧ s.hart.vl ≤ 128 ∧
  s.hart.vl * 64 ≤ 8 * s.lenOf s.turn ∧ s.hart.fpctl &&& 0x1F1F00#64 = 0

/-- A stream block in the scalar data memory that vstm.bind accepts (R61, R62). -/
def bindReady (s : State) (d a : Reg) : Prop :=
  let va := (s.hart.reg a).toNat
  let off := va - (Config.localBase + 0x400000)
  let f := fun (o n : Nat) => numAt s (.sdm (coreOf s.turn) (off + o)) n
  let t := Ty.ofCode (f 8 2 % 16)
  Config.localBase + 0x400000 ≤ va ∧ off + 64 ≤ Config.sdmBytes ∧ va % 64 = 0 ∧ badWord s.core.badSdm off 64 = false ∧ 2 ≤ d.val ∧
  f 8 2 / 128 = 0 ∧ f 10 2 = 0 ∧ f 12 4 = 0 ∧ t ≠ .mx4 ∧ t ≠ .f64 ∧ t ≠ .res ∧ ∀ i, i < f 8 2 / 32 % 4 + 1 → f (16 + 4 * i) 4 ≠ 0

/-- A register that one stream is bound to (R68). -/
def boundTo (s : State) (d : Reg) : Prop :=
  ∃ x, s.hart.streams = [x] ∧ x.reg = d.val ∧ x.block + 64 ≤ Config.sdmBytes ∧ x.pos.length = 4 ∧ ∀ p, p ∈ x.pos → p < 2 ^ 32

/-- A frame of present registers in the core's own scratchpad (R47, R49). -/
def frameAt (s : State) (va : Nat) : Prop :=
  ∃ (v : Nat → VReg) (len mask : Nat), let frame := frameOf v len mask
    va % 64 = 0 ∧ mask < 2 ^ 32 ∧ len < 2 ^ 16 ∧ inSpad s va frame.length ∧ (∀ i, i < frame.length → spadByte s (va + i) = frame.getD i 0) ∧
    ∀ n, (v n).absent = [] ∧ (v n).hw % 64 = 0 ∧ (v n).hw ≤ s.lenOf s.turn ∧ (v n).hw < 2 ^ 16 ∧
      ((v n).tag = 8 ∨ (v n).tag = 16 ∨ (v n).tag = 32 ∨ (v n).tag = 64)

/-- The addresses of a vector atomic: distinct, aligned, in the core's own scratchpad (R388). -/
def amovReady (s : State) (a b : Reg) (t : Ty) : Prop :=
  let acts := fun el => el < s.hart.vl ∧ active s.hart el = true
  let va := fun el => (s.hart.reg a + BitVec.ofNat 64 (elemAt s.hart b.val el (idxWidth t))).toNat
  (∀ el, acts el → spadAt s (va el) t.size) ∧ ∀ x y, acts x → acts y → va x = va y → x = y

/-! ### Engines, without a completion block -/

/-- eng.copy between places of one scratchpad (R379). -/
def copyReady (s : State) (d a b : Reg) : Prop :=
  let n := (s.hart.reg b).toNat
  inSpad s (s.hart.reg d).toNat n ∧ inSpad s (s.hart.reg a).toNat n ∧ apart (s.hart.reg d).toNat n (s.hart.reg a).toNat n

/-- eng.mcast within one scratchpad (R380). -/
def mcastReady (s : State) (d a b : Reg) (dests : List Nat) : Prop :=
  let va := (s.hart.reg d).toNat
  let n := (s.hart.reg b).toNat
  let f := fun o k => numAt s (spadLoc s (va + o)) k
  va % 128 = 0 ∧ inSpad s va 128 ∧ 1 ≤ dests.length ∧ dests.length ≤ 12 ∧ f 0 1 = dests.length ∧ f 1 1 = 0 ∧ f 2 2 = 0 ∧ f 4 4 = 0 ∧
  f 8 8 = 0 ∧ (∀ o, o < 16 → f (112 + o) 1 = 0) ∧ (∀ k, k < dests.length → f (16 + 8 * k) 8 = dests.getD k 0) ∧
  inSpad s (s.hart.reg a).toNat n ∧ (∀ x, x ∈ dests → inSpad s x n ∧ apart x n (s.hart.reg a).toNat n) ∧
  dests.Pairwise fun x y => apart x n y n

/-- eng.gather of a valid pattern entry into the scratchpad (R381). -/
def gatherReady (s : State) (d a b : Reg) : Prop :=
  let x := (s.hart.reg a).toNat
  let rows := (s.hart.reg b).toNat
  let cf := x / 2 ^ 16 % 2 ^ 16
  let cl := x / 2 ^ 32 % 2 ^ 16
  let part := s.partAt s.part
  let p := s.pattAt (part.pattBase + x % 64)
  let size := 2 ^ p.esize
  let n := rows * (cl + 1 - cf)
  let el := fun i => p.base + i % rows * p.pitch + (cf + i / rows) * size
  x / 2 ^ 48 = 0 ∧ x / 2 ^ 6 % 2 ^ 10 = 0 ∧ 0 < rows ∧ rows < 2 ^ 32 ∧ cf ≤ cl ∧ x % 64 < part.pattCount ∧ p.valid = true ∧
  p.part = s.part ∧ p.enc = false ∧ cl < p.cols ∧ p.esize ≤ 4 ∧
  (∀ i, i < n → el i % size = 0 ∧ el i + size ≤ p.limit ∧ serves s s.turn { loc := .dev (el i) } size) ∧
  inSpad s (s.hart.reg d).toNat (n * size)

/-- A collective block in the scratchpad, every other rank's flag reached, its ranges in the scratchpad (R385). -/
def collReach (s : State) (a : Reg) : Prop :=
  let va := (s.hart.reg a).toNat
  let f := fun o n => numAt s (spadLoc s (va + o)) n
  let n := f 16 4 * (Ty.ofCode (f 20 1)).size
  let group := f 24 8
  let src := fun r => numAt s (spadLoc s (group + 16 * r)) 8
  va % 64 = 0 ∧ inSpad s va 64 ∧ 0 < f 16 4 ∧ f 16 4 ≤ 2 ^ 24 ∧ f 20 1 ∈ [2, 3, 6, 7, 8, 9] ∧ f 21 1 ≤ 2 ∧ 2 ≤ f 22 1 ∧ f 22 1 ≤ 64 ∧
  f 23 1 < f 22 1 ∧ f 32 4 ≠ 0 ∧ (∀ o, o < 28 → f (36 + o) 1 = 0) ∧ inSpad s (f 0 8) n ∧ apart (f 0 8) n (f 8 8) n ∧ inSpad s (f 8 8) n ∧
  inSpad s group (16 * f 22 1) ∧ apart (f 8 8) n group (16 * f 22 1) ∧
  (∀ r, r < f 22 1 → r ≠ f 23 1 → f 32 4 ≤ numAt s (spadLoc s (group + 16 * r + 8)) 8) ∧
  ∀ r, r < f 22 1 → inSpad s (src r) n ∧ apart (src r) n (f 8 8) n ∧ apart (src r) n (group + 16 * f 23 1 + 8) 8

/-- A task that the pass over a die's queues places: the only one queued, whose cores a cluster has free (R173). -/
def placeable (s : State) (die id cl : Nat) (t : Task) : Prop :=
  (s.dieAt die).fenced = false ∧ (∃ cls, cls < 4 ∧ queueOf s die cls = [id] ∧ ∀ c, c ≠ cls → queueOf s die c = []) ∧
  s.readTask id = some t ∧ t.st = .ready ∧ t.saved = [] ∧ t.nv ≤ 4 ∧ t.np + t.nh ≤ 4 ∧ cl / 8 = die ∧ t.cores ≤ (freeCores s t cl).length ∧
  ∀ c, c < cl → c / 8 = die → (freeCores s t c).length < t.cores

end Sys2Proof.Machine.Claim
end

