-- ==== Sys2Proof/Certificates/Slice0/Obligations.lean ====
section
/-! DEFINITION. The statements for the provers. -/

open Sys2Proof Sys2Proof.Machine Sys2Proof.Machine.Claim

/-- What reset leaves (R81 to R84, R188, R421). That memory and scalar registers read as zero is the model's choice (logs 2 and 6). -/
def Obligations.ResetLeaves : Prop :=
  (∀ k, (State.reset.hartAt k).slot = .empty) ∧
  (∀ k r, (State.reset.hartAt k).reg r = 0) ∧
  (∀ c, State.reset.gangOf c = none) ∧
  (∀ l, isMem l = true → byteAt State.reset l = 0) ∧
  (∀ p, (State.reset.partAt p).live = true ↔ p = 0) ∧
  State.reset.mem.cap = 2 ^ 27 ∧ State.reset.mem.live = 255 ∧ State.reset.mem.oldLive = 255 ∧
  State.reset.mem.phase = 0 ∧ State.reset.mem.front = 2 ^ 27 ∧ State.reset.mem.step = 0 ∧ State.reset.mem.rate = 4000 ∧
  (∀ d, (State.reset.dieAt d).permits = 64 ∧ (State.reset.dieAt d).lock = false ∧ (State.reset.dieAt d).lowc = 15)

/-- Words that the spec writes out, and words that R250 refuses. -/
def Obligations.TableWordsDecode : Prop :=
  decodeWord 0x04A63980 = .ok (.aluAdd 5 6 7 .i64) ∧ decodeWord 0x08A50FFF = .ok (.aluiAdd 5 5 0xFFF) ∧
  decodeWord 0x0E940100 = .ok (.hi 20 20 0x100) ∧ decodeWord 0x14B4D000 = .ok (.ld 5 20 .d64 0) ∧
  decodeWord 0x15059004 = .ok (.ld 8 5 .f32 4) ∧ decodeWord 0x24340001 = .ok (.jrCall 1 20) ∧
  decodeWord 0x24010000 = .ok (.jrGo 1) ∧ decodeWord 0 = .ok (.ill 0) ∧ decodeWord 0xFFFFFFFF = .ok (.ill3f 0x3FFFFFF) ∧
  (decodeWord 0x04A63995).toOption = none ∧ (decodeWord 0x04A63992).toOption = none

/-- Decode and encode agree (R243 to R249): every operand of every instruction at every value its encoding admits. -/
def Obligations.EncodeThenDecode : Prop :=
  ∀ i : Instr, i.wf = true → isEvent i = false → ∃ w, encode i = some w ∧ decodeWord w.toNat = .ok i

/-- The other direction (R245, R250): no two words decode to one instruction, so no unused field is ignored. -/
def Obligations.EveryWordHasOneMeaning : Prop :=
  ∀ (n : Nat) (i : Instr), n < 2 ^ 32 → decodeWord n = .ok i → encode i = some (BitVec.ofNat 32 n)

/-- An invariant that every step keeps: rising addresses, no blank byte listed, in device memory and in the memories of the host and the peers (log 2). -/
def Obligations.MemoryStaysCanonical : Prop :=
  ∀ s t : State, memOk s → step s = .next t → memOk t

/-- The invariant of MemoryStaysCanonical at reset. -/
def Obligations.MemoryCanonicalAtReset : Prop :=
  memOk State.reset ∧ ∀ nbits w, memOk (State.reset.withFetchWord nbits w)

/-- A step of a hart that runs fetches the four little-endian bytes at its pc and executes what they decode to (R243); `past` is the record of the writes that its fetches do not see yet (R117). The step adds the passing of time, the rotation of harts (logs 4 and 5) and the time of retirement (R429). -/
def Obligations.StepRunsTheDecodedInstruction : Prop :=
  ∀ (s s1 : State) (p : Place) (a : Nat) (i : Instr),
    s.powered = true → s.stew.booted = true → s.stew.diverged = none → s.inbox = [] → s.hart.exited = false →
    s.hart.slot = .running ∨ (s.hart.slot = .stopped ∧ s.hart.wait = .handler) → s.hart.pending = none → s.hart.builtin = none →
    ¬ (s.hart.kind = .helper ∧ s.hart.pc = 0 ∧ s.hart.taken = none) → (s.hart.viq = [] ∨ s.hart.intrap = true) → s.hart.sync = [] →
    s.hart.stepElems = none → breakpointBefore s s.turn s.hart.pc = false →
    s.hart.pc.toNat % 4 = 0 → translate s s.turn .fetch false s.hart.pc.toNat = .ok (p, s1) → p.loc = .dev a →
    serves s1 s.turn p 4 → (∀ w, w ∈ s1.mem.past.drop (s1.hartAt s.turn).codeAt → w.1 < a ∨ a + 4 ≤ w.1) →
    decodeWord (leNat ((List.range 4).map fun n => Memory.read1 s1.mem.dev (a + n))) = .ok i → i.wf = true →
    ∀ u, exec i s1 = .next u → u.noted = [] → (u.hartAt s.turn).stepsLeft = none → (∀ q, q ∈ u.mem.ports → q.2.waiting = []) →
      step s = .next { u with
        harts := if (u.hartAt s.turn).done - s.hart.done = 0 ∨ (u.hartAt s.turn).gang ≠ s.hart.gang then u.harts
                 else Table.set u.harts s.turn { u.hartAt s.turn with retired := u.now / 20 }
        now := u.now + u.pace
        turn := (tick s u).turn }

/-- Completion of the scalar, control-transfer, floating-point and system instructions. -/
def Obligations.ScalarInstructionsComplete : Prop :=
  ∀ (s : State) (d a b : Reg) (t : Ty) (n : BitVec 12) (m : BitVec 6) (x : BitVec 16) (off : BitVec 13) (far : BitVec 26) (f : BitVec 3),
    let runs := fun (i : Instr) => ∃ u, exec i s = .next u ∧ went s u
    let goes := fun (i : Instr) (pc : Word) => ∃ u, exec i s = .next u ∧ u.hart.pc = pc ∧ u.hart.slot = s.hart.slot
    (∀ i, i ∈ [.aluAdd d a b t, .aluSub d a b t, .aluAdds d a b t, .aluSubs d a b t, .aluMul d a b t, .aluMulh d a b t, .aluDiv d a b t,
      .aluRem d a b t, .aluAnd d a b t, .aluOr d a b t, .aluXor d a b t, .aluAndn d a b t, .aluShl d a b t, .aluShr d a b t,
      .aluMin d a b t, .aluMax d a b t, .aluSlt d a b t, .aluSeq d a b t, .aluPcnt d a t, .aluClz d a t, .aluCtz d a t,
      .aluiAdd d a n, .aluiAnd d a n, .aluiOr d a n, .aluiXor d a n, .aluiSlt d a n, .aluiSltu d a n, .aluiShl d a m,
      .aluiShr d a m, .aluiSra d a m, .hi d a x, .id d] → i.wf = true → runs i ∧ ∀ u, exec i s = .next u → u.mem = s.mem ∧ hartsSame s u) ∧
    (∀ i, i ∈ [.brEq a b off, .brNe a b off, .brLt a b off, .brGe a b off, .brLtu a b off, .brGeu a b off] →
      goes i (s.hart.pc + 4) ∨ goes i (s.hart.pc + BitVec.ofInt 64 (4 * off.toInt))) ∧
    goes (.jmp far) (s.hart.pc + BitVec.ofInt 64 (4 * far.toInt)) ∧ goes (.jrGo a) (s.hart.reg a) ∧ goes (.jrCall d a) (s.hart.reg a) ∧
    (∀ va, va = s.hart.reg a + BitVec.ofInt 64 n.toInt → (Instr.ld d a t n).wf = true → spadAt s va.toNat t.size → s.hart.strip = [] →
      runs (.ld d a t n)) ∧
    (∀ i, i ∈ [.fpuAdd d a b t, .fpuSub d a b t, .fpuMul d a b t, .fpuDiv d a b t, .fpuFma d a b t, .fpuMin d a b t, .fpuMax d a b t,
      .fpuEq d a b t, .fpuLt d a b t, .fpuLe d a b t, .fpuUnord d a b t, .fpuSqrt d a t, .fpuNeg d a t, .fpuAbs d a t,
      .fpuRcp d a t, .fpuRsq d a t, .fpuTof32 d a t, .fpuTof64 d a t, .fpuTod64 d a t, .fpuTobf16 d a t, .fpuToi64 d a t,
      .fpuToi64z d a t, .fpuTon64 d a t, .fpuFromi64 d a t, .fpuFromn64 d a t, .fpuTobf16sr d a, .fpuQuant d a b] → i.wf = true → s.hart.fpctl &&& 0x1F1F00#64 = 0 → runs i) ∧
    (∀ v, s.hart.kind = .vector → s.hart.priv = .supervisor → s.hart.viq = [] → (n.toNat, v) ∈ ctlList s → runs (.ctlRd d n)) ∧
    (∀ i, i ∈ [.ctlWr a n, .ctlSet a n, .ctlClr a n] → n.toNat ∈ [0x003, 0x081, 0x140, 0x141, 0x143, 0x150, 0x151, 0x153] →
      idleQueue s → s.hart.priv = .supervisor → ∃ u, exec i s = .next u ∧ u.hart.pc = s.hart.pc + 4 ∧ u.hart.slot = s.hart.slot) ∧
    (trapReady s.hart →
      exec (.svc (x.extractLsb' 0 4)) s = .next (trapped' s (s.hart.pc + 4) { cause := .svc, sub := x.toNat % 16 }) ∧
      exec (.ill far) s = .next (trapped' s s.hart.pc { cause := .ill, sub := 1, taddr := far.toNat }) ∧
      exec (.ill3f far) s = .next (trapped' s s.hart.pc { cause := .ill, sub := 1, taddr := 0xFC000000 + far.toNat }) ∧
      (debugHeld s s.turn = false →
        exec (.brk n) s = .next (trapped' s s.hart.pc { cause := .break_, sub := 1, taddr := n.toNat })) ∧
      ∀ y : TrapInfo, s.hart.slot = .running → s.hart.exited = false → s.hart.viq = [] → y.media = none → y.cause ≠ .ue →
        exec (.trapEntry y) s = .next (trapped' s s.hart.pc y)) ∧
    (s.hart.priv = .supervisor → s.hart.sbank.intrap = true → s.hart.sbank.tcause.toNat / 2 ^ 12 % 4 = 0 →
      ∃ u, exec .tret s = .next u ∧ u.hart.pc = s.hart.sbank.tpc ∧ u.hart.slot = .running ∧ u.hart.sbank.intrap = false) ∧
    ((s.hart.reg a).toNat ≤ s.now / 20 → runs (.idle d a)) ∧
    (s.hart.priv = .supervisor → (∀ k, (s.hartAt k).strip = [] ∧ (s.hartAt k).viq = []) →
      (∀ i, i ∈ [.tlbinvPage a 0, .tlbinvAsid a 0, .tlbinvAll 0] → runs i) ∧
      (noRings s s.part → ∃ u, exec .halt s = .next u ∧ u.hart.slot = .stopped ∧ u.hart.pc = s.hart.pc + 4)) ∧
    (noStrip s → (∀ i, i ∈ [.fenAll f, .fenLoad f, .fenStore f, .fenEng f] → runs i) ∧
      (s.mem.phase % 2 = 0 → s.mem.phase < 2 ^ 32 → (s.mem.phase + 2 ^ 32 - (s.hart.reg a).toNat % 2 ^ 32) % 2 ^ 32 < 2 ^ 31 →
        runs (.fenPhase d a)))

/-- Completion of st, the scalar atomics, csave, crest, hq.*, bar.*, fut.* and task.*. -/
def Obligations.MemorySyncAndContextComplete : Prop :=
  ∀ (s s1 s2 : State) (d a b : Reg) (t : Ty) (sys : Bool) (o : BitVec 2) (off : BitVec 12) (p : Place), noStrip s →
    let va := (s.hart.reg a).toNat
    let runs := fun (i : Instr) => ∃ u, exec i s = .next u ∧ went s u
    (∀ x, x = s.hart.reg a + BitVec.ofInt 64 off.toInt → (Instr.st d a t off).wf = true → spadAt s x.toNat t.size →
      ∃ u, exec (.st d a t off) s = .next u ∧ went s u ∧ memAfter s u (spadLoc s x.toNat) t.size (s.hart.reg d).toNat) ∧
    (∀ i, i ∈ [.amoLd d a t sys o, .amoSt a b t sys o, .amoSwap d a b t sys o, .amoCas d a b t sys o, .amoAdd d a b t sys o, .amoAnd d a b t sys o, .amoOr d a b t sys o,
      .amoXor d a b t sys o, .amoMin d a b t sys o, .amoMax d a b t sys o] → i.wf = true → spadAt s va t.size →
      ∃ u, exec i s = .next u ∧ went s u ∧ memOutside s u [(spadLoc s va, t.size)]) ∧
    ((Instr.amoCas2 d a b sys o).wf = true → spadAt s va 16 →
      ∃ u, exec (.amoCas2 d a b sys o) s = .next u ∧ went s u ∧ memOutside s u [(spadLoc s va, 16)]) ∧
    (∀ slots keep, (Instr.csave d a slots keep false).wf = true → csaveReady s a slots → runs (.csave d a slots keep false)) ∧
    (∀ n len x go, crestReady s a n len x → runs (.crest a go)) ∧
    (∀ e, takeReady s e → ∃ u, exec .hqTake s = .next u ∧ u.hart.taken = some e.id ∧ u.hart.slot = .running) ∧
    (∀ e, settleReady s a e → runs (.hqFill a b) ∧ (1 ≤ (s.hart.reg b).toNat / 2 ^ 8 % 2 ^ 8 → runs (.hqFail a b))) ∧
    (∀ r, barRef s s.turn va = .ok r → let x := barGet s r
      (x.broken = true ∨ (x.arrived = 0 ∧ x.pend = 0 ∧ barWaited s r = false) → 1 ≤ (s.hart.reg d).toNat →
        (s.hart.reg d).toNat ≤ 1024 → runs (.barInit d a)) ∧
      (x.broken = false → x.arrived < x.count → runs (.barArrive d a)) ∧
      (x.broken = false → x.arrived + 1 = x.count → x.pend = 0 → s.hart.synced = [] → runs (.barSync d a)) ∧
      (x.broken = false → 0 < x.count → (x.phase + 2 ^ 32 - (s.hart.reg d).toNat % 2 ^ 32) % 2 ^ 32 ∈ List.range' 1 (2 ^ 31 - 1) →
        runs (.barWait d a))) ∧
    (∀ st, futureAt s s1 .load va p st → runs (.futGetTry d a) ∧ (st = 2 ∨ st = 3 → runs (.futGet d a))) ∧
    (∀ st, futureAt s s1 .atomic va p st → (st = 0 ∨ st = 2 → runs (.futInit d a)) ∧ (st = 0 → runs (.futRes d a) ∧ runs (.futFail d a)) ∧
      (st = 2 → (s.hart.reg d).toNat % 64 = 0 → runs (.futReg d a))) ∧
    (∀ l, (spawnReady s s1 s2 false a p l → runs (.taskSpawn d a)) ∧ (spawnReady s s1 s2 true a p l → runs (.taskSpawnHold d a))) ∧
    (exitReady s → ∃ u, exec .taskExit s = .next u ∧ u.hart.exited = true ∧ u.gangs = s.gangs) ∧
    (s.core.gang = none → runs (.taskYield d))

/-- Completion of vv, vx, vi, vq, vcmp, vred, vperm, vsfu, vcvt, vsettle, vpres, setvl, setrows, vwhile, vld, vst, vstm and amo.v. -/
def Obligations.VectorInstructionsComplete : Prop :=
  ∀ (s : State) (d a b c : Reg) (t src : Ty) (n : BitVec 5) (t3 : BitVec 3) (off : BitVec 9) (w o : BitVec 2) (sys : Bool), oneRow s →
    let runs := fun (i : Instr) => ∃ u, exec i s = .next u ∧ went s u ∧ hartsSame s u
    let va := (s.hart.reg a).toNat
    (∀ i, i ∈ [.vvAdd d a b t, .vvSub d a b t, .vvAdds d a b t, .vvSubs d a b t, .vvMul d a b t, .vvMulh d a b t, .vvDiv d a b t,
      .vvRem d a b t, .vvAnd d a b t, .vvOr d a b t, .vvXor d a b t, .vvAndn d a b t, .vvShl d a b t, .vvShr d a b t,
      .vvMin d a b t, .vvMax d a b t, .vvPcnt d a t, .vvClz d a t, .vvCtz d a t, .vvNeg d a t, .vvAbs d a t, .vvMv d b t,
      .vvQuant d a b, .vxAdd d a b t, .vxSub d a b t, .vxAdds d a b t, .vxSubs d a b t, .vxMul d a b t, .vxMulh d a b t,
      .vxDiv d a b t, .vxRem d a b t, .vxAnd d a b t, .vxOr d a b t, .vxXor d a b t, .vxAndn d a b t, .vxShl d a b t,
      .vxShr d a b t, .vxMin d a b t, .vxMax d a b t, .vxMv d b t, .vxQuant d a b, .viAdd d a n t, .viSub d a n t,
      .viAdds d a n t, .viSubs d a n t, .viMul d a n t, .viMulh d a n t, .viDiv d a n t, .viRem d a n t, .viAnd d a n t,
      .viOr d a n t, .viXor d a n t, .viAndn d a n t, .viShl d a n t, .viShr d a n t, .viMin d a n t, .viMax d a n t,
      .viMv d n t, .vqFma d a b c t3, .vqFms d a b c t3, .vqFnma d a b c t3, .vqFnms d a b c t3, .vqSfma d a b c t3,
      .vqSfms d a b c t3, .vqSfnma d a b c t3, .vqSfnms d a b c t3, .vcmp d a b t t3, .vcmpX d a b t t3, .vcmpI d a n t t3,
      .vcmpMand d a b, .vcmpMor d a b, .vcmpMxor d a b, .vcmpMandn d a b, .vcmpMset d, .vcmpMclr d, .vredSum d a b t,
      .vredMin d a b t, .vredMax d a b t, .vredAnd d a b t, .vredOr d a b t, .vredXor d a b t, .vredMinidx d a b t,
      .vredMaxidx d a b t, .vredMpop d a, .vredMfirst d a, .vpermSlup d a b t, .vpermSldn d a b t, .vpermPerm d a b t,
      .vpermCompress d a t, .vpermXtr d a b t, .vpermIns d a b t, .vpermIota d b t, .vpermHold d a b t, .vpermDrain d t,
      .vsfuRcp d a t, .vsfuRcpe d a t, .vsfuRsq d a t, .vsfuSqrt d a t, .vsfuExp2 d a t, .vsfuLog2 d a t, .vsfuSin d a t,
      .vsfuCos d a t, .vsfuTanh d a t, .vsfuSilu d a t, .vsfuSigm d a t, .vcvt d a b t src t3, .vsettle a, .vpresPresent d a t,
      .vpresPoisoned d a t, .vpresHeal d b t, .setvl d a w, .setrows d a] → i.wf = true →
      (i = .vcvt d a b .mx4 src t3 → d ≠ 1) → runs i ∧ ∀ u, exec i s = .next u → memSame s u) ∧
    ((Instr.vwhile d a t3 off (n.extractLsb' 0 3)).wf = true → ∃ u, exec (.vwhile d a t3 off (n.extractLsb' 0 3)) s = .next u ∧ u.hart.viq = [] ∧
      (u.hart.pc = s.hart.pc + 4 ∨ u.hart.pc = s.hart.pc - BitVec.ofNat 64 (4 * off.toNat)) ∧ u.hart.sbank = s.hart.sbank) ∧
    (∀ i x, i ∈ [.vldUnit d a t, .vldStride d a t, .vldIndex d a b t, .vldElem d a b t] → loadOf i = some x → i.wf = true → x.local' s → runs i) ∧
    (∀ i x, i ∈ [.vstUnit d a t, .vstUnitu d a t, .vstStride d a t, .vstStrideu d a t, .vstIndex d a b t, .vstIndexu d a b t,
        .vstElem d a b t, .vstElemu d a b t] → storeOf i = some x → i.wf = true → x.local' s → runs i) ∧
    (∀ i, i ∈ [.amoVadd d a b t sys o, .amoVmin d a b t sys o, .amoVmax d a b t sys o, .amoVswap d a b t sys o] → i.wf = true →
      amovReady s a b t → runs i) ∧
    (bindReady s d a → runs (.vstmBind d a)) ∧
    (va % 64 = 0 → inSpad s va (frameOf s.hart.vreg (s.lenOf s.turn) ((s.hart.reg b).toNat % 2 ^ 32)).length → runs (.vstmSpill d a b)) ∧
    (frameAt s va → runs (.vstmFill d a)) ∧
    ∀ s' : State, idleQueue s' → boundTo s' d → ∃ u, exec (.vstmUnbind d) s' = .next u ∧ went s' u ∧ u.hart.streams = []

/-- Completion of mx.*, sp.* and eng.* (R376 to R385), transfers within the core's own scratchpad and without a completion block. -/
def Obligations.ArrayAndEngineInstructionsComplete : Prop :=
  ∀ (s : State) (d a b : Reg) (t : Ty), othersIdle s → s.hart.fpctl &&& 0x1F1F00#64 = 0 →
    let runs := fun (i : Instr) => ∃ u, exec i s = .next u ∧ went s u ∧ hartsSame s u
    let fits := fun (n : Nat) => s.core.tm * n ≤ 8 * s.lenOf s.turn ∧ s.core.tn * n ≤ 8 * s.lenOf s.turn
    let va := (s.hart.reg a).toNat
    (vecReady s → noStrip s → s.core.mode = 0 ∨ s.core.owner = slotOf s.turn →
      va = 0 ∨ ((va = 1 ∨ va = 2) ∧ hasArray s s.turn = true ∧ s.hart.pmode.testBit 0 = false) → runs (.mxMode d a b)) ∧
    ((Instr.mxTshape d a b t).wf = true → arrayReady s (if t = .i8 then [2] else [1]) → va / 2 ^ 32 % 4 = 0 → runs (.mxTshape d a b t)) ∧
    ((Instr.mxOp d a b t).wf = true → arrayReady s [1] → (t = .mx4 → a ≠ 1 ∧ b ≠ 1) → fits 16 → runs (.mxOp d a b t)) ∧
    (∀ i, i ∈ [.mxZero d, .mxMv d a] → i.wf = true → arrayReady s [1, 2] → runs i) ∧
    (∀ i, i ∈ [.mxRdrow d a b, .mxRdcol d a b, .mxWrrow d a b, .mxWrcol d a b] → i.wf = true → arrayReady s [1, 2] →
      (s.hart.reg b).toNat < s.core.mvl → fits 32 → runs i) ∧
    (∀ i, i ∈ [.mxSpill d a, .mxFill d a] → i.wf = true → arrayReady s [1, 2] → va % 64 = 0 →
      inSpad s va (4 * (s.core.mvl * s.core.mvl)) → runs i) ∧
    (∀ i gr, i ∈ [.spEval d a t, .spDx d a b t, .spGrad a b t] → i.wf = true → reliefReady s gr → s.core.kclamp % 4 ≠ 3 → fits 32 → runs i) ∧
    (∀ gr, arrayReady s [2] → gridOf s.core = some gr → s.core.kgrid.testBit 13 = false →
      2 * gr.g + gr.deg ≤ (if gr.paired then 16 else 8) → s.core.kinv / 2 ^ 23 % 2 ^ 8 < 254 → runs .spRefine) ∧
    (arrayReady s [2] → runs .spGzero ∧ ((Instr.spPair a).wf = true → va = 0 → runs (.spPair a)) ∧
      (va % 64 = 0 → inSpad s va (44 * (s.core.mvl * s.core.mvl)) → runs (.spGspill a) ∧ runs (.spGfill a))) ∧
    (vecReady s → noStrip s → untracked s →
      ((Instr.engCopy d a b 0).wf = true → copyReady s d a b → runs (.engCopy d a b 0)) ∧
      (∀ dests, (Instr.engMcast d a b 0).wf = true → mcastReady s d a b dests → runs (.engMcast d a b 0)) ∧
      ((Instr.engGather d a b 0).wf = true → gatherReady s d a b → runs (.engGather d a b 0)) ∧
      ((s.hart.reg d).toNat < 64 → (s.hart.reg d).toNat < (s.partAt s.part).pattCount → va = 0 → runs (.engPatt d a)) ∧
      ((Instr.engColl a 0).wf = true → collReach s a → runs (.engColl a 0)))

/-- Completion of the device events from TABLE_WALK to HOST_STOP_TIMEOUT, of the scheduling and containment events, of the debug commands, BREAKPOINT_HIT and TRACE_SAMPLE. -/
def Obligations.HartAndSchedulingEventsComplete : Prop :=
  (∀ (s s1 : State) (p : Place) (va : Word) (acc : Access), s.hart.slot = .running → s.hart.exited = false →
    translate s s.turn acc false va.toNat = .ok (p, s1) → exec (.tableWalk va acc) s = .next s1) ∧
  (∀ (s : State) (r : Request) (part : Nat) (bytes : List Byte), masterPart s r.master = some part → r.spad = none → r.amo = none →
    r.write = some bytes → mapsAgree s → unreplicated s → plainRange s r.addr bytes.length → opens s part r.addr bytes.length r.addr →
    ∃ t, exec (.accessPerform r) s = .next t ∧ devWrote s t r.addr bytes) ∧
  (∀ (s : State) (k el q : Nat) (x : TrapInfo) (e : VEntry) (rest : List VEntry), (s.hartAt k).viq = e :: rest →
    (s.hartAt k).intrap = false → e.mayReport el q = true → e.late = none → exec (.targetFaultReport k el q x) s =
      .next (hartSet s k { s.hartAt k with viq := { e with late := some (el, q, x) } :: rest })) ∧
  (∀ (s : State) (die : Fin 4) (u : ReplUpdate), (s.mem.repl.filter (·.die == die.val)).head? = some u →
    exec (.replCopyUpdate die 0) s = .next { s with mem := { s.mem with repl := s.mem.repl.erase u } }) ∧
  (∀ (s : State) (k slot : Nat), exec (.streamReadAhead k slot) s = .next s) ∧
  (∀ (s : State) (block status : Word), noStrip s → block.toNat % 8 = 0 → inSpad s block.toNat 24 →
    ∃ t, exec (.engCompletion s.turn 3 block status) s = .next t ∧ numAt t (spadLoc s (block.toNat + 16)) 8 = status.toNat) ∧
  (∀ (s : State) (d a b : Reg) (e : VEntry) (x : Coll), s.hart.viq = [e] → e.op = .eng 4 d a b 3 → e.status = none →
    s.hart.slot = .running → s.hart.intrap = false → e.aux + 2 ^ 27 ≤ s.reftime → e.block ≠ [] → collWaits s e x →
    ∃ t, exec (.collTimeout s.turn) s = .next t ∧ t.hart.viq = []) ∧
  (∀ (s : State) (k : Nat), (s.hartAt k).kind = .helper → (s.hartAt k).slot = .waiting → (s.hartAt k).wait = .hole →
    (s.hartAt k).taken = none → (nextReady (s.coreAt (coreOf k))).isSome = true → (s.hartAt k).filltab = 0 →
    (s.coreAt (coreOf k)).dbg = [] → ∃ t, exec (.hqTakeDispatch k) s = .next t ∧ (t.hartAt k).slot = .running) ∧
  (∀ (s : State) (k d : Nat), (s.hartAt k).slot = .waiting → (s.hartAt k).wait = .clock d → d ≤ s.reftime →
    exec (.idleWake k) s = .next (hartSet s k (wakes s (s.hartAt k)))) ∧
  (∀ (s : State) (k id : Nat) (x : TrapInfo) (t : Task), s.task? id = some t → t.stopAt + 1500 ≤ s.reftime →
    (∃ u, exec (.remoteStopTimeout k x) s = .next u ∧ u.task? id = some { t with
      saved := t.saved.map (SavedCore.stopOpen s k 2 { x with cause := .remote, sub := 2, level := 0 }) }) ∧
    ∃ u, exec (.hostStopTimeout k x) s = .next u ∧ u.task? id = some { t with
      saved := t.saved.map (SavedCore.stopOpen s k 3 { x with cause := .access, sub := 2, level := 0 }) }) ∧
  (∀ (s : State) (die : Fin 4) (id cl : Nat) (t : Task), placeable s die.val id cl t →
    ∃ u g, exec (.placementPass die) s = .next u ∧ u.task? id = some { t with st := .running } ∧ u.gang? id = some g ∧
      g.cores = (freeCores s t cl).take t.cores) ∧
  (∀ (s : State) (id : Nat) (g : Gang) (t : Task), s.gang? id = some g → s.task? id = some t → g.cores ≠ [] → g.cores.Nodup →
    noStrips s g.cores → s.mem.repl = [] → ∃ u, exec (.preempt id) s = .next (pass u t.die) ∧ released u g.cores ∧
      u.task? id = some { t with st := .ready, saved := g.cores.map (saveCore s), stopAt := s.reftime }) ∧
  (∀ (s : State) (die cls : Fin 4) (id since : Nat), cls.val = 1 ∨ cls.val = 2 →
    Table.find? (s.dieAt die.val).heads cls.val = some (id, since) → since + 50000 ≤ s.reftime →
    exec (.preemptWaitExpiry die cls) s = .next (pass s die.val)) ∧
  (∀ (s : State) (id : Nat) (reason : KillReason) (g : Gang) (t : Task), s.gang? id = some g → s.task? id = some t → t.future = 0 →
    queuesEmpty s t.die → noRings s t.part → (∀ c, c ∈ g.cores → c < 384) → ∃ u, exec (.gangKill id ⟨reason, none⟩) s = .next u ∧
      released u g.cores ∧ u.gang? id = none ∧ u.task? id = some { t with st := .killed, saved := [] }) ∧
  (∀ (s : State) (die : Fin 4), s.stew.replay = false → (∀ d, d < 4 → queuesEmpty s d) → s.gangs = [] → s.tasks = [] →
    ∃ u, exec (.dieFence die) s = .next u ∧ u.dieAt die.val = { s.dieAt die.val with fenced := true }) ∧
  (∀ (s : State) (core : Nat) (group : Fin 8) (part : Fin 4), s.stew.replay = false → (s.coreAt core).gang = none →
    queuesEmpty s (dieOf core) → (∃ u, exec (.laneGroupRetire core group) s = .next u ∧
      u.coreAt core = { s.coreAt core with lanesFailed := (s.coreAt core).lanesFailed ||| 2 ^ group.val }) ∧
    ∃ u, exec (.arrayRowGroupRetirement core false part) s = .next u ∧
      u.coreAt core = { s.coreAt core with rowsFailed := (s.coreAt core).rowsFailed ||| 2 ^ part.val }) ∧
  (∀ (s : State) (k n : Nat), s.stew.unlocked = true → (s.hartAt k).slot ≠ .empty →
    exec (.dbgHalt k) s = .next (hartSet s k (haltedHart (s.hartAt k))) ∧
    ((s.hartAt k).slot = .stopped → (s.hartAt k).wait = .held → (s.hartAt k).kind ≠ .helper → 1 ≤ n → n ≤ 65535 →
      let on := { wakes s (s.hartAt k) with halted := false, stepsLeft := none, stepElems := none }
      exec (.dbgResume k) s = .next (hartSet s k on) ∧
      exec (.dbgStepInstruction k n) s = .next (hartSet s k { on with stepsLeft := some n }) ∧
      exec (.dbgStepElements k n) s = .next (hartSet s k { on with stepElems := some n }))) ∧
  (∀ (s : State) (k : Nat) (i : Fin 4), (s.hartAt k).acts = true → breakpointAt s k (s.hartAt k).pc false i.val = true →
    exec (.breakpointHit k i) s = .next (hartSet s k (haltedHart (s.hartAt k)))) ∧
  (∀ (s : State) (core : Nat), let ctl := dbgReg s core 0
    ctl / 2 ^ 24 % 2 ^ 24 ≠ 0 → (s.coreAt core).sampled + ctl / 2 ^ 24 % 2 ^ 24 ≤ s.reftime → (∀ n, n < 8 → ctl.testBit (16 + n) = false) →
    ∃ u, exec (.traceSample core) s = .next u ∧ (u.coreAt core).sampled = s.reftime)

/-- Completion of GOVERNOR_SAMPLE to BOOST_INTERVAL_END, ENERGY_UPDATE, HANG_WATCHDOG, PACKAGE_POWER_OFF, LINK_DOWN, LINK_UP, PEER_RESET and of the events of live stack retirement. -/
def Obligations.PowerLinkAndRetirementEventsComplete : Prop :=
  ∀ s : State,
    (∀ (die : Fin 4) (p : Nat), s.stew.replay = false → (s.dieAt die.val).sampled + 100 ≤ s.reftime → 80 ≤ p → p ≤ 95 →
      ∃ t, exec (.governorSample die p) s = .next t ∧ (t.dieAt die.val).above = 0 ∧ (t.dieAt die.val).below = 0) ∧
    (∀ (die : Fin 4) (cl : Nat), s.stew.replay = false → cl / 8 = die.val →
      (∃ t, exec (.thermalOver die) s = .next t ∧
        (t.clusterAt cl).ceil = min 5 (max (s.clusterAt cl).want (s.clusterAt cl).ceil + 1)) ∧
      ((s.dieAt die.val).tooHot = true → (s.dieAt die.val).stepped + 1000 ≤ s.reftime →
        ∃ t, exec (.thermalStepDown die) s = .next t ∧ (t.clusterAt cl).ceil = min 5 ((s.clusterAt cl).ceil + 1)) ∧
      ((s.dieAt die.val).cooled = true → (s.dieAt die.val).stepped + 10000 ≤ s.reftime → (s.clusterAt cl).ceil ≠ 0 →
        ∃ t, exec (.thermalStepUp die) s = .next t ∧ (t.clusterAt cl).ceil = (s.clusterAt cl).ceil - 1)) ∧
    (∀ die : Fin 4, ∃ t, exec (.thermalRecover die) s = .next t ∧ (t.dieAt die.val).cooled = true) ∧
    (∀ die : Fin 4, s.reftime % 400 = 0 → (s.dieAt die.val).interval < s.reftime → (s.dieAt die.val).hot = 0 →
      ∃ t, exec (.boostIntervalEnd die) s = .next t ∧ (t.dieAt die.val).permits = min 64 ((s.dieAt die.val).permits + 1)) ∧
    (∀ n, s.stew.energyAt + 100 ≤ s.reftime → exec (.energyUpdate n) s =
      .next { s with stew := { s.stew with energy := min (2 ^ 64 - 1) (s.stew.energy + n), energyAt := s.reftime } }) ∧
    (∀ k, let part := (s.partOf (coreOf k)).getD 0
      (s.hartAt k).slot = .running → (s.hartAt k).exited = false → (s.hartAt k).halted = false →
      (s.hartAt k).retired + 2 ^ 27 ≤ s.reftime → ringReady s part → coreOf k < 384 →
      ∃ t, exec (.hangWatchdog k) s = .next t ∧ told s t part 4 [(8, 1, 0), (12, 2, coreOf k), (14, 1, slotOf k)]) ∧
    exec .packagePowerOff s = .next { s with powered := false } ∧
    (∀ port : Fin 64, let p := s.portAt port.val
      let becomes := fun (i : Instr) (up : Bool) =>
        ∃ t, exec i s = .next t ∧ t.portAt port.val = { p with up := up, gen := (p.gen + 1) % 256 }
      becomes (.linkDown port) false ∧ becomes (.linkUp port) true ∧ becomes (.peerReset port) p.up) ∧
    (∀ n, exec (.copyBroadcast n) s = .next { s with mem := { s.mem with copies := Table.set s.mem.copies n s.mem.version } }) ∧
    (∀ x : Fin 8, (∃ t, exec (.plinthFailing x) s = .next t ∧
        ((∀ p, p < 4 → (s.partAt p).dmbase = 0) → t.mem.failing = s.mem.failing ||| 2 ^ x.val)) ∧
      (mayDrop s x.val = true → (∀ p, p < 4 → noRings s p) → ∃ t, exec (.retireDrop x) s = .next t ∧ t.mem.leaving = some x.val ∧
        t.mem.cap = (liveCount s - 1) * Config.granulesPerStack)) ∧
    (∀ part : Fin 4, s.mem.leaving.isSome = true → s.mem.phase % 2 = 0 → (s.partAt part.val).live = true →
      (∃ t, exec (.rangeReturn part) s = .next t ∧ t.mem.returned = s.mem.returned ||| 2 ^ part.val) ∧
      (s.mem.returned.testBit part.val = false → s.mem.dropAt + s.mem.deadline ≤ s.reftime → (∀ p, p ∈ s.tasks → p.2.part ≠ part.val) →
        ∃ t, exec (.partitionDeadline part) s = .next t ∧ t.mem.returned = s.mem.returned ||| 2 ^ part.val)) ∧
    (∀ x, s.mem.leaving = some x → s.mem.phase % 2 = 0 → (∀ p, p ∈ liveParts s → s.mem.returned.testBit p = true) →
      bandBusy s = false → ∃ t, exec .walkStart s = .next t ∧ t.mem.phase = (s.mem.phase + 1) % 2 ^ 32 ∧ t.mem.step = 1) ∧
    (s.mem.phase % 2 = 1 → s.mem.step = 1 →
      ∃ t, exec .granuleMove s = .next t ∧ t.mem.stage = s.mem.stage + 1)

/-- Completion of the events of the host link, the fabric ports, the register blocks, the management commands, PACKAGE_RESET, STEWARD_WATCHDOG and REPLAY_INJECT. -/
def Obligations.HostAndManagementEventsComplete : Prop :=
  ∀ (s : State) (fn : Fin 4) (v : Word), s.stew.recording = false → let p := s.partAt fn.val
    (∀ off data d l, mapsAgree s → p.live = true → p.winbase + off + data.length ≤ 2 ^ 52 → off + data.length ≤ 2 ^ 36 → 0 < data.length → off % 4096 + data.length ≤ 4096 →
      walk2 s fn.val (p.winbase + off) (p.winbase + off) = .ok (l, d) → l.kind = 0 → plainRange s d data.length →
      devStop s fn.val false d (p.winbase + off) = none → devStop s fn.val false (d + data.length - 1) (p.winbase + off) = none →
      (l.w = true → unreplicated s → ∃ t, exec (.hostInboundWrite fn off (.bytes data)) s = .next t ∧ devWrote s t d data) ∧
      (l.r = true → (∀ i, i < data.length → Table.find? s.mem.bad ((d + i) / 64) = none) →
        exec (.hostInboundRead fn (.window off) data.length) s =
          .next (s.setPartAt fn.val { p with lastRead := some ((List.range data.length).map fun i => byteAt s (.dev (d + i))) }))) ∧
    (p.live = true → exec (.energyLoRead fn) s =
      .next (s.setPartAt fn.val { p with energyHi := s.stew.energy / 2 ^ 32, lastRead := some (leBytes 4 s.stew.energy) })) ∧
    (p.live = true → p.mbheld = [] → exec (.mbtailWrite fn v) s = .next (s.setPartAt fn.val { p with mbtail := v.toNat % 256, mbdrop := false })) ∧
    (p.dmheld = [] → exec (.dmtailWrite fn v) s = .next (s.setPartAt fn.val { p with dmtail := v.toNat % 256, dmdrop := false })) ∧
    (v.toNat % 2 ^ 36 = 0 → exec (.dmbaseWrite fn v) s = .next (s.setPartAt fn.val { p with dmbase := v.toNat })) ∧
    (v.toNat % 2 ^ 36 = 0 → p.live = true → exec (.winbaseWrite fn v) s = .next (s.setPartAt fn.val { p with winbase := v.toNat }) ∧
      exec (.registerWrite (0x300 + fn.val) 0x10 v) s = .next (s.setPartAt fn.val { p with mbbase := v.toNat })) ∧
    (∀ (q : Place) (a : Nat), mapsAgree s → let va := v.toNat / 2 ^ 6 % 2 ^ 50 * 64
      let b := bytes64 s q.loc
      p.live = true → v.toNat / 2 ^ 56 = 0 → v.toNat / 2 ^ 2 % 16 = 0 → p.clusters / 2 ^ (8 * (v.toNat % 4)) % 2 ^ 8 ≠ 0 → p.hsctx ≠ 0 →
      hostPlace s fn.val p.hsctx .atomic va = .ok (q, s) → q.loc = .dev a → a % 64 = 0 → q.kind = 0 → q.enc = false → plainRange s a 64 →
      Table.find? s.mem.bad (a / 64) = none → field b 32 8 = 0 → descOk b (max p.hsprio p.spawnGrant) = true → field b 24 4 ≠ 0 →
      ∃ t x, exec (.hostSpawn fn v) s = .next t ∧ t.task? (s.tasks.length + 1) = some x ∧ x.st = .pending ∧ x.desc = BitVec.ofNat 64 va) ∧
    (∀ (port : Fin 64) (r : Request), policed s port.val → windowHolds (s.portAt port.val) r = true →
      ∃ t, exec (.fabricInboundRequest port r) s = .next t ∧
        exec (.accessPerform { r with master := 0x400 + port.val, spad := none }) (spent s port.val) = .next t) ∧
    (∀ (off : Nat) (data : HostData) (rest : List Arrival), s.stew.replay = true →
      s.stew.script = { tick := s.reftime, what := .write fn.val off data } :: rest →
      ∃ t, exec (.replayInject { tick := s.reftime, what := .write fn.val off data }) s = .next t ∧
        exec (.hostInboundWrite fn off data) { s with stew := { s.stew with script := rest } } = .next t) ∧
    (∀ c, s.stew.replay = false → let a := accepted s c
      (∀ x : Fin 8, good s c (.retire x.val) → s.mem.live.testBit x.val = true → 2 ≤ liveCount s → s.mem.leaving ≠ some x.val →
        x.val ∉ s.mem.queued →
        exec (.retire c x) s = .next (done s c { a with mem := { s.mem with queued := s.mem.queued ++ [x.val] } })) ∧
      (∀ cl ports ranges, good s c (.create fn.val cl ports ranges) → fn.val ≠ 0 → p.live = false →
        heldByOther s fn.val cl ports ranges = false → ∃ t, exec (.partCreate c fn cl ports ranges) s = .next t ∧ (t.partAt fn.val).live = true ∧ (t.partAt fn.val).clusters = cl ∧
          (t.partAt fn.val).ranges = ranges) ∧
      (good s c (.destroy fn.val) → fn.val ≠ 0 → p.live = true → (∀ x, x ∈ s.tasks → x.2.part ≠ fn.val) →
        ∃ t, exec (.partDestroy c fn) s = .next t ∧ t.partAt fn.val = {}) ∧
      (∀ id t, good s c (.reset fn.val) → p.live = true → s.tasks = [(id, t)] → t.part = fn.val → t.st = .running →
        ∃ w, exec (.reset c fn) s = .next (done s c w) ∧ exec (.gangKill id ⟨.partition, none⟩) a = .next w) ∧
      (∀ n, good s c (.quote n) → let salt := (List.range 32).map fun i => Config.freeByte (s.free + i)
        exec (.quote c n) s = .next (answered { a with free := s.free + 32, stew := { a.stew with quotes := s.stew.quotes + 1 } }
          (blockBytes c s 8 8) 0 (quoteBytes s n salt))) ∧
      (good s c .challenge → let salt := (List.range 32).map fun i => Config.freeByte (s.free + i)
        exec (.unlockChallenge c) s = .next (answered { a with free := s.free + 32, stew := { a.stew with challenge := some salt } }
          (blockBytes c s 8 8) 0 salt)) ∧
      (∀ l, good s c (.unlock l) → s.stew.challenge = some l → exec (.unlock c l true) s =
        .next (done s c { a with stew := { a.stew with unlocked := true, challenge := none } })) ∧
      (good s c .record → exec (.record c) s = .next (done s c { a with stew := { a.stew with armed := true } }))) ∧
    ∃ t, exec (.packageReset none {} []) s = .next t ∧ t.tasks = [] ∧ t.gangs = [] ∧ t.mem.dev = s.mem.dev ∧
      (s.stew.chain = {} → s.stew.images = [] → s.stew.acked + 2 ^ 30 ≤ s.reftime → exec .stewardWatchdog s = .next t)

/-- alu.add to alu.rem as exact integers, and alu.and to alu.ctz (R272), on every integer type. -/
def Obligations.AluInstructions : Prop :=
  ((∀ (i : Instr) (s : State) (fn : BinFn) (d a b : Reg) (t : Ty) (v : BitVec t.width),
    alu2 i = some (fn, d, a, b, t) → i.wf = true →
    arith fn t.isSigned (cut t (s.hart.reg a)) (cut t (s.hart.reg b)) = some v →
    exec i s = .next (wrote s d (wide t v))) ∧
  (∀ (i : Instr) (s : State) (fn : BinFn) (d a b : Reg) (t : Ty) (v : BitVec t.width),
    alu2 i = some (fn, d, a, b, t) → i.wf = true →
    divide fn t.isSigned (cut t (s.hart.reg a)) (cut t (s.hart.reg b)) = some v →
    exec i s = .next (wrote s d (wide t v)))) ∧
  ((∀ (i : Instr) (s : State) (fn : BinFn) (d a b : Reg) (t : Ty) (v : BitVec t.width),
    alu2 i = some (fn, d, a, b, t) → i.wf = true →
    logic fn t.isSigned (cut t (s.hart.reg a)) (cut t (s.hart.reg b)) = some v →
    exec i s = .next (wrote s d (wide t v))) ∧
  (∀ (i : Instr) (s : State) (fn : BinFn) (d a b : Reg) (t : Ty) (v : BitVec t.width),
    alu2 i = some (fn, d, a, b, t) → i.wf = true →
    extreme fn t.isSigned (cut t (s.hart.reg a)) (cut t (s.hart.reg b)) = some v →
    exec i s = .next (wrote s d (wide t v))) ∧
  (∀ (s : State) (d a b : Reg) (t : Ty), t.isInt = true →
    let x := cut t (s.hart.reg a)
    let y := cut t (s.hart.reg b)
    exec (.aluSlt d a b t) s = .next (wrote s d (if (if t.isSigned then x.slt y else x.ult y) then 1 else 0)) ∧
    exec (.aluSeq d a b t) s = .next (wrote s d (if x = y then 1 else 0))) ∧
  (∀ (s : State) (d a : Reg) (t : Ty), t.isInt = true →
    let x := cut t (s.hart.reg a)
    exec (.aluPcnt d a t) s = .next (wrote s d (BitVec.ofNat 64 ((List.range t.width).countP fun i => x.getLsbD i))) ∧
    exec (.aluClz d a t) s =
      .next (wrote s d (BitVec.ofNat 64 ((List.range t.width).takeWhile fun i => !x.getMsbD i).length)) ∧
    exec (.aluCtz d a t) s =
      .next (wrote s d (BitVec.ofNat 64 ((List.range t.width).takeWhile fun i => !x.getLsbD i).length))))

/-- alui.add to alui.sltu (R273) and hi (R274), as numbers. -/
def Obligations.ImmediatesAndHi : Prop :=
  ∀ (i : Instr) (s : State) (d : Reg) (v : Word),
    immValue i s.hart.reg = some (d, v) → exec i s = .next (wrote s d v)

/-- br in its six conditions, jmp, jr.go and jr.call (R277 to R279). No word is held from before a taken branch or a jump (R280); `codeAt := fenced`: the second step of R117 (log 52). -/
def Obligations.BranchesAndJumps : Prop :=
  (∀ (s : State) (a b : Reg) (off : BitVec 13),
    let h := s.hart
    let goes := fun (c : Bool) => if c then jumped s h (h.pc + BitVec.ofInt 64 (4 * off.toInt)) else jumped s h (h.pc + 4)
    exec (.brEq a b off) s = .next (goes (decide (h.reg a = h.reg b))) ∧
    exec (.brNe a b off) s = .next (goes (decide (h.reg a ≠ h.reg b))) ∧
    exec (.brLt a b off) s = .next (goes (decide ((h.reg a).toInt < (h.reg b).toInt))) ∧
    exec (.brGe a b off) s = .next (goes (decide ((h.reg b).toInt ≤ (h.reg a).toInt))) ∧
    exec (.brLtu a b off) s = .next (goes (decide ((h.reg a).toNat < (h.reg b).toNat))) ∧
    exec (.brGeu a b off) s = .next (goes (decide ((h.reg b).toNat ≤ (h.reg a).toNat)))) ∧
  (∀ (s : State) (off : BitVec 26), decodeWord (0x08 * 2 ^ 26 + off.toNat) = .ok (.jmp off) ∧
    exec (.jmp off) s = .next (jumped s { s.hart with codeAt := s.hart.fenced } (s.hart.pc + BitVec.ofInt 64 (4 * off.toInt)))) ∧
  (∀ (s : State) (a : Reg), exec (.jrGo a) s = .next (jumped s { s.hart with codeAt := s.hart.fenced } (s.hart.reg a))) ∧
  (∀ (s : State) (d a : Reg), exec (.jrCall d a) s =
    .next (jumped s { s.hart with codeAt := s.hart.fenced, s := if d = 0 then s.hart.s else s.hart.s.set d.val (s.hart.pc + 4) } (s.hart.reg a)))

/-- jmp (R278): its word, its target, and that it writes no register. -/
def Obligations.JumpAddsItsOffset : Prop :=
  ∀ (s : State) (off : BitVec 26), decodeWord (0x08 * 2 ^ 26 + off.toNat) = .ok (.jmp off) ∧
    ∃ t, exec (.jmp off) s = .next t ∧ t.hart.pc = s.hart.pc + 4 * off.signExtend 64 ∧ t.hart.s = s.hart.s

/-- ld (R275, R276) from a place that serves the hart; the extension of R271; memory and every other register stay. -/
def Obligations.LoadsDeliver : Prop :=
  ∀ (s s1 : State) (p : Place) (d a : Reg) (t : Ty) (off : BitVec 12),
    let va := s.hart.reg a + BitVec.ofInt 64 off.toInt
    ldTy t = true → va.toNat % t.size = 0 → translate s s.turn .load false va.toNat = .ok (p, s1) → serves s1 s.turn p t.size →
    s.hart.strip = [] →
    ∃ v : Word, exec (.ld d a t off) s = .next (wrote s1 d v) ∧
      (∀ i, i < t.size → v.extractLsb' (8 * i) 8 = byteAt s1 (p.loc.plus i)) ∧
      (∀ j, t.width ≤ j → j < 64 → v.getLsbD j = (t.isSigned && v.getLsbD (t.width - 1)))

/-- Trap entry (R191 to R199) as svc (R290), brk (R293), the majors of R251 and the event TRAP_ENTRY take it. -/
def Obligations.TrapEntry : Prop :=
  (∀ (s : State) (n : BitVec 4), trapReady s.hart →
    exec (.svc n) s = .next (trapped' s (s.hart.pc + 4) { cause := .svc, sub := n.toNat })) ∧
  (∀ (s : State) (code : BitVec 12), trapReady s.hart → debugHeld s s.turn = false →
    exec (.brk code) s = .next (trapped' s s.hart.pc { cause := .break_, sub := 1, taddr := code.toNat })) ∧
  (∀ (s : State) (x : BitVec 26), trapReady s.hart →
    exec (.ill x) s = .next (trapped' s s.hart.pc { cause := .ill, sub := 1, taddr := x.toNat }) ∧
    exec (.ill3f x) s = .next (trapped' s s.hart.pc { cause := .ill, sub := 1, taddr := 0xFC000000 + x.toNat })) ∧
  (∀ (s : State) (t : TrapInfo), trapReady s.hart → s.hart.slot = .running → s.hart.exited = false →
    (s.hart.viq = [] ∨ s.hart.intrap = true) → t.media = none → (t.cause = .ue → s.stew.replay = false) →
    exec (.trapEntry t) s = .next (trapped' s s.hart.pc t))

/-- tret (R200, R291) with RESUME = RETRY and MASKED, for scalar instructions and vector entries; its refusals, each a trap. -/
def Obligations.TrapReturn : Prop :=
  (∀ (s : State) (useS : Bool),
    let h := s.hart
    let b := if useS then h.sbank else h.ubank
    useS = decide (h.priv = .supervisor ∧ h.sbank.intrap = true) →
    b.intrap = true → b.tcause.toNat / 2 ^ 12 % 4 < 2 → (h.priv = .user → b.tcause.toNat.testBit 10 = false) →
    let fp := b.tcause.toNat / 2 ^ 12 % 4 = 1 ∧ (b.tcause.toNat % 256 = 9 ∨ b.tcause.toNat % 256 = 10)
    let vec := b.tcause.toNat / 2 ^ 11 % 2 = 1
    ∃ w : Word,
      (∀ i, w.getLsbD i = (b.tcause.getLsbD i && i != 15 && i != 13 && i != 12)) ∧
      exec .tret s = .next (withTurn s { h with
        sbank := if useS then { h.sbank with tcause := w } else h.sbank
        ubank := if useS then h.ubank else { h.ubank with tcause := w }
        slot := if useS = false ∧ h.sbank.intrap = true then .stopped else .running
        wait := if useS = false ∧ h.sbank.intrap = true then .handler else h.wait
        viq := if fp ∧ vec then h.viq.head?.toList.map ({ · with masked := true }) ++ h.viq.tail else h.viq
        synced := h.synced.filter fun r => r.1 == b.tpc || (useS && h.ubank.intrap && r.1 == h.ubank.tpc)
        priv := if b.tcause.toNat.testBit 10 then .supervisor else .user
        pc := b.tpc
        masked := decide (fp ∧ ¬ vec)
        done := h.done + 1 })) ∧
  (∀ s : State, trapReady s.hart →
    (s.hart.ubank.intrap = false →
      exec .tret s = .next (trapped' s s.hart.pc { cause := .ill, sub := 1 })) ∧
    (s.hart.priv = .user → s.hart.ubank.intrap = true → s.hart.ubank.tcause.toNat.testBit 10 = true →
      exec .tret s = .next (trapped' s s.hart.pc { cause := .priv })) ∧
    (s.hart.ubank.intrap = true → (s.hart.priv = .user → s.hart.ubank.tcause.toNat.testBit 10 = false) →
      1 < s.hart.ubank.tcause.toNat / 2 ^ 12 % 4 →
      exec .tret s = .next (trapped' s s.hart.pc { cause := .ill, sub := 1 }))) ∧
  (∀ (s : State) (g : Nat), s.hart.priv = .supervisor → s.hart.sbank.intrap = true → 1 < s.hart.sbank.tcause.toNat / 2 ^ 12 % 4 →
    s.hart.streams = [] → s.hart.gang = some g →
    ∃ u, exec .tret s = .next u ∧ exec (.gangKill g ⟨.double, some s.turn⟩) s = .next u)

/-- The fpu functions (R285 to R288) with no enabled exception, or completed by MASKED (R200). A flag is only ever raised (R237). -/
def Obligations.FpuDelivers : Prop :=
  (∀ (i : Instr) (s : State) (d : Reg) (dec : Bool) (v : Word) (fl : Nat),
    fpuValue i s.hart = some (d, dec, v, fl) → i.wf = true →
    (trapped s.hart.fpctl dec fl = 0 ∨ s.hart.masked = true) →
    exec i s = .next (withTurn s (stepped (flagged s.hart dec fl) d v))) ∧
  (∀ (s : State) (d a : Reg),
    let r := convertT .f32 .bf16 (.sr (srBits s.hart.srkey s.hart.srcount 0 0)) (pat .f32 s.hart a)
    s.hart.masked = true ∨ trapped s.hart.fpctl false r.2 = 0 →
    exec (.fpuTobf16sr d a) s = .next (withTurn s
      (stepped (flagged { s.hart with srcount := (s.hart.srcount + 1) % 2 ^ 32 } false r.2) d (BitVec.ofNat 64 r.1))))

/-- ctl.rd (R150, R252, R281) of vector, matrix, floating-point, memory, time and trap registers and of ptbase. -/
def Obligations.ControlRegistersRead : Prop :=
  ∀ (s : State) (d : Reg) (num : BitVec 12) (v : Nat),
    s.hart.kind = .vector → s.hart.priv = .supervisor → (num.toNat, v) ∈ ctlList s →
    (s.hart.viq = [] ∨ s.hart.intrap = true → exec (.ctlRd d num) s = .next (wrote s d (BitVec.ofNat 64 v))) ∧
    (s.hart.viq ≠ [] → s.hart.intrap = false → num.toNat < 4 ∨ num.toNat = 9 → s.hart.sync.length < 8 →
      exec (.ctlRd d num) s = .next (withTurn s (stepped
        { s.hart with sync := s.hart.sync ++ [{ reg := d, num := some num.toNat, ahead := s.hart.viq.length
                                                val := if num.toNat ∈ [1, 2, 3] then some v else none }] } 0 0)))

/-- The write forms (R252, R253, R281): read back, the RW bits hold what was written; nothing else changes. When a write takes effect follows log 27. -/
def Obligations.ControlRegistersWrite : Prop :=
  ∀ (s : State) (fn : Fin 3) (a : Reg) (num : BitVec 12) (old : Nat),
    let n := num.toNat
    let new := ctlNew s s.turn (fn.val + 1) n (s.hart.reg a).toNat
    idleQueue s → ctlGet s s.turn n = some old → ctlWritable s.hart.priv n = true → ctlHidden s.hart.priv n = false →
    ctlAllowed n new = true → s.hart.spawnMin < 4 → s.hart.boostReq < 4 → classOf s s.turn < 256 →
    (n = 0x100 → (s.partAt ((s.partOf (coreOf s.turn)).getD 0)).spawnGrant ≤ new / 2 ^ 8 % 4) →
    ∃ t y, exec (ctlForm fn a num) s = .next t ∧ ctlGet t s.turn n = some y ∧
      y &&& ctlMask n = ctlValue (fn.val + 1) old (s.hart.reg a).toNat &&& ctlMask n ∧
      y &&& (2 ^ 64 - 1 - ctlMask n) = old &&& (2 ^ 64 - 1 - ctlMask n) ∧
      (∀ m, m ≠ n → m ≠ 0x004 → m < 0x140 ∨ m = 0x180 → ctlGet t s.turn m = ctlGet s s.turn m) ∧
      t.hart.s = s.hart.s ∧ t.hart.pc = s.hart.pc + 4 ∧ t.mem = s.mem ∧ t.turn = s.turn ∧
      ∀ k, k ≠ s.turn → t.hartAt k = s.hartAt k

/-- id (R294) in a hart that a partition and a gang hold; s0 discards it. -/
def Obligations.IdTellsTheHart : Prop :=
  ∀ (s : State) (d : Reg) (p : Nat) (g : Gang) (die cluster cidx slot : Nat),
    die < 4 → cluster < 8 → cidx < 12 → slot < 8 → p < 4 →
    let core := die * 96 + cluster * 12 + cidx
    s.turn = core * 8 + slot → s.partOf core = some p → s.gangOf core = some g → core ∈ g.cores →
    ∃ t, exec (.id d) s = .next t ∧
      t.hart.reg d = if d = 0 then 0 else BitVec.ofNat 64 (0x46 * 2 ^ 56 + 0x01 * 2 ^ 48 + p * 2 ^ 38 + g.cores.idxOf core * 2 ^ 32 +
        core * 2 ^ 12 + die * 2 ^ 10 + cluster * 2 ^ 7 + cidx * 2 ^ 3 + slot)

/-- idle (R292) and id (R294), where twenty scalar cycles make one reference tick (R2, R6); tlbinv.page, tlbinv.asid and tlbinv.all (R297), and halt (R298). -/
def Obligations.SystemInstructions : Prop :=
  (∀ (s : State) (d a : Reg),
    ((s.hart.reg a).toNat ≤ s.now / 20 → exec (.idle d a) s = .next (wrote s d (BitVec.ofNat 64 (s.now / 20)))) ∧
    (s.now / 20 < (s.hart.reg a).toNat →
      exec (.idle d a) s = .next (withTurn s { s.hart with slot := .waiting, wait := .clock (s.hart.reg a).toNat })) ∧
    (∀ v : Nat, s.turn < 384 * 8 →
      v = 0x46 * 2 ^ 56 + 2 ^ 48 + (s.partOf (s.turn / 8)).getD 0 * 2 ^ 38 +
        (match s.gangOf (s.turn / 8) with | some g => g.cores.findIdx (· == s.turn / 8) | none => 0) * 2 ^ 32 +
        s.turn / 8 * 2 ^ 12 + s.turn / 768 * 2 ^ 10 + s.turn / 96 % 8 * 2 ^ 7 + s.turn / 8 % 12 * 2 ^ 3 + s.turn % 8 →
      exec (.id d) s = .next (wrote s d (BitVec.ofNat 64 v)))) ∧
  ((∀ (s : State) (scope : BitVec 2) (a : Reg) (i : Instr) (hit : TlbEntry → Bool),
    s.hart.priv = .supervisor → scope ≠ 3 →
    (i = .tlbinvPage a scope ∧ hit = (fun e => e.asid == s.hart.ptbase.toNat / 2 ^ 52 &&
        (s.hart.reg a).toNat / 2 ^ e.lg * 2 ^ e.lg == e.vbase) ∨
      i = .tlbinvAsid a scope ∧ hit = (fun e => e.asid == (s.hart.reg a).toNat % 2 ^ 12) ∨
      i = .tlbinvAll scope ∧ hit = (fun _ => true)) →
    s.hart.strip = [] →
    ∃ t, exec i s = .next t ∧
      (∀ c e, e ∈ (t.coreAt c).tlb ↔ e ∈ (s.coreAt c).tlb ∧
        ¬ (c ∈ tlbScope s scope.toNat ∧ e.part = (s.partOf (coreOf s.turn)).getD 0 ∧ hit e = true)) ∧
      (∀ c n e, n < 8 → ((t.hartAt (c * 8 + n)).utr = some e ↔ (s.hartAt (c * 8 + n)).utr = some e ∧
        ¬ (c ∈ tlbScope s scope.toNat ∧ n < 4 ∧ e.part = (s.partOf (coreOf s.turn)).getD 0 ∧ hit e = true))) ∧
      (∀ k, k ≠ s.turn → { t.hartAt k with utr := none } = { s.hartAt k with utr := none }) ∧
      t.hart.s = s.hart.s ∧ t.hart.priv = .supervisor ∧ t.mem = s.mem ∧
      ((∀ c n, c ∈ tlbScope s scope.toNat → n < 4 → (s.hartAt (c * 8 + n)).strip = [] ∧ (s.hartAt (c * 8 + n)).viq = []) →
        t.hart.pc = s.hart.pc + 4) ∧
      (∀ c n b e, c ∈ tlbScope s scope.toNat → n < 4 → b ∈ (s.hartAt (c * 8 + n)).strip → b.page = some e →
        e.part = (s.partOf (coreOf s.turn)).getD 0 → hit e = true → t.hart.pc = s.hart.pc)) ∧
  (∀ s : State, s.hart.priv = .supervisor → (s.partAt ((s.partOf (coreOf s.turn)).getD 0)).mbbase = 0 →
    (s.partAt ((s.partOf (coreOf s.turn)).getD 0)).dmbase = 0 →
    exec .halt s = .next (withTurn s { s.hart with slot := .stopped, wait := .held, pc := s.hart.pc + 4, done := s.hart.done + 1, masked := false })))

/-- fen.all, fen.load, fen.store, fen.eng and fen.phase (R102, R121, R389). What a fence waits for in the queue is said at its issue (log 3). -/
def Obligations.FencesAndPhase : Prop :=
  (∀ (i : Instr) (stores : Bool) (s : State) (n : BitVec 3),
    (i = .fenAll n ∧ stores = true) ∨ (i = .fenLoad n ∧ stores = false) ∨ (i = .fenStore n ∧ stores = true) ∨
      (i = .fenEng n ∧ stores = true) →
    stripLands s →
    ∃ t, exec i s = .next t ∧ hartsSame s t ∧ stripStored s t ∧
      t.hart = stepped { s.hart with
        strip := [], used := 0
        fenced := if i = .fenAll n ∧ 4 ≤ n.toNat then t.mem.past.length else s.hart.fenced } 0 0 ∧
      (stores = true → t.mem.repl = []) ∧
      (noStrip s → memSame s t ∧ restSame s t ∧ (stores = false →
        t.mem.repl = if ∃ u, u ∈ s.mem.repl ∧ u.hart = s.turn ∧ u.atomic = true then [] else s.mem.repl))) ∧
  (∀ (s : State) (d a : Reg), let p := (s.hart.reg a).toNat % 2 ^ 32
    s.mem.phase < 2 ^ 32 →
    (s.mem.phase % 2 = 0 → (s.mem.phase + 2 ^ 32 - p) % 2 ^ 32 < 2 ^ 31 → stripLands s →
      ∃ t, exec (.fenPhase d a) s = .next t ∧ hartsSame s t ∧ stripStored s t ∧
        t.hart = stepped { s.hart with strip := [], used := 0 } d (BitVec.ofNat 64 s.mem.phase) ∧ t.mem.repl = [] ∧
        (noStrip s → memSame s t ∧ restSame s t)) ∧
    (¬ (s.mem.phase % 2 = 0 ∧ (s.mem.phase + 2 ^ 32 - p) % 2 ^ 32 < 2 ^ 31) →
      exec (.fenPhase d a) s = .next (withTurn s { s.hart with slot := .waiting, wait := .phase p })))

/-- st (R275): the bytes stored, at the address that translation gives for s[a] + sext(off); the frame of memory and registers. -/
def Obligations.StoresPerform : Prop :=
  ∀ (s s1 : State) (p : Place) (d a : Reg) (t : Ty) (off : BitVec 12),
    let va := s.hart.reg a + BitVec.ofInt 64 off.toInt
    ldTy t = true → va.toNat % t.size = 0 → translate s s.turn .store false va.toNat = .ok (p, s1) → serves s1 s.turn p t.size →
    noStrip s →
    ∃ u, exec (.st d a t off) s = .next u ∧ memAfter s1 u p.loc t.size (s.hart.reg d).toNat ∧
      u.hart = stepped s1.hart 0 0 ∧ restSame s1 u ∧ u.mem.repl = s1.mem.repl

/-- The scalar atomics (R387) on every type, and cas2 on sixteen bytes, at a place that serves the hart; the f32 forms round under RNE and raise no flags. The rights amo.ld needs follow log 42. -/
def Obligations.Atomics : Prop :=
  (∀ (i : Instr) (s s1 : State) (p : Place) (x : Amo),
    amoOf i s.hart.reg = some x → i.wf = true → noStrip s →
    let va := (s.hart.reg x.a).toNat
    va % x.t.size = 0 → translate s s.turn .atomic false va = .ok (p, s1) → serves s1 s.turn p x.t.size →
    let old := cut x.t (BitVec.ofNat 64 (numAt s1 p.loc x.t.size))
    ∃ t, exec i s = .next t ∧ t.hart = stepped s1.hart x.d (wide x.t old) ∧ restSame s1 t ∧
      (x.release = true → t.mem.repl = []) ∧ (x.release = false → x.acquire = false → t.mem.repl = s1.mem.repl) ∧
      match x.new old with
      | some v => memAfter s1 t p.loc x.t.size v.toNat
      | none => memSame s1 t) ∧
  (∀ (s s1 : State) (p : Place) (d d1 a b b1 : Reg) (sys : Bool) (o : BitVec 2),
    (Instr.amoCas2 d a b sys o).wf = true → d1.val = d.val + 1 → b1.val = b.val + 1 → noStrip s →
    let va := (s.hart.reg a).toNat
    va % 16 = 0 → translate s s.turn .atomic false va = .ok (p, s1) → serves s1 s.turn p 16 →
    let old := numAt s1 p.loc 16
    let pair := fun (x y : Reg) => (s.hart.reg x).toNat + (s.hart.reg y).toNat * 2 ^ 64
    ∃ t, exec (.amoCas2 d a b sys o) s = .next t ∧
      t.hart = stepped (s1.hart.setReg d (BitVec.ofNat 64 old)) d1 (BitVec.ofNat 64 (old / 2 ^ 64)) ∧ restSame s1 t ∧
      if old = pair d d1 then memAfter s1 t p.loc 16 (pair b b1) else memSame s1 t)

/-- The alignment rule of R275 and R243. -/
def Obligations.MisalignedAccessesTrap : Prop :=
  (∀ (s : State) (d a : Reg) (t : Ty) (off : BitVec 12),
    let va := s.hart.reg a + BitVec.ofInt 64 off.toInt
    va.toNat % t.size ≠ 0 → trapReady s.hart → noStrip s →
    exec (.ld d a t off) s = .next (trapped' s s.hart.pc { cause := .align, sub := 1, taddr := va.toNat }) ∧
    exec (.st d a t off) s = .next (trapped' s s.hart.pc { cause := .align, sub := 1, taddr := va.toNat })) ∧
  (∀ s : State, s.powered = true → s.stew.booted = true → s.stew.diverged = none → s.inbox = [] → s.hart.exited = false →
    s.hart.slot = .running → s.hart.pending = none → s.hart.builtin = none → s.hart.viq = [] → s.hart.sync = [] →
    breakpointBefore s s.turn s.hart.pc = false → (∀ q, q ∈ s.mem.ports → q.2.waiting = []) → s.noted = [] →
    s.hart.pc.toNat % 4 ≠ 0 → trapReady s.hart →
    let u := trapped' s s.hart.pc { cause := .align, sub := 1, taddr := s.hart.pc.toNat }
    step s = .next { u with now := s.now + s.pace, turn := (tick s u).turn })

/-- R284: flags raised, the register unchanged, the trap precise. -/
def Obligations.FpuTraps : Prop :=
  (∀ (i : Instr) (s : State) (d : Reg) (dec : Bool) (v : Word) (fl : Nat),
    fpuValue i s.hart = some (d, dec, v, fl) → i.wf = true →
    trapped s.hart.fpctl dec fl ≠ 0 → s.hart.masked = false → trapReady s.hart →
    exec i s = .next (trapped' (withTurn s (flagged s.hart dec fl)) s.hart.pc
      { cause := if dec then .decx else .fpx, sub := firstOf (trapped s.hart.fpctl dec fl) })) ∧
  (∀ (s : State) (d a : Reg),
    let r := convertT .f32 .bf16 (.sr (srBits s.hart.srkey s.hart.srcount 0 0)) (pat .f32 s.hart a)
    trapped s.hart.fpctl false r.2 ≠ 0 → s.hart.masked = false → trapReady s.hart →
    exec (.fpuTobf16sr d a) s = .next (trapped' (withTurn s (flagged s.hart false r.2)) s.hart.pc
      { cause := .fpx, sub := firstOf (trapped s.hart.fpctl false r.2) }))

/-- The results of add, sub, mul and fma that do not overflow, against the pseudocode of R226 over the reals. -/
def Obligations.FpuSumsAndProductsRoundOnce : Prop :=
  ∀ (t : Ty) (rm : Rm) (a b c : Nat) (x y z : ℝ),
    t = .bf16 ∨ t = .f32 ∨ t = .f64 → rm = .rne ∨ rm = .rtz ∨ rm = .rup ∨ rm = .rdn →
    a < 2 ^ t.width → b < 2 ^ t.width → c < 2 ^ t.width →
    real (fmtOf t) a = some x → real (fmtOf t) b = some y → real (fmtOf t) c = some z →
    (x + y ≠ 0 → isRounded (fmtOf t) rm (x + y) (addT t rm a b)) ∧
    (x - y ≠ 0 → isRounded (fmtOf t) rm (x - y) (subT t rm a b)) ∧
    (x * y ≠ 0 → isRounded (fmtOf t) rm (x * y) (mulT t rm a b)) ∧
    (x * y + z ≠ 0 → isRounded (fmtOf t) rm (x * y + z) (fmaT t rm false false a b c))

/-- The results of div, rcp, sqrt and rsq that do not overflow, against the pseudocode of R226 over the reals. -/
def Obligations.FpuQuotientsAndRootsRoundOnce : Prop :=
  ∀ (t : Ty) (rm : Rm) (a b : Nat) (x y : ℝ),
    t = .bf16 ∨ t = .f32 ∨ t = .f64 → rm = .rne ∨ rm = .rtz ∨ rm = .rup ∨ rm = .rdn →
    a < 2 ^ t.width → b < 2 ^ t.width →
    real (fmtOf t) a = some x → real (fmtOf t) b = some y →
    (x ≠ 0 → y ≠ 0 → isRounded (fmtOf t) rm (x / y) (divT t rm a b)) ∧
    (x ≠ 0 → isRounded (fmtOf t) rm (1 / x) (roundBin (fmtOf t) rm (rcpEx (unpack t a)))) ∧
    (0 < x → isRounded (fmtOf t) rm (Real.sqrt x) (sqrtT t rm a)) ∧
    (0 < x → isRounded (fmtOf t) rm (1 / Real.sqrt x) (roundBin (fmtOf t) rm (rsqEx (unpack t a))))

/-- The checks of ctl (R253) in its order. -/
def Obligations.ControlRegisterChecks : Prop :=
  ∀ (s : State) (d a : Reg) (num : BitVec 12) (fn : Fin 3), trapReady s.hart → 
    let n := num.toNat
    (ctlGet s s.turn n = none →
      exec (.ctlRd d num) s = .next (trapped' s s.hart.pc
        { cause := .ill, sub := 1, taddr := 0x28000000 + d.val * 2 ^ 21 + n * 16 }) ∧
      exec (ctlForm fn a num) s = .next (trapped' s s.hart.pc
        { cause := .ill, sub := 1, taddr := 0x28000000 + a.val * 2 ^ 16 + n * 16 + (fn.val + 1) })) ∧
    (s.hart.kind = .vector → s.hart.priv = .user → n = 0x180 ∨ (0x150 ≤ n ∧ n < 0x158) →
      exec (.ctlRd d num) s = .next (trapped' s s.hart.pc { cause := .priv }) ∧
      exec (ctlForm fn a num) s = .next (trapped' s s.hart.pc { cause := .priv })) ∧
    (s.hart.kind = .vector → n = 0x000 ∨ n = 0x104 ∨ n = 0x0C0 ∨ n = 0x142 →
      exec (ctlForm fn a num) s = .next (trapped' s s.hart.pc { cause := .priv })) ∧
    (s.hart.kind = .scalar → n = 0x001 ∨ n = 0x040 →
      exec (.ctlRd d num) s = .next (trapped' s s.hart.pc { cause := .ill, sub := 1 }) ∧
      exec (ctlForm fn a num) s = .next (trapped' s s.hart.pc { cause := .ill, sub := 1 }))

/-- The privilege rule of R299. -/
def Obligations.UserHartsTrapPriv : Prop :=
  ∀ (s : State) (i : Instr), s.hart.priv = .user → trapReady s.hart → i.wf = true →
    (match i with
      | .csave _ _ _ _ _ | .crest _ _ | .tlbinvPage _ _ | .tlbinvAsid _ _ | .tlbinvAll _ | .halt => True
      | _ => False) →
    exec i s = .next (trapped' s s.hart.pc { cause := .priv })

/-- bar.init, bar.arrive, bar.wait and bar.sync (R390 to R394). The order of the checks follows log 41. -/
def Obligations.Barriers : Prop :=
  ∀ (s : State) (d a : Reg) (r : BarRef), noStrip s →
    let b := barGet s r
    let p := (b.phase + b.arrived / b.count) % 2 ^ 32
    let handle := (s.hart.reg a).toNat
    (barRef s s.turn handle = .ok r → b.broken = true ∨ (b.arrived = 0 ∧ b.pend = 0 ∧ barWaited s r = false) →
      1 ≤ (s.hart.reg d).toNat → (s.hart.reg d).toNat ≤ 1024 →
      ∃ t, exec (.barInit d a) s = .next t ∧ shape (barGet t r) = ((s.hart.reg d).toNat, 0, 0, 0, false) ∧ otherBars s t r ∧
        t.hart = stepped s.hart 0 0 ∧ hartsSame s t ∧ memSame s t) ∧
    (barrierReady s a r → b.arrived < b.count →
      ∃ t, exec (.barArrive d a) s = .next t ∧ otherBars s t r ∧ t.hart = stepped s.hart d (BitVec.ofNat 64 p) ∧
        hartsSame s t ∧ memSame s t ∧ t.mem.repl = [] ∧
        shape (barGet t r) = (if b.arrived + 1 = b.count ∧ b.pend = 0 then (b.count, 0, 0, (b.phase + 1) % 2 ^ 32, false)
                              else (b.count, b.arrived + 1, b.pend, b.phase, false))) ∧
    let mine := fun (x : Word × Nat × Nat) => x.1 == s.hart.pc && x.2.1 == handle
    (barrierReady s a r → s.hart.synced.find? mine = none → b.arrived < b.count →
      ∃ t, exec (.barSync d a) s = .next t ∧ otherBars s t r ∧ hartsSame s t ∧ memSame s t ∧
        if b.arrived + 1 = b.count ∧ b.pend = 0 then
          t.hart = stepped s.hart d (BitVec.ofNat 64 p) ∧ shape (barGet t r) = (b.count, 0, 0, (b.phase + 1) % 2 ^ 32, false)
        else t.hart = { s.hart with slot := .waiting, wait := .barrier r.die r.num p, synced := (s.hart.pc, handle, p) :: s.hart.synced } ∧
          shape (barGet t r) = (b.count, b.arrived + 1, b.pend, b.phase, false)) ∧
    (∀ q, barrierReady s a r → s.hart.synced.find? mine = some (s.hart.pc, handle, q) → q < 2 ^ 32 →
      let gone := (b.phase + 2 ^ 32 - q) % 2 ^ 32
      (0 < gone → gone < 2 ^ 31 →
        exec (.barSync d a) s = .next (withTurn s (stepped { s.hart with synced := s.hart.synced.filter fun x => !mine x } d (BitVec.ofNat 64 q)))) ∧
      (gone = 0 → exec (.barSync d a) s = .next (withTurn s { s.hart with slot := .waiting, wait := .barrier r.die r.num q }))) ∧
    (barrierReady s a r →
      let q := (s.hart.reg d).toNat % 2 ^ 32
      let gone := (b.phase + 2 ^ 32 - q) % 2 ^ 32
      (0 < gone → gone < 2 ^ 31 → exec (.barWait d a) s = .next (withTurn s (stepped s.hart 0 0))) ∧
      (gone = 0 → exec (.barWait d a) s = .next (withTurn s { s.hart with slot := .waiting, wait := .barrier r.die r.num q })) ∧
      (2 ^ 31 < gone → trapReady s.hart →
        exec (.barWait d a) s = .next (trapped' s s.hart.pc { cause := .bar, sub := 5, taddr := handle }))) ∧
    (barRef s s.turn handle = .ok r → trapReady s.hart →
      (b.broken = true →
        exec (.barArrive d a) s = .next (trapped' s s.hart.pc { cause := .bar, sub := 7, taddr := handle }) ∧
        exec (.barSync d a) s = .next (trapped' (withTurn s { s.hart with synced := s.hart.synced.filter fun x => !mine x }) s.hart.pc
          { cause := .bar, sub := 7, taddr := handle })) ∧
      (b.broken = false → b.count = 0 →
        exec (.barArrive d a) s = .next (trapped' s s.hart.pc { cause := .bar, sub := 2, taddr := handle })))

/-- fut.init, fut.reg, fut.res, fut.fail, fut.get and fut.get.try (R395 to R397) on a future in device memory. Whose tables translate the continuation follows log 16. -/
def Obligations.Futures : Prop :=
  ∀ (s s1 : State) (p : Place) (d a : Reg) (acc : Access), noStrip s →
    let va := (s.hart.reg a).toNat
    let st := numAt s1 (p.loc.plus 12) 1
    let gen := numAt s1 (p.loc.plus 8) 4
    let upper := BitVec.ofNat 64 (numAt s1 (p.loc.plus 8) 8)
    let x := s.hart.reg d
    va % 16 = 0 → translate s s.turn acc false va = .ok (p, s1) → plainPlace s1 p 16 → st ≤ 3 →
    (acc = .load →
      (2 ≤ st → ∃ t, exec (.futGet d a) s = .next t ∧ t.hart = stepped s1.hart d upper ∧ restSame s1 t ∧ memSame s1 t) ∧
      (st < 2 → ∃ t, exec (.futGet d a) s = .next t ∧ restSame s1 t ∧ memSame s1 t ∧
        t.hart = { s1.hart with slot := .waiting, wait := .future p.devAddr }) ∧
      (∃ t, exec (.futGetTry d a) s = .next t ∧ t.hart = stepped s1.hart d upper ∧ restSame s1 t ∧ memSame s1 t)) ∧
    (acc = .atomic →
      (st ≠ 1 → ∃ t, exec (.futInit d a) s = .next t ∧ restSame s1 t ∧
        t.hart = stepped s1.hart d (BitVec.ofNat 64 ((gen + 1) % 2 ^ 32)) ∧
        memAfter s1 t p.loc 16 (futNat 0 ((gen + 1) % 2 ^ 32) 0 0 0)) ∧
      (st = 0 → (∃ t, exec (.futRes d a) s = .next t ∧ t.hart = stepped s1.hart 0 0 ∧ restSame s1 t ∧ t.mem.repl = [] ∧
          memAfter s1 t p.loc 16 (futNat 0 gen 2 0 (x.toNat % 2 ^ 16))) ∧
        ∃ t, exec (.futFail d a) s = .next t ∧ t.hart = stepped s1.hart 0 0 ∧ restSame s1 t ∧ t.mem.repl = [] ∧
          memAfter s1 t p.loc 16 (futNat 0 gen 3 (x.toNat / 2 ^ 16 % 2 ^ 8) (x.toNat % 2 ^ 16))) ∧
      (2 ≤ st → trapReady s.hart → ∃ t, exec (.futRes d a) s = .next t ∧ exec (.futFail d a) s = .next t ∧
        t.hart = trapHart s.hart s.hart.pc { cause := .fut2, sub := 1, taddr := va } ∧ restSame s t ∧ memSame s t) ∧
      (∀ (q : Place) (s2 : State), x.toNat % 64 = 0 → translate s1 s1.turn .atomic false x.toNat = .ok (q, s2) →
        plainPlace s2 q 64 → plainPlace s2 p 16 → (p.devAddr + 16 ≤ q.devAddr ∨ q.devAddr + 64 ≤ p.devAddr) →
        (st = 0 → ∃ t, exec (.futReg d a) s = .next t ∧ t.hart = stepped s2.hart d 0 ∧ restSame s2 t ∧ t.mem.repl = [] ∧
          numAt t p.loc 16 = futNat x.toNat gen 1 (numAt s1 (p.loc.plus 13) 1) (numAt s1 (p.loc.plus 14) 2) ∧
          numAt t (q.loc.plus 24) 4 = (numAt s1 (q.loc.plus 24) 4 + 1) % 2 ^ 32 ∧
          memOutside s1 t [(p.loc, 16), (q.loc.plus 24, 4)]) ∧
        (st = 3 → ∃ t, exec (.futReg d a) s = .next t ∧ t.hart = stepped s2.hart d 3 ∧ restSame s2 t ∧
          numAt t (q.loc.plus 31) 1 = numAt s1 (q.loc.plus 31) 1 ||| 1 ∧ memOutside s1 t [(q.loc.plus 31, 1)])) ∧
      (st = 2 → x.toNat % 64 = 0 → ∃ t, exec (.futReg d a) s = .next t ∧ t.hart = stepped s1.hart d 2 ∧ restSame s1 t ∧
        memSame s1 t) ∧
      (∀ (q : Place) (w : State) (fail : Bool), st = 1 → mapsAgree s1 → findLocal s1 s1.part s1.hart.ptbase (numAt s1 p.loc 8) = .ok (q, w) →
        plainPlace s1 q 64 → (p.devAddr + 16 ≤ q.devAddr ∨ q.devAddr + 64 ≤ p.devAddr) →
        1 < numAt s1 (q.loc.plus 24) 4 →
        ∃ t, exec (if fail then .futFail d a else .futRes d a) s = .next t ∧ t.hart = stepped s1.hart 0 0 ∧ restSame s1 t ∧
          numAt t (p.loc.plus 12) 1 = (if fail then 3 else 2) ∧ numAt t p.loc 8 = 0 ∧
          numAt t (q.loc.plus 24) 4 = numAt s1 (q.loc.plus 24) 4 - 1 ∧
          numAt t (q.loc.plus 31) 1 = (if fail then numAt s1 (q.loc.plus 31) 1 ||| 1 else numAt s1 (q.loc.plus 31) 1) ∧
          memOutside s1 t [(p.loc, 16), (q.loc.plus 24, 4), (q.loc.plus 31, 1)]))

/-- task.spawn and task.spawn.hold (R398), the READY case on a die that has no core for it, where the task waits in its queue. The causes at the launch record follow log 44. -/
def Obligations.TaskSpawn : Prop :=
  ∀ (hold : Bool) (s s1 s2 : State) (p : Place) (d a : Reg) (l : List Byte), noStrip s →
    let va := (s.hart.reg a).toNat
    let b := bytes64 s1 p.loc
    let launch := if field b 32 8 = 0 then (ownLaunch s1 s.turn).toNat else field b 32 8
    let pend := if hold then field b 24 4 - 1 else field b 24 4
    let die := dieOf (coreOf s.turn)
    let id := s2.tasks.length + 1
    va % 64 = 0 → translate s s.turn .atomic false va = .ok (p, s1) → plainPlace s1 p 64 →
    launchBytes s1 s.turn launch = .ok (l, s2) → plainPlace s2 p 64 →
    descOk b s.hart.spawnMin = true → launchOk l = true → (hold = true → field b 24 4 ≠ 0) → die < 4 →
    crowded s2 die (field b 30 1) ∨ pend ≠ 0 →
    ∃ t x, exec (if hold then .taskSpawnHold d a else .taskSpawn d a) s = .next t ∧
      t.hart = stepped s2.hart d (BitVec.ofNat 64 pend) ∧ hartsSame s2 t ∧ t.mem.repl = [] ∧
      t.task? id = some x ∧ x.st = (if pend = 0 then .ready else .pending) ∧ x.desc = s.hart.reg a ∧ x.die = die ∧
      x.part = s2.part ∧ x.cls = field b 30 1 ∧ x.cores = field b 28 1 ∧ x.entry.toNat = field b 0 8 ∧ x.arg.toNat = field b 8 8 ∧
      x.future.toNat = field b 16 8 ∧ x.nv = field b 29 1 % 8 ∧ x.nh = field b 29 1 / 8 % 8 ∧ x.np = field b 29 1 / 64 ∧
      x.start = startOf l s.hart.ptbase s.hart.sbank.tvec s.hart.spawnMin (BitVec.ofNat 64 launch) ∧
      (∀ n, n ≠ id → t.task? n = s2.task? n) ∧ t.gangs = s2.gangs ∧
      queueOf t die x.cls = (if pend = 0 then queueOf s2 die x.cls ++ [id] else queueOf s2 die x.cls) ∧
      numAt t (p.loc.plus 24) 4 = pend ∧ numAt t (p.loc.plus 40) 8 = 1 + 2 * die ∧
      memOutside s2 t [(p.loc.plus 24, 4), (p.loc.plus 40, 8), (p.loc.plus 48, 8)]

/-- task.exit (R399) with and without other harts of the gang left, and with and without a FUTURE (R169), and task.yield (R400) where no head waits. -/
def Obligations.TaskExitAndYield : Prop :=
  (∀ (s : State) (g : Gang) (gid : Nat) (x : Task), noStrip s →
    s.hart.kind ≠ .helper → holesOpen s s.turn = false → s.hart.viq.any (usesMemory s.hart) = false → s.hart.gang = some gid → s.gang? gid = some g → s.task? gid = some x →
    coreOf s.turn ∈ g.cores →
    let others := ∃ c n, c ∈ g.cores ∧ n < 8 ∧ c * 8 + n ≠ s.turn ∧ (s.hartAt (c * 8 + n)).slot ≠ .empty ∧
      (s.hartAt (c * 8 + n)).exited = false ∧ (s.hartAt (c * 8 + n)).kind ≠ .helper
    (others → ∃ t, exec .taskExit s = .next t ∧ t.hart = { s.hart with strip := [], used := 0, exited := true } ∧ hartsSame s t ∧
      t.tasks = s.tasks ∧ t.gangs = s.gangs ∧
      t.mem.repl = [] ∧ memSame s t) ∧
    (¬ others → queuesEmpty s x.die →
      let ends := fun (t : State) => t.task? gid = some { x with st := .exited } ∧ t.gang? gid = none ∧ t.mem.repl = [] ∧
        (∀ c, c ∈ g.cores → (t.coreAt c).gang = none ∧ (t.coreAt c).mode = 0 ∧ ∀ n, n < 8 → (t.hartAt (c * 8 + n)).slot = .empty) ∧
        ∀ k, coreOf k ∉ g.cores → t.hartAt k = s.hartAt k
      (x.future = 0 → ∃ t, exec .taskExit s = .next t ∧ ends t ∧ memSame s t) ∧
      (∀ p w, x.future ≠ 0 → mapsAgree s → findLocal s x.part x.start.ptbase x.future.toNat = .ok (p, w) → plainPlace s p 16 →
        (numAt s (p.loc.plus 12) 1 = 0 → ∃ t, exec .taskExit s = .next t ∧ ends t ∧
          numAt t p.loc 16 = futNat 0 (numAt s (p.loc.plus 8) 4) 2 0 0 ∧ memOutside s t [(p.loc, 16)]) ∧
        (1 < numAt s (p.loc.plus 12) 1 → ∃ t, exec .taskExit s = .next t ∧ ends t ∧ memSame s t)))) ∧
  (∀ (s : State) (d : Reg), noStrip s →
    s.core.gang = none ∨ (∃ g c, s.gangOf (coreOf s.turn) = some g ∧ g.cores.head? = some c ∧ queuesEmpty s (dieOf c)) →
    exec (.taskYield d) s = .next (wrote s d 0)) ∧
  (∀ s : State, s.hart.kind = .helper → trapReady s.hart →
    exec .taskExit s = .next (trapped' s s.hart.pc { cause := .ill, sub := 1 }))

/-- hq.take, hq.fill and hq.fail (R344 to R346), with the record of R345. Where a helper waits follows log 45. -/
def Obligations.HelperInstructions : Prop :=
  (∀ (s : State) (e : HoleEntry),
    let off := 0xFF00 + (slotOf s.turn - 4) * 0x40
    s.hart.kind = .helper → s.hart.taken = none → nextReady s.core = some e → s.hart.filltab = 0 → untraced s → 4 ≤ slotOf s.turn →
    ∃ t, exec .hqTake s = .next t ∧ t.hart.taken = some e.id ∧ t.hart.fpctl = e.fpctl ∧ t.hart.fpflags = 0 ∧
      t.hart.reg 10 = BitVec.ofNat 64 (Config.localBase + 0x400000 + off) ∧ t.hart.reg 11 = BitVec.ofNat 64 (e.id + e.gen * 256) ∧
      t.hart.reg 2 = BitVec.ofNat 64 (Config.localBase + 0x410000 - (slotOf s.turn - 3) * 0x1000) ∧
      (∀ r : Reg, r ≠ 2 → r ≠ 10 → r ≠ 11 → t.hart.reg r = s.hart.reg r) ∧
      Table.find? t.core.holes e.id = some { e with st := .taken } ∧
      (∀ i, i < 64 → byteAt t (.sdm (coreOf s.turn) (off + i)) = (recordBytes e).getD i 0) ∧
      memOutside s t [(.sdm (coreOf s.turn) off, 64)] ∧ hartsSame s t) ∧
  (∀ s : State, s.hart.kind = .helper → s.hart.taken = none → nextReady s.core = none →
    exec .hqTake s = .next (withTurn s { s.hart with slot := .waiting, wait := .hole })) ∧
  (∀ (s : State) (a b : Reg) (id : Nat) (e : HoleEntry),
    let m := coreOf s.turn * 8 + e.slot
    let v := (s.hart.reg b).toNat % 2 ^ e.wid
    s.hart.kind = .helper → s.hart.taken = some id → Table.find? s.core.holes id = some e → e.id = id →
    BitVec.ofNat 64 (e.id + e.gen * 256) = s.hart.reg a → untraced s → e.slot < 4 → 4 ≤ slotOf s.turn →
    e.wid = 1 ∨ e.wid = 8 ∨ e.wid = 16 ∨ e.wid = 32 ∨ e.wid = 64 →
    (∀ g, g ∈ granulesOf (e.elem * e.wid) e.wid →
      Table.get {} ((s.hartAt m).vreg (e.dreg + e.row)).absent g =
        { fills := [(e.id, granuleMask (e.elem * e.wid) e.wid g)], poison := 0 }) →
    (∃ t, exec (.hqFill a b) s = .next t ∧ t.hart.s = s.hart.s ∧ t.hart.pc = s.hart.pc + 4 ∧ t.hart.taken = none ∧
      Table.find? t.core.holes id = none ∧ ((t.hartAt m).vreg (e.dreg + e.row)).presence (e.elem * e.wid) e.wid = .present ∧
      ((t.hartAt m).vreg (e.dreg + e.row)).get (e.elem * e.wid) e.wid = v ∧
      (t.hartAt m).fpflags = (s.hartAt m).fpflags ||| s.hart.fpflags ∧ t.mem.repl = [] ∧ memSame s t) ∧
    (let x := (s.hart.reg b).toNat; x / 2 ^ 8 % 2 ^ 8 ≠ 0 →
      ∃ t, exec (.hqFail a b) s = .next t ∧ t.hart.s = s.hart.s ∧ t.hart.pc = s.hart.pc + 4 ∧ t.hart.taken = none ∧
        Table.find? t.core.holes id = some { e with st := .failed, cause := x / 2 ^ 8 % 2 ^ 8, sub := x % 2 ^ 8, links := [] } ∧
        ((t.hartAt m).vreg (e.dreg + e.row)).presence (e.elem * e.wid) e.wid = .poisoned ∧ t.mem.repl = [] ∧ memSame s t)) ∧
  (∀ (s : State) (a b : Reg), s.hart.kind ≠ .helper → trapReady s.hart →
    exec .hqTake s = .next (trapped' s s.hart.pc { cause := .ill, sub := 1 }) ∧
    exec (.hqFill a b) s = .next (trapped' s s.hart.pc { cause := .ill, sub := 1 }) ∧
    exec (.hqFail a b) s = .next (trapped' s s.hart.pc { cause := .ill, sub := 1 }))

/-- csave and crest (R295, R296) of a slot without vector state; the layout of the HART section is the model's (log 12). -/
def Obligations.ContextImages : Prop :=
  (∀ (s : State) (d a : Reg) (slots : BitVec 8) (keep core : Bool),
    (Instr.csave d a slots keep core).wf = true → s.hart.priv = .supervisor → s.hart.reg a = 0 →
    exec (.csave d a slots keep core) s =
      .next (wrote s d (BitVec.ofNat 64 (imageBound (namedSlots s (coreOf s.turn) slots.toNat) core (s.lenOf s.turn))))) ∧
  (∀ (s : State) (d a : Reg) (slots : BitVec 8) (keep : Bool), noStrip s →
    let va := (s.hart.reg a).toNat
    let core := coreOf s.turn
    let named := namedSlots s core slots.toNat
    let image := (csaveImage d core named false s).1
    (Instr.csave d a slots keep false).wf = true → s.hart.priv = .supervisor → s.hart.streams = [] → entriesTaken s core named = false →
    named = [slotOf s.turn] → 4 ≤ slotOf s.turn → va ≠ 0 → va % 64 = 0 → inSpad s va 704 →
    ∃ t, exec (.csave d a slots keep false) s = .next t ∧ image.length = 704 ∧
      t.hart = stepped { s.hart with viq := s.hart.viq.map VEntry.park } d 704 ∧
      (∀ i, i < 704 → spadByte t (va + i) = image.getD i 0) ∧
      (∀ i, i < 8 → spadByte t (va + 64 + 16 + 248 + i) = BitVec.ofNat 8 ((s.hart.pc + 4).toNat / 256 ^ i)) ∧
      memOutside s t [(.spad core (va - Config.localBase), 704)] ∧ hartsSame s t) ∧
  (∀ (s : State) (a : Reg) (go : Bool) (n len : Nat) (x : Hart), noStrip s →
    let va := (s.hart.reg a).toNat
    let k := coreOf s.turn * 8 + n
    s.hart.priv = .supervisor → va % 64 = 0 → inSpad s va 704 → 4 ≤ n → n < 8 → k ≠ s.turn →
    (s.hartAt k).slot = .stopped → (s.hartAt k).kind = .scalar → s.core.holes = [] →
    (∀ i, i < 704 → spadByte s (va + i) = (imageOf len 0 false [sectionOf 1 n (hartBody x)]).getD i 0) →
    x.ptbase.toNat % 2 ^ 13 = 0 → x.spawnMin < 4 → x.boostReq < 3 → x.fpctl.toNat &&& 0x1F1FDF = x.fpctl.toNat →
    x.fpctl.toNat / 4 % 8 < 5 → x.fpflags &&& 0x1F001F = x.fpflags → x.srkey < 2 ^ 32 → x.srcount < 2 ^ 32 →
    bankLegal x.ubank → bankLegal x.sbank →
    ∃ t, exec (.crest a go) s = .next t ∧ t.hart = stepped s.hart 0 0 ∧ memSame s t ∧
      let y := t.hartAt k
      y.slot = (if go = true ∧ x.sbank.intrap = false then .running else .stopped) ∧
      y.wait = (if go = true then (if x.sbank.intrap = true then .handler else y.wait) else .held) ∧ (∀ r : Reg, y.reg r = x.reg r) ∧ y.pc = x.pc ∧ y.priv = x.priv ∧
      y.ubank = x.ubank ∧ y.sbank = x.sbank ∧ y.fpctl = x.fpctl ∧ y.fpflags = x.fpflags ∧ y.srkey = x.srkey ∧
      y.srcount = x.srcount ∧ y.spawnMin = x.spawnMin ∧ y.boostReq = x.boostReq ∧
      ∀ j, j ≠ k → j ≠ s.turn → t.hartAt j = s.hartAt j) ∧
  (∀ (s : State) (d a : Reg) (slots : BitVec 8) (keep core go : Bool),
    (Instr.csave d a slots keep core).wf = true → s.hart.priv = .supervisor → (s.hart.reg a).toNat % 64 ≠ 0 → trapReady s.hart →
    exec (.csave d a slots keep core) s =
      .next (trapped' s s.hart.pc { cause := .align, sub := 1, taddr := (s.hart.reg a).toNat }) ∧
    exec (.crest a go) s = .next (trapped' s s.hart.pc { cause := .align, sub := 1, taddr := (s.hart.reg a).toNat }))

/-- setvl (R307, R213), setrows (R308), and vwhile (R309) on the types its fn names. What a strip keeps follows log 32; a vwhile is resolved before anything after it (log 22). -/
def Obligations.VectorLengthsAndLoops : Prop :=
  (∀ (s : State) (d a : Reg) (wid : BitVec 2), idleQueue s → noStrip s →
    let h := s.hart
    let w := if wid = 0 then 32 else if wid = 1 then 64 else if wid = 2 then 16 else 8
    let cap := min h.vlcap (s.lenOf s.turn) * 8 / w
    let grant := min (h.reg a).toNat (max (cap / 2 ^ (s.dieAt (dieOf (coreOf s.turn))).grant) (min 32 cap))
    let n := (h.reg a).toNat
    let rows := if n < 2 then 1 else if n < 4 then 2 else if n < 8 then 4 else 8
    (h.pmode.testBit 1 = false → exec (.setvl d a wid) s = .next (vecNext s (delivers
      { h with vl := grant, unprot := false, again := false } d (BitVec.ofNat 64 grant)))) ∧
    (h.pmode.testBit 1 = true → ∃ ck, exec (.setvl d a wid) s = .next (vecNext s (delivers
        { h with vl := grant, ckpt := some ck, unprot := false, again := false } d (BitVec.ofNat 64 grant))) ∧
      ck.pc = h.pc ∧ ck.count = h.srcount ∧ ck.streams = h.streams ∧
      ∀ r v, (r, v) ∈ ck.sregs ↔ h.ckmask.testBit r.val = true ∧ r ≠ 0 ∧ v = (if r = d then BitVec.ofNat 64 grant else h.reg r)) ∧
    exec (.setrows d a) s = .next (vecNext s (delivers { h with vrows := rows } d (BitVec.ofNat 64 rows)))) ∧
  (∀ (s : State) (d a : Reg) (cond : BitVec 3) (off : BitVec 9) (t3 : BitVec 3),
    (Instr.vwhile d a cond off t3).wf = true → vecReady s →
    let t := Ty.ofWhile t3.toNat
    let pass := fun el => passes cond.toNat t (elemAt s.hart a.val el t.width) (cut t (s.hart.reg d)).toNat
    s.hart.vl * t.width ≤ 8 * s.lenOf s.turn →
    ∀ n, n ≤ s.hart.vl → (∀ el, el < n → active s.hart el = true → (pass el).1 = true) →
      (n < s.hart.vl → active s.hart n = true ∧ (pass n).1 = false) →
      (∀ el, el ≤ n → el < s.hart.vl → active s.hart el = true → trapped s.hart.fpctl (t == .d64) (pass el).2 = 0) →
    ∃ u, exec (.vwhile d a cond off t3) s = .next u ∧ vecDone s u ∧ u.hart.s = s.hart.s ∧ u.hart.vl = s.hart.vl ∧
      u.hart.streams = s.hart.streams ∧ u.hart.hold = s.hart.hold ∧ u.hart.holdW = s.hart.holdW ∧ u.hart.srcount = s.hart.srcount ∧
      u.hart.pc = (if n = s.hart.vl ∧ 0 < n then s.hart.pc - BitVec.ofNat 64 (4 * off.toNat) else s.hart.pc + 4) ∧
      (∀ el, elemAt u.hart 0 el 1 = if el < s.hart.vl then (if el < n then 1 else 0) else elemAt s.hart 0 el 1) ∧
      (∀ m, m < 32 → m ≠ 0 → u.hart.vreg m = s.hart.vreg m) ∧
      raisedBy s u fun b => ∃ el, el ≤ n ∧ el < s.hart.vl ∧ active s.hart el = true ∧
        (flagBits (t == .d64) (pass el).2).testBit b = true)

/-- Every instruction that computes each element from the same element of its operands, on registers whose elements are present. What the lane computes is said by LaneIntegerFunctions and LaneFloatFunctions. When tag and progress change follows log 35. -/
def Obligations.ElementInstructions : Prop :=
  (∀ (i : Instr) (s : State) (x : LaneI), laneOf i s.hart.reg = some x → i.wf = true → vecReady s →
    roomFor s (x.rows s.hart) x.regs →
    (∀ el q, x.acts s.hart el q → (x.result s.hart el q).2.2 = false ∧ trapped s.hart.fpctl x.dec (x.result s.hart el q).2.1 = 0) →
    ∃ t, exec i s = .next t ∧ vecDone s t ∧
      t.hart.s = s.hart.s ∧ t.hart.vl = s.hart.vl ∧ t.hart.hold = s.hart.hold ∧ t.hart.holdW = s.hart.holdW ∧
      t.hart.streams = s.hart.streams ∧ t.hart.pc = s.hart.pc + 4 ∧
      t.hart.srcount = (if x.maj = 0x25 ∧ x.fn % 8 = 5 then (s.hart.srcount + 1) % 2 ^ 32 else s.hart.srcount) ∧
      (∃ new : Nat → Nat → Option Nat, wroteTile s t x.d.val x.w (x.rows s.hart) new ∧
        ∀ el q, (x.acts s.hart el q → new el q = some (x.result s.hart el q).1) ∧ (¬ x.acts s.hart el q → new el q = none)) ∧
      raisedBy s t fun b => ∃ el q, x.acts s.hart el q ∧ (flagBits x.dec (x.result s.hart el q).2.1).testBit b = true) ∧
  (∀ (s : State) (d a b : Reg) (src : Ty) (rnd : BitVec 3), (Instr.vcvt d a b .mx4 src rnd).wf = true → vecReady s →
    s.hart.vrows = 1 → d.val ≠ 1 → roomFor s 1 [(d.val, 4), (a.val, src.width)] →
    let h := s.hart
    let first := fun (el : Nat) => el / 32 * 32
    let xs := fun el => (List.range 32).map fun n =>
      if first el + n < h.vl ∧ active h (first el + n) = true then elemAt h a.val (first el + n) src.width else 0
    let block := fun el => quantMx4 src
      (fun n => if rnd = 5 then .sr (srBits h.srkey h.srcount (first el + n) 0) else .rne) (xs el)
    let one := fun el => ((block el).2.1.getD (el - first el) (0, 0))
    let flags := fun el =>
      if (block el).2.2 = true then (match unpack src ((xs el).getD (el - first el) 0) with | .fin _ _ _ => 0 | _ => 1) else (one el).2
    (∀ el, el < h.vl → trapped h.fpctl false (flags el) = 0) →
    ∃ t, exec (.vcvt d a b .mx4 src rnd) s = .next t ∧ vecDone s t ∧ t.hart.s = h.s ∧ t.hart.vl = h.vl ∧ t.hart.hold = h.hold ∧
      t.hart.streams = h.streams ∧ t.hart.pc = h.pc + 4 ∧
      t.hart.srcount = (if rnd = 5 then (h.srcount + 1) % 2 ^ 32 else h.srcount) ∧
      (∀ el, elemAt t.hart d.val el 4 = if el < h.vl ∧ active h el = true then (one el).1 % 16 else elemAt h d.val el 4) ∧
      (∀ n, elemAt t.hart 1 n 8 =
        if 128 * b.val ≤ n ∧ 32 * (n - 128 * b.val) < h.vl then (block (32 * (n - 128 * b.val))).1 % 256 else elemAt h 1 n 8) ∧
      (∀ n, n < 32 → n ≠ d.val → n ≠ 1 → t.hart.vreg n = h.vreg n) ∧
      raisedBy s t fun m => ∃ el, el < h.vl ∧ (flags el).testBit m = true)

/-- The integer functions of a lane (R311, R312, R314, R317, R332), and the floating-point and decimal functions, which agree with the scalar unit where an element is easy (R328, R329, R332 to R334, R337). The edges of easy and hard follow log 37. -/
def Obligations.LaneFunctions : Prop :=
  ((∀ (maj : Nat) (fn : BinFn) (n : Nat) (t st : Ty) (fpctl : Word) (key count el q z : Nat) (a b v : BitVec t.width),
    t.isInt = true → maj = 0x19 ∨ maj = 0x1A ∨ maj = 0x1B → n < 16 →
    fn = [BinFn.add, .sub, .adds, .subs, .mul, .mulh, .div, .rem, .and, .or, .xor, .andn, .shl, .shr, .min, .max].getD n .add →
    intFn2 fn t.isSigned a b = some v →
    elemFn true maj n t st fpctl key count el q a.toNat b.toNat z = (v.toNat, 0, false)) ∧
  (∀ (t st : Ty) (fpctl : Word) (key count el q : Nat) (a b c : BitVec t.width), t.isInt = true →
    let one := fun n => elemFn true 0x19 n t st fpctl key count el q a.toNat b.toNat c.toNat
    let quad := fun n => elemFn true 0x1C n t st fpctl key count el q a.toNat b.toNat c.toNat
    one 0x12 = (((intFn1 .pcnt a).getD 0) % 2 ^ t.width, 0, false) ∧ one 0x13 = (((intFn1 .clz a).getD 0) % 2 ^ t.width, 0, false) ∧
    one 0x14 = (((intFn1 .ctz a).getD 0) % 2 ^ t.width, 0, false) ∧ one 0x15 = (b.toNat, 0, false) ∧
    (∀ n, n = 0 ∨ n = 4 → quad n = ((a * b + c).toNat, 0, false)) ∧ (∀ n, n = 1 ∨ n = 5 → quad n = ((a * b - c).toNat, 0, false)) ∧
    (∀ n, n = 2 ∨ n = 6 → quad n = ((c - a * b).toNat, 0, false)) ∧ (∀ n, n = 3 ∨ n = 7 → quad n = ((-(a * b) - c).toNat, 0, false)) ∧
    elemFn true 0x1F 6 t st fpctl key count el q a.toNat 0 0 = ((a + BitVec.ofNat t.width el).toNat, 0, false) ∧
    (∀ cond form, cond < 6 → form < 3 →
      elemFn true 0x1D (8 * form + cond) t st fpctl key count el q a.toNat b.toNat 0 =
        ((if (passes cond t a.toNat b.toNat).1 then 1 else 0), 0, false))) ∧
  (∀ (t st : Ty) (fpctl : Word) (key count el q : Nat) (x y : Bool),
    let m := fun n => elemFn true 0x1D n t st fpctl key count el q x.toNat y.toNat 0
    m 0x20 = ((x && y).toNat, 0, false) ∧ m 0x21 = ((x || y).toNat, 0, false) ∧ m 0x22 = ((x ^^ y).toNat, 0, false) ∧
    m 0x23 = ((x && !y).toNat, 0, false) ∧ m 0x24 = (1, 0, false) ∧ m 0x25 = (0, 0, false))) ∧
  (∀ (t st : Ty) (fpctl : Word) (key count el q a b c : Nat),
    t = .bf16 ∨ t = .f32 ∨ t = .d64 → fpctl.toNat.testBit 6 = false →
    a < 2 ^ t.width → b < 2 ^ t.width → c < 2 ^ t.width →
    let rm := if t = .d64 then drmOf fpctl else brmOf fpctl
    let f := fun maj n => elemFn true maj n t st fpctl key count el q a b c
    let easy := fun (r : Lane) (v : Nat × Nat) => r.2.2 = false → r = (v.1, v.2, false)
    let minus := fun v => flipSign t v
    (∀ maj, maj = 0x19 ∨ maj = 0x1A ∨ maj = 0x1B →
      easy (f maj 0) (addT t rm a b) ∧ easy (f maj 1) (subT t rm a b) ∧ easy (f maj 4) (mulT t rm a b) ∧ easy (f maj 6) (divT t rm a b) ∧
      easy (f maj 14) (minMaxT t false a b) ∧ easy (f maj 15) (minMaxT t true a b) ∧ f maj 0x15 = (b, 0, false) ∧
      f maj 0x18 = (minus a, 0, false) ∧ f maj 0x19 = (a % 2 ^ (t.width - 1), 0, false) ∧
      (t = .d64 → easy (f maj 0x1A) (quantT rm a b))) ∧
    (∀ n, n < 8 → easy (f 0x1C n) (fmaT t rm (n.testBit 1) (n.testBit 0) a b c)) ∧
    (∀ cond form, cond < 6 → form < 3 →
      easy (f 0x1D (8 * form + cond)) ((if (passes cond t a b).1 then 1 else 0), (passes cond t a b).2)) ∧
    (t ≠ .d64 → easy (f 0x20 0) (roundBin (fmtOf t) rm (rcpEx (unpack t a))) ∧ easy (f 0x20 2) (roundBin (fmtOf t) rm (rsqEx (unpack t a))) ∧
      easy (f 0x20 3) (sqrtT t rm a)) ∧
    (∀ (src dst : Ty) (v n : Nat), n < 7 → v < 2 ^ src.width →
      let r := elemFn true 0x25 (src.code * 8 + n) dst src fpctl key count el q v 0 0
      let mode := [if dst = .d64 ∨ (src = .d64 ∧ dst.isInt) then drmOf fpctl else brmOf fpctl, .rne, .rtz, .rup, .rdn,
        .sr (srBits key count el q), .rna].getD n .rne
      (src.isInt = false → src ≠ .mx4 → dst.isInt = false → easy r (convertT src dst mode v)) ∧
      (src.isInt = false → src ≠ .mx4 → dst.isInt = true → r = ((toIntT src dst mode v).1, (toIntT src dst mode v).2, false)) ∧
      (src.isInt = true → dst.isInt = false →
        easy r (fromIntT dst mode (val src.isSigned (BitVec.ofNat src.width v))))))

/-- The hard cases of R330 over the reals. An exactly zero result is easy (log 37). -/
def Obligations.HardBinaryElements : Prop :=
  ∀ (t : Ty) (fpctl : Word) (key count el q a b : Nat) (x y : ℝ),
    t = .bf16 ∨ t = .f32 → fpctl.toNat.testBit 6 = false → a < 2 ^ t.width → b < 2 ^ t.width →
    real (fmtOf t) a = some x → real (fmtOf t) b = some y →
    let hard := fun n => (elemFn true 0x19 n t t fpctl key count el q a b 0).2.2 = true
    let tiny := fun (r : ℝ) => r ≠ 0 ∧ |r| < (2 : ℝ) ^ (-126 : Int)
    let far := fun (r : ℝ) => r ≠ 0 ∧ Int.log 2 |r| < max (Int.log 2 |x|) (Int.log 2 |y|) - 8
    let sub := (x ≠ 0 ∧ |x| < (2 : ℝ) ^ (-126 : Int)) ∨ (y ≠ 0 ∧ |y| < (2 : ℝ) ^ (-126 : Int))
    (x ≠ 0 → y ≠ 0 → (hard 0 ↔ x + y ≠ 0 ∧ (sub ∨ tiny (x + y) ∨ far (x + y)))) ∧
    (x ≠ 0 → y ≠ 0 → (hard 1 ↔ x - y ≠ 0 ∧ (sub ∨ tiny (x - y) ∨ far (x - y)))) ∧
    (x = 0 ∨ y = 0 → (hard 0 ↔ sub) ∧ (hard 1 ↔ sub)) ∧
    (hard 4 ↔ x * y ≠ 0 ∧ (sub ∨ tiny (x * y))) ∧
    (y ≠ 0 → (hard 6 ↔ x / y ≠ 0 ∧ (sub ∨ tiny (x / y)))) ∧ (y = 0 → hard 6)

/-- Elements that the lane does not compute (R160 to R162, R329, R345), and elements whose exception is enabled (R152, R153, R156, R194 to R196, R198, R201). When tag and progress change follows log 35. -/
def Obligations.HardElementsAndExceptions : Prop :=
  (∀ (i : Instr) (s : State) (x : LaneI), laneOf i s.hart.reg = some x → i.wf = true → vecReady s →
    roomFor s (x.rows s.hart) x.regs →
    (∀ el q, x.acts s.hart el q → (x.result s.hart el q).2.2 = false → trapped s.hart.fpctl x.dec (x.result s.hart el q).2.1 = 0) →
    s.hart.vl * x.rows s.hart ≤ 128 → othersIdle s →
    ∃ t, exec i s = .next t ∧ vecHart s t ∧ t.hart.pc = s.hart.pc + 4 ∧ t.hart.s = s.hart.s ∧ hartsSame s t ∧ memSame s t ∧
      (∀ el q, x.acts s.hart el q →
        if (x.result s.hart el q).2.2 = true then
          (t.hart.vreg (x.d.val + q)).presence (el * x.w) x.w = .hole ∧
          ∃ id e, Table.find? t.core.holes id = some e ∧ e.id = id ∧ e.st = .ready ∧ e.slot = slotOf s.turn ∧ e.seq = s.hart.seq ∧
            e.row = q ∧ e.elem = el ∧ e.dreg = x.d.val ∧ e.wid = x.w ∧ e.maj = x.maj ∧ e.fn = x.fn ∧ e.ty = x.t ∧ e.sty = x.st ∧
            e.fpctl = s.hart.fpctl ∧ e.opa = BitVec.ofNat 64 (operand s.hart x.a el q) ∧
            e.opb = BitVec.ofNat 64 (operand s.hart x.b el q) ∧ e.opc = BitVec.ofNat 64 (operand s.hart x.c el q) ∧ e.links = []
        else elemAt t.hart (x.d.val + q) el x.w = (x.result s.hart el q).1 % 2 ^ x.w) ∧
      (∀ n, n < 32 → (∀ q, q < x.rows s.hart → n ≠ x.d.val + q) → t.hart.vreg n = s.hart.vreg n) ∧
      (∀ id e, Table.find? t.core.holes id = some e →
        x.acts s.hart e.elem e.row ∧ (x.result s.hart e.elem e.row).2.2 = true)) ∧
  (∀ (i : Instr) (s : State) (x : LaneI) (el0 q0 : Nat), laneOf i s.hart.reg = some x → i.wf = true → vecReady s →
    roomFor s (x.rows s.hart) x.regs → trapReady s.hart → x.acts s.hart el0 q0 →
    let bad := fun el q => (x.result s.hart el q).2.2 = false ∧ trapped s.hart.fpctl x.dec (x.result s.hart el q).2.1 ≠ 0
    bad el0 q0 →
    (∀ el q, x.acts s.hart el q → el < el0 ∨ (el = el0 ∧ q < q0) → (x.result s.hart el q).2.2 = false ∧ ¬ bad el q) →
    let c : Cause := if x.dec then .decx else .fpx
    let sub := firstOf (trapped s.hart.fpctl x.dec (x.result s.hart el0 q0).2.1)
    ∃ t e, exec i s = .next t ∧ hartsSame s t ∧ memSame s t ∧ t.hart.s = s.hart.s ∧ t.hart.viq = [e] ∧
      e.seq = s.hart.seq ∧ e.pc = s.hart.pc ∧ e.elem = el0 ∧ e.row = q0 ∧
      (let b := if toUser s.hart c then t.hart.ubank else t.hart.sbank;
       let old := if toUser s.hart c then s.hart.ubank else s.hart.sbank
       b.tcause = BitVec.ofNat 64 (causeWord s.hart true c) ∧ b.tsub = BitVec.ofNat 64 sub ∧ b.tpc = s.hart.pc + 4 ∧
       b.tviq = BitVec.ofNat 64 (s.hart.seq * 256) ∧ b.treg = BitVec.ofNat 64 ((x.d.val + q0) % 64) ∧
       b.telem = BitVec.ofNat 64 (el0 % 2 ^ 14) ∧ t.hart.pc = old.tvec &&& ~~~3#64 ∧
       t.hart.priv = (if toUser s.hart c then s.hart.priv else .supervisor)) ∧
      ∀ el q, q < x.rows s.hart → elemAt t.hart (x.d.val + q) el x.w =
        if x.acts s.hart el q ∧ (el < el0 ∨ (el = el0 ∧ q < q0)) then (x.result s.hart el q).1 % 2 ^ x.w
        else elemAt s.hart (x.d.val + q) el x.w)

/-- vperm.slup, sldn, perm, compress, ins and xtr (R317), and vperm.hold and vperm.drain (R166, R167, R318, R319) where the buffer does not fill, with one row (log 39). -/
def Obligations.PermutesAndCompaction : Prop :=
  ((∀ (i : Instr) (s : State) (x : MoveI), moveOf i s.hart = some x → i.wf = true → vecReady s →
    roomFor s s.hart.vrows ((x.d.val, x.t.width) :: (x.a.val, x.t.width) :: x.idx) →
    let cap := 8 * s.lenOf s.turn / x.t.width
    ∃ t new, exec i s = .next t ∧ vecDone s t ∧ scalarSame s t ∧ wroteTile s t x.d.val x.t.width s.hart.vrows new ∧
      ∀ el q, new el q = if el < s.hart.vl ∧ q < s.hart.vrows ∧ active s.hart el = true then
          (x.from' cap el q).map fun i => if i < cap then elemAt s.hart (x.a.val + q) i x.t.width else 0
        else none) ∧
  (∀ (s : State) (d a : Reg) (t : Ty), (Instr.vpermCompress d a t).wf = true → vecReady s →
    roomFor s s.hart.vrows [(d.val, t.width), (a.val, t.width)] →
    ∃ u new, exec (.vpermCompress d a t) s = .next u ∧ vecDone s u ∧ scalarSame s u ∧ wroteTile s u d.val t.width s.hart.vrows new ∧
      (∀ el q, el < s.hart.vl → q < s.hart.vrows → active s.hart el = true →
        new (activeCount s.hart el) q = some (elemAt s.hart (a.val + q) el t.width)) ∧
      ∀ el q, activeCount s.hart s.hart.vl ≤ el ∨ s.hart.vrows ≤ q → new el q = none) ∧
  (∀ (s : State) (d a b : Reg) (t : Ty), (Instr.vpermIns d a b t).wf = true → vecReady s → roomFor s s.hart.vrows [(d.val, t.width)] →
    ∃ u new, exec (.vpermIns d a b t) s = .next u ∧ vecDone s u ∧ scalarSame s u ∧ wroteTile s u d.val t.width s.hart.vrows new ∧
      ∀ el q, new el q = if el = (s.hart.reg b).toNat ∧ el < s.hart.vl ∧ q < s.hart.vrows ∧ active s.hart el = true then
        some ((s.hart.reg a).toNat % 2 ^ t.width) else none) ∧
  (∀ (s : State) (d a b : Reg) (t : Ty), (Instr.vpermXtr d a b t).wf = true → vecReady s →
    let i := (s.hart.reg b).toNat
    let v := BitVec.ofNat t.width (elemAt s.hart a.val i t.width)
    ∃ u, exec (.vpermXtr d a b t) s = .next u ∧ u.hart.fpflags = s.hart.fpflags ∧
      delivered' s u d (if i < 8 * s.lenOf s.turn / t.width then wide t v else 0))) ∧
  ((∀ (s : State) (d a b : Reg) (t : Ty), (Instr.vpermHold d a b t).wf = true → vecReady s →
    let iw := if t.width ≤ 32 then 32 else 64
    s.hart.vl * iw ≤ 8 * s.lenOf s.turn → s.hart.vl * t.width ≤ 8 * s.lenOf s.turn →
    let vals := rowVals s.hart a t.width
    let pairs := vals.map fun p => (BitVec.ofNat 64 p.2, BitVec.ofNat 64 (((s.hart.reg b).toNat + p.1) % 2 ^ iw))
    let dense := s.hart.vdens.testBit 8 = false ∨ s.hart.vdens % 256 * s.hart.vl ≤ vals.length * 256
    (dense → ∃ u, exec (.vpermHold d a b t) s = .next u ∧ vecDone s u ∧ scalarSame s u ∧
      (∀ el, elemAt u.hart d.val el t.width =
        if active s.hart el = true ∧ el < s.hart.vl then elemAt s.hart a.val el t.width else elemAt s.hart d.val el t.width) ∧
      (∀ el, elemAt u.hart (d.val + 1) el iw =
        if active s.hart el = true ∧ el < s.hart.vl then ((s.hart.reg b).toNat + el) % 2 ^ iw else elemAt s.hart (d.val + 1) el iw) ∧
      ∀ m, m < 32 → m ≠ d.val → m ≠ d.val + 1 → u.hart.vreg m = s.hart.vreg m) ∧
    (¬ dense → s.hart.hold = [] ∨ s.hart.holdW = t.width →
      s.hart.hold.length + vals.length < 8 * s.lenOf s.turn / t.width →
      ∃ u, exec (.vpermHold d a b t) s = .next u ∧ vecDone s u ∧ u.hart.hold = s.hart.hold ++ pairs ∧ u.hart.holdW = t.width ∧
        u.hart.vl = 0 ∧ u.hart.s = s.hart.s ∧ u.hart.pc = s.hart.pc + 4 ∧
        ∀ m el w, elemAt u.hart m el w = elemAt s.hart m el w)) ∧
  (∀ (s : State) (d : Reg) (t : Ty), (Instr.vpermDrain d t).wf = true → vecReady s → s.hart.hold = [] ∨ s.hart.holdW = t.width →
    let n := s.hart.hold.length
    let iw := if t.width ≤ 32 then 32 else 64
    s.hart.vl * iw ≤ 8 * s.lenOf s.turn →
    ∃ u, exec (.vpermDrain d t) s = .next u ∧ vecDone s u ∧ u.hart.hold = [] ∧ u.hart.vl = n ∧ u.hart.s = s.hart.s ∧
      u.hart.pc = s.hart.pc + 4 ∧
      (∀ el, el < n → elemAt u.hart d.val el t.width = (s.hart.hold.getD el (0, 0)).1.toNat % 2 ^ t.width ∧
        elemAt u.hart (d.val + 1) el iw = (s.hart.hold.getD el (0, 0)).2.toNat % 2 ^ iw) ∧
      (∀ el, n ≤ el → elemAt u.hart d.val el t.width = elemAt s.hart d.val el t.width) ∧
      (∀ el, elemAt u.hart 0 el 1 = if el < n ∧ s.hart.vmk ≠ 0 then (if s.hart.vmk = 1 then 1 else 0) else elemAt s.hart 0 el 1) ∧
      ∀ m, m < 32 → m ≠ d.val → m ≠ d.val + 1 → m ≠ 0 → u.hart.vreg m = s.hart.vreg m))

/-- vred.sum to vred.xor, vred.minidx, vred.maxidx, vred.mpop and vred.mfirst (R238, R239, R315, R316); vpres.present, vpres.poisoned, vpres.heal and vsettle (R340 to R342). -/
def Obligations.ReductionsAndPresence : Prop :=
  ((∀ (i : Instr) (s : State) (fn : RedFn) (t : Ty) (d a b : Reg), redOf i = some (fn, t, d, a, b) → i.wf = true → vecReady s →
    s.hart.vl * t.width ≤ 8 * s.lenOf s.turn →
    let vals := rowVals s.hart a t.width
    let deliver := fun (v : BitVec t.width) (fl : Nat) => ∃ u, exec i s = .next u ∧ delivered' s u d (wide t v) ∧
      u.hart.fpflags = s.hart.fpflags ||| flagBits (t == .d64) fl
    (t.isInt = true → deliver
      (vals.foldl (fun acc p => (intFn2 (redBin fn) t.isSigned acc (BitVec.ofNat t.width p.2)).getD 0) (cut t (s.hart.reg b))) 0) ∧
    (t.isInt = false →
      let f := redStep' fn t s.hart.fpctl
      let v := fun n => Table.get (redZero fn t) vals n
      let start := (cut t (s.hart.reg b)).toNat
      ∀ lg, 2 ^ lg * 64 = s.lenOf s.turn →
      let r := if s.hart.vl = 0 then (start, 0)
        else if s.hart.fpctl.toNat.testBit 7 then inBlocks f v s.hart.vl start
        else byLanes f v (redZero fn t) s.hart.vl lg start
      trapped s.hart.fpctl (t == .d64) r.2 = 0 → deliver (BitVec.ofNat t.width r.1) r.2)) ∧
  (∀ (s : State) (most : Bool) (t : Ty) (d a b : Reg), (Instr.vredMinidx d a b t).wf = true → vecReady s →
    s.hart.vl * t.width ≤ 8 * s.lenOf s.turn →
    let base := (s.hart.reg d).toNat % 2 ^ 32
    let key := fun (v : Nat) => (val t.isSigned (BitVec.ofNat t.width v) + (if t.isSigned then 2 ^ (t.width - 1) else 0)).toNat
    let cands := (s.hart.reg b).toNat :: (rowVals s.hart a t.width).map fun p => key p.2 * 2 ^ 32 + (base + p.1) % 2 ^ 32
    ∃ u v, exec (if most then .vredMaxidx d a b t else .vredMinidx d a b t) s = .next u ∧ delivered' s u d (BitVec.ofNat 64 v) ∧
      u.hart.fpflags = s.hart.fpflags ∧ v ∈ cands ∧
      (∀ c, c ∈ cands → if most then c / 2 ^ 32 < v / 2 ^ 32 ∨ (c / 2 ^ 32 = v / 2 ^ 32 ∧ v % 2 ^ 32 ≤ c % 2 ^ 32) else v ≤ c)) ∧
  (∀ (s : State) (d a : Reg), vecReady s → s.hart.vl ≤ 8 * s.lenOf s.turn →
    let ones := (rowVals s.hart a 1).filter fun p => p.2 == 1
    let said := fun (i : Instr) (v : Word) => ∃ u, exec i s = .next u ∧ delivered' s u d v ∧ u.hart.fpflags = s.hart.fpflags
    said (.vredMpop d a) (BitVec.ofNat 64 ones.length) ∧
    said (.vredMfirst d a) (match ones.head? with | some p => BitVec.ofNat 64 p.1 | none => BitVec.allOnes 64))) ∧
  ((∀ (s : State) (d a : Reg) (t : Ty) (poisoned : Bool), (Instr.vpresPresent d a t).wf = true → idleQueue s → s.hart.streams = [] →
    s.hart.vmk = 0 → d ≠ a → (∀ n, (s.hart.vreg n).bad = []) → (s.hart.vreg d.val).absent = [] → s.hart.vl * t.width ≤ 8 * s.lenOf s.turn →
    ∃ u, exec (if poisoned then .vpresPoisoned d a t else .vpresPresent d a t) s = .next u ∧ vecDone s u ∧ scalarSame s u ∧
      (∀ el, elemAt u.hart d.val el 1 =
        if el < s.hart.vl then
          (if (s.hart.vreg a.val).presence (el * t.width) t.width = (if poisoned then .poisoned else .present) then 1 else 0)
        else elemAt s.hart d.val el 1) ∧
      ∀ m, m < 32 → m ≠ d.val → u.hart.vreg m = s.hart.vreg m) ∧
  (∀ (s : State) (d b : Reg) (t : Ty), (Instr.vpresHeal d b t).wf = true → idleQueue s → s.hart.streams = [] → s.hart.vmk = 0 →
    (∀ n, (s.hart.vreg n).bad = []) → (s.hart.vreg d.val).anyHole = false → s.hart.vl * t.width ≤ 8 * (s.hart.vreg d.val).hw →
    s.hart.vl * t.width ≤ 8 * s.lenOf s.turn → 8 ≤ t.width →
    ∃ u, exec (.vpresHeal d b t) s = .next u ∧ vecDone s u ∧ scalarSame s u ∧
      (∀ el, el < s.hart.vl → (u.hart.vreg d.val).presence (el * t.width) t.width = .present ∧
        elemAt u.hart d.val el t.width =
          if (s.hart.vreg d.val).presence (el * t.width) t.width = .poisoned then (s.hart.reg b).toNat % 2 ^ t.width
          else elemAt s.hart d.val el t.width) ∧
      ∀ m, m < 32 → m ≠ d.val → u.hart.vreg m = s.hart.vreg m) ∧
  (∀ (s : State) (a : Reg), idleQueue s → s.hart.streams = [] → 
    let m := (s.hart.reg a).toNat % 2 ^ 32
    let named := fun n => n < 32 ∧ (m = 0 ∨ m.testBit n = true)
    (∀ n, named n → (s.hart.vreg n).anyHole = false ∧ (s.hart.vreg n).anyPoison = false) →
    ∃ u, exec (.vsettle a) s = .next u ∧ vecDone s u ∧ scalarSame s u ∧ u.hart.v = s.hart.v) ∧
  (∀ (s : State) (a : Reg) (n g : Nat) (x : Absent), idleQueue s → s.hart.streams = [] → trapReady s.hart → n < 32 →
    (s.hart.reg a).toNat % 2 ^ 32 = 2 ^ n → (s.hart.vreg n).absent = [(g, x)] → x.fills = [] → x.poison ≠ 0 → 2 * g < (s.hart.vreg n).hw →
    let log := (s.hart.vreg n).log.getD (0, 0)
    let b := fun (t : State) => if toUser s.hart .poison then t.hart.ubank else t.hart.sbank
    ∃ u, exec (.vsettle a) s = .next u ∧ (b u).tcause = BitVec.ofNat 64 (causeWord s.hart true .poison) ∧
      (b u).tsub = BitVec.ofNat 64 (log.1 % 256 * 256 + log.2 / 16 % 16 * 16 + log.2 % 16) ∧ (b u).treg = BitVec.ofNat 64 n ∧
      (b u).telem = BitVec.ofNat 64 (16 * g / (s.hart.vreg n).tag % 2 ^ 14) ∧ u.hart.v = s.hart.v ∧ u.hart.viq.length = 1))

/-- vld and vst in every mode (R321 to R323), ordered and unordered, at the core's own scratchpad. -/
def Obligations.VectorLoadsAndStores : Prop :=
  (∀ (i : Instr) (s : State) (x : MemI), loadOf i = some x → i.wf = true → vecReady s → roomFor s s.hart.vrows x.regs → x.local' s →
    s.hart.strip = [] → s.core.tracks = [] →
    let at_ := fun el q => (x.addr s.hart el q).toNat
    ∃ t new, exec i s = .next t ∧ vecDone s t ∧ scalarSame s t ∧ wroteTile s t x.d.val x.t.width s.hart.vrows new ∧
      ∀ el q, new el q = if (el, q) ∈ positions s.hart then
          some (if x.t = .mx4 then (spadByte s (at_ el q)).toNat / 16 ^ ((q * s.hart.vl + el) % 2) % 16
                else leNat ((List.range x.t.size).map fun n => spadByte s (at_ el q + n)))
        else none) ∧
  (∀ (i : Instr) (s : State) (x : MemI), storeOf i = some x → i.wf = true → vecReady s → roomFor s s.hart.vrows x.regs → x.local' s →
    noStrip s →
    let at_ := fun el q => (x.addr s.hart el q).toNat
    let data := fun el q => elemAt s.hart (x.d.val + q) el x.t.width
    ∃ t, exec i s = .next t ∧ vecStored s t ∧ scalarSame s t ∧
      t.hart.v = s.hart.v ∧
      (x.t ≠ .mx4 → ∀ a, Config.localBase ≤ a → spadByte t a = lastByte
        ((positions s.hart).flatMap fun p => (List.range x.t.size).map fun n =>
          (at_ p.1 p.2 + n, BitVec.ofNat 8 (data p.1 p.2 / 256 ^ n))) a (spadByte s a)) ∧
      (x.t = .mx4 → ∀ a j, Config.localBase ≤ a → j < 2 →
        (∀ p, p ∈ positions s.hart → at_ p.1 p.2 = a → (p.2 * s.hart.vl + p.1) % 2 = j →
          (spadByte t a).toNat / 16 ^ j % 16 = data p.1 p.2) ∧
        ((∀ p, p ∈ positions s.hart → ¬ (at_ p.1 p.2 = a ∧ (p.2 * s.hart.vl + p.1) % 2 = j)) →
          (spadByte t a).toNat / 16 ^ j % 16 = (spadByte s a).toNat / 16 ^ j % 16)))

/-- vstm.bind, vstm.unbind, vstm.spill and vstm.fill (R46 to R49, R61 to R63, R68, R324, R326), and amo.vadd, amo.vmin, amo.vmax and amo.vswap (R388) at distinct locations of the core's own scratchpad. Orders that the rules leave open follow log 31. -/
def Obligations.StreamsFramesAndVectorAtomics : Prop :=
  ((∀ (s : State) (d a : Reg), vecReady s → s.hart.strip = [] →
    let va := (s.hart.reg a).toNat
    let off := va - (Config.localBase + 0x400000)
    let f := fun (o n : Nat) => numAt s (.sdm (coreOf s.turn) (off + o)) n
    let ndim := f 8 2 / 32 % 4 + 1
    Config.localBase + 0x400000 ≤ va → off + 64 ≤ Config.sdmBytes → va % 64 = 0 → badWord s.core.badSdm off 64 = false →
    2 ≤ d.val → f 8 2 / 128 = 0 → f 10 2 = 0 → f 12 4 = 0 → Ty.ofCode (f 8 2 % 16) ≠ .mx4 → Ty.ofCode (f 8 2 % 16) ≠ .f64 → Ty.ofCode (f 8 2 % 16) ≠ .res → (∀ i, i < ndim → f (16 + 4 * i) 4 ≠ 0) →
    ∃ t x, exec (.vstmBind d a) s = .next t ∧ vecDone s t ∧ t.hart.streams = [x] ∧ t.hart.pc = s.hart.pc + 4 ∧ t.hart.s = s.hart.s ∧
      t.hart.v = s.hart.v ∧ t.hart.vl = s.hart.vl ∧ t.hart.fpflags = s.hart.fpflags ∧ t.hart.hold = s.hart.hold ∧
      x.reg = d.val ∧ x.block = off ∧ x.base = f 0 8 ∧ x.ty = Ty.ofCode (f 8 2 % 16) ∧ x.write = (f 8 2 / 16 % 2 == 1) ∧
      x.ndim = ndim ∧ x.cnt = (List.range 4).map (fun i => f (16 + 4 * i) 4) ∧
      x.str = (List.range 4).map (fun i => (BitVec.ofNat 32 (f (32 + 4 * i) 4)).toInt) ∧
      x.pos = (List.range 4).map fun i => f (48 + 4 * i) 4) ∧
  (∀ (s : State) (d : Reg) (x : Stream), idleQueue s → s.hart.streams = [x] → x.reg = d.val → x.block + 64 ≤ Config.sdmBytes →
    x.pos.length = 4 → (∀ p, p ∈ x.pos → p < 2 ^ 32) →
    ∃ t, exec (.vstmUnbind d) s = .next t ∧ vecHart s t ∧ t.hart.streams = [] ∧ t.hart.pc = s.hart.pc + 4 ∧ t.hart.s = s.hart.s ∧
      hartsSame s t ∧ (∀ i, i < 4 → numAt t (.sdm (coreOf s.turn) (x.block + 48 + 4 * i)) 4 = x.pos.getD i 0) ∧
      memOutside s t [(.sdm (coreOf s.turn) (x.block + 48), 16)]) ∧
  (∀ (s : State) (d a b : Reg), vecReady s → noStrip s →
    let va := (s.hart.reg a).toNat
    let frame := frameOf s.hart.vreg (s.lenOf s.turn) ((s.hart.reg b).toNat % 2 ^ 32)
    va % 64 = 0 → inSpad s va frame.length →
    ∃ t, exec (.vstmSpill d a b) s = .next t ∧ vecStored s t ∧ t.hart.v = s.hart.v ∧
      flowSame s t ∧ t.hart.fpflags = s.hart.fpflags ∧ (∀ r, t.hart.reg r = if r = d ∧ r ≠ 0 then BitVec.ofNat 64 frame.length else s.hart.reg r) ∧
      ∀ x, Config.localBase ≤ x → spadByte t x =
        if va ≤ x ∧ x < va + frame.length then frame.getD (x - va) 0 else spadByte s x) ∧
  (∀ (s : State) (d a : Reg) (v : Nat → VReg) (len mask : Nat), vecReady s → s.hart.strip = [] →
    let va := (s.hart.reg a).toNat
    let frame := frameOf v len mask
    va % 64 = 0 → mask < 2 ^ 32 → len < 2 ^ 16 → inSpad s va frame.length → (∀ i, i < frame.length → spadByte s (va + i) = frame.getD i 0) →
    (∀ n, (v n).absent = [] ∧ (v n).hw % 64 = 0 ∧ (v n).hw ≤ s.lenOf s.turn ∧ (v n).hw < 2 ^ 16 ∧
      ((v n).tag = 8 ∨ (v n).tag = 16 ∨ (v n).tag = 32 ∨ (v n).tag = 64)) →
    ∃ t, exec (.vstmFill d a) s = .next t ∧ vecHart s t ∧ hartsSame s t ∧ memSame s t ∧ flowSame s t ∧ t.hart.fpflags = s.hart.fpflags ∧
      (∀ r, t.hart.reg r = if r = d ∧ r ≠ 0 then BitVec.ofNat 64 frame.length else s.hart.reg r) ∧
      ∀ n, n < 32 → if mask.testBit n = true then
          (t.hart.vreg n).hw = (v n).hw ∧ (t.hart.vreg n).tag = (v n).tag ∧ (t.hart.vreg n).absent = [] ∧
          ∀ i, (t.hart.vreg n).get (8 * i) 8 = if i < (v n).hw then (v n).get (8 * i) 8 else 0
        else t.hart.vreg n = s.hart.vreg n)) ∧
  (∀ (s : State) (i : Instr) (fn : BinFn) (swap : Bool) (d a b : Reg) (t : Ty) (sys : Bool) (o : BitVec 2),
    (i = .amoVadd d a b t sys o ∧ fn = .add ∧ swap = false) ∨ (i = .amoVmin d a b t sys o ∧ fn = .min ∧ swap = false) ∨
      (i = .amoVmax d a b t sys o ∧ fn = .max ∧ swap = false) ∨ (i = .amoVswap d a b t sys o ∧ swap = true) →
    i.wf = true → vecReady s → noStrip s → s.hart.vl * idxWidth t ≤ 8 * s.lenOf s.turn →
    let acts := fun el => el < s.hart.vl ∧ active s.hart el = true
    let va := fun el => (s.hart.reg a + BitVec.ofNat 64 (elemAt s.hart b.val el (idxWidth t))).toNat
    let old := fun el => leNat ((List.range t.size).map fun n => spadByte s (va el + n))
    (∀ el, acts el → va el % t.size = 0 ∧ inSpad s (va el) t.size) → (∀ x y, acts x → acts y → va x = va y → x = y) →
    ∃ u new, exec i s = .next u ∧ vecHart s u ∧ hartsSame s u ∧ scalarSame s u ∧ wroteTile s u d.val t.width 1 new ∧
      (∀ el q, new el q = if el < s.hart.vl ∧ active s.hart el = true ∧ q = 0 then some (old el) else none) ∧
      (∀ el, acts el →
        let x := BitVec.ofNat t.width (old el)
        let y := BitVec.ofNat t.width (elemAt s.hart d.val el t.width)
        leNat ((List.range t.size).map fun n => spadByte u (va el + n)) =
          if swap then y.toNat
          else if t = .f32 then
            (if fn = .add then (addT .f32 .rne x.toNat y.toNat).1 else (minMaxT .f32 (fn == .max) x.toNat y.toNat).1)
          else ((intFn2 fn t.isSigned x y).getD 0).toNat) ∧
      ∀ x, Config.localBase ≤ x → (∀ el, acts el → ¬ (va el ≤ x ∧ x < va el + t.size)) → spadByte u x = spadByte s x)

/-- The mx instructions (R353 to R362) on readable cells; memory moves to and from the core's own scratchpad. The treg of a trap follows log 36. -/
def Obligations.MatrixInstructions : Prop :=
  (∀ (s : State) (d a b : Reg), vecReady s → noStrip s → s.core.mode = 0 ∨ s.core.owner = slotOf s.turn →
    let m := (s.hart.reg a).toNat
    (m = 0 → ∃ t, exec (.mxMode d a b) s = .next t ∧ arrayDone s t ∧ regTakes s t d 0 ∧ gridSame s t ∧ t.core.cells = s.core.cells ∧
      t.core.mode = 0 ∧ t.core.mvl = 0 ∧ t.core.tm = 0 ∧ t.core.tn = 0 ∧ t.core.tk = 0) ∧
    (m = 1 ∨ m = 2 → hasArray s s.turn = true → s.hart.pmode.testBit 0 = false →
      ∃ t g, exec (.mxMode d a b) s = .next t ∧ arrayDone s t ∧ regTakes s t d (BitVec.ofNat 64 g) ∧ t.core.cells = s.core.cells ∧
        granted (min (s.hart.reg b).toNat (min 128 s.core.prefixP)) g ∧ t.core.mode = m ∧ t.core.owner = slotOf s.turn ∧
        t.core.mvl = g ∧ t.core.tm = g ∧ t.core.tn = g ∧ t.core.tk = 0 ∧ t.core.kgrid = s.core.kgrid % 2 ^ 16 ∧
        t.core.kinv = s.core.kinv)) ∧
  (∀ (s : State) (d a b : Reg) (t : Ty), (Instr.mxTshape d a b t).wf = true → arrayReady s (if t = .i8 then [2] else [1]) →
    let x := (s.hart.reg a).toNat
    let m := x % 2 ^ 16
    let n := x / 2 ^ 16 % 2 ^ 16
    let k := x / 2 ^ 32 % 2 ^ 16
    let p := match t with | .bf16 => 1 | .e4m3 => 2 | .e5m2 => 2 | .mx4 => 4 | _ => 1
    let lim := s.core.mvl / 2 ^ (s.dieAt (dieOf (coreOf s.turn))).grant
    let tm := min m lim
    let tn := min n lim
    let tk := if t = .i8 then 0 else min k 4096 - min k 4096 % (if t = .mx4 ∧ 32 ≤ k then 32 else p)
    let tiles := ((List.range 16).filter fun i => (s.hart.reg b).toNat.testBit i).length
    let nt := if tm = 0 ∨ tn = 0 then 0 else min tiles ((m + tm - 1) / tm * ((n + tn - 1) / tn))
    k % p = 0 ∨ t = .i8 →
    ∃ u, exec (.mxTshape d a b t) s = .next u ∧ arrayDone s u ∧ gridSame s u ∧ u.core.cells = s.core.cells ∧
      regTakes s u d (BitVec.ofNat 64 (tm + tn * 2 ^ 16 + tk * 2 ^ 32 + nt * 2 ^ 48)) ∧ u.core.mode = s.core.mode ∧
      u.core.owner = s.core.owner ∧ u.core.mvl = s.core.mvl ∧ u.core.tm = tm ∧ u.core.tn = tn ∧ u.core.tk = tk) ∧
  (∀ (s : State) (d a b : Reg) (t : Ty), (Instr.mxOp d a b t).wf = true → arrayReady s [1] → (t = .mx4 → a ≠ 1 ∧ b ≠ 1) →
    s.core.tm * 16 ≤ 8 * s.lenOf s.turn → s.core.tn * 16 ≤ 8 * s.lenOf s.turn →
    ∃ u, exec (.mxOp d a b t) s = .next u ∧ arrayDone s u ∧ regsSame s u ∧ shapeSame s u ∧ gridSame s u ∧
      tileSet s u d.val fun i j => if i < s.core.tm ∧ j < s.core.tn ∧ active s.hart i = true then
        some (dotRound .f32 (unpackBin .f32 (cellWord s i j d.val))
          ((cellVals t (elemAt s.hart 1 i 8) (elemAt s.hart a.val i 16)).zip
           (cellVals t (elemAt s.hart 1 (128 + j) 8) (elemAt s.hart b.val j 16)))) else none) ∧
  (∀ (s : State) (d a : Reg), arrayReady s [1, 2] → (Instr.mxMv d a).wf = true →
    (∃ u, exec (.mxZero d) s = .next u ∧ arrayDone s u ∧ regsSame s u ∧ shapeSame s u ∧ gridSame s u ∧
      tileSet s u d.val fun i j => if i < s.core.mvl ∧ j < s.core.mvl then some 0 else none) ∧
    ∃ u, exec (.mxMv d a) s = .next u ∧ arrayDone s u ∧ regsSame s u ∧ shapeSame s u ∧ gridSame s u ∧
      tileSet s u d.val fun i j => if i < s.core.mvl ∧ j < s.core.mvl then some (cellWord s i j a.val) else none) ∧
  (∀ (s : State) (col : Bool) (d a b : Reg), arrayReady s [1, 2] →
    let n := if col then s.core.tm else s.core.tn
    let k := (s.hart.reg b).toNat
    k < s.core.mvl → n * 32 ≤ 8 * s.lenOf s.turn →
    ((Instr.mxRdrow d a b).wf = true →
      ∃ u new, exec (if col then .mxRdcol d a b else .mxRdrow d a b) s = .next u ∧ vecDone s u ∧ scalarSame s u ∧
        wroteTile s u d.val 32 1 new ∧
        ∀ el q, new el q = if el < n ∧ q = 0 ∧ active s.hart el = true then
          some (if col then cellWord s el k a.val else cellWord s k el a.val) else none) ∧
    ((Instr.mxWrrow d a b).wf = true →
      ∃ u, exec (if col then .mxWrcol d a b else .mxWrrow d a b) s = .next u ∧ arrayDone s u ∧ regsSame s u ∧ shapeSame s u ∧
        gridSame s u ∧ tileSet s u d.val fun i j =>
          let el := if col then i else j
          if (if col then j else i) = k ∧ el < n ∧ active s.hart el = true then some (elemAt s.hart a.val el 32) else none)) ∧
  (∀ (s : State) (d a : Reg), arrayReady s [1, 2] → (Instr.mxSpill d a).wf = true →
    let va := (s.hart.reg a).toNat
    let size := 4 * (s.core.mvl * s.core.mvl)
    let at_ := fun i j n => va + 4 * (i * s.core.mvl + j) + n
    va % 64 = 0 → inSpad s va size →
    (∃ u, exec (.mxSpill d a) s = .next u ∧ vecStored s u ∧ regsSame s u ∧
      (∀ i j n, i < s.core.mvl → j < s.core.mvl → n < 4 →
        spadByte u (at_ i j n) = BitVec.ofNat 8 (cellByte s i j (4 * d.val + n))) ∧
      ∀ x, Config.localBase ≤ x → x < va ∨ va + size ≤ x → spadByte u x = spadByte s x) ∧
    ∃ u, exec (.mxFill d a) s = .next u ∧ arrayDone s u ∧ regsSame s u ∧ shapeSame s u ∧ gridSame s u ∧
      tileSet s u d.val fun i j => if i < s.core.mvl ∧ j < s.core.mvl then
        some (leNat ((List.range 4).map fun n => spadByte s (at_ i j n))) else none) ∧
  (∀ (i : Instr) (s : State), needsArray i = true → i.wf = true → idleQueue s → s.hart.streams = [] → trapReady s.hart →
    s.core.mode = 0 ∨ s.core.owner ≠ slotOf s.turn ∨ hasArray s s.turn = false →
    ∃ u e, exec i s = .next u ∧ u.hart.viq = [e] ∧ e.pc = s.hart.pc ∧ u.core = { s.core with age := s.core.age + 1 } ∧
      (∀ n el w, elemAt u.hart n el w = elemAt s.hart n el w) ∧ u.hart.s = s.hart.s ∧
      (let b := if toUser s.hart .ill then u.hart.ubank else u.hart.sbank;
       b.tcause = BitVec.ofNat 64 (causeWord s.hart true .ill) ∧ b.tsub = 5 ∧ b.telem = 0))

/-- The sp instructions (R365 to R373) on readable cells; gradient moves to and from the core's own scratchpad. Paired inputs follow log 24. -/
def Obligations.ReliefInstructions : Prop :=
  (∀ (s : State) (gr : Grid) (d a : Reg) (t : Ty), reliefReady s gr → (Instr.spEval d a t).wf = true →
    s.core.tm * t.width ≤ 8 * s.lenOf s.turn → s.core.tn * 32 ≤ 8 * s.lenOf s.turn →
    ((∀ i, ¬ dark s gr t a i) →
      ∃ u new, exec (.spEval d a t) s = .next u ∧ vecDone s u ∧ scalarSame s u ∧ wroteTile s u d.val 32 1 new ∧
        ∀ el q, new el q = if 0 < s.core.tm ∧ el < s.core.tn ∧ q = 0 then some (evalSum s gr t a el) else none) ∧
    (∀ i, dark s gr t a i → (∀ x, x < i → ¬ dark s gr t a x) → 0 < s.core.tn →
      ∃ u, exec (.spEval d a t) s = .next u ∧ vecHart s u ∧ scalarSame s u ∧ u.core.cells = s.core.cells ∧
        (∀ n, n < 32 → n ≠ d.val → u.hart.vreg n = s.hart.vreg n) ∧
        ∀ j, j < s.core.tn → darnEntry s u 0 d j (inputAt s t a i) (evalSum s gr t a j)
          (i + ((inputs s).filter fun x => (edgeAt s gr t a x).dark).length * 2 ^ 16))) ∧
  (∀ (s : State) (gr : Grid) (d a b : Reg) (t : Ty), reliefReady s gr → (Instr.spDx d a b t).wf = true →
    s.core.tm * 32 ≤ 8 * s.lenOf s.turn → s.core.tn * 32 ≤ 8 * s.lenOf s.turn → 0 < s.core.tn →
    ∃ u, exec (.spDx d a b t) s = .next u ∧ vecHart s u ∧ scalarSame s u ∧ u.core.cells = s.core.cells ∧
      (∀ n, n < 32 → n ≠ d.val → u.hart.vreg n = s.hart.vreg n) ∧
      ∀ i, (¬ (i < s.core.tm ∧ active s.hart i = true) → elemAt u.hart d.val i 32 = elemAt s.hart d.val i 32) ∧
        (dark s gr t a i → darnEntry s u 2 d i (inputAt s t a i) (dxSum s gr t a b i) i) ∧
        (i < s.core.tm → active s.hart i = true → ¬ dark s gr t a i → elemAt u.hart d.val i 32 = dxSum s gr t a b i % 2 ^ 32)) ∧
  (∀ (s : State) (gr : Grid) (a b : Reg) (t : Ty), reliefReady s gr → (Instr.spGrad a b t).wf = true →
    s.core.tm * t.width ≤ 8 * s.lenOf s.turn → s.core.tn * 32 ≤ 8 * s.lenOf s.turn →
    let e := edgeAt s gr t a
    let delta := fun j => f32 (elemAt s.hart b.val j 32)
    ∃ u, exec (.spGrad a b t) s = .next u ∧ arrayDone s u ∧ regsSame s u ∧ shapeSame s u ∧ gridSame s u ∧
      (∀ i j m, i < s.core.tm → j < s.core.tn → m < (if gr.paired then 16 else 8) →
        gradAcc u gr i j m =
          if active s.hart i = true ∧ (e i).nan = false ∧ (e i).s ≤ m ∧ m < (e i).s + (e i).b.length then
            dotRound .g40 (unpackBin .g40 (gradAcc s gr i j m)) [(delta j, f32 ((e i).b.getD (m - (e i).s) 0))] % 2 ^ 40
          else gradAcc s gr i j m) ∧
      (∀ i j, i < s.core.tm → j < s.core.tn →
        gradBase u gr i j =
          if active s.hart i = true ∧ s.core.base ≠ 0 then
            fma32 (gradBase s gr i j) (delta j) (f32 (betaOf s.core.base false (inputAt s t a i))) % 2 ^ 32
          else gradBase s gr i j) ∧
      cellsBut s u fun r j b => 20 ≤ b ∧ j < s.core.tn ∧ r < (if gr.paired then 2 * s.core.tm else s.core.tm) ∧
        ¬ (gr.paired = true ∧ r % 2 = 1 ∧ 60 ≤ b)) ∧
  (∀ (s : State) (gr : Grid), arrayReady s [2] → gridOf s.core = some gr → s.core.kgrid.testBit 13 = false →
    2 * gr.g + gr.deg ≤ (if gr.paired then 16 else 8) → s.core.kinv / 2 ^ 23 % 2 ^ 8 < 254 →
    let rows := if gr.paired then s.core.mvl / 2 else s.core.mvl
    let last := if gr.paired then 16 else 8
    ∃ u, exec .spRefine s = .next u ∧ arrayDone s u ∧ regsSame s u ∧ shapeSame s u ∧
      u.core.kgrid = s.core.kgrid - gr.g + 2 * gr.g ∧ u.core.kinv = s.core.kinv + 2 ^ 23 ∧
      (∀ i j m, i < rows → j < s.core.mvl → m < last →
        u.core.cell (cellRow gr.paired i m) j (2 * (m % 8)) 2 =
          (if m < 2 * gr.g + gr.deg then refined gr.deg gr.nc (coeff s.core gr.paired i j) m % 2 ^ 16 else 0) ∧
        gradAcc u gr i j m = 0) ∧
      cellsBut s u fun r j b => (b < 16 ∨ (20 ≤ b ∧ b < 60)) ∧ j < s.core.mvl ∧ r < (if gr.paired then 2 * rows else rows)) ∧
  (∀ (s : State) (a : Reg), arrayReady s [2] → (Instr.spPair a).wf = true →
    let v := (s.hart.reg a).toNat
    v = 0 ∨ (v = 1 ∧ 2 * s.core.tm ≤ s.core.mvl) →
    ∃ u, exec (.spPair a) s = .next u ∧ arrayDone s u ∧ regsSame s u ∧ shapeSame s u ∧ u.core.cells = s.core.cells ∧
      u.core.kgrid = s.core.kgrid % 2 ^ 16 + v * 2 ^ 16 ∧ u.core.kinv = s.core.kinv) ∧
  (∀ s : State, arrayReady s [2] →
    ∃ u, exec .spGzero s = .next u ∧ arrayDone s u ∧ regsSame s u ∧ shapeSame s u ∧ gridSame s u ∧
      (∀ i j b, i < s.core.mvl → j < s.core.mvl → 20 ≤ b → b < 64 → cellByte u i j b = 0) ∧
      cellsBut s u fun i j b => i < s.core.mvl ∧ j < s.core.mvl ∧ 20 ≤ b) ∧
  (∀ (s : State) (a : Reg), arrayReady s [2] → 
    let va := (s.hart.reg a).toNat
    let size := 44 * (s.core.mvl * s.core.mvl)
    let at_ := fun i j n => va + 44 * (i * s.core.mvl + j) + n
    va % 64 = 0 → inSpad s va size →
    (∃ u, exec (.spGspill a) s = .next u ∧ vecStored s u ∧ regsSame s u ∧
      (∀ i j n, i < s.core.mvl → j < s.core.mvl → n < 44 → spadByte u (at_ i j n) = BitVec.ofNat 8 (cellByte s i j (20 + n))) ∧
      ∀ x, Config.localBase ≤ x → x < va ∨ va + size ≤ x → spadByte u x = spadByte s x) ∧
    ∃ u, exec (.spGfill a) s = .next u ∧ arrayDone s u ∧ regsSame s u ∧ shapeSame s u ∧ gridSame s u ∧
      (∀ i j n, i < s.core.mvl → j < s.core.mvl → n < 44 → cellByte u i j (20 + n) = (spadByte s (at_ i j n)).toNat) ∧
      cellsBut s u fun i j b => i < s.core.mvl ∧ j < s.core.mvl ∧ 20 ≤ b)

/-- The edge unit (R367) computes by the recursion of table grids; on uniform grids it gives the closed forms of the rule. R368 at the infinities. -/
def Obligations.EdgeUnit : Prop :=
  (∀ (c : Core) (gr : Grid) (rule x : Nat), gridOf c = some gr → c.kgrid.testBit 13 = false → 1 ≤ bits c.kdeg 1 0 → 1 ≤ bits c.kgrid 3 0 →
    let kinv := (f32 c.kinv).rat
    let u := ((f32 x).rat - (f32 c.korg).rat) * kinv
    0 < kinv → (f32 x).isNan = false → (f32 x).isInf = false → gr.deg = bits c.kdeg 1 0 ∧ gr.g = bits c.kgrid 3 0 ∧
    (∀ s : Nat, s < gr.g → 0 ≤ u → u ≤ gr.g → s ≤ u → u < s + 1 ∨ s + 1 = gr.g →
      edgeOf gr rule x = edgeAtT gr.deg s (u - s) kinv false) ∧
    (u < 0 → edgeOf gr 0 x = edgeAtT gr.deg 0 0 kinv true ∧ edgeOf gr 1 x = edgeAtT gr.deg 0 u kinv false) ∧
    (gr.g < u → edgeOf gr 0 x = edgeAtT gr.deg (gr.g - 1) 1 kinv true ∧
      edgeOf gr 1 x = edgeAtT gr.deg (gr.g - 1) (u - (gr.g - 1 : Nat)) kinv false) ∧
    (u < 0 ∨ gr.g < u → edgeOf gr 2 x = {} ∧ edgeOf gr 3 x = { dark := true })) ∧
  (∀ (gr : Grid) (rule x : Nat), (f32 x).isNan = true →
    let e := edgeOf gr rule x
    e.dark = false ∧ e.nan = true ∧ e.b = List.replicate (gr.deg + 1) nan32 ∧ e.bd = e.b) ∧
  (∀ x : Nat, (f32 x).isNan = false → betaOf 1 false x = x ∧ betaOf 1 true x = one32) ∧
  betaOf 2 false 0x7F800000 = 0x7F800000 ∧ betaOf 2 false 0xFF800000 = 0x80000000 ∧ betaOf 2 true 0x7F800000 = one32 ∧
  betaOf 2 true 0xFF800000 = 0x80000000

/-- eng.copy, eng.mcast, eng.gather, eng.patt and eng.coll (R376 to R385) where no access fails, within the core's own scratchpad; gathers read device memory. A transfer is whole when its entry runs (log 3); the flags of a collective follow log 28. -/
def Obligations.EngineTransfers : Prop :=
  (∀ (s : State) (d a b : Reg) (kind : BitVec 4), (Instr.engCopy d a b kind).wf = true → vecReady s → noStrip s → untracked s →
    let dst := (s.hart.reg d).toNat
    let src := (s.hart.reg a).toNat
    let n := (s.hart.reg b).toNat
    let cva := cplAddr s b
    inSpad s dst n → inSpad s src n → apart dst n src n →
    let ends := fun (t : State) => advanced s t [(d, dst + n), (a, src + n), (b, 0)] ∧ copied s t dst src n
    (blockReady s kind cva → apart dst n cva 32 →
      ∃ t, exec (.engCopy d a b kind) s = .next t ∧ engDone s t ∧ ends t ∧ blockDone s t kind cva 0 ∧
        memOutside s t ((spadLoc s dst, n) :: blockRange s kind cva)) ∧
    (∀ r, kind = 2 → cva % 32 = 0 → inSpad s cva 32 → apart dst n cva 32 →
      barRef s s.turn (numAt s (spadLoc s cva) 8) = .ok r → (barGet s r).broken = false → 0 < (barGet s r).count →
      (barGet s r).pend + n < 2 ^ 48 → (barGet s r).arrived < (barGet s r).count ∨ 0 < (barGet s r).pend →
      ∃ t, exec (.engCopy d a b kind) s = .next t ∧ engDone s t ∧ ends t ∧ blockDone s t kind cva 0 ∧
        shape (barGet t r) = shape (barGet s r) ∧ otherBars s t r ∧ memOutside s t [(spadLoc s dst, n), (spadLoc s (cva + 16), 8)]) ∧
    (∀ p, kind = 1 → cva % 32 = 0 → translate s s.turn .store false cva = .ok (p, s) → plainPlace s p 32 →
      ∃ t w w', exec (.engCopy d a b kind) s = .next t ∧ copied s w dst src n ∧ memOutside s w [(spadLoc s dst, n)] ∧
        exec (.engCompletion s.turn 1 (BitVec.ofNat 64 cva) 0) w = .next w' ∧ memSame w' t)) ∧
  (∀ (s : State) (d a b : Reg) (kind : BitVec 4) (dests : List Nat), (Instr.engMcast d a b kind).wf = true → vecReady s → noStrip s → untracked s →
    let va := (s.hart.reg d).toNat
    let src := (s.hart.reg a).toNat
    let n := (s.hart.reg b).toNat
    let cva := cplAddr s b
    let f := fun o k => numAt s (spadLoc s (va + o)) k
    va % 128 = 0 → inSpad s va 128 → 1 ≤ dests.length → dests.length ≤ 12 → f 0 1 = dests.length → f 1 1 = 0 → f 2 2 = 0 → f 4 4 = 0 →
    f 8 8 = 0 → (∀ o, o < 16 → f (112 + o) 1 = 0) → (∀ k, k < dests.length → f (16 + 8 * k) 8 = dests.getD k 0) →
    inSpad s src n → (∀ x, x ∈ dests → inSpad s x n ∧ apart x n src n ∧ apart x n cva 32) → dests.Pairwise (fun x y => apart x n y n) →
    blockReady s kind cva →
    ∃ t, exec (.engMcast d a b kind) s = .next t ∧ engDone s t ∧ advanced s t [(a, src + n), (b, 0)] ∧
      (∀ x, x ∈ dests → copied s t x src n) ∧ blockDone s t kind cva 0 ∧
      memOutside s t (dests.map (fun x => (spadLoc s x, n)) ++ blockRange s kind cva)) ∧
  (∀ (s : State) (d a b : Reg) (kind : BitVec 4), (Instr.engGather d a b kind).wf = true → vecReady s → noStrip s → untracked s →
    let dst := (s.hart.reg d).toNat
    let x := (s.hart.reg a).toNat
    let rows := (s.hart.reg b).toNat
    let cf := x / 2 ^ 16 % 2 ^ 16
    let cl := x / 2 ^ 32 % 2 ^ 16
    let part := (s.partAt s.part)
    let p := s.pattAt (part.pattBase + x % 64)
    let size := 2 ^ p.esize
    let n := rows * (cl + 1 - cf)
    let el := fun i => p.base + i % rows * p.pitch + (cf + i / rows) * size
    let cva := cplAddr s b
    x / 2 ^ 48 = 0 → x / 2 ^ 6 % 2 ^ 10 = 0 → 0 < rows → rows < 2 ^ 32 → cf ≤ cl → x % 64 < part.pattCount → p.valid = true →
    p.part = s.part → p.enc = false → cl < p.cols → p.esize ≤ 4 →
    (∀ i, i < n → el i % size = 0 ∧ el i + size ≤ p.limit ∧ serves s s.turn { loc := .dev (el i) } size) →
    inSpad s dst (n * size) → blockReady s kind cva → apart dst (n * size) cva 32 →
    ∃ t, exec (.engGather d a b kind) s = .next t ∧ engDone s t ∧ advanced s t [(d, dst + n * size), (a, x % 64 + (cl + 1) % 2 ^ 16 * 2 ^ 16 + cl * 2 ^ 32)] ∧
      (∀ i k, i < n → k < size → byteAt t (spadLoc s (dst + i * size + k)) = byteAt s (.dev (el i + k))) ∧
      blockDone s t kind cva 0 ∧ memOutside s t ((spadLoc s dst, n * size) :: blockRange s kind cva)) ∧
  (∀ (s : State) (d a : Reg), vecReady s → noStrip s →
    let i := (s.hart.reg d).toNat
    let va := (s.hart.reg a).toNat
    let part := s.partAt s.part
    let f := fun o n => numAt s (spadLoc s (va + o)) n
    i < 64 → i < part.pattCount →
    (va = 0 → ∃ t, exec (.engPatt d a) s = .next t ∧ engDone s t ∧ t.hart.s = s.hart.s ∧ memSame s t ∧
      ∀ n, t.pattAt n = if n = part.pattBase + i then { s.pattAt n with valid := false } else s.pattAt n) ∧
    (∀ e dev, va % 8 = 0 → inSpad s va 32 → f 22 1 ≤ 4 → f 16 4 % 2 ^ f 22 1 = 0 → 0 < f 20 2 → 0 < f 24 2 →
      f 20 2 * 2 ^ f 22 1 ≤ f 16 4 → f 8 8 = 0 → f 23 1 = 0 → f 26 6 = 0 →
      window s s.turn (f 0 8) = none → lookup s s.turn .load false (f 0 8) = .ok (e, s) →
      rightsStop e .load (s.hart.priv == .user) (f 0 8) = none → placeOf e (f 0 8) = .ok { loc := .dev dev, kind := e.kind, enc := e.enc } → dev < s.mem.cap * 4096 → e.kind < 2 →
      ∃ t, exec (.engPatt d a) s = .next t ∧ engDone s t ∧ t.hart.s = s.hart.s ∧ memSame s t ∧
        ∀ n, t.pattAt n = if n = part.pattBase + i then
          { base := dev, limit := e.pbase + 2 ^ e.lg, pitch := f 16 4, cols := f 20 2, esize := f 22 1, valid := true, enc := e.enc
            digest := f 24 2, part := s.part } else s.pattAt n)) ∧
  (∀ (s : State) (a : Reg) (kind : BitVec 4) (fn : BinFn) (t : Ty), (Instr.engColl a kind).wf = true → vecReady s → noStrip s → untracked s →
    let va := (s.hart.reg a).toNat
    let f := fun o n => numAt s (spadLoc s (va + o)) n
    let dst := f 8 8
    let n := f 16 4
    let ranks := f 22 1
    let group := f 24 8
    let src := fun r => numAt s (spadLoc s (group + 16 * r)) 8
    let x := fun r i => numAt s (spadLoc s (src r + i * t.size)) t.size
    let op := fun (v w : Nat) =>
      if t.isInt then ((intFn2 fn t.isSigned (BitVec.ofNat t.width v) (BitVec.ofNat t.width w)).getD 0).toNat
      else if fn = .add then (addT t .rne v w).1 else (minMaxT t (fn == .max) v w).1
    let cva := if kind = 0 then 0 else f 56 8
    let flag := group + 16 * f 23 1 + 8
    va % 64 = 0 → inSpad s va 64 → 0 < n → n ≤ 2 ^ 24 → f 20 1 ∈ [2, 3, 6, 7, 8, 9] → Ty.ofCode (f 20 1) = t →
    (fn, f 21 1) ∈ [(BinFn.add, 0), (BinFn.min, 1), (BinFn.max, 2)] → 2 ≤ ranks → ranks ≤ 64 → f 23 1 < ranks → f 32 4 ≠ 0 →
    (∀ o, o < 20 → f (36 + o) 1 = 0) → (kind = 0 → f 56 8 = 0) → blockReady s kind cva →
    inSpad s (f 0 8) (n * t.size) → apart (f 0 8) (n * t.size) dst (n * t.size) → inSpad s dst (n * t.size) →
    inSpad s group (16 * ranks) → apart dst (n * t.size) group (16 * ranks) → apart dst (n * t.size) cva 32 →
    (∀ r, r < ranks → r ≠ f 23 1 → f 32 4 ≤ numAt s (spadLoc s (group + 16 * r + 8)) 8) →
    (∀ r, r < ranks → inSpad s (src r) (n * t.size) ∧ apart (src r) (n * t.size) dst (n * t.size) ∧ apart (src r) (n * t.size) flag 8) →
    apart cva 32 flag 8 →
    ∃ u, exec (.engColl a kind) s = .next u ∧ engDone s u ∧ u.hart.s = s.hart.s ∧ numAt u (spadLoc s flag) 8 = f 32 4 ∧
      (∀ i, i < n → numAt u (spadLoc s (dst + i * t.size)) t.size =
        ((List.range (ranks - 1)).foldl (fun acc r => op acc (x (r + 1) i)) (x 0 i)) % 2 ^ t.width) ∧
      blockDone s u kind cva 0 ∧
      memOutside s u ((spadLoc s dst, n * t.size) :: (spadLoc s flag, 8) :: blockRange s kind cva))

/-- The events of harts and accesses: TABLE_WALK, ACCESS_PERFORM, TARGET_FAULT_REPORT, REPL_COPY_UPDATE, STREAM_READ_AHEAD, ENG_COMPLETION, COLL_TIMEOUT, HQ_TAKE_DISPATCH, IDLE_WAKE, REMOTE_STOP_TIMEOUT and HOST_STOP_TIMEOUT. An event is an operand of the inbox (log 8); a late fault is kept with the oldest entry until that comes to the position (log 3). -/
def Obligations.HartEvents : Prop :=
  (∀ (s : State) (va : Word) (acc : Access), s.hart.slot = .running → s.hart.exited = false →
    (∀ p s1, translate s s.turn acc false va.toNat = .ok (p, s1) →
      exec (.tableWalk va acc) s = .next s1 ∧
      (mapsAgree s → s1.hart = { s.hart with utr := s1.hart.utr } ∧ restSame s s1 ∧ memSame s s1)) ∧
    (∀ x, translate s s.turn acc false va.toNat = .error (.trap x) → trapReady s.hart → x.media = none → x.cause ≠ .ue →
      exec (.tableWalk va acc) s = .next (trapped' s s.hart.pc x))) ∧
  (∀ (s : State) (r : Request),
    (masterPart s r.master = none → exec (.accessPerform r) s = .next s) ∧
    (∀ part bytes, masterPart s r.master = some part → r.spad = none → r.amo = none → r.write = some bytes → mapsAgree s →
      unreplicated s → plainRange s r.addr bytes.length → opens s part r.addr bytes.length r.addr →
      ∃ t, exec (.accessPerform r) s = .next t ∧ devWrote s t r.addr bytes) ∧
    (∀ c bytes, r.master = c → c < 384 → (s.partOf c).isSome = true → r.spad = some c → r.amo = none → r.write = some bytes →
      r.addr + bytes.length ≤ Config.spadBytes → (∀ i, i < bytes.length → s.inPiece c (r.addr + i) = false) →
      ∃ t, exec (.accessPerform r) s = .next t ∧ t.harts = s.harts ∧ t.mem = s.mem ∧
        (∀ i, i < bytes.length → byteAt t (.spad c (r.addr + i)) = bytes.getD i 0) ∧ memOutside s t [(.spad c r.addr, bytes.length)])) ∧
  (∀ (s : State) (k el q : Nat) (x : TrapInfo) (e : VEntry) (rest : List VEntry), (s.hartAt k).viq = e :: rest → (s.hartAt k).intrap = false →
    let meets := e.mayReport el q = true ∧ ∀ f r y, e.late = some (f, r, y) → el < f ∨ (el = f ∧ q < r)
    (meets → exec (.targetFaultReport k el q x) s =
      .next (hartSet s k { s.hartAt k with viq := { e with late := some (el, q, x) } :: rest })) ∧
    (¬ meets → exec (.targetFaultReport k el q x) s = .next s)) ∧
  (∀ (s : State) (die : Fin 4) (k : Nat) (u : ReplUpdate), (s.mem.repl.filter (·.die == die.val))[k]? = some u →
    (∀ v, v ∈ (s.mem.repl.filter (·.die == die.val)).take k → v.addr + v.after.length ≤ u.addr ∨ u.addr + u.after.length ≤ v.addr) →
    exec (.replCopyUpdate die k) s = .next { s with mem := { s.mem with repl := s.mem.repl.erase u } }) ∧
  (∀ (s : State) (k slot : Nat), exec (.streamReadAhead k slot) s = .next s) ∧
  (∀ (s : State) (block status : Word), exec (.engCompletion s.turn 0 block status) s = .next s ∧
    (noStrip s → block.toNat % 8 = 0 → inSpad s block.toNat 24 →
      ∃ t, exec (.engCompletion s.turn 3 block status) s = .next t ∧ numAt t (spadLoc s (block.toNat + 16)) 8 = status.toNat ∧
        memOutside s t [(spadLoc s (block.toNat + 16), 8)] ∧ restSame s t) ∧
    (∀ w p, store s s.turn false 8 (block.toNat + 16) status.toNat = .ok w → plainPlace w p 16 →
      findLocal w.drainRepl ((w.partOf (coreOf s.turn)).getD 0) (w.hartAt s.turn).ptbase block.toNat = .ok (p, w.drainRepl) →
      numAt w (p.loc.plus 12) 1 = 0 →
      ∃ t, exec (.engCompletion s.turn 1 block status) s = .next t ∧ memOutside w t [(p.loc, 16)] ∧
        numAt t p.loc 16 = futNat 0 (numAt w (p.loc.plus 8) 4) (if status = 0 then 2 else 3) (status.toNat / 2 ^ 40 % 2 ^ 8)
          (status.toNat / 2 ^ 48 % 2 ^ 12))) ∧
  (∀ (s : State) (d a b : Reg) (e : VEntry) (x : Coll), s.hart.viq = [e] → e.op = .eng 4 d a b 3 → e.block ≠ [] → e.status = none →
    s.hart.slot = .running → s.hart.intrap = false →
    (s.reftime < e.aux + 2 ^ 27 → exec (.collTimeout s.turn) s = .next s) ∧
    (e.aux + 2 ^ 27 ≤ s.reftime → collWaits s e x →
      ∃ t, exec (.collTimeout s.turn) s = .next t ∧ t.hart.viq = [] ∧ t.hart.s = s.hart.s ∧ t.hart.pc = s.hart.pc ∧
        numAt t (spadLoc s (x.cpl + 16)) 8 = causeCode .remote * 2 ^ 40 + 3 * 2 ^ 32 ∧ memOutside s t [(spadLoc s (x.cpl + 16), 8)])) ∧
  (∀ (s : State) (k : Nat),
    (¬ ((s.hartAt k).kind = .helper ∧ (s.hartAt k).slot = .waiting ∧ (s.hartAt k).wait = .hole) ∨ nextReady (s.coreAt (coreOf k)) = none →
      exec (.hqTakeDispatch k) s = .next s) ∧
    ((s.hartAt k).kind = .helper → (s.hartAt k).slot = .waiting → (s.hartAt k).wait = .hole → (s.hartAt k).taken = none →
      (nextReady (s.coreAt (coreOf k))).isSome = true → (s.hartAt k).filltab = 0 → (s.coreAt (coreOf k)).dbg = [] →
      ∃ t, exec (.hqTakeDispatch k) s = .next t ∧ exec .hqTake { s with turn := k } = .next { t with turn := k } ∧
        (t.hartAt k).slot = .running ∧ (t.hartAt k).taken.isSome = true)) ∧
  (∀ (s : State) (k d : Nat), (s.hartAt k).slot = .waiting → (s.hartAt k).wait = .clock d →
    exec (.idleWake k) s = .next (if d ≤ s.reftime then hartSet s k (wakes s (s.hartAt k)) else s)) ∧
  (∀ (s : State) (k id : Nat) (x : TrapInfo) (t : Task), s.task? id = some t →
    let stops := fun (i : Instr) (kind : Nat) (y : TrapInfo) => ∃ u, exec i s = .next u ∧ u.harts = s.harts ∧ u.mem = s.mem ∧
      u.gangs = s.gangs ∧ (s.reftime < t.stopAt + 1500 ∨ t.saved = [] → u.task? id = some t) ∧
      ∀ (c : SavedCore) (h : Hart) (e : VEntry) (rest : List VEntry), t.stopAt + 1500 ≤ s.reftime → t.saved = [c] → c.at_ = coreOf k →
        c.harts = [(slotOf k, h)] → h.viq = e :: rest →
        (openPos (s.setHartAt k h) k kind e = none → u.task? id = some t) ∧
        ∀ el q, openPos (s.setHartAt k h) k kind e = some (el, q) → u.task? id = some { t with
          saved := [{ c with harts := [(slotOf k, { h with viq := { e with late := some (el, q, y) } :: rest })] }] }
    stops (.remoteStopTimeout k x) 2 { x with cause := .remote, sub := 2, level := 0 } ∧
    stops (.hostStopTimeout k x) 3 { x with cause := .access, sub := 2, level := 0 })

/-- PLACEMENT_PASS, PREEMPT, PREEMPT_WAIT_EXPIRY, GANG_KILL, DIE_FENCE, LANE_GROUP_RETIRE, ARRAY_ROW_GROUP_RETIREMENT, the debug commands (R410 for steps), BREAKPOINT_HIT and TRACE_SAMPLE. An event is an operand of the inbox (log 8); repeats of a placement pass follow log 43, debug steps log 47. -/
def Obligations.SchedulingEvents : Prop :=
  (∀ (s : State) (die : Fin 4), queuesEmpty s die.val ∨ (s.dieAt die.val).fenced = true → exec (.placementPass die) s = .next s) ∧
  (∀ (s : State) (die : Fin 4) (cls id cl : Nat) (t : Task), (s.dieAt die.val).fenced = false → cls < 4 → queueOf s die.val cls = [id] →
    (∀ c, c ≠ cls → queueOf s die.val c = []) → s.readTask id = some t → t.st = .ready → t.saved = [] → t.nv ≤ 4 → t.np + t.nh ≤ 4 →
    cl / 8 = die.val → t.cores ≤ (freeCores s t cl).length → (∀ c, c < cl → c / 8 = die.val → (freeCores s t c).length < t.cores) →
    let cores := (freeCores s t cl).take t.cores
    (∀ b, t.start.supervisor = false → devStop s t.part false t.phys 0 = none → readAt s t.part t.place 0 64 0 = .ok b → descFits b = true →
      t.entry.toNat = field b 0 8 ∧ t.arg.toNat = field b 8 8 ∧ t.future.toNat = field b 16 8 ∧ t.cores = field b 28 1 ∧
      t.nv + 8 * t.nh + 64 * t.np = field b 29 1) ∧
    ∃ u g, exec (.placementPass die) s = .next u ∧ u.task? id = some { t with st := .running } ∧ u.gang? id = some g ∧
      g.cores = cores ∧ g.task = id ∧ g.cls = t.cls ∧ queueOf u die.val cls = [] ∧ elsewhereSame s u cores ∧
      ∀ k c, cores[k]? = some c → (u.coreAt c).gang = some id ∧ (u.coreAt c).mode = 0 ∧ (u.coreAt c).cells = [] ∧ (u.coreAt c).holes = [] ∧
        (∀ n, n < t.nv → let h := u.hartAt (c * 8 + n)
          h.slot = .running ∧ h.kind = .vector ∧ h.pc = t.entry ∧ h.reg 10 = t.arg ∧ h.reg 11 = BitVec.ofNat 64 (k * t.nv + n) ∧
          h.ptbase = t.start.ptbase ∧ h.priv = (if t.start.supervisor then .supervisor else .user)) ∧
        (∀ n, n < t.np → let h := u.hartAt (c * 8 + 4 + n)
          h.slot = .running ∧ h.kind = .scalar ∧ h.pc = t.entry ∧ h.reg 10 = t.arg ∧
          h.reg 11 = BitVec.ofNat 64 (t.cores * t.nv + k * t.np + n)) ∧
        (∀ n, n < t.nh → let h := u.hartAt (c * 8 + 7 - n)
          h.slot = .waiting ∧ h.kind = .helper ∧ h.wait = .hole)) ∧
  (∀ (s : State) (id : Nat) (g : Gang) (t : Task), s.gang? id = some g → s.task? id = some t → g.cores ≠ [] → g.cores.Nodup →
    noStrips s g.cores → s.mem.repl = [] →
    ∃ u, exec (.preempt id) s = .next (pass u t.die) ∧ released u g.cores ∧ elsewhereSame s u g.cores ∧ u.gang? id = some { g with cores := [] } ∧
      u.task? id = some { t with st := .ready, saved := g.cores.map (saveCore s), stopAt := s.reftime } ∧
      queueOf u t.die t.cls = id :: queueOf s t.die t.cls ∧ ∀ j, j ≠ id → u.task? j = s.task? j ∧ u.gang? j = s.gang? j) ∧
  (∀ (s : State) (id : Nat), s.gang? id = none → exec (.preempt id) s = .next s ∧ ∀ why, exec (.gangKill id why) s = .next s) ∧
  (∀ (s : State) (die cls : Fin 4),
    let waited := (cls.val = 1 ∨ cls.val = 2) ∧ ∃ id since, Table.find? (s.dieAt die.val).heads cls.val = some (id, since) ∧ since + 50000 ≤ s.reftime
    (waited → exec (.preemptWaitExpiry die cls) s = .next (pass s die.val)) ∧
    (¬ waited → exec (.preemptWaitExpiry die cls) s = .next s) ∧
    (∀ s1, preemptFor s die.val cls.val = some s1 → (s.gangs.map (·.1)).Nodup →
      ∀ id g, s.gang? id = some g → g.cls ≤ cls.val → s1.gang? id = some g)) ∧
  (∀ (s : State) (id : Nat) (reason : KillReason) (g : Gang) (t : Task), s.gang? id = some g → s.task? id = some t → t.future = 0 →
    queuesEmpty s t.die → noRings s t.part ∨ ringReady s t.part → (∀ c, c ∈ g.cores → c < 384) →
    ∃ u, exec (.gangKill id ⟨reason, none⟩) s = .next u ∧ released u g.cores ∧ elsewhereSame s u g.cores ∧ u.gang? id = none ∧
      u.task? id = some { t with st := .killed, saved := [] } ∧ (∀ j, j ≠ id → u.task? j = s.task? j ∧ u.gang? j = s.gang? j) ∧
      (noRings s t.part → memSame s u ∧ u.parts = s.parts) ∧
      (ringReady s t.part →
        told s u t.part 2 [(0, 8, t.desc.toNat), (8, 1, killCode reason), (12, 2, g.cores.headD 0), (14, 1, 0xFF), (15, 1, 0x3F)]) ∧
      (∀ c0 num b, g.cores.head? = some c0 → Table.find? (s.dieAt (dieOf c0)).bars num = some b →
        ∃ b', Table.find? (u.dieAt (dieOf c0)).bars num = some b' ∧ b'.count = b.count ∧ b'.phase = b.phase ∧
          (b'.broken = true ↔ b.broken = true ∨ (∃ p, p ∈ b.parties ∧ p.1 = id) ∨
            ∃ c n p, c ∈ g.cores ∧ n < 8 ∧ (s.hartAt (c * 8 + n)).slot = .waiting ∧ (s.hartAt (c * 8 + n)).wait = .barrier true num p ∧
              ¬ ((b.phase + 2 ^ 32 - p) % 2 ^ 32 ∈ List.range' 1 (2 ^ 31 - 1))))) ∧
  (∀ (s : State) (die : Fin 4),
    (s.stew.replay = true → exec (.dieFence die) s = .next { s with stew := { s.stew with
      diverged := s.stew.diverged.or (some (s.reftime, .fence)) } }) ∧
    (s.stew.replay = false → (∀ d, d < 4 → queuesEmpty s d) → (∀ p, p ∈ s.gangs → ∀ c, c ∈ p.2.cores → dieOf c ≠ die.val) →
      (∀ p, p ∈ s.tasks → p.2.st ≠ .pending ∨ p.2.die ≠ die.val) →
      ∃ u, exec (.dieFence die) s = .next u ∧ u.dieAt die.val = { s.dieAt die.val with fenced := true } ∧
        (∀ d, d ≠ die.val → u.dieAt d = s.dieAt d) ∧ u.mem = { s.mem with repl := s.mem.repl.filter fun x => x.die != die.val } ∧
        u.harts = s.harts ∧ u.tasks = s.tasks ∧ u.gangs = s.gangs ∧ u.parts = s.parts)) ∧
  (∀ (s : State) (core : Nat) (group : Fin 8) (col : Bool) (part : Fin 4), s.stew.replay = false → (s.coreAt core).gang = none →
    queuesEmpty s (dieOf core) →
    (∃ u, exec (.laneGroupRetire core group) s = .next u ∧
      u.coreAt core = { s.coreAt core with lanesFailed := (s.coreAt core).lanesFailed ||| 2 ^ group.val } ∧
      (∀ c, c ≠ core → u.coreAt c = s.coreAt c) ∧ u.harts = s.harts ∧ u.tasks = s.tasks ∧ u.mem = s.mem) ∧
    ∃ u, exec (.arrayRowGroupRetirement core col part) s = .next u ∧
      u.coreAt core = (if col then { s.coreAt core with colsFailed := (s.coreAt core).colsFailed ||| 2 ^ part.val }
                       else { s.coreAt core with rowsFailed := (s.coreAt core).rowsFailed ||| 2 ^ part.val }) ∧
      (∀ c, c ≠ core → u.coreAt c = s.coreAt c) ∧ u.harts = s.harts ∧ u.tasks = s.tasks ∧ u.mem = s.mem) ∧
  (∀ (s : State) (k n : Nat), let h := s.hartAt k
    (s.stew.unlocked = false → exec (.dbgHalt k) s = .next s ∧ exec (.dbgResume k) s = .next s ∧
      exec (.dbgStepInstruction k n) s = .next s ∧ exec (.dbgStepElements k n) s = .next s) ∧
    (s.stew.unlocked = true → h.slot ≠ .empty → exec (.dbgHalt k) s = .next (hartSet s k (haltedHart h))) ∧
    (s.stew.unlocked = true → h.slot = .stopped → h.wait = .held → h.kind ≠ .helper → 1 ≤ n → n ≤ 65535 →
      let on := { wakes s h with halted := false, stepsLeft := none, stepElems := none }
      exec (.dbgResume k) s = .next (hartSet s k on) ∧
      exec (.dbgStepInstruction k n) s = .next (hartSet s k { on with stepsLeft := some n }) ∧
      exec (.dbgStepElements k n) s = .next (hartSet s k { on with stepElems := some n }))) ∧
  (∀ (s : State) (k : Nat) (i : Fin 4), let lo := dbgReg s (coreOf k) (0x40 + 16 * i.val)
    let hi := dbgReg s (coreOf k) (0x48 + 16 * i.val)
    let hit := (s.hartAt k).acts = true ∧ lo % 2 = 1 ∧ lo / 4 = (s.hartAt k).pc.toNat / 4 ∧ hi.testBit (56 + slotOf k) = true ∧
      hi.testBit 49 = false
    (hit → exec (.breakpointHit k i) s = .next (hartSet s k (haltedHart (s.hartAt k)))) ∧
    (¬ hit → exec (.breakpointHit k i) s = .next s)) ∧
  (∀ (s : State) (core j : Nat), let ctl := dbgReg s core 0
    let size := dbgReg s core 0x10
    let head := dbgReg s core 0x18
    let a := dbgReg s core 0x08 + head
    let h := s.hartAt (core * 8 + j)
    let due := ctl / 2 ^ 24 % 2 ^ 24 ≠ 0 ∧ (s.coreAt core).sampled + ctl / 2 ^ 24 % 2 ^ 24 ≤ s.reftime
    (¬ due → exec (.traceSample core) s = .next s) ∧
    (due → j < 8 → (∀ n, n < 8 → (ctl.testBit (16 + n) = true ↔ n = j)) → head < size → size < 2 ^ 40 →
      devStop s ((s.partOf core).getD 0) false a a = none → plainRange s a 16 → laneDelta s core < 0xFFFF → h.viq = [] →
      ∃ u, exec (.traceSample core) s = .next u ∧ numAt u (.dev a) 2 = laneDelta s core ∧ numAt u (.dev (a + 2)) 1 = 14 ∧
        numAt u (.dev (a + 3)) 1 = j ∧ numAt u (.dev (a + 4)) 8 = 0 ∧ numAt u (.dev (a + 12)) 4 = h.pc.toNat % 2 ^ 32 ∧
        memOutside s u [(.dev a, 16)] ∧ u.harts = s.harts ∧
        dbgReg u core 0x18 = if ctl.testBit 1 = true ∧ size ≤ head + 16 then 0 else head + 16))

/-- GOVERNOR_SAMPLE, the thermal events, BOOST_INTERVAL_END, ENERGY_UPDATE, HANG_WATCHDOG, PACKAGE_POWER_OFF, LINK_DOWN, LINK_UP, PEER_RESET and COPY_BROADCAST. An event is an operand of the inbox (log 8). -/
def Obligations.PowerAndLinkEvents : Prop :=
  (∀ (s : State) (die : Fin 4) (p : Nat), let d := s.dieAt die.val
    (s.stew.replay = true ∨ s.reftime < d.sampled + 100 → exec (.governorSample die p) s = .next s) ∧
    (s.stew.replay = false → d.sampled + 100 ≤ s.reftime → ∃ t, exec (.governorSample die p) s = .next t ∧ (∀ n, n ≠ die.val → t.dieAt n = s.dieAt n) ∧
      t.harts = s.harts ∧ t.mem = s.mem ∧
      { t.dieAt die.val with sampled := d.sampled } =
        if 95 < p then
          (if d.grant < 2 ∧ 1 ≤ d.above then { d with grant := d.grant + 1, above := 0, below := 0 }
           else { d with above := d.above + 1, below := 0 })
        else if p < 80 then
          (if 0 < d.grant ∧ 49 ≤ d.below then { d with grant := d.grant - 1, above := 0, below := 0 }
           else { d with above := 0, below := d.below + 1 })
        else { d with above := 0, below := 0 })) ∧
  (∀ (s : State) (die : Fin 4), s.stew.replay = false →
    let ceil := fun (i : Instr) (f : Cluster → Nat) => ∃ t, exec i s = .next t ∧ t.harts = s.harts ∧ t.gangs = s.gangs ∧ t.tasks = s.tasks ∧
      ∀ cl, (t.clusterAt cl).want = (s.clusterAt cl).want ∧
        (t.clusterAt cl).ceil = if cl / 8 = die.val then f (s.clusterAt cl) else (s.clusterAt cl).ceil
    ceil (.thermalOver die) (fun c => min 5 (max c.want c.ceil + 1)) ∧
    let d := s.dieAt die.val
    (d.tooHot = true → d.stepped + 1000 ≤ s.reftime → ceil (.thermalStepDown die) fun c => min 5 (c.ceil + 1)) ∧
    (d.tooHot = false ∨ s.reftime < d.stepped + 1000 → exec (.thermalStepDown die) s = .next s) ∧
    (d.cooled = true → d.stepped + 10000 ≤ s.reftime → (∃ cl, cl / 8 = die.val ∧ (s.clusterAt cl).ceil ≠ 0) →
      ceil (.thermalStepUp die) fun c => c.ceil - 1) ∧
    (d.cooled = false ∨ s.reftime < d.stepped + 10000 ∨ (∀ cl, cl / 8 = die.val → (s.clusterAt cl).ceil = 0) →
      exec (.thermalStepUp die) s = .next s)) ∧
  (∀ (s : State) (die : Fin 4), ∃ t, exec (.thermalRecover die) s = .next t ∧ t.harts = s.harts ∧ t.clusters = s.clusters ∧
    t.dieAt die.val = { s.dieAt die.val with tooHot := false, cooled := true, stepped := s.reftime } ∧ ∀ n, n ≠ die.val → t.dieAt n = s.dieAt n) ∧
  (∀ (s : State) (die : Fin 4), let d := s.dieAt die.val
    let charged := ((List.range 8).filter fun j => d.hot.testBit j && !d.free.testBit j).length
    let pool := if d.hot = 0 then min 64 (d.permits + 1) else d.permits - charged
    (s.reftime % 400 ≠ 0 ∨ s.reftime ≤ d.interval → exec (.boostIntervalEnd die) s = .next s) ∧
    (s.reftime % 400 = 0 → d.interval < s.reftime → ∃ t, exec (.boostIntervalEnd die) s = .next t ∧ t.harts = s.harts ∧ (t.dieAt die.val).permits = pool ∧
      (t.dieAt die.val).lock = (if d.lock then decide (pool < 32) else decide (pool = 0)) ∧
      (∀ cl, (t.clusterAt cl).ceil = (s.clusterAt cl).ceil ∧ (cl / 8 ≠ die.val → t.clusterAt cl = s.clusterAt cl)) ∧
      (∀ j, j < 8 → ((t.dieAt die.val).hot.testBit j = true ↔
        max (t.clusterAt (8 * die.val + j)).want (t.clusterAt (8 * die.val + j)).ceil < 2)) ∧
      (∀ j req, j < 8 → 16 < pool → (t.dieAt die.val).lock = false →
        (∀ n, n < 96 → let h := s.hartAt ((8 * die.val + j) * 96 + n)
          (h.slot = .running ∨ h.slot = .waiting) → s.stew.replay = false → h.boostReq ≤ req) →
        (req = 0 ∨ (s.stew.replay = false ∧ ∃ n, n < 96 ∧ let h := s.hartAt ((8 * die.val + j) * 96 + n)
          (h.slot = .running ∨ h.slot = .waiting) ∧ h.boostReq = req)) →
        (t.clusterAt (8 * die.val + j)).want = 2 - req) ∧
      (∀ j, j < 8 → (t.dieAt die.val).lock = true →
        (t.clusterAt (8 * die.val + j)).want =
          if d.lock = false ∧ max (s.clusterAt (8 * die.val + j)).want (s.clusterAt (8 * die.val + j)).ceil < 2 then 1 else 2))) ∧
  (∀ (s : State) (n : Nat), exec (.energyUpdate n) s = .next (if s.reftime < s.stew.energyAt + 100 then s
    else { s with stew := { s.stew with energy := min (2 ^ 64 - 1) (s.stew.energy + n), energyAt := s.reftime } })) ∧
  (∀ (s : State) (k : Nat), let h := s.hartAt k
    let part := (s.partOf (coreOf k)).getD 0
    let hung := h.slot = .running ∧ h.exited = false ∧ h.halted = false ∧ h.retired + 2 ^ 27 ≤ s.reftime
    (¬ hung → exec (.hangWatchdog k) s = .next s) ∧
    (hung → noRings s part → exec (.hangWatchdog k) s = .next s) ∧
    (hung → ringReady s part → coreOf k < 384 → ∃ t, exec (.hangWatchdog k) s = .next t ∧ t.harts = s.harts ∧ t.gangs = s.gangs ∧ t.tasks = s.tasks ∧
      told s t part 4 [(0, 8, ((h.gang.bind s.task?).map (·.desc.toNat)).getD 0), (8, 1, 0), (12, 2, coreOf k), (14, 1, slotOf k),
        (16, 8, h.pc.toNat)])) ∧
  (∀ s : State, exec .packagePowerOff s = .next { s with powered := false }) ∧
  (∀ (s : State) (port : Fin 64), let p := s.portAt port.val
    let names := fun (e : TlbEntry) => e.kind = 2 ∧ e.pbase / 2 ^ 44 % 2 ^ 6 = port.val
    let changed := fun (i : Instr) (up : Bool) => ∃ t, exec i s = .next t ∧
      t.portAt port.val = { p with up := up, gen := (p.gen + 1) % 256 } ∧ (∀ n, n ≠ port.val → t.portAt n = s.portAt n) ∧
      (∀ c e, e ∈ (t.coreAt c).tlb ↔ e ∈ (s.coreAt c).tlb ∧ ¬ names e) ∧
      (∀ k e, (t.hartAt k).utr = some e ↔ (s.hartAt k).utr = some e ∧ ¬ names e) ∧
      (∀ k, { t.hartAt k with utr := none } = { s.hartAt k with utr := none }) ∧
      (∀ c, Core.rest (t.coreAt c) = Core.rest (s.coreAt c)) ∧ t.mem = { s.mem with ports := t.mem.ports }
    changed (.linkDown port) false ∧ changed (.linkUp port) true ∧ changed (.peerReset port) p.up) ∧
  (∀ (s : State) (n : Nat), exec (.copyBroadcast n) s =
    .next { s with mem := { s.mem with copies := Table.set s.mem.copies n s.mem.version } })

/-- PLINTH_FAILING, RETIRE_DROP, RANGE_RETURN, PARTITION_DEADLINE, WALK_START and GRANULE_MOVE (R86 to R97). An event is an operand of the inbox (log 8); what a move shows follows log 11, when a health message goes out log 55. -/
def Obligations.RetirementEvents : Prop :=
  (∀ (s : State) (x : Fin 8), let live := ((List.range 8).filter fun i => s.mem.live.testBit i).length
    (∃ t, exec (.plinthFailing x) s = .next t) ∧
    (mapsAgree s → (∀ p, p < 4 → (s.partAt p).dmbase = 0 ∨ (s.partAt p).dmfut = 0) → ∃ t, exec (.plinthFailing x) s = .next t ∧ t.mem.failing = s.mem.failing ||| 2 ^ x.val ∧ t.mem.reported = s.mem.reported ||| 2 ^ x.val ∧
      t.harts = s.harts ∧ t.tasks = s.tasks ∧ (∀ b, byteAt t (.dev b) = byteAt s (.dev b) ∨ ∃ p, (s.partAt p).dmbase ≠ 0) ∧
      t.mem.queued = if 2 ≤ live ∧ s.mem.live.testBit x.val = true ∧ x.val ∉ s.mem.queued ∧ s.mem.leaving ≠ some x.val then
        s.mem.queued ++ [x.val] else s.mem.queued) ∧
    (let may := s.mem.queued.head? = some x.val ∧ s.mem.leaving = none ∧ s.mem.phase % 2 = 0 ∧ 2 ≤ live ∧ s.stew.replay = false
     let cap := (live - 1) * Config.granulesPerStack
     let dropped := s.setRegs { s.mem with
       cap := cap, queued := s.mem.queued.tail, leaving := some x.val, returned := 0, front := cap, dropAt := s.reftime }
     (¬ may → exec (.retireDrop x) s = .next s) ∧
     (may → (∀ p, p < 4 → noRings s p) → exec (.retireDrop x) s = .next dropped) ∧
     (∀ rs : List (Nat × Nat), may → liveParts s = [0] → ringReady s 0 → rs.length ≤ 4 → cap < 2 ^ 40 → s.mem.phase < 2 ^ 32 →
       bandRanges s 0 (cap * 4096) (s.mem.cap * 4096) = rs →
       ∃ t, exec (.retireDrop x) s = .next t ∧ t.harts = s.harts ∧ t.tasks = s.tasks ∧ t.mem.cap = cap ∧ t.mem.leaving = some x.val ∧
         t.mem.queued = s.mem.queued.tail ∧
         told s t 0 1 [(0, 1, x.val), (1, 1, rs.length), (2, 1, 0), (8, 8, cap * 4096), (16, 4, s.mem.phase)])) ∧
    (s.mem.phase % 2 = 0 → exec .granuleMove s = .next s)) ∧
  (∀ (s : State) (part : Fin 4), let may := s.mem.leaving.isSome = true ∧ s.mem.phase % 2 = 0 ∧ (s.partAt part.val).live = true
    let top := s.mem.cap / 2 ^ 14
    let gave := fun (t : State) => t.mem.returned = s.mem.returned ||| 2 ^ part.val ∧
      t = { s with parts := Table.set s.parts part.val (t.partAt part.val), mem := { s.mem with returned := t.mem.returned } } ∧
      t.partAt part.val = { s.partAt part.val with ranges := (t.partAt part.val).ranges } ∧
      ∀ x, (∃ r, r ∈ (t.partAt part.val).ranges ∧ r.1 ≤ x ∧ x < r.1 + r.2) ↔
        x < top ∧ ∃ r, r ∈ (s.partAt part.val).ranges ∧ r.1 ≤ x ∧ x < r.1 + r.2
    (¬ may → exec (.rangeReturn part) s = .next s ∧ exec (.partitionDeadline part) s = .next s) ∧
    (may → ∃ t, exec (.rangeReturn part) s = .next t ∧ gave t) ∧
    (s.mem.returned.testBit part.val = true ∨ s.reftime < s.mem.dropAt + s.mem.deadline → exec (.partitionDeadline part) s = .next s) ∧
    (may → s.mem.returned.testBit part.val = false → s.mem.dropAt + s.mem.deadline ≤ s.reftime → (∀ p, p ∈ s.tasks → p.2.part ≠ part.val) →
      ∃ t, exec (.partitionDeadline part) s = .next t ∧ gave t)) ∧
  (∀ s : State, let may := s.mem.phase % 2 = 0 ∧ ∀ p, p ∈ liveParts s → s.mem.returned.testBit p = true
    (s.mem.leaving = none ∨ ¬ may ∨ bandBusy s = true → exec .walkStart s = .next s) ∧
    (∀ x, s.mem.leaving = some x → may → bandBusy s = false → x < 8 → ∃ t, exec .walkStart s = .next t ∧ t.mem.phase = (s.mem.phase + 1) % 2 ^ 32 ∧
      (∀ i, i < 8 → t.mem.live.testBit i = (s.mem.live.testBit i && i != x)) ∧ t.mem.oldLive = s.mem.live ∧ t.mem.step = 1 ∧
      t.mem.stage = 0 ∧ t.mem.infl = 0 ∧ t.mem.replays = 0 ∧
      t.mem.front = (((List.range 8).filter fun i => s.mem.live.testBit i).length - 1) * Config.granulesPerStack ∧
      t.harts = s.harts ∧ t.mem.dev = s.mem.dev ∧ t.mem.cap = s.mem.cap ∧ t.mem.leaving = some x)) ∧
  (∀ s : State, s.mem.phase % 2 = 1 →
    let low := s.mem.staged
    let left := if s.mem.step = 2 then s.mem.front - low else s.mem.front
    let window := max s.mem.infl (min (max 1 (Config.movesStarted s.free)) (min 512 left))
    let flying := fun g => ∃ off, off < window ∧ g = s.mem.front - 1 - off ∧ g ∉ s.mem.moved
    ∃ t, exec .granuleMove s = .next t ∧ t.harts = s.harts ∧ memSame s t ∧ t.mem.replays = s.mem.replays ∧
      (s.mem.step = 1 → t.mem.stage = s.mem.stage + 1 ∧ t.mem.front = s.mem.front ∧ t.mem.phase = s.mem.phase ∧
        t.mem.step = if s.mem.stage + 1 < low then 1 else 2) ∧
      (s.mem.step ≠ 1 → (∀ g, ¬ flying g) → t = s) ∧
      (s.mem.step ≠ 1 → (∃ g, flying g) → ∃ g, flying g ∧
        (g ≠ s.mem.front - 1 → s.mem.front - 1 ∉ s.mem.moved → t.mem.front = s.mem.front ∧ t.mem.infl = window ∧ g ∈ t.mem.moved) ∧
        (g = s.mem.front - 1 → s.mem.moved = [] → 1 < s.mem.front → t.mem.front = s.mem.front - 1 ∧
          t.mem.phase = s.mem.phase ∧ t.mem.infl = window - 1 ∧ t.mem.leaving = s.mem.leaving ∧
          t.mem.step = if s.mem.front - 1 ≤ low then 3 else s.mem.step) ∧
        (g = s.mem.front - 1 → s.mem.front = 1 → s.mem.moved = [] → t.mem.phase = (s.mem.phase + 1) % 2 ^ 32 ∧
          t.mem.oldLive = s.mem.live ∧ t.mem.step = 0 ∧ t.mem.stage = 0 ∧ t.mem.front = s.mem.cap ∧ t.mem.leaving = none ∧
          ∀ x, s.mem.leaving = some x → t.stew.retiredStacks = s.stew.retiredStacks ||| 2 ^ x)))

/-- HOST_INBOUND_WRITE, HOST_INBOUND_READ, ENERGY_LO_READ (R430), MBTAIL_WRITE, WINBASE_WRITE, DMBASE_WRITE, DMTAIL_WRITE, REGISTER_WRITE, HOST_SPAWN, FABRIC_INBOUND_REQUEST and REPLAY_INJECT. An event is an operand of the inbox (log 8); memory outside the device follows log 9, reads and writes of BAR 0 that name no register log 83, a command block's address log 81, writes of the steward outside their bounds log 72. -/
def Obligations.HostLinkEvents : Prop :=
  (∀ (s : State) (fn : Fin 4) (off : Nat), mapsAgree s → s.stew.recording = false → let p := s.partAt fn.val
    let part := fun (n : Nat) => 0 < n ∧ off % 4096 + n ≤ 4096
    let erred := s.setPartAt fn.val { p with aer := true }
    let refused := fun (n : Nat) (acc : Access) => ∃ x, windowPlace s fn.val off n acc = .error (.trap x) ∧ x.media = none ∧ x.cause ≠ .ue
    let reached := fun (n d : Nat) (l : Leaf) => off + n ≤ 2 ^ 36 ∧ p.winbase + off + n ≤ 2 ^ 52 ∧ part n ∧
      walk2 s fn.val (p.winbase + off) (p.winbase + off) = .ok (l, d) ∧ l.kind = 0 ∧ plainRange s d n ∧
      devStop s fn.val false d (p.winbase + off) = none ∧ devStop s fn.val false (d + n - 1) (p.winbase + off) = none
    let bytesAt := fun (d n : Nat) => (List.range n).map fun i => byteAt s (.dev (d + i))
    let readable := fun (d n : Nat) => ∀ i, i < n → Table.find? s.mem.bad ((d + i) / 64) = none
    (p.live = false → (∀ x, exec (.hostInboundWrite fn off x) s = .next s) ∧ ∀ a n, exec (.hostInboundRead fn a n) s = .next s) ∧
    (p.live = true →
      exec (.hostInboundWrite fn off (.bytes [])) s = .next s ∧
      (∀ data d l, reached data.length d l → l.w = true → unreplicated s →
        ∃ t, exec (.hostInboundWrite fn off (.bytes data)) s = .next t ∧ devWrote s t d data) ∧
      (∀ n d l, reached n d l → l.r = true → readable d n →
        exec (.hostInboundRead fn (.window off) n) s = .next (s.setPartAt fn.val { p with lastRead := some (bytesAt d n) })) ∧
      (∀ (q : AmoReq) (n d : Nat) (l : Leaf), completes q.fn n = true → off % n = 0 → d % n = 0 → reached n d l → l.r = true → l.w = true →
        unreplicated s → readable d n → q.ty = (if n = 4 then .n32 else .n64) →
        ∃ t, exec (.hostInboundWrite fn off (.atomic q n)) s = .next t ∧ (t.partAt fn.val).lastRead = some (bytesAt d n) ∧
          memOutside s t [(.dev d, n)] ∧ systemSame s t ∧ numAt t (.dev d) n =
            (if q.fn = .swap then q.y else if q.fn = .add then numAt s (.dev d) n + q.y
              else if numAt s (.dev d) n = q.cmp then q.y else numAt s (.dev d) n) % 2 ^ (8 * n)) ∧
      (∀ (q : AmoReq) (n : Nat), completes q.fn n = false ∨ off % n ≠ 0 →
        exec (.hostInboundWrite fn off (.atomic q n)) s = .next (s.setPartAt fn.val { p with aer := true, lastRead := none })) ∧
      (∀ n acc, 2 ^ 36 < off + n ∨ 2 ^ 52 < p.winbase + off + n → refused n acc) ∧
      (∀ data : List Byte, part data.length → refused data.length .store →
        (noRings s fn.val → exec (.hostInboundWrite fn off (.bytes data)) s = .next erred) ∧
        (ringReady s fn.val → p.winbase + off < 2 ^ 64 → ∃ t, exec (.hostInboundWrite fn off (.bytes data)) s = .next t ∧
          systemSame s t ∧ told erred t fn.val 5 [(0, 8, p.winbase + off)])) ∧
      (∀ n, part n → refused n .load → noRings s fn.val →
        exec (.hostInboundRead fn (.window off) n) s = .next (s.setPartAt fn.val { p with aer := true, lastRead := none })) ∧
      (let gives := fun (off n : Nat) (b : Option (List Byte)) =>
         exec (.hostInboundRead fn (.register off) n) s = .next (s.setPartAt fn.val { p with lastRead := b })
       gives 0x000 8 (some (leBytes 8 (p.mbhead + (if fn = 0 ∧ s.stew.cmdBusy = true then 2 ^ 62 else 0) + if p.mbdrop = true then 2 ^ 63 else 0))) ∧
       gives 0x008 8 (some (leBytes 8 p.mbtail)) ∧ gives 0x010 8 (some (leBytes 8 p.mbbase)) ∧ gives 0x020 8 (some (leBytes 8 p.winbase)) ∧
       gives 0x104 4 (some (leBytes 4 p.energyHi)) ∧ gives 0x040 8 none ∧ gives 0x050 8 none))) ∧
  (∀ (s : State) (fn : Fin 4) (v : Word), s.stew.recording = false → let p := s.partAt fn.val
    let bar := fun (off : Nat) => Instr.registerWrite (0x300 + fn.val) off v
    (p.live = false → exec (.energyLoRead fn) s = .next s ∧ exec (.mbtailWrite fn v) s = .next s ∧ exec (.winbaseWrite fn v) s = .next s ∧
      exec (.hostSpawn fn v) s = .next s ∧ ∀ off, exec (bar off) s = .next s) ∧
    (p.live = true →
      exec (.energyLoRead fn) s = .next (s.setPartAt fn.val { p with energyHi := s.stew.energy / 2 ^ 32, lastRead := some (leBytes 4 s.stew.energy) }) ∧
      (p.mbheld = [] ∨ p.mbbase = 0 →
        exec (.mbtailWrite fn v) s = .next (s.setPartAt fn.val { p with mbtail := v.toNat % 256, mbdrop := false })) ∧
      (∀ m, p.mbheld = [m] → p.mbbase ≠ 0 → (p.mbhead + 1) % 256 ≠ v.toNat % 256 → m.length = 64 →
        ∃ t, exec (.mbtailWrite fn v) s = .next t ∧ systemSame s t ∧
          t.partAt fn.val = { p with mbtail := v.toNat % 256, mbdrop := false, mbheld := [], mbhead := (p.mbhead + 1) % 256 } ∧
          (∀ i, i < 64 → byteAt t (.host (ringSlot s fn.val + i)) = m.getD i 0) ∧ memOutside s t [(.host (ringSlot s fn.val), 64)]) ∧
      exec (.winbaseWrite fn v) s = .next (if v.toNat % 2 ^ 36 = 0 then s.setPartAt fn.val { p with winbase := v.toNat } else s) ∧
      exec (bar 0x08) s = exec (.mbtailWrite fn v) s ∧ exec (bar 0x20) s = exec (.winbaseWrite fn v) s ∧
      exec (bar 0x50) s = exec (.hostSpawn fn v) s ∧
      exec (bar 0x10) s = .next (if v.toNat % 2 ^ 12 = 0 then s.setPartAt fn.val { p with mbbase := v.toNat } else s) ∧
      exec (bar 0x40) s = .next (if fn = 0 ∧ s.stew.cmdBusy = false ∧ v.toNat % 2 ^ 12 = 0 then
        { s with stew := { s.stew with cmdBusy := true, cmd := v.toNat } } else s)) ∧
    exec (.dmbaseWrite fn v) s = .next (if v.toNat % 2 ^ 12 = 0 then s.setPartAt fn.val { p with dmbase := v.toNat } else s) ∧
    (p.dmheld = [] ∨ p.dmbase = 0 →
      exec (.dmtailWrite fn v) s = .next (s.setPartAt fn.val { p with dmtail := v.toNat % 256, dmdrop := false })) ∧
    (∀ m, m < 384 → s.partOf m = some fn.val →
      let reg := fun (off : Nat) => Instr.registerWrite m (Config.serviceBase + fn.val * 0x10000 + off) v
      exec (reg 0x18) s = .next (s.setPartAt fn.val { p with dmfut := v.toNat }) ∧
      exec (reg 0x20) s = .next (s.setPartAt fn.val { p with hsctx := BitVec.ofNat 64 (v.toNat / 2 ^ 13 * 2 ^ 13) }) ∧
      exec (reg 0x28) s = .next (s.setPartAt fn.val { p with hstvec := BitVec.ofNat 64 (v.toNat / 4 * 4) }) ∧
      exec (reg 0x30) s = .next (s.setPartAt fn.val { p with hsprio := v.toNat % 4 })) ∧
    (∀ m, 0x200 ≤ m → m < 0x208 →
      exec (.registerWrite m Config.plinthRate v) s =
        .next (if v.toNat % 2 ^ 16 ∈ List.range' 256 11745 then { s with mem := { s.mem with rate := v.toNat % 2 ^ 16 } } else s)) ∧
    (∀ m a, 0x200 ≤ m → m < 0x208 → regAccepts s m true a = false → ∃ t, exec (.registerWrite m a v) s = .next t ∧
      t.harts = s.harts ∧ t.parts = s.parts ∧ t.tasks = s.tasks ∧ memSame s t ∧ t.stew.fused = s.stew.fused ∧
      (∀ n, (t.portAt n).loaded = (s.portAt n).loaded ∧ (t.portAt n).depth = (s.portAt n).depth ∧ ((t.portAt n).rate = (s.portAt n).rate ∨
        ((t.portAt n).rate = v.toNat ∧ v.toNat ≤ (s.portAt n).loaded))) ∧
      ∀ i, t.stew.targets.get i = s.stew.targets.get i ∨ (t.stew.targets.get i = v.toNat ∧ v.toNat ≤ s.stew.fused.get i)) ∧
    (∀ m a, 0x400 ≤ m → exec (.registerWrite m a v) s = .next s)) ∧
  (∀ (s : State) (fn : Fin 4) (v : Word), s.stew.recording = false → let p := s.partAt fn.val
    let die := v.toNat % 4
    let hold := v.toNat.testBit 2
    let va := v.toNat / 2 ^ 6 % 2 ^ 50 * 64
    let ill := v.toNat / 2 ^ 56 ≠ 0 ∨ v.toNat / 2 ^ 3 % 8 ≠ 0 ∨ p.clusters / 2 ^ (8 * die) % 2 ^ 8 = 0 ∨ p.hsctx = 0
    let plain := fun (q : Place) (a : Nat) => q.loc = .dev a ∧ a % 64 = 0 ∧ q.kind = 0 ∧ q.enc = false ∧ plainRange s a 64 ∧
      Table.find? s.mem.bad (a / 64) = none
    (ill ∧ noRings s fn.val → exec (.hostSpawn fn v) s = .next s) ∧
    (p.live = true → ill → ringReady s fn.val → ∃ t, exec (.hostSpawn fn v) s = .next t ∧ systemSame s t ∧
      told s t fn.val 6 [(0, 8, v.toNat), (8, 1, causeCode .ill), (9, 1, 0), (10, 2, 1)]) ∧
    (p.live = true → ¬ ill → va / 2 ^ 40 ∈ [0xFFFE, 0xFFFF] → ringReady s fn.val → ∃ t, exec (.hostSpawn fn v) s = .next t ∧ systemSame s t ∧
      told s t fn.val 6 [(0, 8, v.toNat)] ∧ numAt t (.host (ringSlot s fn.val + 16)) 1 ∈ [causeCode .page, causeCode .access]) ∧
    (∀ (q : Place) (a : Nat) (l : List Byte), mapsAgree s → let b := bytes64 s q.loc
      let launch := field b 32 8
      let pend := if hold then field b 24 4 - 1 else field b 24 4
      let id := s.tasks.length + 1
      p.live = true → ¬ ill → hostPlace s fn.val p.hsctx .atomic va = .ok (q, s) → plain q a →
      (launch = 0 ∧ l = List.replicate 64 0) ∨ (launch % 64 = 0 ∧ launch ≠ 0 ∧
        ∃ r ra, hostPlace s fn.val p.hsctx .load launch = .ok (r, s) ∧ plain r ra ∧ l = bytes64 s r.loc) →
      descOk b (max p.hsprio p.spawnGrant) = true → launchOk l = true → (hold = true → field b 24 4 ≠ 0) →
      crowded s die (field b 30 1) ∨ pend ≠ 0 →
      ∃ t x, exec (.hostSpawn fn v) s = .next t ∧ t.harts = s.harts ∧ t.gangs = s.gangs ∧ t.task? id = some x ∧
        x.st = (if pend = 0 then .ready else .pending) ∧ x.desc = BitVec.ofNat 64 va ∧ x.die = die ∧ x.part = fn.val ∧ x.cls = field b 30 1 ∧
        x.cores = field b 28 1 ∧ x.entry.toNat = field b 0 8 ∧ x.arg.toNat = field b 8 8 ∧ x.future.toNat = field b 16 8 ∧
        x.start = startOf l p.hsctx p.hstvec (max p.hsprio p.spawnGrant) (BitVec.ofNat 64 launch) ∧
        queueOf t die x.cls = (if pend = 0 then queueOf s die x.cls ++ [id] else queueOf s die x.cls) ∧
        numAt t (.dev (a + 24)) 4 = pend ∧ numAt t (.dev (a + 40)) 8 = 1 + 2 * die ∧
        memOutside s t [(.dev (a + 24), 4), (.dev (a + 40), 8), (.dev (a + 48), 8)])) ∧
  (∀ (s : State) (port : Fin 64) (r : Request), s.stew.recording = false →
    let p := s.portAt port.val
    let holds := ∃ w, w ∈ p.windows ∧ w.base ≤ r.addr ∧ r.addr + requestSize r ≤ w.base + w.len ∧
      (r.write = none ∨ r.amo.isSome = true → w.r = true) ∧ (r.write.isSome = true ∨ r.amo.any (·.fn != .ld) = true → w.w = true)
    let tokens := min p.depth (p.tokens + (s.reftime - p.since) * p.rate)
    (p.up = false → exec (.fabricInboundRequest port r) s = .next s) ∧
    (p.up = true → tokens = 0 → exec (.fabricInboundRequest port r) s =
      .next (s.setPortAt port.val { p with tokens := 0, since := s.reftime, waiting := p.waiting ++ [r] })) ∧
    (policed s port.val → ¬ holds → exec (.fabricInboundRequest port r) s = .next (spent s port.val)) ∧
    (policed s port.val → holds → ∃ t, exec (.fabricInboundRequest port r) s = .next t ∧
      exec (.accessPerform { r with master := 0x400 + port.val, spad := none }) (spent s port.val) = .next t)) ∧
  (∀ (s : State) (a : Arrival) (rest : List Arrival), s.stew.recording = false →
    let ended := { s with stew := { s.stew with diverged := s.stew.diverged.or (some (s.reftime, .arrival)) } }
    let next := { s with stew := { s.stew with script := rest } }
    (s.stew.replay = false ∨ s.stew.script = [] → exec (.replayInject a) s = .next s) ∧
    (s.stew.replay = true → s.stew.script = a :: rest → ∀ b, (b ≠ a ∨ s.reftime < b.tick) → exec (.replayInject b) s = .next s) ∧
    (s.stew.replay = true → s.stew.script = a :: rest → a.tick < s.reftime → exec (.replayInject a) s = .next ended) ∧
    (s.stew.replay = true → s.stew.script = a :: rest → a.tick = s.reftime →
      (∀ (fn : Fin 4) off d, a.what = .write fn.val off d → exec (.replayInject a) s = exec (.hostInboundWrite fn off d) next) ∧
      (∀ (fn : Fin 4) x n, a.what = .read fn.val x n → exec (.replayInject a) s = exec (.hostInboundRead fn x n) next) ∧
      (∀ (fn : Fin 4) off v, a.what = .register fn.val off v → v < 2 ^ 64 →
        exec (.replayInject a) s = exec (.registerWrite (0x300 + fn.val) off (BitVec.ofNat 64 v)) next) ∧
      (∀ (port : Fin 64) r, a.what = .port port.val r → exec (.replayInject a) s =
        if (s.portAt port.val).up = true then exec (.fabricInboundRequest port r) next else .next ended) ∧
      (∀ b, a.what = .entropy b → exec (.replayInject a) s =
        .next { s with stew := { s.stew with script := rest, entropy := s.stew.entropy ++ [b] } }) ∧
      (∀ i c op b signed, a.what = .command b signed false → c = { port := some b, signed := signed } → commandOf i = some c →
        asksFor i = some op → parseCommand c s = some op → (∀ l, i ≠ .unlock c l true) → exec (.replayInject a) s = exec i next)))

/-- RETIRE, PART, RESET, QUOTE, UNLOCK, RECORD (R424 to R428), PACKAGE_RESET and STEWARD_WATCHDOG (R423, R429). A command runs whole (log 8); its free bytes follow log 7, its block log 81, its numbers log 46, RETIRE of a stack that retires or waits log 67, the ranges of a partition and the windows of its ports log 6, and the log entry of the boot image log 82. -/
def Obligations.ManagementEvents : Prop :=
  (∀ (i : Instr) (s : State) (c : Command) (op : CmdOp), commandOf i = some c → asksFor i = some op →
    let seq := blockBytes c s 8 8
    let at_ := cmdNum s c 16 8
    let answer := fun (status : Nat) => (c.port.isSome = true → exec i s = .next (answered s seq status [])) ∧
      (c.port = none → ∃ t, exec i s = .next t ∧ (∀ k, k < 64 → byteAt t (.host (at_ + k)) = (resultBlock seq status []).getD k 0) ∧
        memOutside s t [(.host at_, 64)] ∧ t = { s with mem := { s.mem with host := t.mem.host }, stew := { s.stew with cmdBusy := false } })
    (c.port = none → s.stew.cmdBusy = false → exec i s = .next s) ∧
    (∀ other, parseCommand c s = some other → other ≠ op → exec i s = .next s) ∧
    (arrived s c →
      (parseCommand c s = none → answer 3) ∧
      (parseCommand c s = some op → c.signed = false → answer 1) ∧
      (parseCommand c s = some op → c.signed = true → cmdNum s c 8 8 ≤ s.stew.lastSeq → answer 2))) ∧
  (∀ (s : State) (c : Command) (seq result : Nat), let num := cmdNum s c
    (num 2 2 ≠ 0 ∨ num 24 40 ≠ 0 ∨ num 0 2 ∉ [1, 2, 3, 4, 5, 6] → parseCommand c s = none) ∧
    (blockIs s c 1 8 seq result → num 64 1 < 8 → num 65 7 = 0 → parseCommand c s = some (.retire (num 64 1))) ∧
    (∀ ranges : List (Nat × Nat), blockIs s c 2 (32 + 8 * ranges.length) seq result → 1 ≤ ranges.length → ranges.length ≤ 16 →
      num 64 1 = 1 → num 65 1 < 4 → num 66 6 = 0 → num 88 2 = ranges.length → num 90 6 = 0 →
      (∀ k r, ranges[k]? = some r → r.1 < 2 ^ 14 ∧ r.2 < 2 ^ 14 ∧ num (96 + 8 * k) 8 = r.1 + r.2 * 2 ^ 16) →
      parseCommand c s = some (.create (num 65 1) (num 72 8) (num 80 8) ranges)) ∧
    (blockIs s c 2 32 seq result → num 64 1 = 2 → num 65 1 < 4 → num 66 6 = 0 → num 88 2 = 0 → num 90 6 = 0 →
      parseCommand c s = some (.destroy (num 65 1))) ∧
    (blockIs s c 3 8 seq result → num 64 1 < 4 → num 65 7 = 0 → parseCommand c s = some (.reset (num 64 1))) ∧
    (blockIs s c 4 32 seq result → parseCommand c s = some (.quote (blockBytes c s 64 32))) ∧
    (blockIs s c 5 0 seq result → parseCommand c s = some .challenge) ∧
    (blockIs s c 5 16640 seq result → parseCommand c s = some (.unlock (blockBytes c s 64 32))) ∧
    (blockIs s c 6 0 seq result → parseCommand c s = some .record)) ∧
  (∀ (i : Instr) (s : State) (c : Command) (op : CmdOp), commandOf i = some c → asksFor i = some op → good s c op → s.stew.replay = true →
    (∀ n, op ≠ .quote n) → exec i s = .next (refused s c)) ∧
  (∀ (s : State) (c : Command), s.stew.replay = false →
    let a := accepted s c
    let salt := (List.range 32).map fun i => Config.freeByte (s.free + i)
    (∀ n, good s c (.quote n) → let lanemask := fun (k : Nat) => leBytes 8 ((s.coreAt k).lanesFailed * 2 ^ 8 + (0xFF - (s.coreAt k).lanesFailed))
      let record := Config.bootRecord s.stew.retiredStacks
        ((List.range 384).map fun k => ((s.coreAt k).lanesFailed, (s.coreAt k).rowsFailed, (s.coreAt k).colsFailed))
      let body := n ++ leBytes 4 s.stew.measured.length ++
        s.stew.measured.flatMap (fun m => (List.range 48).map (Config.measureByte m.2)) ++ leBytes 4 record.length ++ record ++
        (List.range 384).flatMap lanemask ++ leBytes 8 s.stew.unlocked.toNat ++ leBytes 8 s.reftime
      exec (.quote c n) s = .next (answered { a with free := s.free + 32, stew := { a.stew with quotes := s.stew.quotes + 1 } }
        (blockBytes c s 8 8) 0 (body ++ (List.range 16608).map (Config.signByte body salt)))) ∧
    (∀ x : Fin 8, good s c (.retire x.val) →
      let may := s.mem.live.testBit x.val = true ∧ 2 ≤ ((List.range 8).filter fun i => s.mem.live.testBit i).length ∧ s.mem.leaving ≠ some x.val
      (¬ may → exec (.retire c x) s = .next (refused s c)) ∧
      (may → exec (.retire c x) s = .next (done s c
        (if x.val ∈ s.mem.queued then a else { a with mem := { s.mem with queued := s.mem.queued ++ [x.val] } })))) ∧
    (∀ (part : Fin 4) (cl ports : Nat) (ranges : List (Nat × Nat)), good s c (.create part.val cl ports ranges) →
      let free := ∀ p, p < 4 → p ≠ part.val → (s.partAt p).live = true → (s.partAt p).clusters &&& cl = 0 ∧
        (s.partAt p).ports &&& ports = 0 ∧ ∀ r x, r ∈ (s.partAt p).ranges → x ∈ ranges → ¬ (r.1 < x.1 + x.2 ∧ x.1 < r.1 + r.2)
      (part.val = 0 ∨ (s.partAt part.val).live = true ∨ ¬ free → exec (.partCreate c part cl ports ranges) s = .next (refused s c)) ∧
      (part.val ≠ 0 → (s.partAt part.val).live = false → free → ∃ t, exec (.partCreate c part cl ports ranges) s = .next (done s c t) ∧
        t.stew = a.stew ∧ t.parts = Table.set s.parts part.val (t.partAt part.val) ∧ (t.partAt part.val).live = true ∧
        (t.partAt part.val).clusters = cl ∧ (t.partAt part.val).ranges = ranges ∧ (t.partAt part.val).ports = ports ∧
        t.harts = s.harts ∧ t.tasks = s.tasks ∧ memSame s t ∧
        ∀ n, n < 64 → t.portAt n = if ports.testBit n then { s.portAt n with
          part := some part.val
          windows := (ranges.take 16).map fun r => { base := r.1 * 2 ^ 26, len := r.2 * 2 ^ 26, r := true, w := true } } else s.portAt n)) ∧
    (∀ part : Fin 4, good s c (.destroy part.val) → let p := s.partAt part.val
      let mine := fun (x : Nat) => ∃ r, r ∈ p.ranges ∧ r.1 * 2 ^ 26 ≤ x ∧ x < (r.1 + r.2) * 2 ^ 26
      (part.val = 0 ∨ p.live = false → exec (.partDestroy c part) s = .next (refused s c)) ∧
      (part.val ≠ 0 → p.live = true → (∀ x, x ∈ s.tasks → x.2.part ≠ part.val) → ∃ t, exec (.partDestroy c part) s = .next (done s c t) ∧
        t.stew = a.stew ∧ t.parts = Table.set s.parts part.val {} ∧ t.harts = s.harts ∧ t.tasks = s.tasks ∧
        (∀ x, byteAt t (.dev x) = if (∃ r, r ∈ p.ranges ∧ r.1 * 2 ^ 26 ≤ x ∧ x < (r.1 + r.2) * 2 ^ 26) then 0 else byteAt s (.dev x)) ∧
        (∀ w, Table.find? t.mem.bad w = none ∨ (Table.find? t.mem.bad w = Table.find? s.mem.bad w ∧ ¬ mine (w * 64))) ∧
        (∀ w, Table.find? t.mem.sectors w = none ∨ (Table.find? t.mem.sectors w = Table.find? s.mem.sectors w ∧ ¬ mine (w * 512))) ∧
        ∀ n, n < 64 → t.portAt n = if p.ports.testBit n then { s.portAt n with part := none, windows := [] } else s.portAt n)) ∧
    (∀ part : Fin 4, good s c (.reset part.val) →
      ((s.partAt part.val).live = false → exec (.reset c part) s = .next (refused s c)) ∧
      ((s.partAt part.val).live = true → (∀ x, x ∈ s.tasks → x.2.part ≠ part.val) → exec (.reset c part) s = .next (done s c a)) ∧
      (∀ id t, (s.partAt part.val).live = true → s.tasks = [(id, t)] → t.part = part.val → t.st = .running →
        ∃ w, exec (.reset c part) s = .next (done s c w) ∧ exec (.gangKill id ⟨.partition, none⟩) a = .next w)) ∧
    (good s c .challenge → exec (.unlockChallenge c) s =
      .next (answered { a with free := s.free + 32, stew := { a.stew with challenge := some salt } } (blockBytes c s 8 8) 0 salt)) ∧
    (∀ (l : List Byte) (vendor : Bool), good s c (.unlock l) → let spent := { a with stew := { a.stew with challenge := none } }
      exec (.unlock c l vendor) s = .next
        (if vendor = true ∧ s.stew.challenge = some l then done s c { spent with stew := { spent.stew with unlocked := true } }
         else answered spent (blockBytes c s 8 8) 4 [])) ∧
    (good s c .record → exec (.record c) s = .next (done s c { a with stew := { a.stew with armed := true } }))) ∧
  (∀ (s : State) (c : Command), c.port = none → c.signed = true → s.stew.cmdBusy = true → s.stew.recording = false → s.stew.replay = false →
    parseCommand c s = some .record → s.stew.lastSeq < cmdNum s c 8 8 →
    ∃ t, exec (.record c) s = .next t ∧
      (∀ k, k < 64 → byteAt t (.host (cmdNum s c 16 8 + k)) = (resultBlock (blockBytes c s 8 8) 0 []).getD k 0) ∧
      memOutside s t [(.host (cmdNum s c 16 8), 64)] ∧ t = { s with
        mem := { s.mem with host := t.mem.host }
        stew := { s.stew with cmdBusy := false, armed := true, lastSeq := cmdNum s c 8 8 } }) ∧
  (∀ (s : State) (replay : Option (List Arrival)) (chain : BootChain),
    let fault := fun (c : StageCheck) => stageFault c s.stew.minVersion
    let retired := s.stew.retiredStacks |||
      (match s.mem.leaving with | some x => if s.mem.phase % 2 = 1 then 2 ^ x else 0 | none => 0)
    let stew : Steward := { retiredStacks := retired, recording := s.stew.armed, replay := replay.isSome, script := replay.getD []
                            log := if s.stew.armed = true then [{ tick := 0, what := .boot [] }] else []
                            chain := chain, minVersion := s.stew.minVersion, fused := s.stew.fused, targets := s.stew.fused
                            policers := s.stew.policers }
    ∃ t, exec (.packageReset replay chain []) s = .next t ∧
      (∀ k, t.hartAt k = {}) ∧ t.tasks = [] ∧ t.gangs = [] ∧ t.dies = [] ∧ t.clusters = [] ∧
      (∀ c, t.coreAt c = ({ lanesFailed := (s.coreAt c).lanesFailed, rowsFailed := (s.coreAt c).rowsFailed,
                            colsFailed := (s.coreAt c).colsFailed } : Core)) ∧
      t.mem.dev = s.mem.dev ∧ t.mem.host = s.mem.host ∧ t.mem.phase = 0 ∧ t.mem.step = 0 ∧ t.mem.repl = [] ∧
      (∀ x, t.mem.leaving = some x ↔ s.mem.leaving = some x ∧ x < 8 ∧ retired.testBit x = false) ∧ t.mem.queued = s.mem.queued ∧
      t.mem.failing = s.mem.failing ∧ t.mem.reported = s.mem.reported ∧
      (∀ i, i < 8 → t.mem.live.testBit i = !retired.testBit i) ∧ t.mem.oldLive = t.mem.live ∧
      t.mem.cap = min s.mem.cap (((List.range 8).filter fun i => !retired.testBit i).length * Config.granulesPerStack) ∧
      t.mem.front = t.mem.cap ∧
      (∀ n r d, s.stew.policers = [(n, (r, d))] → (t.portAt n).rate = r ∧ (t.portAt n).loaded = r ∧ (t.portAt n).depth = d) ∧
      (fault chain.rom = none → fault chain.firmware = none → fault chain.hypervisor = none →
        t.stew = { stew with measured := [(0, chain.rom.digest), (1, chain.firmware.digest), (2, chain.hypervisor.digest)] }) ∧
      (∀ f, fault chain.rom = some f → t.stew = { stew with booted := false, measured := [(0, chain.rom.digest)], reports := [(0, f)] } ∧
        Sys2Proof.Machine.step t = .fault .bootStopped) ∧
      (∀ f, fault chain.rom = none → fault chain.firmware = some f →
        t.stew = { stew with booted := false, measured := [(0, chain.rom.digest), (1, chain.firmware.digest)], reports := [(1, f)] } ∧
        Sys2Proof.Machine.step t = .fault .bootStopped) ∧
      (∀ f, fault chain.rom = none → fault chain.firmware = none → fault chain.hypervisor = some f →
        t.stew = { stew with booted := false, measured := [(0, chain.rom.digest), (1, chain.firmware.digest), (2, chain.hypervisor.digest)]
                             reports := [(2, f)] } ∧ Sys2Proof.Machine.step t = .fault .bootStopped)) ∧
  (∀ (s : State) (x : StageCheck), stageFault x s.stew.minVersion = none ↔ x.rsa = true ∧ x.slh = true ∧ s.stew.minVersion ≤ x.version) ∧
  (∀ s : State, exec .stewardWatchdog s =
    if s.reftime < s.stew.acked + 2 ^ 30 then .next s else exec (.packageReset none s.stew.chain s.stew.images) s) ∧
  (∀ (s : State) (r : LoadRequest) (a : Nat) (bytes : List Byte), s.stew.minVersion = 0 → s.stew.armed = false → r.part = 0 →
    r.bytes = [(a, bytes)] → r.die = 0 → r.cls < 4 → 1 ≤ r.cores → r.cores ≤ 12 → 1 ≤ r.nv → r.nv ≤ 4 → r.np + r.nh ≤ 4 →
    plainRange s a bytes.length → (∀ c, (s.coreAt c).lanesFailed = 0) →
    ∃ t, exec (.packageReset none {} [r]) s = .next t ∧ t.stew.booted = true ∧
      t.stew.measured = [(0, []), (1, []), (2, []), (3, r.check.digest)] ∧
      t.stew.reports = ((stageFault r.check 0).map fun f => (3, f)).toList ∧
      if (∃ x, x ∈ r.patts ∧ 16 ≤ x) ∨ stageFault r.check 0 ≠ none then t.tasks = [] ∧ t.harts = [] ∧ t.mem.dev = s.mem.dev else
      (∀ i, i < bytes.length → byteAt t (.dev (a + i)) = bytes.getD i 0) ∧
      (t.partAt 0).root2 = r.root2 ∧ let h := t.hartAt 0
      h.slot = .running ∧ h.kind = .vector ∧ h.priv = .supervisor ∧ h.pc = r.entry ∧ h.reg 10 = r.arg ∧ h.reg 11 = 0 ∧
      h.ptbase = r.ptbase ∧ h.sbank.tvec = r.tvec)
end

