-- ==== Sys2Proof/Laws/Memory.lean ====
section
/-! SUPPORT. Laws of the sparse memories and of the tables: a read after a write, the canonical form
kept by every memory operation, equal readings are equal lists, and the reading of a table after one
of its structures is replaced or removed. -/

namespace Sys2Proof.Machine

namespace Memory

@[simp] theorem read1_nil (a : Nat) : read1 [] a = blank := rfl

theorem wfFrom_mono {m : Memory} {lo lo' : Nat} (hle : lo' ≤ lo) (h : wfFrom lo m = true) :
    wfFrom lo' m = true := by
  cases m with
  | nil => rfl
  | cons c rest =>
    simp only [wfFrom, Bool.and_eq_true, decide_eq_true_eq] at h ⊢
    exact ⟨⟨by omega, h.1.2⟩, h.2⟩

theorem read1_below {m : Memory} {lo a : Nat} (h : wfFrom lo m = true) (ha : a < lo) :
    read1 m a = blank := by
  induction m generalizing lo with
  | nil => rfl
  | cons c rest ih =>
    simp only [wfFrom, Bool.and_eq_true, decide_eq_true_eq] at h
    simp only [read1]
    rw [if_neg (by omega)]
    exact ih h.2 (by omega)

theorem read1_enter (m : Memory) (a x : Nat) (b : Byte) :
    read1 (enter m a b) x = if x = a then b else read1 m x := by
  induction m with
  | nil => simp [enter, read1, eq_comm (a := x)]
  | cons c rest ih =>
    simp only [enter]
    by_cases h1 : a < c.1
    · simp [if_pos h1, read1, eq_comm (a := x)]
    · rw [if_neg h1]
      by_cases h2 : a = c.1
      · by_cases hx : x = a
        · simp [h2, read1, hx]
        · simp [← h2, read1, hx, Ne.symm hx]
      · rw [if_neg h2]
        by_cases hx : x = a
        · subst hx; simp [read1, ih, Ne.symm h2]
        · simp [read1, ih, hx]

theorem read1_filter_ne (m : Memory) (a x : Nat) :
    read1 (m.filter (·.1 != a)) x = if x = a then blank else read1 m x := by
  induction m with
  | nil => simp
  | cons c rest ih =>
    by_cases hc : c.1 = a
    · rw [List.filter_cons_of_neg (by simp [hc]), ih]
      by_cases hx : x = a
      · simp [hx]
      · simp [read1, hx, hc, Ne.symm hx]
    · rw [List.filter_cons_of_pos (by simp [hc])]
      by_cases hx : c.1 = x
      · subst hx; simp [read1, hc]
      · simp [read1, hx, ih]

/-- A byte reads back from every list, canonical or not, and every other byte reads as before. -/
theorem read1_write1 (m : Memory) (a x : Nat) (b : Byte) :
    read1 (write1 m a b) x = if x = a then b else read1 m x := by
  unfold write1
  split_ifs with h h2 h2
  · rw [read1_filter_ne, if_pos h2, h]
  · rw [read1_filter_ne, if_neg h2]
  · rw [read1_enter, if_pos h2]
  · rw [read1_enter, if_neg h2]

theorem read1_write1_of_ne (m : Memory) (a x : Nat) (b : Byte) (hx : x ≠ a) :
    read1 (write1 m a b) x = read1 m x := by rw [read1_write1, if_neg hx]

theorem read1_write1_self (m : Memory) (a : Nat) (b : Byte) : read1 (write1 m a b) a = b := by
  rw [read1_write1, if_pos rfl]

theorem wfFrom_enter {m : Memory} {lo : Nat} (h : wfFrom lo m = true) (a : Nat) (b : Byte) (hb : b ≠ blank)
    (ha : lo ≤ a) : wfFrom lo (enter m a b) = true := by
  induction m generalizing lo with
  | nil => simp [enter, wfFrom, hb, ha]
  | cons c rest ih =>
    simp only [wfFrom, Bool.and_eq_true, decide_eq_true_eq] at h
    simp only [enter]
    split_ifs with h1 h2
    · simp only [wfFrom, Bool.and_eq_true, decide_eq_true_eq]
      exact ⟨⟨ha, by simp [hb]⟩, ⟨by omega, h.1.2⟩, h.2⟩
    · simp only [wfFrom, Bool.and_eq_true, decide_eq_true_eq]
      exact ⟨⟨ha, by simp [hb]⟩, by rw [h2]; exact h.2⟩
    · simp only [wfFrom, Bool.and_eq_true, decide_eq_true_eq]
      exact ⟨h.1, ih h.2 (by omega)⟩

theorem wfFrom_filter {m : Memory} {lo : Nat} (p : Host.Cell → Bool) (h : wfFrom lo m = true) :
    wfFrom lo (m.filter p) = true := by
  induction m generalizing lo with
  | nil => rfl
  | cons c rest ih =>
    simp only [wfFrom, Bool.and_eq_true, decide_eq_true_eq] at h
    by_cases hp : p c = true
    · simp only [List.filter_cons_of_pos hp, wfFrom, Bool.and_eq_true, decide_eq_true_eq]
      exact ⟨h.1, ih h.2⟩
    · simp only [List.filter_cons_of_neg hp]
      exact wfFrom_mono (by omega) (ih h.2)

theorem wfFrom_write1 {m : Memory} {lo : Nat} (h : wfFrom lo m = true) (a : Nat) (b : Byte)
    (ha : lo ≤ a) : wfFrom lo (write1 m a b) = true := by
  unfold write1
  split_ifs with hb
  · exact wfFrom_filter _ h
  · exact wfFrom_enter h a b hb ha

theorem wf_write1 {m : Memory} (h : wf m = true) (a : Nat) (b : Byte) : wf (write1 m a b) = true :=
  wfFrom_write1 h a b (Nat.zero_le _)

theorem wf_writeBytes {m : Memory} (h : wf m = true) (a : Nat) (bs : List Byte) :
    wf (writeBytes m a bs) = true := by
  induction bs generalizing m a with
  | nil => exact h
  | cons b bs ih => exact ih (wf_write1 h a b) (a + 1)

theorem wf_writeNat {m : Memory} (h : wf m = true) (a n v : Nat) : wf (writeNat m a n v) = true :=
  wf_writeBytes h a _

theorem wf_clear {m : Memory} (h : wf m = true) (lo hi : Nat) : wf (clear m lo hi) = true :=
  wfFrom_filter _ h

theorem read1_clear (m : Memory) (lo hi a : Nat) :
    read1 (clear m lo hi) a = if lo ≤ a ∧ a < hi then blank else read1 m a := by
  induction m with
  | nil => simp [clear]
  | cons c rest ih =>
    have hstep : clear (c :: rest) lo hi
        = if c.1 < lo ∨ hi ≤ c.1 then c :: clear rest lo hi else clear rest lo hi := by
      simp [clear, List.filter_cons]
    rw [hstep]
    by_cases hk : c.1 < lo ∨ hi ≤ c.1
    · rw [if_pos hk]
      simp only [read1, ih]
      by_cases hc : c.1 = a
      · subst hc; rw [if_pos rfl, if_pos rfl, if_neg (by omega)]
      · rw [if_neg hc, if_neg hc]
    · rw [if_neg hk, ih]
      by_cases hc : c.1 = a
      · subst hc; rw [if_pos (by omega), if_pos (by omega)]
      · simp only [read1]; rw [if_neg hc]

theorem read1_writeBytes_before (m : Memory) (a x : Nat) (bs : List Byte) (hx : x < a) :
    read1 (writeBytes m a bs) x = read1 m x := by
  induction bs generalizing m a with
  | nil => rfl
  | cons b bs ih =>
    simp only [writeBytes]
    rw [ih _ _ (by omega), read1_write1_of_ne _ _ _ _ (by omega)]

theorem read1_writeBytes_outside (m : Memory) (a x : Nat) (bs : List Byte)
    (hx : x < a ∨ a + bs.length ≤ x) : read1 (writeBytes m a bs) x = read1 m x := by
  induction bs generalizing m a with
  | nil => rfl
  | cons b bs ih =>
    simp only [List.length_cons] at hx
    simp only [writeBytes]
    rw [ih _ _ (by omega), read1_write1_of_ne _ _ _ _ (by omega)]

theorem readBytes_congr {m m' : Memory} {a n : Nat}
    (h : ∀ x, a ≤ x → x < a + n → read1 m x = read1 m' x) : readBytes m a n = readBytes m' a n := by
  induction n generalizing a with
  | zero => rfl
  | succ n ih =>
    simp only [readBytes]
    rw [h a (by omega) (by omega), ih fun x h1 h2 => h x (by omega) (by omega)]

theorem readBytes_writeBytes (m : Memory) (a : Nat) (bs : List Byte) :
    readBytes (writeBytes m a bs) a bs.length = bs := by
  induction bs generalizing m a with
  | nil => rfl
  | cons b bs ih =>
    simp only [List.length_cons, readBytes, writeBytes]
    rw [read1_writeBytes_before _ _ _ _ (by omega), read1_write1_self, ih]

theorem read1_writeBytes_at (m : Memory) (a i : Nat) (bs : List Byte) (hi : i < bs.length) :
    read1 (writeBytes m a bs) (a + i) = bs.getD i 0 := by
  induction bs generalizing m a i with
  | nil => simp at hi
  | cons b bs ih =>
    simp only [writeBytes]
    cases i with
    | zero =>
      rw [read1_writeBytes_before _ _ _ _ (by omega)]
      exact read1_write1_self _ _ _
    | succ i =>
      have := ih (write1 m a b) (a + 1) i (by simpa using hi)
      rw [show a + (i + 1) = a + 1 + i by omega, this]
      simp

theorem readBytes_writeBytes_apart (m : Memory) (a x n : Nat) (bs : List Byte)
    (hx : x + n ≤ a ∨ a + bs.length ≤ x) :
    readBytes (writeBytes m a bs) x n = readBytes m x n :=
  readBytes_congr fun y h1 h2 => read1_writeBytes_outside _ _ _ _ (by omega)

@[simp] theorem length_readBytes (m : Memory) (a n : Nat) : (readBytes m a n).length = n := by
  induction n generalizing a with
  | zero => rfl
  | succ n ih => simp [readBytes, ih]

/-- Memories in the canonical form that read alike are the same list. -/
theorem eq_of_reads {m m' : Memory} {lo : Nat} (h : wfFrom lo m = true) (h' : wfFrom lo m' = true)
    (hr : ∀ a, read1 m a = read1 m' a) : m = m' := by
  induction m generalizing m' lo with
  | nil =>
    cases m' with
    | nil => rfl
    | cons c rest =>
      simp only [wfFrom, Bool.and_eq_true, decide_eq_true_eq, bne_iff_ne] at h'
      have := hr c.1
      simp only [read1, if_true] at this
      exact absurd this.symm h'.1.2
  | cons c rest ih =>
    simp only [wfFrom, Bool.and_eq_true, decide_eq_true_eq, bne_iff_ne] at h
    cases m' with
    | nil =>
      have := hr c.1
      simp only [read1, if_true] at this
      exact absurd this h.1.2
    | cons c' rest' =>
      simp only [wfFrom, Bool.and_eq_true, decide_eq_true_eq, bne_iff_ne] at h'
      have key : c.1 = c'.1 := by
        rcases Nat.lt_trichotomy c.1 c'.1 with hlt | he | hgt
        · have := hr c.1
          simp only [read1, if_true] at this
          rw [if_neg (by omega), read1_below h'.2 (by omega)] at this
          exact absurd this h.1.2
        · exact he
        · have := hr c'.1
          simp only [read1, if_true] at this
          rw [if_neg (by omega), read1_below h.2 (by omega)] at this
          exact absurd this.symm h'.1.2
      have hb : c.2 = c'.2 := by
        have := hr c.1
        simpa [read1, key] using this
      have hrest : rest = rest' := by
        refine ih (lo := c.1 + 1) h.2 (by rw [key]; exact h'.2) fun a => ?_
        by_cases ha : c.1 = a
        · subst ha
          rw [read1_below h.2 (by omega), read1_below h'.2 (by omega)]
        · have := hr a
          simpa [read1, ha, ← key] using this
      rw [hrest, Prod.ext key hb]

end Memory

namespace Table

variable {α : Type}

@[simp] theorem get_nil (d : α) (i : Nat) : get d [] i = d := rfl
@[simp] theorem find?_nil (i : Nat) : find? ([] : Table α) i = none := rfl

@[simp] theorem get_set_self (d : α) (m : Table α) (i : Nat) (v : α) : get d (set m i v) i = v := by
  induction m with
  | nil => simp [set, get]
  | cons c rest ih =>
    simp only [set]
    split_ifs with h1 h2
    · simp [get]
    · simp [get]
    · simp [get, Ne.symm h2, ih]

theorem get_set_of_ne (d : α) (m : Table α) {i j : Nat} (v : α) (h : j ≠ i) :
    get d (set m i v) j = get d m j := by
  induction m with
  | nil => simp [set, get, Ne.symm h]
  | cons c rest ih =>
    simp only [set]
    split_ifs with h1 h2
    · simp [get, Ne.symm h]
    · subst h2; simp [get, Ne.symm h]
    · simp [get, ih]

@[simp] theorem find?_set_self (m : Table α) (i : Nat) (v : α) : find? (set m i v) i = some v := by
  induction m with
  | nil => simp [set, find?]
  | cons c rest ih =>
    simp only [set]
    split_ifs with h1 h2
    · simp [find?]
    · simp [find?]
    · simp [find?, Ne.symm h2, ih]

theorem find?_set_of_ne (m : Table α) {i j : Nat} (v : α) (h : j ≠ i) :
    find? (set m i v) j = find? m j := by
  induction m with
  | nil => simp [set, find?, Ne.symm h]
  | cons c rest ih =>
    simp only [set]
    split_ifs with h1 h2
    · simp [find?, Ne.symm h]
    · subst h2; simp [find?, Ne.symm h]
    · simp [find?, ih]

theorem find?_erase (m : Table α) (i j : Nat) :
    find? (erase m i) j = if j = i then none else find? m j := by
  induction m with
  | nil => simp [erase]
  | cons c rest ih =>
    have hstep : erase (c :: rest) i = if c.1 = i then erase rest i else c :: erase rest i := by
      simp [erase, List.filter_cons]
    rw [hstep]
    by_cases hc : c.1 = i
    · rw [if_pos hc, ih]
      by_cases hj : j = i
      · simp [hj]
      · simp [hj, find?, show ¬ c.1 = j by omega]
    · rw [if_neg hc]
      by_cases hj : j = i
      · subst hj; simp [find?, hc, ih]
      · simp [find?, ih, hj]

theorem mem_set {m : Table α} {i : Nat} {v : α} {x : Nat × α} (h : x ∈ set m i v) : x = (i, v) ∨ x ∈ m := by
  induction m with
  | nil => simpa [set] using h
  | cons c rest ih =>
    simp only [set] at h
    split_ifs at h with h1 h2
    · simpa using h
    · rcases List.mem_cons.1 h with h | h
      · exact .inl h
      · exact .inr (List.mem_cons_of_mem _ h)
    · rcases List.mem_cons.1 h with h | h
      · exact .inr (h ▸ List.mem_cons_self)
      · exact (ih h).imp id (List.mem_cons_of_mem _)

theorem get_mem (d : α) (m : Table α) (i : Nat) : get d m i = d ∨ (i, get d m i) ∈ m := by
  induction m with
  | nil => exact .inl rfl
  | cons c rest ih =>
    simp only [get]
    split
    · rename_i h; subst h; exact .inr List.mem_cons_self
    · exact ih.imp id (List.mem_cons_of_mem _)

end Table

end Sys2Proof.Machine
end

