-- ==== Sys2Proof/Laws/State.lean ====
section
/-! SUPPORT. Laws of the accessors of the state: what each named update of the state and of a hart leaves of
every other field, and what the accessors read after it. -/

namespace Sys2Proof.Machine

/-! ### State.setHartAt -/

@[simp] theorem State.setHartAt_now (s : State) (k : Nat) (x : Hart) : (s.setHartAt k x).now = s.now := rfl
@[simp] theorem State.setHartAt_pace (s : State) (k : Nat) (x : Hart) : (s.setHartAt k x).pace = s.pace := rfl
@[simp] theorem State.setHartAt_turn (s : State) (k : Nat) (x : Hart) : (s.setHartAt k x).turn = s.turn := rfl
@[simp] theorem State.setHartAt_free (s : State) (k : Nat) (x : Hart) : (s.setHartAt k x).free = s.free := rfl
@[simp] theorem State.setHartAt_inbox (s : State) (k : Nat) (x : Hart) : (s.setHartAt k x).inbox = s.inbox := rfl
@[simp] theorem State.setHartAt_noted (s : State) (k : Nat) (x : Hart) : (s.setHartAt k x).noted = s.noted := rfl
@[simp] theorem State.setHartAt_powered (s : State) (k : Nat) (x : Hart) : (s.setHartAt k x).powered = s.powered := rfl
@[simp] theorem State.setHartAt_mem (s : State) (k : Nat) (x : Hart) : (s.setHartAt k x).mem = s.mem := rfl
@[simp] theorem State.setHartAt_cores (s : State) (k : Nat) (x : Hart) : (s.setHartAt k x).cores = s.cores := rfl
@[simp] theorem State.setHartAt_dies (s : State) (k : Nat) (x : Hart) : (s.setHartAt k x).dies = s.dies := rfl
@[simp] theorem State.setHartAt_clusters (s : State) (k : Nat) (x : Hart) : (s.setHartAt k x).clusters = s.clusters := rfl
@[simp] theorem State.setHartAt_parts (s : State) (k : Nat) (x : Hart) : (s.setHartAt k x).parts = s.parts := rfl
@[simp] theorem State.setHartAt_tasks (s : State) (k : Nat) (x : Hart) : (s.setHartAt k x).tasks = s.tasks := rfl
@[simp] theorem State.setHartAt_gangs (s : State) (k : Nat) (x : Hart) : (s.setHartAt k x).gangs = s.gangs := rfl
@[simp] theorem State.setHartAt_placements (s : State) (k : Nat) (x : Hart) : (s.setHartAt k x).placements = s.placements := rfl
@[simp] theorem State.setHartAt_stew (s : State) (k : Nat) (x : Hart) : (s.setHartAt k x).stew = s.stew := rfl
@[simp] theorem State.setHartAt_archive (s : State) (k : Nat) (x : Hart) : (s.setHartAt k x).archive = s.archive := rfl

/-! ### State.setHart -/

@[simp] theorem State.setHart_now (s : State) (x : Hart) : (s.setHart x).now = s.now := rfl
@[simp] theorem State.setHart_pace (s : State) (x : Hart) : (s.setHart x).pace = s.pace := rfl
@[simp] theorem State.setHart_turn (s : State) (x : Hart) : (s.setHart x).turn = s.turn := rfl
@[simp] theorem State.setHart_free (s : State) (x : Hart) : (s.setHart x).free = s.free := rfl
@[simp] theorem State.setHart_inbox (s : State) (x : Hart) : (s.setHart x).inbox = s.inbox := rfl
@[simp] theorem State.setHart_noted (s : State) (x : Hart) : (s.setHart x).noted = s.noted := rfl
@[simp] theorem State.setHart_powered (s : State) (x : Hart) : (s.setHart x).powered = s.powered := rfl
@[simp] theorem State.setHart_mem (s : State) (x : Hart) : (s.setHart x).mem = s.mem := rfl
@[simp] theorem State.setHart_cores (s : State) (x : Hart) : (s.setHart x).cores = s.cores := rfl
@[simp] theorem State.setHart_dies (s : State) (x : Hart) : (s.setHart x).dies = s.dies := rfl
@[simp] theorem State.setHart_clusters (s : State) (x : Hart) : (s.setHart x).clusters = s.clusters := rfl
@[simp] theorem State.setHart_parts (s : State) (x : Hart) : (s.setHart x).parts = s.parts := rfl
@[simp] theorem State.setHart_tasks (s : State) (x : Hart) : (s.setHart x).tasks = s.tasks := rfl
@[simp] theorem State.setHart_gangs (s : State) (x : Hart) : (s.setHart x).gangs = s.gangs := rfl
@[simp] theorem State.setHart_placements (s : State) (x : Hart) : (s.setHart x).placements = s.placements := rfl
@[simp] theorem State.setHart_stew (s : State) (x : Hart) : (s.setHart x).stew = s.stew := rfl
@[simp] theorem State.setHart_archive (s : State) (x : Hart) : (s.setHart x).archive = s.archive := rfl

/-! ### State.setCoreAt -/

@[simp] theorem State.setCoreAt_now (s : State) (c : Nat) (x : Core) : (s.setCoreAt c x).now = s.now := rfl
@[simp] theorem State.setCoreAt_pace (s : State) (c : Nat) (x : Core) : (s.setCoreAt c x).pace = s.pace := rfl
@[simp] theorem State.setCoreAt_turn (s : State) (c : Nat) (x : Core) : (s.setCoreAt c x).turn = s.turn := rfl
@[simp] theorem State.setCoreAt_free (s : State) (c : Nat) (x : Core) : (s.setCoreAt c x).free = s.free := rfl
@[simp] theorem State.setCoreAt_inbox (s : State) (c : Nat) (x : Core) : (s.setCoreAt c x).inbox = s.inbox := rfl
@[simp] theorem State.setCoreAt_noted (s : State) (c : Nat) (x : Core) : (s.setCoreAt c x).noted = s.noted := rfl
@[simp] theorem State.setCoreAt_powered (s : State) (c : Nat) (x : Core) : (s.setCoreAt c x).powered = s.powered := rfl
@[simp] theorem State.setCoreAt_mem (s : State) (c : Nat) (x : Core) : (s.setCoreAt c x).mem = s.mem := rfl
@[simp] theorem State.setCoreAt_harts (s : State) (c : Nat) (x : Core) : (s.setCoreAt c x).harts = s.harts := rfl
@[simp] theorem State.setCoreAt_dies (s : State) (c : Nat) (x : Core) : (s.setCoreAt c x).dies = s.dies := rfl
@[simp] theorem State.setCoreAt_clusters (s : State) (c : Nat) (x : Core) : (s.setCoreAt c x).clusters = s.clusters := rfl
@[simp] theorem State.setCoreAt_parts (s : State) (c : Nat) (x : Core) : (s.setCoreAt c x).parts = s.parts := rfl
@[simp] theorem State.setCoreAt_tasks (s : State) (c : Nat) (x : Core) : (s.setCoreAt c x).tasks = s.tasks := rfl
@[simp] theorem State.setCoreAt_gangs (s : State) (c : Nat) (x : Core) : (s.setCoreAt c x).gangs = s.gangs := rfl
@[simp] theorem State.setCoreAt_placements (s : State) (c : Nat) (x : Core) : (s.setCoreAt c x).placements = s.placements := rfl
@[simp] theorem State.setCoreAt_stew (s : State) (c : Nat) (x : Core) : (s.setCoreAt c x).stew = s.stew := rfl
@[simp] theorem State.setCoreAt_archive (s : State) (c : Nat) (x : Core) : (s.setCoreAt c x).archive = s.archive := rfl

/-! ### State.setCore -/

@[simp] theorem State.setCore_now (s : State) (x : Core) : (s.setCore x).now = s.now := rfl
@[simp] theorem State.setCore_pace (s : State) (x : Core) : (s.setCore x).pace = s.pace := rfl
@[simp] theorem State.setCore_turn (s : State) (x : Core) : (s.setCore x).turn = s.turn := rfl
@[simp] theorem State.setCore_free (s : State) (x : Core) : (s.setCore x).free = s.free := rfl
@[simp] theorem State.setCore_inbox (s : State) (x : Core) : (s.setCore x).inbox = s.inbox := rfl
@[simp] theorem State.setCore_noted (s : State) (x : Core) : (s.setCore x).noted = s.noted := rfl
@[simp] theorem State.setCore_powered (s : State) (x : Core) : (s.setCore x).powered = s.powered := rfl
@[simp] theorem State.setCore_mem (s : State) (x : Core) : (s.setCore x).mem = s.mem := rfl
@[simp] theorem State.setCore_harts (s : State) (x : Core) : (s.setCore x).harts = s.harts := rfl
@[simp] theorem State.setCore_dies (s : State) (x : Core) : (s.setCore x).dies = s.dies := rfl
@[simp] theorem State.setCore_clusters (s : State) (x : Core) : (s.setCore x).clusters = s.clusters := rfl
@[simp] theorem State.setCore_parts (s : State) (x : Core) : (s.setCore x).parts = s.parts := rfl
@[simp] theorem State.setCore_tasks (s : State) (x : Core) : (s.setCore x).tasks = s.tasks := rfl
@[simp] theorem State.setCore_gangs (s : State) (x : Core) : (s.setCore x).gangs = s.gangs := rfl
@[simp] theorem State.setCore_placements (s : State) (x : Core) : (s.setCore x).placements = s.placements := rfl
@[simp] theorem State.setCore_stew (s : State) (x : Core) : (s.setCore x).stew = s.stew := rfl
@[simp] theorem State.setCore_archive (s : State) (x : Core) : (s.setCore x).archive = s.archive := rfl

/-! ### State.setDieAt -/

@[simp] theorem State.setDieAt_now (s : State) (d : Nat) (x : Die) : (s.setDieAt d x).now = s.now := rfl
@[simp] theorem State.setDieAt_pace (s : State) (d : Nat) (x : Die) : (s.setDieAt d x).pace = s.pace := rfl
@[simp] theorem State.setDieAt_turn (s : State) (d : Nat) (x : Die) : (s.setDieAt d x).turn = s.turn := rfl
@[simp] theorem State.setDieAt_free (s : State) (d : Nat) (x : Die) : (s.setDieAt d x).free = s.free := rfl
@[simp] theorem State.setDieAt_inbox (s : State) (d : Nat) (x : Die) : (s.setDieAt d x).inbox = s.inbox := rfl
@[simp] theorem State.setDieAt_noted (s : State) (d : Nat) (x : Die) : (s.setDieAt d x).noted = s.noted := rfl
@[simp] theorem State.setDieAt_powered (s : State) (d : Nat) (x : Die) : (s.setDieAt d x).powered = s.powered := rfl
@[simp] theorem State.setDieAt_mem (s : State) (d : Nat) (x : Die) : (s.setDieAt d x).mem = s.mem := rfl
@[simp] theorem State.setDieAt_harts (s : State) (d : Nat) (x : Die) : (s.setDieAt d x).harts = s.harts := rfl
@[simp] theorem State.setDieAt_cores (s : State) (d : Nat) (x : Die) : (s.setDieAt d x).cores = s.cores := rfl
@[simp] theorem State.setDieAt_clusters (s : State) (d : Nat) (x : Die) : (s.setDieAt d x).clusters = s.clusters := rfl
@[simp] theorem State.setDieAt_parts (s : State) (d : Nat) (x : Die) : (s.setDieAt d x).parts = s.parts := rfl
@[simp] theorem State.setDieAt_tasks (s : State) (d : Nat) (x : Die) : (s.setDieAt d x).tasks = s.tasks := rfl
@[simp] theorem State.setDieAt_gangs (s : State) (d : Nat) (x : Die) : (s.setDieAt d x).gangs = s.gangs := rfl
@[simp] theorem State.setDieAt_placements (s : State) (d : Nat) (x : Die) : (s.setDieAt d x).placements = s.placements := rfl
@[simp] theorem State.setDieAt_stew (s : State) (d : Nat) (x : Die) : (s.setDieAt d x).stew = s.stew := rfl
@[simp] theorem State.setDieAt_archive (s : State) (d : Nat) (x : Die) : (s.setDieAt d x).archive = s.archive := rfl

/-! ### State.setClusterAt -/

@[simp] theorem State.setClusterAt_now (s : State) (c : Nat) (x : Cluster) : (s.setClusterAt c x).now = s.now := rfl
@[simp] theorem State.setClusterAt_pace (s : State) (c : Nat) (x : Cluster) : (s.setClusterAt c x).pace = s.pace := rfl
@[simp] theorem State.setClusterAt_turn (s : State) (c : Nat) (x : Cluster) : (s.setClusterAt c x).turn = s.turn := rfl
@[simp] theorem State.setClusterAt_free (s : State) (c : Nat) (x : Cluster) : (s.setClusterAt c x).free = s.free := rfl
@[simp] theorem State.setClusterAt_inbox (s : State) (c : Nat) (x : Cluster) : (s.setClusterAt c x).inbox = s.inbox := rfl
@[simp] theorem State.setClusterAt_noted (s : State) (c : Nat) (x : Cluster) : (s.setClusterAt c x).noted = s.noted := rfl
@[simp] theorem State.setClusterAt_powered (s : State) (c : Nat) (x : Cluster) : (s.setClusterAt c x).powered = s.powered := rfl
@[simp] theorem State.setClusterAt_mem (s : State) (c : Nat) (x : Cluster) : (s.setClusterAt c x).mem = s.mem := rfl
@[simp] theorem State.setClusterAt_harts (s : State) (c : Nat) (x : Cluster) : (s.setClusterAt c x).harts = s.harts := rfl
@[simp] theorem State.setClusterAt_cores (s : State) (c : Nat) (x : Cluster) : (s.setClusterAt c x).cores = s.cores := rfl
@[simp] theorem State.setClusterAt_dies (s : State) (c : Nat) (x : Cluster) : (s.setClusterAt c x).dies = s.dies := rfl
@[simp] theorem State.setClusterAt_parts (s : State) (c : Nat) (x : Cluster) : (s.setClusterAt c x).parts = s.parts := rfl
@[simp] theorem State.setClusterAt_tasks (s : State) (c : Nat) (x : Cluster) : (s.setClusterAt c x).tasks = s.tasks := rfl
@[simp] theorem State.setClusterAt_gangs (s : State) (c : Nat) (x : Cluster) : (s.setClusterAt c x).gangs = s.gangs := rfl
@[simp] theorem State.setClusterAt_placements (s : State) (c : Nat) (x : Cluster) : (s.setClusterAt c x).placements = s.placements := rfl
@[simp] theorem State.setClusterAt_stew (s : State) (c : Nat) (x : Cluster) : (s.setClusterAt c x).stew = s.stew := rfl
@[simp] theorem State.setClusterAt_archive (s : State) (c : Nat) (x : Cluster) : (s.setClusterAt c x).archive = s.archive := rfl

/-! ### State.setPartAt -/

@[simp] theorem State.setPartAt_now (s : State) (p : Nat) (x : Partition) : (s.setPartAt p x).now = s.now := rfl
@[simp] theorem State.setPartAt_pace (s : State) (p : Nat) (x : Partition) : (s.setPartAt p x).pace = s.pace := rfl
@[simp] theorem State.setPartAt_turn (s : State) (p : Nat) (x : Partition) : (s.setPartAt p x).turn = s.turn := rfl
@[simp] theorem State.setPartAt_free (s : State) (p : Nat) (x : Partition) : (s.setPartAt p x).free = s.free := rfl
@[simp] theorem State.setPartAt_inbox (s : State) (p : Nat) (x : Partition) : (s.setPartAt p x).inbox = s.inbox := rfl
@[simp] theorem State.setPartAt_noted (s : State) (p : Nat) (x : Partition) : (s.setPartAt p x).noted = s.noted := rfl
@[simp] theorem State.setPartAt_powered (s : State) (p : Nat) (x : Partition) : (s.setPartAt p x).powered = s.powered := rfl
@[simp] theorem State.setPartAt_mem (s : State) (p : Nat) (x : Partition) : (s.setPartAt p x).mem = s.mem := rfl
@[simp] theorem State.setPartAt_harts (s : State) (p : Nat) (x : Partition) : (s.setPartAt p x).harts = s.harts := rfl
@[simp] theorem State.setPartAt_cores (s : State) (p : Nat) (x : Partition) : (s.setPartAt p x).cores = s.cores := rfl
@[simp] theorem State.setPartAt_dies (s : State) (p : Nat) (x : Partition) : (s.setPartAt p x).dies = s.dies := rfl
@[simp] theorem State.setPartAt_clusters (s : State) (p : Nat) (x : Partition) : (s.setPartAt p x).clusters = s.clusters := rfl
@[simp] theorem State.setPartAt_tasks (s : State) (p : Nat) (x : Partition) : (s.setPartAt p x).tasks = s.tasks := rfl
@[simp] theorem State.setPartAt_gangs (s : State) (p : Nat) (x : Partition) : (s.setPartAt p x).gangs = s.gangs := rfl
@[simp] theorem State.setPartAt_placements (s : State) (p : Nat) (x : Partition) : (s.setPartAt p x).placements = s.placements := rfl
@[simp] theorem State.setPartAt_stew (s : State) (p : Nat) (x : Partition) : (s.setPartAt p x).stew = s.stew := rfl
@[simp] theorem State.setPartAt_archive (s : State) (p : Nat) (x : Partition) : (s.setPartAt p x).archive = s.archive := rfl

/-! ### State.setPortAt -/

@[simp] theorem State.setPortAt_now (s : State) (p : Nat) (x : Port) : (s.setPortAt p x).now = s.now := rfl
@[simp] theorem State.setPortAt_pace (s : State) (p : Nat) (x : Port) : (s.setPortAt p x).pace = s.pace := rfl
@[simp] theorem State.setPortAt_turn (s : State) (p : Nat) (x : Port) : (s.setPortAt p x).turn = s.turn := rfl
@[simp] theorem State.setPortAt_free (s : State) (p : Nat) (x : Port) : (s.setPortAt p x).free = s.free := rfl
@[simp] theorem State.setPortAt_inbox (s : State) (p : Nat) (x : Port) : (s.setPortAt p x).inbox = s.inbox := rfl
@[simp] theorem State.setPortAt_noted (s : State) (p : Nat) (x : Port) : (s.setPortAt p x).noted = s.noted := rfl
@[simp] theorem State.setPortAt_powered (s : State) (p : Nat) (x : Port) : (s.setPortAt p x).powered = s.powered := rfl
@[simp] theorem State.setPortAt_harts (s : State) (p : Nat) (x : Port) : (s.setPortAt p x).harts = s.harts := rfl
@[simp] theorem State.setPortAt_cores (s : State) (p : Nat) (x : Port) : (s.setPortAt p x).cores = s.cores := rfl
@[simp] theorem State.setPortAt_dies (s : State) (p : Nat) (x : Port) : (s.setPortAt p x).dies = s.dies := rfl
@[simp] theorem State.setPortAt_clusters (s : State) (p : Nat) (x : Port) : (s.setPortAt p x).clusters = s.clusters := rfl
@[simp] theorem State.setPortAt_parts (s : State) (p : Nat) (x : Port) : (s.setPortAt p x).parts = s.parts := rfl
@[simp] theorem State.setPortAt_tasks (s : State) (p : Nat) (x : Port) : (s.setPortAt p x).tasks = s.tasks := rfl
@[simp] theorem State.setPortAt_gangs (s : State) (p : Nat) (x : Port) : (s.setPortAt p x).gangs = s.gangs := rfl
@[simp] theorem State.setPortAt_placements (s : State) (p : Nat) (x : Port) : (s.setPortAt p x).placements = s.placements := rfl
@[simp] theorem State.setPortAt_stew (s : State) (p : Nat) (x : Port) : (s.setPortAt p x).stew = s.stew := rfl
@[simp] theorem State.setPortAt_archive (s : State) (p : Nat) (x : Port) : (s.setPortAt p x).archive = s.archive := rfl

/-! ### State.setPattAt -/

@[simp] theorem State.setPattAt_now (s : State) (n : Nat) (x : Pattern) : (s.setPattAt n x).now = s.now := rfl
@[simp] theorem State.setPattAt_pace (s : State) (n : Nat) (x : Pattern) : (s.setPattAt n x).pace = s.pace := rfl
@[simp] theorem State.setPattAt_turn (s : State) (n : Nat) (x : Pattern) : (s.setPattAt n x).turn = s.turn := rfl
@[simp] theorem State.setPattAt_free (s : State) (n : Nat) (x : Pattern) : (s.setPattAt n x).free = s.free := rfl
@[simp] theorem State.setPattAt_inbox (s : State) (n : Nat) (x : Pattern) : (s.setPattAt n x).inbox = s.inbox := rfl
@[simp] theorem State.setPattAt_noted (s : State) (n : Nat) (x : Pattern) : (s.setPattAt n x).noted = s.noted := rfl
@[simp] theorem State.setPattAt_powered (s : State) (n : Nat) (x : Pattern) : (s.setPattAt n x).powered = s.powered := rfl
@[simp] theorem State.setPattAt_harts (s : State) (n : Nat) (x : Pattern) : (s.setPattAt n x).harts = s.harts := rfl
@[simp] theorem State.setPattAt_cores (s : State) (n : Nat) (x : Pattern) : (s.setPattAt n x).cores = s.cores := rfl
@[simp] theorem State.setPattAt_dies (s : State) (n : Nat) (x : Pattern) : (s.setPattAt n x).dies = s.dies := rfl
@[simp] theorem State.setPattAt_clusters (s : State) (n : Nat) (x : Pattern) : (s.setPattAt n x).clusters = s.clusters := rfl
@[simp] theorem State.setPattAt_parts (s : State) (n : Nat) (x : Pattern) : (s.setPattAt n x).parts = s.parts := rfl
@[simp] theorem State.setPattAt_tasks (s : State) (n : Nat) (x : Pattern) : (s.setPattAt n x).tasks = s.tasks := rfl
@[simp] theorem State.setPattAt_gangs (s : State) (n : Nat) (x : Pattern) : (s.setPattAt n x).gangs = s.gangs := rfl
@[simp] theorem State.setPattAt_placements (s : State) (n : Nat) (x : Pattern) : (s.setPattAt n x).placements = s.placements := rfl
@[simp] theorem State.setPattAt_stew (s : State) (n : Nat) (x : Pattern) : (s.setPattAt n x).stew = s.stew := rfl
@[simp] theorem State.setPattAt_archive (s : State) (n : Nat) (x : Pattern) : (s.setPattAt n x).archive = s.archive := rfl

/-! ### State.setTask -/

@[simp] theorem State.setTask_now (s : State) (n : Nat) (x : Task) : (s.setTask n x).now = s.now := rfl
@[simp] theorem State.setTask_pace (s : State) (n : Nat) (x : Task) : (s.setTask n x).pace = s.pace := rfl
@[simp] theorem State.setTask_turn (s : State) (n : Nat) (x : Task) : (s.setTask n x).turn = s.turn := rfl
@[simp] theorem State.setTask_free (s : State) (n : Nat) (x : Task) : (s.setTask n x).free = s.free := rfl
@[simp] theorem State.setTask_inbox (s : State) (n : Nat) (x : Task) : (s.setTask n x).inbox = s.inbox := rfl
@[simp] theorem State.setTask_noted (s : State) (n : Nat) (x : Task) : (s.setTask n x).noted = s.noted := rfl
@[simp] theorem State.setTask_powered (s : State) (n : Nat) (x : Task) : (s.setTask n x).powered = s.powered := rfl
@[simp] theorem State.setTask_mem (s : State) (n : Nat) (x : Task) : (s.setTask n x).mem = s.mem := rfl
@[simp] theorem State.setTask_harts (s : State) (n : Nat) (x : Task) : (s.setTask n x).harts = s.harts := rfl
@[simp] theorem State.setTask_cores (s : State) (n : Nat) (x : Task) : (s.setTask n x).cores = s.cores := rfl
@[simp] theorem State.setTask_dies (s : State) (n : Nat) (x : Task) : (s.setTask n x).dies = s.dies := rfl
@[simp] theorem State.setTask_clusters (s : State) (n : Nat) (x : Task) : (s.setTask n x).clusters = s.clusters := rfl
@[simp] theorem State.setTask_parts (s : State) (n : Nat) (x : Task) : (s.setTask n x).parts = s.parts := rfl
@[simp] theorem State.setTask_gangs (s : State) (n : Nat) (x : Task) : (s.setTask n x).gangs = s.gangs := rfl
@[simp] theorem State.setTask_placements (s : State) (n : Nat) (x : Task) : (s.setTask n x).placements = s.placements := rfl
@[simp] theorem State.setTask_stew (s : State) (n : Nat) (x : Task) : (s.setTask n x).stew = s.stew := rfl
@[simp] theorem State.setTask_archive (s : State) (n : Nat) (x : Task) : (s.setTask n x).archive = s.archive := rfl

/-! ### State.setGang -/

@[simp] theorem State.setGang_now (s : State) (n : Nat) (x : Gang) : (s.setGang n x).now = s.now := rfl
@[simp] theorem State.setGang_pace (s : State) (n : Nat) (x : Gang) : (s.setGang n x).pace = s.pace := rfl
@[simp] theorem State.setGang_turn (s : State) (n : Nat) (x : Gang) : (s.setGang n x).turn = s.turn := rfl
@[simp] theorem State.setGang_free (s : State) (n : Nat) (x : Gang) : (s.setGang n x).free = s.free := rfl
@[simp] theorem State.setGang_inbox (s : State) (n : Nat) (x : Gang) : (s.setGang n x).inbox = s.inbox := rfl
@[simp] theorem State.setGang_noted (s : State) (n : Nat) (x : Gang) : (s.setGang n x).noted = s.noted := rfl
@[simp] theorem State.setGang_powered (s : State) (n : Nat) (x : Gang) : (s.setGang n x).powered = s.powered := rfl
@[simp] theorem State.setGang_mem (s : State) (n : Nat) (x : Gang) : (s.setGang n x).mem = s.mem := rfl
@[simp] theorem State.setGang_harts (s : State) (n : Nat) (x : Gang) : (s.setGang n x).harts = s.harts := rfl
@[simp] theorem State.setGang_cores (s : State) (n : Nat) (x : Gang) : (s.setGang n x).cores = s.cores := rfl
@[simp] theorem State.setGang_dies (s : State) (n : Nat) (x : Gang) : (s.setGang n x).dies = s.dies := rfl
@[simp] theorem State.setGang_clusters (s : State) (n : Nat) (x : Gang) : (s.setGang n x).clusters = s.clusters := rfl
@[simp] theorem State.setGang_parts (s : State) (n : Nat) (x : Gang) : (s.setGang n x).parts = s.parts := rfl
@[simp] theorem State.setGang_tasks (s : State) (n : Nat) (x : Gang) : (s.setGang n x).tasks = s.tasks := rfl
@[simp] theorem State.setGang_placements (s : State) (n : Nat) (x : Gang) : (s.setGang n x).placements = s.placements := rfl
@[simp] theorem State.setGang_stew (s : State) (n : Nat) (x : Gang) : (s.setGang n x).stew = s.stew := rfl
@[simp] theorem State.setGang_archive (s : State) (n : Nat) (x : Gang) : (s.setGang n x).archive = s.archive := rfl

/-! ### State.draw -/

@[simp] theorem State.draw_now (s : State) : (s.draw).now = s.now := rfl
@[simp] theorem State.draw_pace (s : State) : (s.draw).pace = s.pace := rfl
@[simp] theorem State.draw_turn (s : State) : (s.draw).turn = s.turn := rfl
@[simp] theorem State.draw_inbox (s : State) : (s.draw).inbox = s.inbox := rfl
@[simp] theorem State.draw_noted (s : State) : (s.draw).noted = s.noted := rfl
@[simp] theorem State.draw_powered (s : State) : (s.draw).powered = s.powered := rfl
@[simp] theorem State.draw_mem (s : State) : (s.draw).mem = s.mem := rfl
@[simp] theorem State.draw_harts (s : State) : (s.draw).harts = s.harts := rfl
@[simp] theorem State.draw_cores (s : State) : (s.draw).cores = s.cores := rfl
@[simp] theorem State.draw_dies (s : State) : (s.draw).dies = s.dies := rfl
@[simp] theorem State.draw_clusters (s : State) : (s.draw).clusters = s.clusters := rfl
@[simp] theorem State.draw_parts (s : State) : (s.draw).parts = s.parts := rfl
@[simp] theorem State.draw_tasks (s : State) : (s.draw).tasks = s.tasks := rfl
@[simp] theorem State.draw_gangs (s : State) : (s.draw).gangs = s.gangs := rfl
@[simp] theorem State.draw_placements (s : State) : (s.draw).placements = s.placements := rfl
@[simp] theorem State.draw_stew (s : State) : (s.draw).stew = s.stew := rfl
@[simp] theorem State.draw_archive (s : State) : (s.draw).archive = s.archive := rfl

@[simp] theorem State.draw_free (s : State) : s.draw.free = s.free + 1 := rfl

/-! ### What is read back -/

@[simp] theorem State.hartAt_setHartAt_self (s : State) (k : Nat) (x : Hart) : (s.setHartAt k x).hartAt k = x := by
  simp [State.hartAt, State.setHartAt]
theorem State.hartAt_setHartAt_of_ne (s : State) {k j : Nat} (x : Hart) (h : j ≠ k) : (s.setHartAt k x).hartAt j = s.hartAt j := by
  simp [State.hartAt, State.setHartAt, Table.get_set_of_ne _ _ _ h]
@[simp] theorem State.coreAt_setCoreAt_self (s : State) (k : Nat) (x : Core) : (s.setCoreAt k x).coreAt k = x := by
  simp [State.coreAt, State.setCoreAt]
theorem State.coreAt_setCoreAt_of_ne (s : State) {k j : Nat} (x : Core) (h : j ≠ k) : (s.setCoreAt k x).coreAt j = s.coreAt j := by
  simp [State.coreAt, State.setCoreAt, Table.get_set_of_ne _ _ _ h]
@[simp] theorem State.dieAt_setDieAt_self (s : State) (k : Nat) (x : Die) : (s.setDieAt k x).dieAt k = x := by
  simp [State.dieAt, State.setDieAt]
theorem State.dieAt_setDieAt_of_ne (s : State) {k j : Nat} (x : Die) (h : j ≠ k) : (s.setDieAt k x).dieAt j = s.dieAt j := by
  simp [State.dieAt, State.setDieAt, Table.get_set_of_ne _ _ _ h]
@[simp] theorem State.clusterAt_setClusterAt_self (s : State) (k : Nat) (x : Cluster) : (s.setClusterAt k x).clusterAt k = x := by
  simp [State.clusterAt, State.setClusterAt]
theorem State.clusterAt_setClusterAt_of_ne (s : State) {k j : Nat} (x : Cluster) (h : j ≠ k) : (s.setClusterAt k x).clusterAt j = s.clusterAt j := by
  simp [State.clusterAt, State.setClusterAt, Table.get_set_of_ne _ _ _ h]
@[simp] theorem State.partAt_setPartAt_self (s : State) (k : Nat) (x : Partition) : (s.setPartAt k x).partAt k = x := by
  simp [State.partAt, State.setPartAt]
theorem State.partAt_setPartAt_of_ne (s : State) {k j : Nat} (x : Partition) (h : j ≠ k) : (s.setPartAt k x).partAt j = s.partAt j := by
  simp [State.partAt, State.setPartAt, Table.get_set_of_ne _ _ _ h]
@[simp] theorem State.portAt_setPortAt_self (s : State) (k : Nat) (x : Port) : (s.setPortAt k x).portAt k = x := by
  simp [State.portAt, State.setPortAt]
theorem State.portAt_setPortAt_of_ne (s : State) {k j : Nat} (x : Port) (h : j ≠ k) : (s.setPortAt k x).portAt j = s.portAt j := by
  simp [State.portAt, State.setPortAt, Table.get_set_of_ne _ _ _ h]
@[simp] theorem State.pattAt_setPattAt_self (s : State) (k : Nat) (x : Pattern) : (s.setPattAt k x).pattAt k = x := by
  simp [State.pattAt, State.setPattAt]
theorem State.pattAt_setPattAt_of_ne (s : State) {k j : Nat} (x : Pattern) (h : j ≠ k) : (s.setPattAt k x).pattAt j = s.pattAt j := by
  simp [State.pattAt, State.setPattAt, Table.get_set_of_ne _ _ _ h]
@[simp] theorem State.task?_setTask_self (s : State) (k : Nat) (x : Task) : (s.setTask k x).task? k = some x := by
  simp [State.task?, State.setTask]
theorem State.task?_setTask_of_ne (s : State) {k j : Nat} (x : Task) (h : j ≠ k) : (s.setTask k x).task? j = s.task? j := by
  simp [State.task?, State.setTask, Table.find?_set_of_ne _ _ h]
@[simp] theorem State.gang?_setGang_self (s : State) (k : Nat) (x : Gang) : (s.setGang k x).gang? k = some x := by
  simp [State.gang?, State.setGang]
theorem State.gang?_setGang_of_ne (s : State) {k j : Nat} (x : Gang) (h : j ≠ k) : (s.setGang k x).gang? j = s.gang? j := by
  simp [State.gang?, State.setGang, Table.find?_set_of_ne _ _ h]
@[simp] theorem State.hart_setHart (s : State) (h : Hart) : (s.setHart h).hart = h := by
  simp [State.hart, State.setHart]
@[simp] theorem State.core_setCore (s : State) (c : Core) : (s.setCore c).core = c := by
  simp [State.core, State.setCore]
@[simp] theorem State.hart_setCore (s : State) (c : Core) : (s.setCore c).hart = s.hart := rfl
@[simp] theorem State.core_setHart (s : State) (h : Hart) : (s.setHart h).core = s.core := rfl

@[simp] theorem State.coreAt_setHartAt (s : State) (k : Nat) (x : Hart) (j : Nat) : (s.setHartAt k x).coreAt j = s.coreAt j := rfl
@[simp] theorem State.dieAt_setHartAt (s : State) (k : Nat) (x : Hart) (j : Nat) : (s.setHartAt k x).dieAt j = s.dieAt j := rfl
@[simp] theorem State.clusterAt_setHartAt (s : State) (k : Nat) (x : Hart) (j : Nat) : (s.setHartAt k x).clusterAt j = s.clusterAt j := rfl
@[simp] theorem State.partAt_setHartAt (s : State) (k : Nat) (x : Hart) (j : Nat) : (s.setHartAt k x).partAt j = s.partAt j := rfl
@[simp] theorem State.portAt_setHartAt (s : State) (k : Nat) (x : Hart) (j : Nat) : (s.setHartAt k x).portAt j = s.portAt j := rfl
@[simp] theorem State.pattAt_setHartAt (s : State) (k : Nat) (x : Hart) (j : Nat) : (s.setHartAt k x).pattAt j = s.pattAt j := rfl
@[simp] theorem State.task?_setHartAt (s : State) (k : Nat) (x : Hart) (j : Nat) : (s.setHartAt k x).task? j = s.task? j := rfl
@[simp] theorem State.gang?_setHartAt (s : State) (k : Nat) (x : Hart) (j : Nat) : (s.setHartAt k x).gang? j = s.gang? j := rfl
@[simp] theorem State.coreAt_setHart (s : State) (x : Hart) (j : Nat) : (s.setHart x).coreAt j = s.coreAt j := rfl
@[simp] theorem State.dieAt_setHart (s : State) (x : Hart) (j : Nat) : (s.setHart x).dieAt j = s.dieAt j := rfl
@[simp] theorem State.clusterAt_setHart (s : State) (x : Hart) (j : Nat) : (s.setHart x).clusterAt j = s.clusterAt j := rfl
@[simp] theorem State.partAt_setHart (s : State) (x : Hart) (j : Nat) : (s.setHart x).partAt j = s.partAt j := rfl
@[simp] theorem State.portAt_setHart (s : State) (x : Hart) (j : Nat) : (s.setHart x).portAt j = s.portAt j := rfl
@[simp] theorem State.pattAt_setHart (s : State) (x : Hart) (j : Nat) : (s.setHart x).pattAt j = s.pattAt j := rfl
@[simp] theorem State.task?_setHart (s : State) (x : Hart) (j : Nat) : (s.setHart x).task? j = s.task? j := rfl
@[simp] theorem State.gang?_setHart (s : State) (x : Hart) (j : Nat) : (s.setHart x).gang? j = s.gang? j := rfl
@[simp] theorem State.hartAt_setCoreAt (s : State) (c : Nat) (x : Core) (j : Nat) : (s.setCoreAt c x).hartAt j = s.hartAt j := rfl
@[simp] theorem State.dieAt_setCoreAt (s : State) (c : Nat) (x : Core) (j : Nat) : (s.setCoreAt c x).dieAt j = s.dieAt j := rfl
@[simp] theorem State.clusterAt_setCoreAt (s : State) (c : Nat) (x : Core) (j : Nat) : (s.setCoreAt c x).clusterAt j = s.clusterAt j := rfl
@[simp] theorem State.partAt_setCoreAt (s : State) (c : Nat) (x : Core) (j : Nat) : (s.setCoreAt c x).partAt j = s.partAt j := rfl
@[simp] theorem State.portAt_setCoreAt (s : State) (c : Nat) (x : Core) (j : Nat) : (s.setCoreAt c x).portAt j = s.portAt j := rfl
@[simp] theorem State.pattAt_setCoreAt (s : State) (c : Nat) (x : Core) (j : Nat) : (s.setCoreAt c x).pattAt j = s.pattAt j := rfl
@[simp] theorem State.task?_setCoreAt (s : State) (c : Nat) (x : Core) (j : Nat) : (s.setCoreAt c x).task? j = s.task? j := rfl
@[simp] theorem State.gang?_setCoreAt (s : State) (c : Nat) (x : Core) (j : Nat) : (s.setCoreAt c x).gang? j = s.gang? j := rfl
@[simp] theorem State.hartAt_setCore (s : State) (x : Core) (j : Nat) : (s.setCore x).hartAt j = s.hartAt j := rfl
@[simp] theorem State.dieAt_setCore (s : State) (x : Core) (j : Nat) : (s.setCore x).dieAt j = s.dieAt j := rfl
@[simp] theorem State.clusterAt_setCore (s : State) (x : Core) (j : Nat) : (s.setCore x).clusterAt j = s.clusterAt j := rfl
@[simp] theorem State.partAt_setCore (s : State) (x : Core) (j : Nat) : (s.setCore x).partAt j = s.partAt j := rfl
@[simp] theorem State.portAt_setCore (s : State) (x : Core) (j : Nat) : (s.setCore x).portAt j = s.portAt j := rfl
@[simp] theorem State.pattAt_setCore (s : State) (x : Core) (j : Nat) : (s.setCore x).pattAt j = s.pattAt j := rfl
@[simp] theorem State.task?_setCore (s : State) (x : Core) (j : Nat) : (s.setCore x).task? j = s.task? j := rfl
@[simp] theorem State.gang?_setCore (s : State) (x : Core) (j : Nat) : (s.setCore x).gang? j = s.gang? j := rfl
@[simp] theorem State.hartAt_setDieAt (s : State) (d : Nat) (x : Die) (j : Nat) : (s.setDieAt d x).hartAt j = s.hartAt j := rfl
@[simp] theorem State.coreAt_setDieAt (s : State) (d : Nat) (x : Die) (j : Nat) : (s.setDieAt d x).coreAt j = s.coreAt j := rfl
@[simp] theorem State.clusterAt_setDieAt (s : State) (d : Nat) (x : Die) (j : Nat) : (s.setDieAt d x).clusterAt j = s.clusterAt j := rfl
@[simp] theorem State.partAt_setDieAt (s : State) (d : Nat) (x : Die) (j : Nat) : (s.setDieAt d x).partAt j = s.partAt j := rfl
@[simp] theorem State.portAt_setDieAt (s : State) (d : Nat) (x : Die) (j : Nat) : (s.setDieAt d x).portAt j = s.portAt j := rfl
@[simp] theorem State.pattAt_setDieAt (s : State) (d : Nat) (x : Die) (j : Nat) : (s.setDieAt d x).pattAt j = s.pattAt j := rfl
@[simp] theorem State.task?_setDieAt (s : State) (d : Nat) (x : Die) (j : Nat) : (s.setDieAt d x).task? j = s.task? j := rfl
@[simp] theorem State.gang?_setDieAt (s : State) (d : Nat) (x : Die) (j : Nat) : (s.setDieAt d x).gang? j = s.gang? j := rfl
@[simp] theorem State.hartAt_setClusterAt (s : State) (c : Nat) (x : Cluster) (j : Nat) : (s.setClusterAt c x).hartAt j = s.hartAt j := rfl
@[simp] theorem State.coreAt_setClusterAt (s : State) (c : Nat) (x : Cluster) (j : Nat) : (s.setClusterAt c x).coreAt j = s.coreAt j := rfl
@[simp] theorem State.dieAt_setClusterAt (s : State) (c : Nat) (x : Cluster) (j : Nat) : (s.setClusterAt c x).dieAt j = s.dieAt j := rfl
@[simp] theorem State.partAt_setClusterAt (s : State) (c : Nat) (x : Cluster) (j : Nat) : (s.setClusterAt c x).partAt j = s.partAt j := rfl
@[simp] theorem State.portAt_setClusterAt (s : State) (c : Nat) (x : Cluster) (j : Nat) : (s.setClusterAt c x).portAt j = s.portAt j := rfl
@[simp] theorem State.pattAt_setClusterAt (s : State) (c : Nat) (x : Cluster) (j : Nat) : (s.setClusterAt c x).pattAt j = s.pattAt j := rfl
@[simp] theorem State.task?_setClusterAt (s : State) (c : Nat) (x : Cluster) (j : Nat) : (s.setClusterAt c x).task? j = s.task? j := rfl
@[simp] theorem State.gang?_setClusterAt (s : State) (c : Nat) (x : Cluster) (j : Nat) : (s.setClusterAt c x).gang? j = s.gang? j := rfl
@[simp] theorem State.hartAt_setPartAt (s : State) (p : Nat) (x : Partition) (j : Nat) : (s.setPartAt p x).hartAt j = s.hartAt j := rfl
@[simp] theorem State.coreAt_setPartAt (s : State) (p : Nat) (x : Partition) (j : Nat) : (s.setPartAt p x).coreAt j = s.coreAt j := rfl
@[simp] theorem State.dieAt_setPartAt (s : State) (p : Nat) (x : Partition) (j : Nat) : (s.setPartAt p x).dieAt j = s.dieAt j := rfl
@[simp] theorem State.clusterAt_setPartAt (s : State) (p : Nat) (x : Partition) (j : Nat) : (s.setPartAt p x).clusterAt j = s.clusterAt j := rfl
@[simp] theorem State.portAt_setPartAt (s : State) (p : Nat) (x : Partition) (j : Nat) : (s.setPartAt p x).portAt j = s.portAt j := rfl
@[simp] theorem State.pattAt_setPartAt (s : State) (p : Nat) (x : Partition) (j : Nat) : (s.setPartAt p x).pattAt j = s.pattAt j := rfl
@[simp] theorem State.task?_setPartAt (s : State) (p : Nat) (x : Partition) (j : Nat) : (s.setPartAt p x).task? j = s.task? j := rfl
@[simp] theorem State.gang?_setPartAt (s : State) (p : Nat) (x : Partition) (j : Nat) : (s.setPartAt p x).gang? j = s.gang? j := rfl
@[simp] theorem State.hartAt_setPortAt (s : State) (p : Nat) (x : Port) (j : Nat) : (s.setPortAt p x).hartAt j = s.hartAt j := rfl
@[simp] theorem State.coreAt_setPortAt (s : State) (p : Nat) (x : Port) (j : Nat) : (s.setPortAt p x).coreAt j = s.coreAt j := rfl
@[simp] theorem State.dieAt_setPortAt (s : State) (p : Nat) (x : Port) (j : Nat) : (s.setPortAt p x).dieAt j = s.dieAt j := rfl
@[simp] theorem State.clusterAt_setPortAt (s : State) (p : Nat) (x : Port) (j : Nat) : (s.setPortAt p x).clusterAt j = s.clusterAt j := rfl
@[simp] theorem State.partAt_setPortAt (s : State) (p : Nat) (x : Port) (j : Nat) : (s.setPortAt p x).partAt j = s.partAt j := rfl
@[simp] theorem State.task?_setPortAt (s : State) (p : Nat) (x : Port) (j : Nat) : (s.setPortAt p x).task? j = s.task? j := rfl
@[simp] theorem State.gang?_setPortAt (s : State) (p : Nat) (x : Port) (j : Nat) : (s.setPortAt p x).gang? j = s.gang? j := rfl
@[simp] theorem State.hartAt_setPattAt (s : State) (n : Nat) (x : Pattern) (j : Nat) : (s.setPattAt n x).hartAt j = s.hartAt j := rfl
@[simp] theorem State.coreAt_setPattAt (s : State) (n : Nat) (x : Pattern) (j : Nat) : (s.setPattAt n x).coreAt j = s.coreAt j := rfl
@[simp] theorem State.dieAt_setPattAt (s : State) (n : Nat) (x : Pattern) (j : Nat) : (s.setPattAt n x).dieAt j = s.dieAt j := rfl
@[simp] theorem State.clusterAt_setPattAt (s : State) (n : Nat) (x : Pattern) (j : Nat) : (s.setPattAt n x).clusterAt j = s.clusterAt j := rfl
@[simp] theorem State.partAt_setPattAt (s : State) (n : Nat) (x : Pattern) (j : Nat) : (s.setPattAt n x).partAt j = s.partAt j := rfl
@[simp] theorem State.task?_setPattAt (s : State) (n : Nat) (x : Pattern) (j : Nat) : (s.setPattAt n x).task? j = s.task? j := rfl
@[simp] theorem State.gang?_setPattAt (s : State) (n : Nat) (x : Pattern) (j : Nat) : (s.setPattAt n x).gang? j = s.gang? j := rfl
@[simp] theorem State.hartAt_setTask (s : State) (n : Nat) (x : Task) (j : Nat) : (s.setTask n x).hartAt j = s.hartAt j := rfl
@[simp] theorem State.coreAt_setTask (s : State) (n : Nat) (x : Task) (j : Nat) : (s.setTask n x).coreAt j = s.coreAt j := rfl
@[simp] theorem State.dieAt_setTask (s : State) (n : Nat) (x : Task) (j : Nat) : (s.setTask n x).dieAt j = s.dieAt j := rfl
@[simp] theorem State.clusterAt_setTask (s : State) (n : Nat) (x : Task) (j : Nat) : (s.setTask n x).clusterAt j = s.clusterAt j := rfl
@[simp] theorem State.partAt_setTask (s : State) (n : Nat) (x : Task) (j : Nat) : (s.setTask n x).partAt j = s.partAt j := rfl
@[simp] theorem State.portAt_setTask (s : State) (n : Nat) (x : Task) (j : Nat) : (s.setTask n x).portAt j = s.portAt j := rfl
@[simp] theorem State.pattAt_setTask (s : State) (n : Nat) (x : Task) (j : Nat) : (s.setTask n x).pattAt j = s.pattAt j := rfl
@[simp] theorem State.gang?_setTask (s : State) (n : Nat) (x : Task) (j : Nat) : (s.setTask n x).gang? j = s.gang? j := rfl
@[simp] theorem State.hartAt_setGang (s : State) (n : Nat) (x : Gang) (j : Nat) : (s.setGang n x).hartAt j = s.hartAt j := rfl
@[simp] theorem State.coreAt_setGang (s : State) (n : Nat) (x : Gang) (j : Nat) : (s.setGang n x).coreAt j = s.coreAt j := rfl
@[simp] theorem State.dieAt_setGang (s : State) (n : Nat) (x : Gang) (j : Nat) : (s.setGang n x).dieAt j = s.dieAt j := rfl
@[simp] theorem State.clusterAt_setGang (s : State) (n : Nat) (x : Gang) (j : Nat) : (s.setGang n x).clusterAt j = s.clusterAt j := rfl
@[simp] theorem State.partAt_setGang (s : State) (n : Nat) (x : Gang) (j : Nat) : (s.setGang n x).partAt j = s.partAt j := rfl
@[simp] theorem State.portAt_setGang (s : State) (n : Nat) (x : Gang) (j : Nat) : (s.setGang n x).portAt j = s.portAt j := rfl
@[simp] theorem State.pattAt_setGang (s : State) (n : Nat) (x : Gang) (j : Nat) : (s.setGang n x).pattAt j = s.pattAt j := rfl
@[simp] theorem State.task?_setGang (s : State) (n : Nat) (x : Gang) (j : Nat) : (s.setGang n x).task? j = s.task? j := rfl
@[simp] theorem State.hartAt_draw (s : State) (j : Nat) : (s.draw).hartAt j = s.hartAt j := rfl
@[simp] theorem State.coreAt_draw (s : State) (j : Nat) : (s.draw).coreAt j = s.coreAt j := rfl
@[simp] theorem State.dieAt_draw (s : State) (j : Nat) : (s.draw).dieAt j = s.dieAt j := rfl
@[simp] theorem State.clusterAt_draw (s : State) (j : Nat) : (s.draw).clusterAt j = s.clusterAt j := rfl
@[simp] theorem State.partAt_draw (s : State) (j : Nat) : (s.draw).partAt j = s.partAt j := rfl
@[simp] theorem State.portAt_draw (s : State) (j : Nat) : (s.draw).portAt j = s.portAt j := rfl
@[simp] theorem State.pattAt_draw (s : State) (j : Nat) : (s.draw).pattAt j = s.pattAt j := rfl
@[simp] theorem State.task?_draw (s : State) (j : Nat) : (s.draw).task? j = s.task? j := rfl
@[simp] theorem State.gang?_draw (s : State) (j : Nat) : (s.draw).gang? j = s.gang? j := rfl

/-! ### The registers of a hart -/

@[simp] theorem Hart.reg_zero (h : Hart) : h.reg 0 = 0 := rfl
@[simp] theorem Hart.setReg_zero (h : Hart) (v : Word) : h.setReg 0 v = h := rfl

theorem Hart.reg_setReg_self (h : Hart) {r : Reg} (v : Word) (hr : r ≠ 0) : (h.setReg r v).reg r = v := by
  simp [Hart.reg, Hart.setReg, hr]

theorem Hart.reg_setReg_of_ne (h : Hart) {r q : Reg} (v : Word) (hq : q ≠ r) : (h.setReg r v).reg q = h.reg q := by
  have hv : ¬ r.val = q.val := fun e => hq (Fin.ext e.symm)
  by_cases hr : r = 0
  · simp [Hart.setReg, hr]
  · simp only [Hart.reg, Hart.setReg, hr, if_false]
    split
    · rfl
    · exact Vector.getElem_set_ne _ _ hv

@[simp] theorem Hart.vreg_setVreg_self (h : Hart) (r : Nat) (v : VReg) : (h.setVreg r v).vreg r = v := by
  simp [Hart.vreg, Hart.setVreg]

theorem Hart.vreg_setVreg_of_ne (h : Hart) {r q : Nat} (v : VReg) (hq : q % 32 ≠ r % 32) :
    (h.setVreg r v).vreg q = h.vreg q := by
  simp only [Hart.vreg, Hart.setVreg]
  exact Vector.getElem_set_ne _ _ (Ne.symm hq)

@[simp] theorem Hart.reg_setVreg (h : Hart) (r : Nat) (v : VReg) (q : Reg) : (h.setVreg r v).reg q = h.reg q := rfl
@[simp] theorem Hart.reg_next (h : Hart) (q : Reg) : h.next.reg q = h.reg q := rfl
@[simp] theorem Hart.reg_goto (h : Hart) (pc : Word) (q : Reg) : (h.goto pc).reg q = h.reg q := rfl
@[simp] theorem Hart.vreg_next (h : Hart) (q : Nat) : h.next.vreg q = h.vreg q := rfl
@[simp] theorem Hart.vreg_goto (h : Hart) (pc : Word) (q : Nat) : (h.goto pc).vreg q = h.vreg q := rfl

@[simp] theorem Hart.vreg_setReg (h : Hart) (r : Reg) (v : Word) (q : Nat) : (h.setReg r v).vreg q = h.vreg q := by
  unfold Hart.setReg; split <;> rfl

@[simp] theorem Hart.next_pc (h : Hart) : h.next.pc = h.pc + 4 := rfl
@[simp] theorem Hart.next_done (h : Hart) : h.next.done = h.done + 1 := rfl
@[simp] theorem Hart.next_masked (h : Hart) : h.next.masked = false := rfl
@[simp] theorem Hart.goto_pc (h : Hart) (pc : Word) : (h.goto pc).pc = pc := rfl
@[simp] theorem Hart.goto_done (h : Hart) (pc : Word) : (h.goto pc).done = h.done + 1 := rfl
@[simp] theorem Hart.goto_masked (h : Hart) (pc : Word) : (h.goto pc).masked = false := rfl
@[simp] theorem Hart.next_slot (h : Hart) : h.next.slot = h.slot := rfl
@[simp] theorem Hart.goto_slot (h : Hart) (pc : Word) : (h.goto pc).slot = h.slot := rfl
@[simp] theorem Hart.setVreg_slot (h : Hart) (r : Nat) (v : VReg) : (h.setVreg r v).slot = h.slot := rfl
@[simp] theorem Hart.setReg_slot (h : Hart) (r : Reg) (v : Word) : (h.setReg r v).slot = h.slot := by
  unfold Hart.setReg; split <;> rfl
@[simp] theorem Hart.next_kind (h : Hart) : h.next.kind = h.kind := rfl
@[simp] theorem Hart.goto_kind (h : Hart) (pc : Word) : (h.goto pc).kind = h.kind := rfl
@[simp] theorem Hart.setVreg_kind (h : Hart) (r : Nat) (v : VReg) : (h.setVreg r v).kind = h.kind := rfl
@[simp] theorem Hart.setReg_kind (h : Hart) (r : Reg) (v : Word) : (h.setReg r v).kind = h.kind := by
  unfold Hart.setReg; split <;> rfl
@[simp] theorem Hart.next_wait (h : Hart) : h.next.wait = h.wait := rfl
@[simp] theorem Hart.goto_wait (h : Hart) (pc : Word) : (h.goto pc).wait = h.wait := rfl
@[simp] theorem Hart.setVreg_wait (h : Hart) (r : Nat) (v : VReg) : (h.setVreg r v).wait = h.wait := rfl
@[simp] theorem Hart.setReg_wait (h : Hart) (r : Reg) (v : Word) : (h.setReg r v).wait = h.wait := by
  unfold Hart.setReg; split <;> rfl
@[simp] theorem Hart.next_s (h : Hart) : h.next.s = h.s := rfl
@[simp] theorem Hart.goto_s (h : Hart) (pc : Word) : (h.goto pc).s = h.s := rfl
@[simp] theorem Hart.setVreg_s (h : Hart) (r : Nat) (v : VReg) : (h.setVreg r v).s = h.s := rfl
@[simp] theorem Hart.setVreg_pc (h : Hart) (r : Nat) (v : VReg) : (h.setVreg r v).pc = h.pc := rfl
@[simp] theorem Hart.setReg_pc (h : Hart) (r : Reg) (v : Word) : (h.setReg r v).pc = h.pc := by
  unfold Hart.setReg; split <;> rfl
@[simp] theorem Hart.next_priv (h : Hart) : h.next.priv = h.priv := rfl
@[simp] theorem Hart.goto_priv (h : Hart) (pc : Word) : (h.goto pc).priv = h.priv := rfl
@[simp] theorem Hart.setVreg_priv (h : Hart) (r : Nat) (v : VReg) : (h.setVreg r v).priv = h.priv := rfl
@[simp] theorem Hart.setReg_priv (h : Hart) (r : Reg) (v : Word) : (h.setReg r v).priv = h.priv := by
  unfold Hart.setReg; split <;> rfl
@[simp] theorem Hart.next_ubank (h : Hart) : h.next.ubank = h.ubank := rfl
@[simp] theorem Hart.goto_ubank (h : Hart) (pc : Word) : (h.goto pc).ubank = h.ubank := rfl
@[simp] theorem Hart.setVreg_ubank (h : Hart) (r : Nat) (v : VReg) : (h.setVreg r v).ubank = h.ubank := rfl
@[simp] theorem Hart.setReg_ubank (h : Hart) (r : Reg) (v : Word) : (h.setReg r v).ubank = h.ubank := by
  unfold Hart.setReg; split <;> rfl
@[simp] theorem Hart.next_sbank (h : Hart) : h.next.sbank = h.sbank := rfl
@[simp] theorem Hart.goto_sbank (h : Hart) (pc : Word) : (h.goto pc).sbank = h.sbank := rfl
@[simp] theorem Hart.setVreg_sbank (h : Hart) (r : Nat) (v : VReg) : (h.setVreg r v).sbank = h.sbank := rfl
@[simp] theorem Hart.setReg_sbank (h : Hart) (r : Reg) (v : Word) : (h.setReg r v).sbank = h.sbank := by
  unfold Hart.setReg; split <;> rfl
@[simp] theorem Hart.next_ptbase (h : Hart) : h.next.ptbase = h.ptbase := rfl
@[simp] theorem Hart.goto_ptbase (h : Hart) (pc : Word) : (h.goto pc).ptbase = h.ptbase := rfl
@[simp] theorem Hart.setVreg_ptbase (h : Hart) (r : Nat) (v : VReg) : (h.setVreg r v).ptbase = h.ptbase := rfl
@[simp] theorem Hart.setReg_ptbase (h : Hart) (r : Reg) (v : Word) : (h.setReg r v).ptbase = h.ptbase := by
  unfold Hart.setReg; split <;> rfl
@[simp] theorem Hart.next_vl (h : Hart) : h.next.vl = h.vl := rfl
@[simp] theorem Hart.goto_vl (h : Hart) (pc : Word) : (h.goto pc).vl = h.vl := rfl
@[simp] theorem Hart.setVreg_vl (h : Hart) (r : Nat) (v : VReg) : (h.setVreg r v).vl = h.vl := rfl
@[simp] theorem Hart.setReg_vl (h : Hart) (r : Reg) (v : Word) : (h.setReg r v).vl = h.vl := by
  unfold Hart.setReg; split <;> rfl
@[simp] theorem Hart.next_vrows (h : Hart) : h.next.vrows = h.vrows := rfl
@[simp] theorem Hart.goto_vrows (h : Hart) (pc : Word) : (h.goto pc).vrows = h.vrows := rfl
@[simp] theorem Hart.setVreg_vrows (h : Hart) (r : Nat) (v : VReg) : (h.setVreg r v).vrows = h.vrows := rfl
@[simp] theorem Hart.setReg_vrows (h : Hart) (r : Reg) (v : Word) : (h.setReg r v).vrows = h.vrows := by
  unfold Hart.setReg; split <;> rfl
@[simp] theorem Hart.next_vmk (h : Hart) : h.next.vmk = h.vmk := rfl
@[simp] theorem Hart.goto_vmk (h : Hart) (pc : Word) : (h.goto pc).vmk = h.vmk := rfl
@[simp] theorem Hart.setVreg_vmk (h : Hart) (r : Nat) (v : VReg) : (h.setVreg r v).vmk = h.vmk := rfl
@[simp] theorem Hart.setReg_vmk (h : Hart) (r : Reg) (v : Word) : (h.setReg r v).vmk = h.vmk := by
  unfold Hart.setReg; split <;> rfl
@[simp] theorem Hart.next_vstride (h : Hart) : h.next.vstride = h.vstride := rfl
@[simp] theorem Hart.goto_vstride (h : Hart) (pc : Word) : (h.goto pc).vstride = h.vstride := rfl
@[simp] theorem Hart.setVreg_vstride (h : Hart) (r : Nat) (v : VReg) : (h.setVreg r v).vstride = h.vstride := rfl
@[simp] theorem Hart.setReg_vstride (h : Hart) (r : Reg) (v : Word) : (h.setReg r v).vstride = h.vstride := by
  unfold Hart.setReg; split <;> rfl
@[simp] theorem Hart.next_vlcap (h : Hart) : h.next.vlcap = h.vlcap := rfl
@[simp] theorem Hart.goto_vlcap (h : Hart) (pc : Word) : (h.goto pc).vlcap = h.vlcap := rfl
@[simp] theorem Hart.setVreg_vlcap (h : Hart) (r : Nat) (v : VReg) : (h.setVreg r v).vlcap = h.vlcap := rfl
@[simp] theorem Hart.setReg_vlcap (h : Hart) (r : Reg) (v : Word) : (h.setReg r v).vlcap = h.vlcap := by
  unfold Hart.setReg; split <;> rfl
@[simp] theorem Hart.next_pmode (h : Hart) : h.next.pmode = h.pmode := rfl
@[simp] theorem Hart.goto_pmode (h : Hart) (pc : Word) : (h.goto pc).pmode = h.pmode := rfl
@[simp] theorem Hart.setVreg_pmode (h : Hart) (r : Nat) (v : VReg) : (h.setVreg r v).pmode = h.pmode := rfl
@[simp] theorem Hart.setReg_pmode (h : Hart) (r : Reg) (v : Word) : (h.setReg r v).pmode = h.pmode := by
  unfold Hart.setReg; split <;> rfl
@[simp] theorem Hart.next_vdens (h : Hart) : h.next.vdens = h.vdens := rfl
@[simp] theorem Hart.goto_vdens (h : Hart) (pc : Word) : (h.goto pc).vdens = h.vdens := rfl
@[simp] theorem Hart.setVreg_vdens (h : Hart) (r : Nat) (v : VReg) : (h.setVreg r v).vdens = h.vdens := rfl
@[simp] theorem Hart.setReg_vdens (h : Hart) (r : Reg) (v : Word) : (h.setReg r v).vdens = h.vdens := by
  unfold Hart.setReg; split <;> rfl
@[simp] theorem Hart.next_fpctl (h : Hart) : h.next.fpctl = h.fpctl := rfl
@[simp] theorem Hart.goto_fpctl (h : Hart) (pc : Word) : (h.goto pc).fpctl = h.fpctl := rfl
@[simp] theorem Hart.setVreg_fpctl (h : Hart) (r : Nat) (v : VReg) : (h.setVreg r v).fpctl = h.fpctl := rfl
@[simp] theorem Hart.setReg_fpctl (h : Hart) (r : Reg) (v : Word) : (h.setReg r v).fpctl = h.fpctl := by
  unfold Hart.setReg; split <;> rfl
@[simp] theorem Hart.next_fpflags (h : Hart) : h.next.fpflags = h.fpflags := rfl
@[simp] theorem Hart.goto_fpflags (h : Hart) (pc : Word) : (h.goto pc).fpflags = h.fpflags := rfl
@[simp] theorem Hart.setVreg_fpflags (h : Hart) (r : Nat) (v : VReg) : (h.setVreg r v).fpflags = h.fpflags := rfl
@[simp] theorem Hart.setReg_fpflags (h : Hart) (r : Reg) (v : Word) : (h.setReg r v).fpflags = h.fpflags := by
  unfold Hart.setReg; split <;> rfl
@[simp] theorem Hart.next_srkey (h : Hart) : h.next.srkey = h.srkey := rfl
@[simp] theorem Hart.goto_srkey (h : Hart) (pc : Word) : (h.goto pc).srkey = h.srkey := rfl
@[simp] theorem Hart.setVreg_srkey (h : Hart) (r : Nat) (v : VReg) : (h.setVreg r v).srkey = h.srkey := rfl
@[simp] theorem Hart.setReg_srkey (h : Hart) (r : Reg) (v : Word) : (h.setReg r v).srkey = h.srkey := by
  unfold Hart.setReg; split <;> rfl
@[simp] theorem Hart.next_srcount (h : Hart) : h.next.srcount = h.srcount := rfl
@[simp] theorem Hart.goto_srcount (h : Hart) (pc : Word) : (h.goto pc).srcount = h.srcount := rfl
@[simp] theorem Hart.setVreg_srcount (h : Hart) (r : Nat) (v : VReg) : (h.setVreg r v).srcount = h.srcount := rfl
@[simp] theorem Hart.setReg_srcount (h : Hart) (r : Reg) (v : Word) : (h.setReg r v).srcount = h.srcount := by
  unfold Hart.setReg; split <;> rfl
@[simp] theorem Hart.next_filltab (h : Hart) : h.next.filltab = h.filltab := rfl
@[simp] theorem Hart.goto_filltab (h : Hart) (pc : Word) : (h.goto pc).filltab = h.filltab := rfl
@[simp] theorem Hart.setVreg_filltab (h : Hart) (r : Nat) (v : VReg) : (h.setVreg r v).filltab = h.filltab := rfl
@[simp] theorem Hart.setReg_filltab (h : Hart) (r : Reg) (v : Word) : (h.setReg r v).filltab = h.filltab := by
  unfold Hart.setReg; split <;> rfl
@[simp] theorem Hart.next_ckmask (h : Hart) : h.next.ckmask = h.ckmask := rfl
@[simp] theorem Hart.goto_ckmask (h : Hart) (pc : Word) : (h.goto pc).ckmask = h.ckmask := rfl
@[simp] theorem Hart.setVreg_ckmask (h : Hart) (r : Nat) (v : VReg) : (h.setVreg r v).ckmask = h.ckmask := rfl
@[simp] theorem Hart.setReg_ckmask (h : Hart) (r : Reg) (v : Word) : (h.setReg r v).ckmask = h.ckmask := by
  unfold Hart.setReg; split <;> rfl
@[simp] theorem Hart.next_ckvmask (h : Hart) : h.next.ckvmask = h.ckvmask := rfl
@[simp] theorem Hart.goto_ckvmask (h : Hart) (pc : Word) : (h.goto pc).ckvmask = h.ckvmask := rfl
@[simp] theorem Hart.setVreg_ckvmask (h : Hart) (r : Nat) (v : VReg) : (h.setVreg r v).ckvmask = h.ckvmask := rfl
@[simp] theorem Hart.setReg_ckvmask (h : Hart) (r : Reg) (v : Word) : (h.setReg r v).ckvmask = h.ckvmask := by
  unfold Hart.setReg; split <;> rfl
@[simp] theorem Hart.next_rewinds (h : Hart) : h.next.rewinds = h.rewinds := rfl
@[simp] theorem Hart.goto_rewinds (h : Hart) (pc : Word) : (h.goto pc).rewinds = h.rewinds := rfl
@[simp] theorem Hart.setVreg_rewinds (h : Hart) (r : Nat) (v : VReg) : (h.setVreg r v).rewinds = h.rewinds := rfl
@[simp] theorem Hart.setReg_rewinds (h : Hart) (r : Reg) (v : Word) : (h.setReg r v).rewinds = h.rewinds := by
  unfold Hart.setReg; split <;> rfl
@[simp] theorem Hart.next_used (h : Hart) : h.next.used = h.used := rfl
@[simp] theorem Hart.goto_used (h : Hart) (pc : Word) : (h.goto pc).used = h.used := rfl
@[simp] theorem Hart.setVreg_used (h : Hart) (r : Nat) (v : VReg) : (h.setVreg r v).used = h.used := rfl
@[simp] theorem Hart.setReg_used (h : Hart) (r : Reg) (v : Word) : (h.setReg r v).used = h.used := by
  unfold Hart.setReg; split <;> rfl
@[simp] theorem Hart.next_again (h : Hart) : h.next.again = h.again := rfl
@[simp] theorem Hart.goto_again (h : Hart) (pc : Word) : (h.goto pc).again = h.again := rfl
@[simp] theorem Hart.setVreg_again (h : Hart) (r : Nat) (v : VReg) : (h.setVreg r v).again = h.again := rfl
@[simp] theorem Hart.setReg_again (h : Hart) (r : Reg) (v : Word) : (h.setReg r v).again = h.again := by
  unfold Hart.setReg; split <;> rfl
@[simp] theorem Hart.next_unprot (h : Hart) : h.next.unprot = h.unprot := rfl
@[simp] theorem Hart.goto_unprot (h : Hart) (pc : Word) : (h.goto pc).unprot = h.unprot := rfl
@[simp] theorem Hart.setVreg_unprot (h : Hart) (r : Nat) (v : VReg) : (h.setVreg r v).unprot = h.unprot := rfl
@[simp] theorem Hart.setReg_unprot (h : Hart) (r : Reg) (v : Word) : (h.setReg r v).unprot = h.unprot := by
  unfold Hart.setReg; split <;> rfl
@[simp] theorem Hart.next_ckpt (h : Hart) : h.next.ckpt = h.ckpt := rfl
@[simp] theorem Hart.goto_ckpt (h : Hart) (pc : Word) : (h.goto pc).ckpt = h.ckpt := rfl
@[simp] theorem Hart.setVreg_ckpt (h : Hart) (r : Nat) (v : VReg) : (h.setVreg r v).ckpt = h.ckpt := rfl
@[simp] theorem Hart.setReg_ckpt (h : Hart) (r : Reg) (v : Word) : (h.setReg r v).ckpt = h.ckpt := by
  unfold Hart.setReg; split <;> rfl
@[simp] theorem Hart.next_strip (h : Hart) : h.next.strip = h.strip := rfl
@[simp] theorem Hart.goto_strip (h : Hart) (pc : Word) : (h.goto pc).strip = h.strip := rfl
@[simp] theorem Hart.setVreg_strip (h : Hart) (r : Nat) (v : VReg) : (h.setVreg r v).strip = h.strip := rfl
@[simp] theorem Hart.setReg_strip (h : Hart) (r : Reg) (v : Word) : (h.setReg r v).strip = h.strip := by
  unfold Hart.setReg; split <;> rfl
@[simp] theorem Hart.next_spawnMin (h : Hart) : h.next.spawnMin = h.spawnMin := rfl
@[simp] theorem Hart.goto_spawnMin (h : Hart) (pc : Word) : (h.goto pc).spawnMin = h.spawnMin := rfl
@[simp] theorem Hart.setVreg_spawnMin (h : Hart) (r : Nat) (v : VReg) : (h.setVreg r v).spawnMin = h.spawnMin := rfl
@[simp] theorem Hart.setReg_spawnMin (h : Hart) (r : Reg) (v : Word) : (h.setReg r v).spawnMin = h.spawnMin := by
  unfold Hart.setReg; split <;> rfl
@[simp] theorem Hart.next_boostReq (h : Hart) : h.next.boostReq = h.boostReq := rfl
@[simp] theorem Hart.goto_boostReq (h : Hart) (pc : Word) : (h.goto pc).boostReq = h.boostReq := rfl
@[simp] theorem Hart.setVreg_boostReq (h : Hart) (r : Nat) (v : VReg) : (h.setVreg r v).boostReq = h.boostReq := rfl
@[simp] theorem Hart.setReg_boostReq (h : Hart) (r : Reg) (v : Word) : (h.setReg r v).boostReq = h.boostReq := by
  unfold Hart.setReg; split <;> rfl
@[simp] theorem Hart.next_v (h : Hart) : h.next.v = h.v := rfl
@[simp] theorem Hart.goto_v (h : Hart) (pc : Word) : (h.goto pc).v = h.v := rfl
@[simp] theorem Hart.setReg_v (h : Hart) (r : Reg) (v : Word) : (h.setReg r v).v = h.v := by
  unfold Hart.setReg; split <;> rfl
@[simp] theorem Hart.next_viq (h : Hart) : h.next.viq = h.viq := rfl
@[simp] theorem Hart.goto_viq (h : Hart) (pc : Word) : (h.goto pc).viq = h.viq := rfl
@[simp] theorem Hart.setVreg_viq (h : Hart) (r : Nat) (v : VReg) : (h.setVreg r v).viq = h.viq := rfl
@[simp] theorem Hart.setReg_viq (h : Hart) (r : Reg) (v : Word) : (h.setReg r v).viq = h.viq := by
  unfold Hart.setReg; split <;> rfl
@[simp] theorem Hart.next_seq (h : Hart) : h.next.seq = h.seq := rfl
@[simp] theorem Hart.goto_seq (h : Hart) (pc : Word) : (h.goto pc).seq = h.seq := rfl
@[simp] theorem Hart.setVreg_seq (h : Hart) (r : Nat) (v : VReg) : (h.setVreg r v).seq = h.seq := rfl
@[simp] theorem Hart.setReg_seq (h : Hart) (r : Reg) (v : Word) : (h.setReg r v).seq = h.seq := by
  unfold Hart.setReg; split <;> rfl
@[simp] theorem Hart.next_sync (h : Hart) : h.next.sync = h.sync := rfl
@[simp] theorem Hart.goto_sync (h : Hart) (pc : Word) : (h.goto pc).sync = h.sync := rfl
@[simp] theorem Hart.setVreg_sync (h : Hart) (r : Nat) (v : VReg) : (h.setVreg r v).sync = h.sync := rfl
@[simp] theorem Hart.setReg_sync (h : Hart) (r : Reg) (v : Word) : (h.setReg r v).sync = h.sync := by
  unfold Hart.setReg; split <;> rfl
@[simp] theorem Hart.next_codeAt (h : Hart) : h.next.codeAt = h.codeAt := rfl
@[simp] theorem Hart.goto_codeAt (h : Hart) (pc : Word) : (h.goto pc).codeAt = h.codeAt := rfl
@[simp] theorem Hart.setVreg_codeAt (h : Hart) (r : Nat) (v : VReg) : (h.setVreg r v).codeAt = h.codeAt := rfl
@[simp] theorem Hart.setReg_codeAt (h : Hart) (r : Reg) (v : Word) : (h.setReg r v).codeAt = h.codeAt := by
  unfold Hart.setReg; split <;> rfl
@[simp] theorem Hart.next_fenced (h : Hart) : h.next.fenced = h.fenced := rfl
@[simp] theorem Hart.goto_fenced (h : Hart) (pc : Word) : (h.goto pc).fenced = h.fenced := rfl
@[simp] theorem Hart.setVreg_fenced (h : Hart) (r : Nat) (v : VReg) : (h.setVreg r v).fenced = h.fenced := rfl
@[simp] theorem Hart.setReg_fenced (h : Hart) (r : Reg) (v : Word) : (h.setReg r v).fenced = h.fenced := by
  unfold Hart.setReg; split <;> rfl
@[simp] theorem Hart.next_exited (h : Hart) : h.next.exited = h.exited := rfl
@[simp] theorem Hart.goto_exited (h : Hart) (pc : Word) : (h.goto pc).exited = h.exited := rfl
@[simp] theorem Hart.setVreg_exited (h : Hart) (r : Nat) (v : VReg) : (h.setVreg r v).exited = h.exited := rfl
@[simp] theorem Hart.setReg_exited (h : Hart) (r : Reg) (v : Word) : (h.setReg r v).exited = h.exited := by
  unfold Hart.setReg; split <;> rfl
@[simp] theorem Hart.next_streams (h : Hart) : h.next.streams = h.streams := rfl
@[simp] theorem Hart.goto_streams (h : Hart) (pc : Word) : (h.goto pc).streams = h.streams := rfl
@[simp] theorem Hart.setVreg_streams (h : Hart) (r : Nat) (v : VReg) : (h.setVreg r v).streams = h.streams := rfl
@[simp] theorem Hart.setReg_streams (h : Hart) (r : Reg) (v : Word) : (h.setReg r v).streams = h.streams := by
  unfold Hart.setReg; split <;> rfl
@[simp] theorem Hart.next_hold (h : Hart) : h.next.hold = h.hold := rfl
@[simp] theorem Hart.goto_hold (h : Hart) (pc : Word) : (h.goto pc).hold = h.hold := rfl
@[simp] theorem Hart.setVreg_hold (h : Hart) (r : Nat) (v : VReg) : (h.setVreg r v).hold = h.hold := rfl
@[simp] theorem Hart.setReg_hold (h : Hart) (r : Reg) (v : Word) : (h.setReg r v).hold = h.hold := by
  unfold Hart.setReg; split <;> rfl
@[simp] theorem Hart.next_holdW (h : Hart) : h.next.holdW = h.holdW := rfl
@[simp] theorem Hart.goto_holdW (h : Hart) (pc : Word) : (h.goto pc).holdW = h.holdW := rfl
@[simp] theorem Hart.setVreg_holdW (h : Hart) (r : Nat) (v : VReg) : (h.setVreg r v).holdW = h.holdW := rfl
@[simp] theorem Hart.setReg_holdW (h : Hart) (r : Reg) (v : Word) : (h.setReg r v).holdW = h.holdW := by
  unfold Hart.setReg; split <;> rfl
@[simp] theorem Hart.next_utr (h : Hart) : h.next.utr = h.utr := rfl
@[simp] theorem Hart.goto_utr (h : Hart) (pc : Word) : (h.goto pc).utr = h.utr := rfl
@[simp] theorem Hart.setVreg_utr (h : Hart) (r : Nat) (v : VReg) : (h.setVreg r v).utr = h.utr := rfl
@[simp] theorem Hart.setReg_utr (h : Hart) (r : Reg) (v : Word) : (h.setReg r v).utr = h.utr := by
  unfold Hart.setReg; split <;> rfl
@[simp] theorem Hart.next_taken (h : Hart) : h.next.taken = h.taken := rfl
@[simp] theorem Hart.goto_taken (h : Hart) (pc : Word) : (h.goto pc).taken = h.taken := rfl
@[simp] theorem Hart.setVreg_taken (h : Hart) (r : Nat) (v : VReg) : (h.setVreg r v).taken = h.taken := rfl
@[simp] theorem Hart.setReg_taken (h : Hart) (r : Reg) (v : Word) : (h.setReg r v).taken = h.taken := by
  unfold Hart.setReg; split <;> rfl
@[simp] theorem Hart.next_builtin (h : Hart) : h.next.builtin = h.builtin := rfl
@[simp] theorem Hart.goto_builtin (h : Hart) (pc : Word) : (h.goto pc).builtin = h.builtin := rfl
@[simp] theorem Hart.setVreg_builtin (h : Hart) (r : Nat) (v : VReg) : (h.setVreg r v).builtin = h.builtin := rfl
@[simp] theorem Hart.setReg_builtin (h : Hart) (r : Reg) (v : Word) : (h.setReg r v).builtin = h.builtin := by
  unfold Hart.setReg; split <;> rfl
@[simp] theorem Hart.setVreg_masked (h : Hart) (r : Nat) (v : VReg) : (h.setVreg r v).masked = h.masked := rfl
@[simp] theorem Hart.setReg_masked (h : Hart) (r : Reg) (v : Word) : (h.setReg r v).masked = h.masked := by
  unfold Hart.setReg; split <;> rfl
@[simp] theorem Hart.next_synced (h : Hart) : h.next.synced = h.synced := rfl
@[simp] theorem Hart.goto_synced (h : Hart) (pc : Word) : (h.goto pc).synced = h.synced := rfl
@[simp] theorem Hart.setVreg_synced (h : Hart) (r : Nat) (v : VReg) : (h.setVreg r v).synced = h.synced := rfl
@[simp] theorem Hart.setReg_synced (h : Hart) (r : Reg) (v : Word) : (h.setReg r v).synced = h.synced := by
  unfold Hart.setReg; split <;> rfl
@[simp] theorem Hart.next_halted (h : Hart) : h.next.halted = h.halted := rfl
@[simp] theorem Hart.goto_halted (h : Hart) (pc : Word) : (h.goto pc).halted = h.halted := rfl
@[simp] theorem Hart.setVreg_halted (h : Hart) (r : Nat) (v : VReg) : (h.setVreg r v).halted = h.halted := rfl
@[simp] theorem Hart.setReg_halted (h : Hart) (r : Reg) (v : Word) : (h.setReg r v).halted = h.halted := by
  unfold Hart.setReg; split <;> rfl
@[simp] theorem Hart.next_stepsLeft (h : Hart) : h.next.stepsLeft = h.stepsLeft := rfl
@[simp] theorem Hart.goto_stepsLeft (h : Hart) (pc : Word) : (h.goto pc).stepsLeft = h.stepsLeft := rfl
@[simp] theorem Hart.setVreg_stepsLeft (h : Hart) (r : Nat) (v : VReg) : (h.setVreg r v).stepsLeft = h.stepsLeft := rfl
@[simp] theorem Hart.setReg_stepsLeft (h : Hart) (r : Reg) (v : Word) : (h.setReg r v).stepsLeft = h.stepsLeft := by
  unfold Hart.setReg; split <;> rfl
@[simp] theorem Hart.next_stepElems (h : Hart) : h.next.stepElems = h.stepElems := rfl
@[simp] theorem Hart.goto_stepElems (h : Hart) (pc : Word) : (h.goto pc).stepElems = h.stepElems := rfl
@[simp] theorem Hart.setVreg_stepElems (h : Hart) (r : Nat) (v : VReg) : (h.setVreg r v).stepElems = h.stepElems := rfl
@[simp] theorem Hart.setReg_stepElems (h : Hart) (r : Reg) (v : Word) : (h.setReg r v).stepElems = h.stepElems := by
  unfold Hart.setReg; split <;> rfl
@[simp] theorem Hart.next_pending (h : Hart) : h.next.pending = h.pending := rfl
@[simp] theorem Hart.goto_pending (h : Hart) (pc : Word) : (h.goto pc).pending = h.pending := rfl
@[simp] theorem Hart.setVreg_pending (h : Hart) (r : Nat) (v : VReg) : (h.setVreg r v).pending = h.pending := rfl
@[simp] theorem Hart.setReg_pending (h : Hart) (r : Reg) (v : Word) : (h.setReg r v).pending = h.pending := by
  unfold Hart.setReg; split <;> rfl
@[simp] theorem Hart.setVreg_done (h : Hart) (r : Nat) (v : VReg) : (h.setVreg r v).done = h.done := rfl
@[simp] theorem Hart.setReg_done (h : Hart) (r : Reg) (v : Word) : (h.setReg r v).done = h.done := by
  unfold Hart.setReg; split <;> rfl
@[simp] theorem Hart.next_index (h : Hart) : h.next.index = h.index := rfl
@[simp] theorem Hart.goto_index (h : Hart) (pc : Word) : (h.goto pc).index = h.index := rfl
@[simp] theorem Hart.setVreg_index (h : Hart) (r : Nat) (v : VReg) : (h.setVreg r v).index = h.index := rfl
@[simp] theorem Hart.setReg_index (h : Hart) (r : Reg) (v : Word) : (h.setReg r v).index = h.index := by
  unfold Hart.setReg; split <;> rfl
@[simp] theorem Hart.next_gang (h : Hart) : h.next.gang = h.gang := rfl
@[simp] theorem Hart.goto_gang (h : Hart) (pc : Word) : (h.goto pc).gang = h.gang := rfl
@[simp] theorem Hart.setVreg_gang (h : Hart) (r : Nat) (v : VReg) : (h.setVreg r v).gang = h.gang := rfl
@[simp] theorem Hart.setReg_gang (h : Hart) (r : Reg) (v : Word) : (h.setReg r v).gang = h.gang := by
  unfold Hart.setReg; split <;> rfl
@[simp] theorem Hart.next_retired (h : Hart) : h.next.retired = h.retired := rfl
@[simp] theorem Hart.goto_retired (h : Hart) (pc : Word) : (h.goto pc).retired = h.retired := rfl
@[simp] theorem Hart.setVreg_retired (h : Hart) (r : Nat) (v : VReg) : (h.setVreg r v).retired = h.retired := rfl
@[simp] theorem Hart.setReg_retired (h : Hart) (r : Reg) (v : Word) : (h.setReg r v).retired = h.retired := by
  unfold Hart.setReg; split <;> rfl

end Sys2Proof.Machine
end

