-- ==== Sys2Proof/Laws/Ops.lean ====
section
/-! SUPPORT. One lemma per shared operation that says everything it can do: translation, loads and stores, the
entry of a trap bank, the taking of a trap, the return from one, and the ends of an instruction. -/

namespace Sys2Proof.Machine

/-! ### Loads and stores -/

theorem aligned_eq_ok {va n : Nat} : aligned va n = .ok () ↔ va % n = 0 := by
  unfold aligned; split <;> simp_all

theorem aligned_eq_error {va n : Nat} {t : Stop} :
    aligned va n = .error t ↔ va % n ≠ 0 ∧ t = memTrap .align 1 va := by
  unfold aligned; split <;> simp_all [eq_comm]

/-- What a move of granules, a stall and a translation leave of the memory: its contents, its REPL stores, memcap, the ports and the
patterns. -/
structure SameMem (m n : MemSys) : Prop where
  dev : n.dev = m.dev
  host : n.host = m.host
  peers : n.peers = m.peers
  sectors : n.sectors = m.sectors
  repl : n.repl = m.repl
  cap : n.cap = m.cap
  ports : n.ports = m.ports
  patts : n.patts = m.patts

theorem SameMem.refl (m : MemSys) : SameMem m m := ⟨rfl, rfl, rfl, rfl, rfl, rfl, rfl, rfl⟩

theorem SameMem.trans {m n o : MemSys} (a : SameMem m n) (b : SameMem n o) : SameMem m o :=
  ⟨b.dev.trans a.dev, b.host.trans a.host, b.peers.trans a.peers, b.sectors.trans a.sectors, b.repl.trans a.repl,
    b.cap.trans a.cap, b.ports.trans a.ports, b.patts.trans a.patts⟩

/-- Two states that differ in nothing but the translations kept by cores and harts, the counter of free values, how far the moves of
a retirement have come, and the errors that they have met. -/
structure SameButTlb (s t : State) : Prop where
  now : t.now = s.now
  pace : t.pace = s.pace
  turn : t.turn = s.turn
  inbox : t.inbox = s.inbox
  powered : t.powered = s.powered
  mem : SameMem s.mem t.mem
  dies : t.dies = s.dies
  clusters : t.clusters = s.clusters
  parts : t.parts = s.parts
  tasks : t.tasks = s.tasks
  gangs : t.gangs = s.gangs
  placements : t.placements = s.placements
  archive : t.archive = s.archive
  harts : ∀ k, ∃ u, t.hartAt k = { s.hartAt k with utr := u }
  cores : ∀ c, ∃ l, t.coreAt c = { s.coreAt c with tlb := l }

theorem SameButTlb.refl (s : State) : SameButTlb s s :=
  ⟨rfl, rfl, rfl, rfl, rfl, .refl _, rfl, rfl, rfl, rfl, rfl, rfl, rfl, fun _ => ⟨_, rfl⟩, fun _ => ⟨_, rfl⟩⟩

theorem SameButTlb.trans {s t u : State} (a : SameButTlb s t) (b : SameButTlb t u) : SameButTlb s u where
  now := b.now.trans a.now
  pace := b.pace.trans a.pace
  turn := b.turn.trans a.turn
  inbox := b.inbox.trans a.inbox
  powered := b.powered.trans a.powered
  mem := a.mem.trans b.mem
  dies := b.dies.trans a.dies
  clusters := b.clusters.trans a.clusters
  parts := b.parts.trans a.parts
  tasks := b.tasks.trans a.tasks
  gangs := b.gangs.trans a.gangs
  placements := b.placements.trans a.placements
  archive := b.archive.trans a.archive
  harts := fun k => by
    obtain ⟨x, hx⟩ := a.harts k
    obtain ⟨y, hy⟩ := b.harts k
    exact ⟨y, by rw [hy, hx]⟩
  cores := fun c => by
    obtain ⟨x, hx⟩ := a.cores c
    obtain ⟨y, hy⟩ := b.cores c
    exact ⟨y, by rw [hy, hx]⟩

theorem sameButTlb_setUtr (s : State) (k : Nat) (u : Option TlbEntry) :
    SameButTlb s (s.setHartAt k { s.hartAt k with utr := u }) := by
  refine ⟨rfl, rfl, rfl, rfl, rfl, .refl _, rfl, rfl, rfl, rfl, rfl, rfl, rfl, fun j => ?_, fun _ => ⟨_, rfl⟩⟩
  by_cases h : j = k
  · subst h; exact ⟨u, by simp⟩
  · exact ⟨_, State.hartAt_setHartAt_of_ne _ _ h⟩

theorem sameButTlb_setTlb (s : State) (c : Nat) (l : List TlbEntry) :
    SameButTlb s (s.setCoreAt c { s.coreAt c with tlb := l }).draw := by
  refine ⟨rfl, rfl, rfl, rfl, rfl, .refl _, rfl, rfl, rfl, rfl, rfl, rfl, rfl, fun _ => ⟨_, rfl⟩, fun j => ?_⟩
  by_cases h : j = c
  · subst h; exact ⟨l, by simp⟩
  · exact ⟨(s.coreAt j).tlb, State.coreAt_setCoreAt_of_ne s { s.coreAt c with tlb := l } h⟩

/-! ### Moves of granules -/

theorem setRegs_same {s : State} {m : MemSys} (h : SameMem s.mem m) : SameButTlb s (s.setRegs m) := by
  simp only [State.setRegs]
  split <;> exact ⟨rfl, rfl, rfl, rfl, rfl, ⟨h.dev, h.host, h.peers, h.sectors, h.repl, h.cap, h.ports, h.patts⟩, rfl, rfl, rfl, rfl,
    rfl, rfl, rfl, fun _ => ⟨_, rfl⟩, fun _ => ⟨_, rfl⟩⟩

/-- The errors of a state are the device's own (log 68). -/
theorem noteCopied_eq (s : State) (f : Nat → Bool) : ∃ l, noteCopied s f = { s with noted := l } := by
  unfold noteCopied
  generalize List.filter _ s.mem.bad = ps
  induction ps generalizing s with
  | nil => exact ⟨_, rfl⟩
  | cons p ps ih =>
    obtain ⟨l, hl⟩ := ih (s.note (mediaTrap 5 0 (p.1 * 64)))
    exact ⟨l, hl.trans rfl⟩

theorem copied_same {s : State} {m : MemSys} (f : Nat → Bool) (h : SameMem s.mem m) :
    SameButTlb s ((noteCopied s f).setRegs m) := by
  obtain ⟨l, hl⟩ := noteCopied_eq s f
  rw [hl]
  have h := setRegs_same (s := { s with noted := l }) (m := m) h
  exact { h with }

theorem walkEnd_same (s : State) : SameButTlb s (walkEnd s) := by
  have h := setRegs_same (s := s) (m := { s.mem with
    phase := (s.mem.phase + 1) % 2 ^ 32, oldLive := s.mem.live, step := 0, infl := 0, stage := 0, moved := []
    front := s.mem.cap, leaving := none }) ⟨rfl, rfl, rfl, rfl, rfl, rfl, rfl, rfl⟩
  exact { h with }

theorem moveDone_same (s : State) (g : Nat) : SameButTlb s (moveDone s g) := by
  simp only [moveDone]
  split
  · split <;> exact copied_same _ ⟨rfl, rfl, rfl, rfl, rfl, rfl, rfl, rfl⟩
  · split
    · refine SameButTlb.trans ?_ (walkEnd_same _)
      exact copied_same _ ⟨rfl, rfl, rfl, rfl, rfl, rfl, rfl, rfl⟩
    · exact copied_same _ ⟨rfl, rfl, rfl, rfl, rfl, rfl, rfl, rfl⟩

theorem finishMoves_same (g n : Nat) : ∀ s : State, SameButTlb s (finishMoves g n s) := by
  induction n with
  | zero => exact .refl
  | succ n ih =>
    intro s
    unfold finishMoves
    split
    · exact (moveDone_same _ _).trans (ih _)
    · exact .refl s

/-- An access that reaches its plinth keeps the contents of every memory (R96). -/
theorem reach_same (s : State) (requester a : Nat) : SameButTlb s (s.reach requester a) := by
  simp only [State.reach]
  split
  · exact .refl s
  · split
    · exact finishMoves_same _ _ _
    · have h := finishMoves_same (a / 4096) 513 s
      exact { h with mem := ⟨h.mem.dev, h.mem.host, h.mem.peers, h.mem.sectors, h.mem.repl, h.mem.cap, h.mem.ports, h.mem.patts⟩ }

theorem reachAll_same (requester : Nat) (as : List Nat) : ∀ s : State, SameButTlb s (s.reachAll requester as) := by
  induction as with
  | nil => exact .refl
  | cons a as ih => exact fun s => (reach_same s requester a).trans (ih _)

/-- The reads of a walk keep the contents of every memory (R99). -/
theorem reachTables_same (s : State) (requester part : Nat) (ptbase : Word) (va : Nat) :
    SameButTlb s (s.reachTables requester part ptbase va) := by
  simp only [State.reachTables]
  split
  · exact .refl s
  · exact reachAll_same _ _ _

theorem reachTables2_same (s : State) (requester part pa : Nat) : SameButTlb s (s.reachTables2 requester part pa) := by
  simp only [State.reachTables2]
  split
  · exact .refl s
  · exact reachAll_same _ _ _

/-- Outside a retirement, with no change of the registers on its way to a copy, an access meets no move. -/
theorem reach_idle {s : State} (hp : s.mem.phase % 2 = 0) (hw : s.mem.was = []) (requester a : Nat) :
    s.reach requester a = s := by
  simp [State.reach, hp, hw]

theorem reachTables_idle {s : State} (hp : s.mem.phase % 2 = 0) (hw : s.mem.was = []) (requester part : Nat) (ptbase : Word)
    (va : Nat) : s.reachTables requester part ptbase va = s := by
  simp [State.reachTables, hp, hw]

theorem reachTables2_idle {s : State} (hp : s.mem.phase % 2 = 0) (hw : s.mem.was = []) (requester part pa : Nat) :
    s.reachTables2 requester part pa = s := by
  simp [State.reachTables2, hp, hw]

/-! ### Translation -/

/-- A lookup keeps everything but the translations. -/
theorem lookup_same {s t : State} {k va : Nat} {acc : Access} {unit : Bool} {e : TlbEntry}
    (h : lookup s k acc unit va = .ok (e, t)) : SameButTlb s t := by
  have keep : ∀ (u : State) (x : TlbEntry),
      SameButTlb u (if unit = true then u.setHartAt k { u.hartAt k with utr := some x } else u) := fun u x => by
    split
    · exact sameButTlb_setUtr u k _
    · exact .refl u
  simp only [lookup] at h
  split at h
  · cases h
  · split at h
    · cases h; exact .refl _
    · split at h
      · cases h; exact keep _ _
      · split at h
        · cases h
        · cases h; exact (reachTables_same s _ _ _ _).trans ((sameButTlb_setTlb _ _ _).trans (keep _ _))

theorem lookupBy_same {pages : List TlbEntry} {s t : State} {k va : Nat} {acc : Access} {unit : Bool} {e : TlbEntry}
    (h : lookupBy pages s k acc unit va = .ok (e, t)) : SameButTlb s t := by
  unfold lookupBy at h
  split at h
  · split at h
    · cases h
    · cases h; exact .refl _
  · exact lookup_same h

/-- A translation keeps everything but the translations kept. -/
theorem translateAs_same {requester : Nat} {pages : List TlbEntry} {s t : State} {k va : Nat} {acc : Access} {unit : Bool} {p : Place}
    {e : Option TlbEntry} (h : translateAs requester pages s k acc unit va = .ok (p, e, t)) : SameButTlb s t := by
  unfold translateAs at h
  split at h
  · cases h
  · split at h
    · cases h
    · cases h; exact .refl _
  · split at h
    · cases h
    · rename_i heq
      split at h
      · cases h
      · split at h
        · cases h
        · cases h
          refine (lookupBy_same heq).trans ?_
          split
          · exact reach_same _ _ _
          · exact .refl _

theorem translateBy_same {pages : List TlbEntry} {s t : State} {k va : Nat} {acc : Access} {unit : Bool} {p : Place}
    {e : Option TlbEntry} (h : translateBy pages s k acc unit va = .ok (p, e, t)) : SameButTlb s t := translateAs_same h

theorem translate_same {s t : State} {k va : Nat} {acc : Access} {unit : Bool} {p : Place}
    (h : translate s k acc unit va = .ok (p, t)) : SameButTlb s t := by
  unfold translate at h
  split at h
  · cases h
  · rename_i heq
    cases h; exact translateBy_same heq

/-- When a load delivers, and what. -/
theorem load_eq_ok {s t : State} {k n va v : Nat} {unit : Bool} :
    load s k unit n va = .ok (v, t) ↔
      va % n = 0 ∧ ∃ p e bytes, translateBy [] s k .load unit va = .ok (p, e, t) ∧
        viewPlace t k p n va = .ok bytes ∧ v = leNat bytes := by
  unfold load loadBy
  constructor
  · intro h
    split at h
    · cases h
    · rename_i ha
      split at h
      · cases h
      · rename_i ht
        split at h
        · cases h
        · rename_i hv
          cases h
          exact ⟨aligned_eq_ok.1 ha, _, _, _, ht, hv, rfl⟩
  · rintro ⟨ha, p, e, bytes, ht, hv, rfl⟩
    simp only [aligned_eq_ok.2 ha, ht, hv]

theorem load_same {s t : State} {k n va v : Nat} {unit : Bool} (h : load s k unit n va = .ok (v, t)) :
    SameButTlb s t :=
  let ⟨_, _, _, _, ht, _⟩ := load_eq_ok.1 h
  translateBy_same ht

/-- When a store performs, and how. -/
theorem store_eq_ok {s t : State} {k n va v : Nat} {unit : Bool} :
    store s k unit n va v = .ok t ↔
      va % n = 0 ∧ ∃ p e u, translateBy [] s k .store unit va = .ok (p, e, u) ∧
        storePlace u k p e 0xFF false (leBytes n v) va = .ok t := by
  unfold store storeBy
  constructor
  · intro h
    split at h
    · cases h
    · rename_i ha
      split at h
      · cases h
      · rename_i ht
        exact ⟨aligned_eq_ok.1 ha, _, _, _, ht, h⟩
  · rintro ⟨ha, p, e, u, ht, hs⟩
    simp only [aligned_eq_ok.2 ha, ht, hs]

theorem load_misaligned {s : State} {k n va : Nat} {unit : Bool} (h : va % n ≠ 0) :
    load s k unit n va = .error (memTrap .align 1 va) := by
  simp [load, loadBy, aligned, h]

theorem store_misaligned {s : State} {k n va v : Nat} {unit : Bool} (h : va % n ≠ 0) :
    store s k unit n va v = .error (memTrap .align 1 va) := by
  simp [store, storeBy, aligned, h]

/-- Outside a strip a store of whole bytes goes to its target. -/
theorem storePlace_of_not_buffers {s : State} {k va : Nat} {p : Place} {page : Option TlbEntry} {bytes : List Byte}
    (h : (s.hartAt k).buffers = false) : storePlace s k p page 0xFF false bytes va = writePlace s k p .store bytes va := by
  simp only [storePlace, h, Bool.false_and, Bool.false_eq_true, if_false, unprotect]
  split <;> simp

/-! ### The ends of an instruction -/

@[simp] theorem orStop_ok (s t : State) : orStop s (.ok t) = t := rfl
@[simp] theorem orStop_error (s : State) (st : Stop) : orStop s (.error st) = stop s st := rfl

@[simp] theorem finish_hart (s : State) (h : Hart) : (finish s h).hart = h.next := by simp [finish]

theorem finish_hartAt_of_ne (s : State) (h : Hart) {j : Nat} (hj : j ≠ s.turn) :
    (finish s h).hartAt j = s.hartAt j :=
  State.hartAt_setHartAt_of_ne _ _ hj

@[simp] theorem finish_mem (s : State) (h : Hart) : (finish s h).mem = s.mem := rfl
@[simp] theorem finish_cores (s : State) (h : Hart) : (finish s h).cores = s.cores := rfl
@[simp] theorem finish_turn (s : State) (h : Hart) : (finish s h).turn = s.turn := rfl
@[simp] theorem waitFor_hart (s : State) (w : Wait) :
    (waitFor s w).hart = { s.hart with slot := .waiting, wait := w } := by simp [waitFor]

/-! ### Traps -/

/-- A stop outside a protected strip takes its trap. -/
theorem raise_trap {s : State} {k : Nat} {tpc : Word} {vec : Option Nat} {t : TrapInfo}
    (h : ((seeError s t).hartAt k).ckpt = none) : raise s k tpc vec (.trap t) = takeTrap (seeError s t) k tpc vec t := by
  simp [raise, h]

theorem writeBackStreams_of_none {s : State} {k : Nat} (h : (s.hartAt k).streams = []) :
    writeBackStreams s k = s := by
  simp [writeBackStreams, h]

/-- A hart that a trap finds outside any handler, without bound streams and without a debug step. -/
structure Quiet (h : Hart) : Prop where
  sbank : h.sbank.intrap = false
  streams : h.streams = []
  steps : h.stepsLeft = none
  elems : h.stepElems = none

/-- The cause goes to the S bank: a cause that only the S bank takes, or a U bank without a handler. -/
theorem takeTrap_to_S {s : State} {k : Nat} {tpc : Word} {vec : Option Nat} {t : TrapInfo}
    (hq : Quiet (s.hartAt k)) (hu : causeUser t.cause = false ∨
      ((s.hartAt k).ubank.ready = false ∧ (s.hartAt k).ubank.intrap = false ∧ (s.hartAt k).kind ≠ .helper))
    (hs : (s.hartAt k).sbank.ready = true) :
    takeTrap s k tpc vec t = enterBank s k false false tpc vec t := by
  simp only [takeTrap, writeBackStreams_of_none hq.streams, hq.sbank, hq.steps, hq.elems]
  rcases hu with hu | ⟨hr, hi, hk⟩
  · simp [hu, hs]
  · simp [hr, hi, hk, hs]

/-- A U cause outside a U handler goes to a U bank that has a handler. -/
theorem takeTrap_to_U {s : State} {k : Nat} {tpc : Word} {vec : Option Nat} {t : TrapInfo}
    (hq : Quiet (s.hartAt k)) (hu : causeUser t.cause = true) (hi : (s.hartAt k).ubank.intrap = false)
    (hr : (s.hartAt k).ubank.ready = true) :
    takeTrap s k tpc vec t = enterBank s k true false tpc vec t := by
  simp [takeTrap, writeBackStreams_of_none hq.streams, hq.sbank, hq.steps, hq.elems, hu, hi, hr]

/-- A U cause inside a U handler goes to the S bank, and tcause.NESTED says so. -/
theorem takeTrap_nested {s : State} {k : Nat} {tpc : Word} {vec : Option Nat} {t : TrapInfo}
    (hq : Quiet (s.hartAt k)) (hu : causeUser t.cause = true) (hi : (s.hartAt k).ubank.intrap = true)
    (hr : (s.hartAt k).sbank.ready = true) :
    takeTrap s k tpc vec t = enterBank s k false true tpc vec t := by
  simp [takeTrap, writeBackStreams_of_none hq.streams, hq.sbank, hq.steps, hq.elems, hu, hi, hr]

/-- tcause of every entry has INTRAP. -/
theorem tcauseWord_intrap (nested vec : Bool) (p : Priv) (c : Cause) :
    (tcauseWord nested vec p c).toNat.testBit 15 = true := by
  cases nested <;> cases vec <;> cases p <;> cases c <;> decide

/-- What the entry of the S bank writes: the hart is STOPPED while its handler runs (R148). -/
theorem enterBank_S (s : State) (k : Nat) (nested : Bool) (tpc : Word) (vec : Option Nat) (t : TrapInfo) :
    (enterBank s k false nested tpc vec t).hartAt k =
      { (s.hartAt k).park with
        sbank := (s.hartAt k).park.sbank.enter (s.hartAt k).park nested tpc vec t
        pc := (s.hartAt k).park.sbank.handler, priv := .supervisor, slot := .stopped, wait := .handler } := by
  have h := tcauseWord_intrap nested vec.isSome (s.hartAt k).park.priv t.cause
  simp [enterBank, Hart.run, TrapBank.intrap, TrapBank.enter, h]

/-- What the entry of the U bank writes, outside a supervisor handler. -/
theorem enterBank_U (s : State) (k : Nat) (nested : Bool) (tpc : Word) (vec : Option Nat) (t : TrapInfo)
    (hs : (s.hartAt k).park.sbank.intrap = false) :
    (enterBank s k true nested tpc vec t).hartAt k =
      { (s.hartAt k).park with
        ubank := (s.hartAt k).park.ubank.enter (s.hartAt k).park nested tpc vec t
        pc := (s.hartAt k).park.ubank.handler, slot := .running } := by
  simp [enterBank, Hart.run, hs]

theorem enterBank_other (s : State) (k : Nat) (toU nested : Bool) (tpc : Word) (vec : Option Nat) (t : TrapInfo)
    {j : Nat} (hj : j ≠ k) : (enterBank s k toU nested tpc vec t).hartAt j = s.hartAt j :=
  State.hartAt_setHartAt_of_ne _ _ hj

@[simp] theorem enterBank_mem (s : State) (k : Nat) (toU nested : Bool) (tpc : Word) (vec : Option Nat) (t : TrapInfo) :
    (enterBank s k toU nested tpc vec t).mem = s.mem := rfl

@[simp] theorem enterBank_cores (s : State) (k : Nat) (toU nested : Bool) (tpc : Word) (vec : Option Nat) (t : TrapInfo) :
    (enterBank s k toU nested tpc vec t).cores = s.cores := rfl

/-! ### The return from a trap -/

/-- Outside any handler the return is illegal. -/
theorem leaveTrap_outside {s : State} (hu : s.hart.ubank.intrap = false) (hs : s.hart.sbank.intrap = false) :
    leaveTrap s = illegal s := by
  simp [leaveTrap, hu, hs]

/-- The S handler returns with RESUME 0: the privilege that PRIV holds, the pc of tpc, INTRAP clear. -/
theorem leaveTrap_S {s : State} (hp : s.hart.priv = .supervisor) (hs : s.hart.sbank.intrap = true)
    (hr : bits s.hart.sbank.tcause.toNat 13 12 = 0) :
    leaveTrap s = s.setHart { (Hart.run { s.hart with
        sbank := { s.hart.sbank with tcause := s.hart.sbank.tcause &&& ~~~0xB000#64 } }) with
      priv := if s.hart.sbank.tcause.toNat.testBit 10 then .supervisor else .user
      pc := s.hart.sbank.tpc, viq := s.hart.viq
      synced := s.hart.synced.filter fun r => r.1 == s.hart.sbank.tpc || (s.hart.ubank.intrap && r.1 == s.hart.ubank.tpc)
      masked := false, done := s.hart.done + 1 } := by
  simp [leaveTrap, hp, hs, hr]

/-- The U handler returns to user privilege with RESUME 0. -/
theorem leaveTrap_U {s : State} (hp : s.hart.priv = .user) (hu : s.hart.ubank.intrap = true)
    (hl : s.hart.ubank.tcause.toNat.testBit 10 = false) (hr : bits s.hart.ubank.tcause.toNat 13 12 = 0) :
    leaveTrap s = s.setHart { (Hart.run { s.hart with
        ubank := { s.hart.ubank with tcause := s.hart.ubank.tcause &&& ~~~0xB000#64 } }) with
      priv := .user, pc := s.hart.ubank.tpc, viq := s.hart.viq
      synced := s.hart.synced.filter fun r => r.1 == s.hart.ubank.tpc ||
        (TrapBank.intrap { s.hart.ubank with tcause := s.hart.ubank.tcause &&& ~~~0xB000#64 } && r.1 == s.hart.ubank.tpc)
      masked := false, done := s.hart.done + 1 } := by
  simp [leaveTrap, hp, hu, hl, hr]

end Sys2Proof.Machine
end

