-- ==== Sys2Proof/Laws/Sound.lean ====
section
/-! SUPPORT. The writes of targets keep every memory outside the cores in its canonical form (log 2). -/

namespace Sys2Proof.Machine.Claim

theorem memOk_of_mem {s t : State} (h : memOk s) (hm : SameMem s.mem t.mem) : memOk t := by
  unfold memOk at h ⊢; rwa [hm.dev, hm.host, hm.peers]

theorem memOk_of_same {s t : State} (h : memOk s) (hs : SameButTlb s t) : memOk t := memOk_of_mem h hs.mem

theorem peers_wf {s : State} (h : memOk s) (p : Nat) : Memory.wf (Table.get [] s.mem.peers p) = true := by
  rcases Table.get_mem [] s.mem.peers p with he | hm
  · rw [he]; rfl
  · exact h.2.2 p _ hm

/-- Two memory systems with device memory canonical, whose other memories are the same. -/
structure DevKept (m m' : MemSys) : Prop where
  dev : Memory.wf m'.dev = true
  host : m'.host = m.host
  peers : m'.peers = m.peers

/-- A plinth's write of one unit changes device memory, its sectors and its codewords alone, and keeps device memory canonical. -/
theorem writeUnit_ok {m m' : MemSys} {part a : Nat} {enc : Bool} {bytes : List Byte}
    (h : writeUnit m part enc a bytes = .ok m') (hw : Memory.wf m.dev = true) : DevKept m m' := by
  unfold writeUnit at h
  simp only at h
  split at h
  · split at h <;> cases h; exact ⟨Memory.wf_writeBytes hw _ _, rfl, rfl⟩
  · split at h <;> cases h; exact ⟨Memory.wf_writeBytes hw _ _, rfl, rfl⟩
  · cases h; exact ⟨Memory.wf_writeBytes hw _ _, rfl, rfl⟩
  · cases h; exact ⟨Memory.wf_writeBytes (Memory.wf_writeBytes hw _ _) _ _, rfl, rfl⟩
  · cases h; exact ⟨Memory.wf_writeBytes hw _ _, rfl, rfl⟩

theorem writeUnits_ok {part base : Nat} {enc : Bool} {bytes : List Byte} (l : List (Nat × Nat)) :
    ∀ {m m' : MemSys}, writeUnits part enc base bytes l m = .ok m' → Memory.wf m.dev = true → DevKept m m' := by
  induction l with
  | nil => intro m m' h hw; cases h; exact ⟨hw, rfl, rfl⟩
  | cons p rest ih =>
    intro m m' h hw
    unfold writeUnits at h
    split at h
    · cases h
    · rename_i heq
      have h1 := writeUnit_ok heq hw
      have h2 := ih h h1.dev
      exact ⟨h2.dev, h2.host.trans h1.host, h2.peers.trans h1.peers⟩

theorem devWrite_ok {m m' : MemSys} {part a : Nat} {enc : Bool} {bytes : List Byte}
    (h : devWrite m part enc a bytes = .ok m') (hw : Memory.wf m.dev = true) : DevKept m m' :=
  writeUnits_ok _ h hw

theorem memOk_of_dev {s t : State} {m : MemSys} (h : memOk s) (hm : DevKept s.mem m)
    (hd : t.mem.dev = m.dev) (hh : t.mem.host = m.host) (hp : t.mem.peers = m.peers) : memOk t := by
  refine ⟨by rw [hd]; exact hm.dev, by rw [hh, hm.host]; exact h.2.1, fun p x hx => ?_⟩
  rw [hp, hm.peers] at hx; exact h.2.2 p x hx

theorem memOk_poke {s : State} (h : memOk s) (a : Nat) (bytes : List Byte) : memOk (s.poke a bytes) := by
  unfold State.poke
  split
  · rename_i heq
    exact memOk_of_dev h (devWrite_ok heq h.1) rfl rfl rfl
  · exact h

/-- A write that its target performs keeps every memory canonical. -/
theorem memOk_targetPut {s t : State} {k : Nat} {p : Place} {acc : Access} {bytes : List Byte} (h : memOk s)
    (ht : targetPut s k p acc bytes = .ok t) : memOk t := by
  unfold targetPut at ht
  simp only at ht
  split at ht
  · split at ht
    · cases ht
    · rename_i heq
      cases ht
      exact memOk_of_dev h (devWrite_ok heq h.1) rfl rfl rfl
  · cases ht; exact h
  · cases ht; exact h
  · cases ht
    refine ⟨h.1, h.2.1, fun q m hm => ?_⟩
    rcases Table.mem_set hm with he | hm
    · cases he; exact Memory.wf_writeBytes (peers_wf h _) _ _
    · exact h.2.2 q m hm
  · cases ht; exact ⟨h.1, Memory.wf_writeBytes h.2.1 _ _, h.2.2⟩
  · cases ht; exact h

theorem memOk_targetWrite {s t : State} {k va : Nat} {p : Place} {acc : Access} {bytes : List Byte} (h : memOk s)
    (ht : targetWrite s k p acc bytes va = .ok t) : memOk t := by
  unfold targetWrite at ht
  split at ht
  · cases ht
  · exact memOk_targetPut h ht

theorem memOk_settleRepl {s : State} (h : memOk s) (k : Nat) : memOk (settleRepl s k) := by
  unfold settleRepl; split
  · exact h
  · exact h

/-- A write that enters from outside keeps every memory canonical. -/
theorem memOk_inboundWrite {s t : State} {who part a : Nat} {bytes : List Byte} (h : memOk s)
    (ht : inboundWrite s who part a bytes = .ok t) : memOk t := by
  unfold inboundWrite at ht
  have h := memOk_settleRepl h who
  simp only at ht
  split at ht
  · cases ht
  · rename_i heq
    cases ht
    exact memOk_of_dev h (devWrite_ok heq h.1) rfl rfl rfl

theorem memOk_reach {s : State} (h : memOk s) (requester a : Nat) : memOk (s.reach requester a) :=
  memOk_of_same h (reach_same s requester a)

theorem memOk_commitStore {s : State} (h : memOk s) (k : Nat) (b : StripStore) : memOk (commitStore k s b) := by
  unfold commitStore
  extract_lets u
  have hu : memOk u := by
    simp only [u]; split
    · exact memOk_reach h _ _
    · exact h
  clear_value u
  split
  · split <;> exact hu
  · exact hu
  · have hw : memOk (if b.ordered = true then settleRepl u k else u) := by
      split
      · exact memOk_settleRepl hu k
      · exact hu
    split
    · exact memOk_targetPut hw ‹_›
    · exact hw

/-- The commit of a strip keeps every memory canonical. -/
theorem memOk_commitStrip {s : State} (h : memOk s) (k : Nat) : memOk (commitStrip s k) := by
  unfold commitStrip
  simp only
  generalize (s.hartAt k).strip = l
  suffices H : ∀ (l : List StripStore) (u : State), memOk u → memOk (l.foldl (commitStore k) u) from H l _ h
  intro l
  induction l with
  | nil => exact fun u hu => hu
  | cons e rest ih => exact fun u hu => ih _ (memOk_commitStore hu k e)

theorem memOk_finish {s : State} (h : memOk s) (x : Hart) : memOk (finish s x) := h
theorem memOk_enterBank {s : State} (h : memOk s) (k : Nat) (toU nested : Bool) (tpc : Word) (vec : Option Nat)
    (t : TrapInfo) : memOk (enterBank s k toU nested tpc vec t) := h

theorem memOk_load {s t : State} {k n va v : Nat} {unit : Bool} (h : memOk s)
    (hl : load s k unit n va = .ok (v, t)) : memOk t := memOk_of_same h (load_same hl)

end Sys2Proof.Machine.Claim
end

