-- ==== Sys2Proof/Tests/Base.lean ====
section
/-! SUPPORT. What the tests build their small states from: a hart of each kind in slot 0 or 4 of core 0 of the machine after
reset, and the ways to show that it meets a claim's conditions. -/

namespace Sys2Proof.Tests

open Sys2Proof.Machine Sys2Proof.Machine.Claim

/-- Scalar registers set one by one. -/
def regs (h : Hart) (l : List (Reg × Word)) : Hart := l.foldl (fun h r => h.setReg r.1 r.2) h

/-- Vector registers set one by one, from bytes at offsets. -/
def vregs (h : Hart) (l : List (Nat × Memory)) : Hart := l.foldl (fun h r => h.setVreg r.1 { bytes := r.2 }) h

/-- A vector hart in supervisor privilege with a handler in its S bank. -/
def vec : Hart := { slot := .running, kind := .vector, priv := .supervisor, pc := 0x100, sbank := { tvec := 0x4000 } }

/-- The same in user privilege. -/
def usr : Hart := { vec with priv := .user }

/-- The machine after reset with hart 0 and core 0 given. -/
def mach (h : Hart) (c : Core := {}) : State := { State.reset with harts := [(0, h)], cores := [(0, c)] }

/-- The same with slot 4 of core 0 and its turn. -/
def mach4 (h : Hart) (c : Core := {}) (others : List (Nat × Hart) := []) : State :=
  { State.reset with harts := others ++ [(4, h)], cores := [(0, c)], turn := 4 }

/-- A virtual address of the local scratchpad (R10), and of the local scalar data memory. -/
def spad (off : Nat) : Word := BitVec.ofNat 64 (Config.localBase + off)
def sdm (off : Nat) : Word := BitVec.ofNat 64 (Config.localBase + 0x400000 + off)

/-! ### Conditions as Booleans -/

theorem noStrip_of {s : State} (h : (s.hart.ckpt == none && s.hart.strip == [] && s.hart.used == 0) = true) : noStrip s := by
  simpa [noStrip, and_assoc] using h

theorem trapReady_of {h : Hart} (hh : decide (h.sbank.intrap = false ∧ (h.sbank.tvec &&& ~~~3#64) ≠ 0 ∧ h.ckpt = none ∧
    h.streams = [] ∧ h.stepsLeft = none ∧ h.stepElems = none ∧ (h.kind = .helper → (h.ubank.tvec &&& ~~~3#64) ≠ 0)) = true) :
    trapReady h := by
  have := of_decide_eq_true hh
  exact this

theorem idleQueue_of {s : State} (h : decide (s.hart.kind = .vector ∧ s.hart.intrap = false ∧ s.hart.viq = [] ∧
    s.hart.sync = [] ∧ s.hart.stepElems = none ∧ s.core.holes = [] ∧ s.core.dbg = []) = true) : idleQueue s := by
  have := of_decide_eq_true h
  exact this

/-- What holds of the 32 registers holds of every number. -/
theorem vregs_all {h : Hart} {P : VReg → Prop} (hp : ∀ n : Fin 32, P (h.vreg n.val)) (n : Nat) : P (h.vreg n) := by
  have := hp ⟨n % 32, Nat.mod_lt _ (by decide)⟩
  simpa [Hart.vreg] using this

theorem vecReady_of {s : State} (h : decide ((s.hart.kind = .vector ∧ s.hart.intrap = false ∧ s.hart.viq = [] ∧
    s.hart.sync = [] ∧ s.hart.stepElems = none ∧ s.core.holes = [] ∧ s.core.dbg = []) ∧ s.hart.streams = [] ∧
    ∀ n : Fin 32, (s.hart.vreg n.val).absent = [] ∧ (s.hart.vreg n.val).bad = []) = true) : vecReady s := by
  obtain ⟨h1, h2, h3⟩ := of_decide_eq_true h
  exact ⟨h1, h2, fun n => vregs_all (P := fun v => v.absent = [] ∧ v.bad = []) h3 n⟩

theorem arrayReady_of {s : State} {modes : List Nat} (h1 : vecReady s) (h2 : noStrip s)
    (h : decide (s.core.mode ∈ modes ∧ s.core.mode ≠ 0 ∧ s.core.owner = slotOf s.turn ∧ hasArray s s.turn = true ∧
      0 < s.core.mvl ∧ s.core.mvl ≤ 128 ∧ s.core.tm ≤ 128 ∧ s.core.tn ≤ 128 ∧ s.core.badCells = []) = true) :
    arrayReady s modes := ⟨h1, h2, of_decide_eq_true h⟩

/-- A core none of whose slots is protected has no piece that a strip holds. -/
theorem inPiece_false {s : State} {c off : Nat} (h : ∀ slot : Fin 4, (s.hartAt (c * 8 + slot.val)).pmode.testBit 1 = false) :
    s.inPiece c off = false := by
  have hs : ∀ slot, slot < 4 → (s.hartAt (c * 8 + slot)).pmode.testBit 1 = false := fun slot hl => h ⟨slot, hl⟩
  have hl : List.range 4 = [0, 1, 2, 3] := by decide
  simp only [State.inPiece, hl, List.any_cons, List.any_nil]
  rw [hs 0 (by decide), hs 1 (by decide), hs 2 (by decide), hs 3 (by decide)]
  rfl

theorem inSpad_of {s : State} {va n : Nat}
    (h : decide (Config.localBase ≤ va ∧ va + n ≤ Config.localBase + Config.spadBytes ∧
      badWord s.core.badSpad (va - Config.localBase) n = false ∧
      ∀ slot : Fin 4, (s.hartAt (coreOf s.turn * 8 + slot.val)).pmode.testBit 1 = false) = true) : inSpad s va n := by
  obtain ⟨h1, h2, h3, h4⟩ := of_decide_eq_true h
  exact ⟨h1, h2, h3, fun _ _ => inPiece_false h4⟩

theorem serves_spad {s : State} {k c o n : Nat} {kind : Nat} {enc : Bool}
    (h : decide (badWord (s.coreAt c).badSpad o n = false ∧
      ∀ slot : Fin 4, (s.hartAt (c * 8 + slot.val)).pmode.testBit 1 = false) = true) :
    serves s k { loc := .spad c o, kind := kind, enc := enc } n := by
  obtain ⟨h1, h2⟩ := of_decide_eq_true h
  exact ⟨inPiece_false h2, h1⟩

theorem serves_dev {s : State} {k n a : Nat} {p : Place} (hp : p.loc = .dev a)
    (h : (decide (p.kind = 0) && decide (p.enc = false) && decide (s.mem.cap * 4096 > a) &&
      (s.owns ((s.partOf (coreOf k)).getD 0) a) && decide (Table.find? s.mem.bad (a / 64) = none) &&
      decide (Table.find? s.mem.sectors (a / 512) = none ∨ Table.find? s.mem.sectors (a / 512) = some .plain)) = true) :
    serves s k p n := by
  simp only [Bool.and_eq_true, decide_eq_true_eq] at h
  obtain ⟨⟨⟨⟨⟨h1, h2⟩, h3⟩, h4⟩, h5⟩, h6⟩ := h
  unfold serves
  rw [hp]
  exact ⟨h1, h2, h3, h4, h5, h6⟩

theorem untracked_of {s : State} (h : (s.cores.all fun (p : Nat × Core) => p.2.tracks == []) = true) : untracked s := by
  intro p hp
  simpa using List.all_eq_true.1 h p hp

/-- An element acted on lies below vl and the rows. -/
theorem acts_lt {x : LaneI} {h : Hart} {el q : Nat} (ha : x.acts h el q = true) : el < h.vl ∧ q < x.rows h := by
  simp only [LaneI.acts, Bool.and_eq_true, decide_eq_true_eq] at ha
  exact ha.1

/-- A condition on every element acted on, from the elements below vl and the rows. -/
theorem acts_all {x : LaneI} {h : Hart} {P : Nat → Nat → Prop} {vl rows : Nat} (hv : h.vl = vl) (hr : x.rows h = rows)
    (hp : ∀ el : Fin vl, ∀ q : Fin rows, x.acts h el.val q.val = true → P el.val q.val) :
    ∀ el q, x.acts h el q = true → P el q := by
  intro el q ha
  obtain ⟨h1, h2⟩ := acts_lt ha
  exact hp ⟨el, hv ▸ h1⟩ ⟨q, hr ▸ h2⟩ ha

/-- The machine after the translation of an address for the executing hart. -/
def walked (s : State) (acc : Access) (va : Nat) : State :=
  match translate s s.turn acc false va with | .ok (_, t) => t | .error _ => s

/-- A translation delivers a place. -/
theorem walked_ok {s : State} {acc : Access} {va : Nat} {p : Place}
    (h : (match translate s s.turn acc false va with | .ok (q, _) => decide (q = p) | .error _ => false) = true) :
    translate s s.turn acc false va = .ok (p, walked s acc va) := by
  unfold walked
  split at h
  · rename_i q t he
    rw [he, of_decide_eq_true h]
  · cases h

/-- A machine whose hart 0 addresses the first 64 GiB of device memory by the same addresses (log 1). -/
def mapped (h : Hart) (c : Core := {}) : State := withHart (mach h c)

theorem ok_of {α : Type} [DecidableEq α] {r : Except Stop α} {x : α}
    (h : (match r with | .ok y => decide (y = x) | .error _ => false) = true) : r = .ok x := by
  split at h
  · rw [of_decide_eq_true h]
  · cases h

end Sys2Proof.Tests
end

