-- ==== Sys2Proof/Tests/Words.lean ====
section
/-! SUPPORT. Words of every row of the opcode table that has one, put together field by field from the encodings of R243 to R249
and of the table: each decodes to the instruction it stands for, which encodes to it again. -/

namespace Sys2Proof.Tests

set_option Elab.async false

noncomputable section

/-- A word from its fields: the lowest bit of each, and its value. -/
def fields (l : List (Nat × Nat)) : Nat := l.foldl (fun n f => n + f.2 * 2 ^ f.1) 0

/-- A word decodes to an instruction, which encodes to the word and is well formed or not. -/
def means (wf : Bool) (w : Nat × Instr) : Bool :=
  decide ((decodeWord w.1).toOption = some w.2) && encodeNat w.2 == some w.1 && w.2.wf == wf

/-- Words of the families ill. -/
def wordsIll : List (Nat × Instr) :=
  [(fields [(0, 0x2345678)], .ill 0x2345678),
   (fields [(26, 0x3f), (0, 0x2345678)], .ill3f 0x2345678)]

theorem test_words_ill : wordsIll.all (means false) = true := by decide +kernel

/-- Words of the families alu, alui, br, jr. -/
def wordsScalar : List (Nat × Instr) :=
  [(fields [(26, 1), (21, 5), (16, 6), (11, 7), (7, 3)], .aluAdd 5 6 7 .i64),
   (fields [(26, 1), (21, 5), (16, 6), (11, 7), (7, 3), (0, 1)], .aluSub 5 6 7 .i64),
   (fields [(26, 1), (21, 5), (16, 6), (11, 7), (7, 3), (0, 2)], .aluAdds 5 6 7 .i64),
   (fields [(26, 1), (21, 5), (16, 6), (11, 7), (7, 3), (0, 3)], .aluSubs 5 6 7 .i64),
   (fields [(26, 1), (21, 5), (16, 6), (11, 7), (7, 3), (0, 4)], .aluMul 5 6 7 .i64),
   (fields [(26, 1), (21, 5), (16, 6), (11, 7), (7, 3), (0, 5)], .aluMulh 5 6 7 .i64),
   (fields [(26, 1), (21, 5), (16, 6), (11, 7), (7, 3), (0, 6)], .aluDiv 5 6 7 .i64),
   (fields [(26, 1), (21, 5), (16, 6), (11, 7), (7, 3), (0, 7)], .aluRem 5 6 7 .i64),
   (fields [(26, 1), (21, 5), (16, 6), (11, 7), (7, 3), (0, 8)], .aluAnd 5 6 7 .i64),
   (fields [(26, 1), (21, 5), (16, 6), (11, 7), (7, 3), (0, 9)], .aluOr 5 6 7 .i64),
   (fields [(26, 1), (21, 5), (16, 6), (11, 7), (7, 3), (0, 0xa)], .aluXor 5 6 7 .i64),
   (fields [(26, 1), (21, 5), (16, 6), (11, 7), (7, 3), (0, 0xb)], .aluAndn 5 6 7 .i64),
   (fields [(26, 1), (21, 5), (16, 6), (11, 7), (7, 3), (0, 0xc)], .aluShl 5 6 7 .i64),
   (fields [(26, 1), (21, 5), (16, 6), (11, 7), (7, 3), (0, 0xd)], .aluShr 5 6 7 .i64),
   (fields [(26, 1), (21, 5), (16, 6), (11, 7), (7, 3), (0, 0xe)], .aluMin 5 6 7 .i64),
   (fields [(26, 1), (21, 5), (16, 6), (11, 7), (7, 3), (0, 0xf)], .aluMax 5 6 7 .i64),
   (fields [(26, 1), (21, 5), (16, 6), (11, 7), (7, 3), (0, 0x10)], .aluSlt 5 6 7 .i64),
   (fields [(26, 1), (21, 5), (16, 6), (11, 7), (7, 3), (0, 0x11)], .aluSeq 5 6 7 .i64),
   (fields [(26, 1), (21, 5), (16, 6), (7, 3), (0, 0x12)], .aluPcnt 5 6 .i64),
   (fields [(26, 1), (21, 5), (16, 6), (7, 3), (0, 0x13)], .aluClz 5 6 .i64),
   (fields [(26, 1), (21, 5), (16, 6), (7, 3), (0, 0x14)], .aluCtz 5 6 .i64),
   (fields [(26, 2), (21, 5), (16, 6), (0, 0x923)], .aluiAdd 5 6 0x923),
   (fields [(26, 2), (21, 5), (16, 6), (12, 1), (0, 0x923)], .aluiAnd 5 6 0x923),
   (fields [(26, 2), (21, 5), (16, 6), (12, 2), (0, 0x923)], .aluiOr 5 6 0x923),
   (fields [(26, 2), (21, 5), (16, 6), (12, 3), (0, 0x923)], .aluiXor 5 6 0x923),
   (fields [(26, 2), (21, 5), (16, 6), (6, 0x100), (0, 0x2b)], .aluiShl 5 6 0x2b),
   (fields [(26, 2), (21, 5), (16, 6), (6, 0x140), (0, 0x2b)], .aluiShr 5 6 0x2b),
   (fields [(26, 2), (21, 5), (16, 6), (6, 0x180), (0, 0x2b)], .aluiSra 5 6 0x2b),
   (fields [(26, 2), (21, 5), (16, 6), (12, 7), (0, 0x923)], .aluiSlt 5 6 0x923),
   (fields [(26, 2), (21, 5), (16, 6), (12, 8), (0, 0x923)], .aluiSltu 5 6 0x923),
   (fields [(26, 7), (21, 6), (16, 7), (0, 0x1234)], .brEq 6 7 0x1234),
   (fields [(26, 7), (21, 6), (16, 7), (13, 1), (0, 0x1234)], .brNe 6 7 0x1234),
   (fields [(26, 7), (21, 6), (16, 7), (13, 2), (0, 0x1234)], .brLt 6 7 0x1234),
   (fields [(26, 7), (21, 6), (16, 7), (13, 3), (0, 0x1234)], .brGe 6 7 0x1234),
   (fields [(26, 7), (21, 6), (16, 7), (13, 4), (0, 0x1234)], .brLtu 6 7 0x1234),
   (fields [(26, 7), (21, 6), (16, 7), (13, 5), (0, 0x1234)], .brGeu 6 7 0x1234),
   (fields [(21, 0x120), (16, 6)], .jrGo 6),
   (fields [(26, 9), (21, 5), (16, 6), (0, 1)], .jrCall 5 6),
   (fields [(16, 0x2c00), (4, 0xabc), (0, 3)], .brk 0xabc)]

theorem test_words_scalar : wordsScalar.all (means true) = true := by decide +kernel

/-- Words of the families hi, ld, st, jmp, system instructions, setvl, setrows, ctl, tlbinv. -/
def wordsSystem : List (Nat × Instr) :=
  [(fields [(26, 3), (21, 5), (16, 6), (0, 0x9123)], .hi 5 6 0x9123),
   (fields [(26, 5), (21, 5), (16, 6), (12, 0xd), (0, 0x923)], .ld 5 6 .d64 0x923),
   (fields [(26, 6), (21, 5), (16, 6), (12, 0xd), (0, 0x923)], .st 5 6 .d64 0x923),
   (fields [(26, 8), (0, 0x3123456)], .jmp 0x3123456),
   (fields [(26, 0xa), (21, 5), (4, 0x157)], .ctlRd 5 0x157),
   (fields [(21, 0x140), (16, 6), (4, 0x157), (0, 1)], .ctlWr 6 0x157),
   (fields [(21, 0x140), (16, 6), (4, 0x157), (0, 2)], .ctlSet 6 0x157),
   (fields [(21, 0x140), (16, 6), (4, 0x157), (0, 3)], .ctlClr 6 0x157),
   (fields [(8, 0x2c0000), (4, 9)], .svc 9),
   (fields [(0, 0x2c000001)], .tret),
   (fields [(26, 0xb), (21, 5), (16, 6), (0, 2)], .idle 5 6),
   (fields [(26, 0xb), (21, 5), (0, 4)], .id 5),
   (fields [(26, 0xb), (21, 5), (16, 6), (8, 0xa5), (5, 1), (0, 5)], .csave 5 6 0xa5 true false),
   (fields [(21, 0x160), (16, 6), (4, 1), (0, 6)], .crest 6 true),
   (fields [(21, 0x160), (16, 6), (12, 2), (0, 7)], .tlbinvPage 6 2),
   (fields [(21, 0x160), (16, 6), (14, 1), (12, 2), (0, 7)], .tlbinvAsid 6 2),
   (fields [(14, 0xb002), (12, 2), (0, 7)], .tlbinvAll 2),
   (fields [(0, 0x2c000008)], .halt),
   (fields [(26, 0x18), (21, 5), (16, 6), (4, 2)], .setvl 5 6 2),
   (fields [(26, 0x18), (21, 5), (16, 6), (0, 1)], .setrows 5 6)]

theorem test_words_system : wordsSystem.all (means true) = true := by decide +kernel

/-- Words of the families fpu. -/
def wordsFpu : List (Nat × Instr) :=
  [(fields [(26, 4), (21, 5), (16, 6), (11, 7), (7, 0xe)], .fpuAdd 5 6 7 .f64),
   (fields [(26, 4), (21, 5), (16, 6), (11, 7), (7, 0xe), (0, 1)], .fpuSub 5 6 7 .f64),
   (fields [(26, 4), (21, 5), (16, 6), (11, 7), (7, 0xe), (0, 2)], .fpuMul 5 6 7 .f64),
   (fields [(26, 4), (21, 5), (16, 6), (11, 7), (7, 0xe), (0, 3)], .fpuDiv 5 6 7 .f64),
   (fields [(26, 4), (21, 5), (16, 6), (7, 0xe), (0, 4)], .fpuSqrt 5 6 .f64),
   (fields [(26, 4), (21, 5), (16, 6), (11, 7), (7, 0xe), (0, 5)], .fpuFma 5 6 7 .f64),
   (fields [(26, 4), (21, 5), (16, 6), (11, 7), (7, 0xe), (0, 6)], .fpuMin 5 6 7 .f64),
   (fields [(26, 4), (21, 5), (16, 6), (11, 7), (7, 0xe), (0, 7)], .fpuMax 5 6 7 .f64),
   (fields [(26, 4), (21, 5), (16, 6), (11, 7), (7, 0xe), (0, 8)], .fpuEq 5 6 7 .f64),
   (fields [(26, 4), (21, 5), (16, 6), (11, 7), (7, 0xe), (0, 9)], .fpuLt 5 6 7 .f64),
   (fields [(26, 4), (21, 5), (16, 6), (11, 7), (7, 0xe), (0, 0xa)], .fpuLe 5 6 7 .f64),
   (fields [(26, 4), (21, 5), (16, 6), (11, 7), (7, 0xe), (0, 0xb)], .fpuUnord 5 6 7 .f64),
   (fields [(26, 4), (21, 5), (16, 6), (7, 0xe), (0, 0xc)], .fpuNeg 5 6 .f64),
   (fields [(26, 4), (21, 5), (16, 6), (7, 0xe), (0, 0xd)], .fpuAbs 5 6 .f64),
   (fields [(26, 4), (21, 5), (16, 6), (7, 0xe), (0, 0xe)], .fpuRcp 5 6 .f64),
   (fields [(26, 4), (21, 5), (16, 6), (7, 0xe), (0, 0xf)], .fpuRsq 5 6 .f64),
   (fields [(26, 4), (21, 5), (16, 6), (7, 0xd), (0, 0x10)], .fpuTof32 5 6 .d64),
   (fields [(26, 4), (21, 5), (16, 6), (7, 9), (0, 0x11)], .fpuTof64 5 6 .f32),
   (fields [(26, 4), (21, 5), (16, 6), (7, 9), (0, 0x12)], .fpuTod64 5 6 .f32),
   (fields [(26, 4), (21, 5), (16, 6), (7, 9), (0, 0x13)], .fpuTobf16 5 6 .f32),
   (fields [(26, 4), (21, 5), (16, 6), (0, 0x494)], .fpuTobf16sr 5 6),
   (fields [(26, 4), (21, 5), (16, 6), (7, 0xe), (0, 0x15)], .fpuToi64 5 6 .f64),
   (fields [(26, 4), (21, 5), (16, 6), (7, 0xe), (0, 0x16)], .fpuToi64z 5 6 .f64),
   (fields [(26, 4), (21, 5), (16, 6), (7, 0xe), (0, 0x17)], .fpuTon64 5 6 .f64),
   (fields [(26, 4), (21, 5), (16, 6), (7, 0xe), (0, 0x18)], .fpuFromi64 5 6 .f64),
   (fields [(26, 4), (21, 5), (16, 6), (7, 0xe), (0, 0x19)], .fpuFromn64 5 6 .f64),
   (fields [(26, 4), (21, 5), (16, 6), (11, 7), (0, 0x69a)], .fpuQuant 5 6 7)]

theorem test_words_fpu : wordsFpu.all (means true) = true := by decide +kernel

/-- Words of the families amo, fen, bar, fut, task, hq. -/
def wordsSync : List (Nat × Instr) :=
  [(fields [(26, 0xc), (21, 5), (16, 6), (7, 9), (6, 1), (4, 1)], .amoLd 5 6 .f32 true 1),
   (fields [(21, 0x180), (16, 6), (11, 7), (7, 9), (6, 1), (4, 2), (0, 1)], .amoSt 6 7 .f32 true 2),
   (fields [(26, 0xc), (21, 5), (16, 6), (11, 7), (7, 9), (6, 1), (4, 1), (0, 2)], .amoSwap 5 6 7 .f32 true 1),
   (fields [(26, 0xc), (21, 5), (16, 6), (11, 7), (7, 9), (6, 1), (4, 1), (0, 3)], .amoCas 5 6 7 .f32 true 1),
   (fields [(26, 0xc), (21, 5), (16, 6), (11, 7), (7, 9), (6, 1), (4, 1), (0, 4)], .amoAdd 5 6 7 .f32 true 1),
   (fields [(26, 0xc), (21, 5), (16, 6), (11, 7), (7, 7), (6, 1), (4, 1), (0, 5)], .amoAnd 5 6 7 .n64 true 1),
   (fields [(26, 0xc), (21, 5), (16, 6), (11, 7), (7, 7), (6, 1), (4, 1), (0, 6)], .amoOr 5 6 7 .n64 true 1),
   (fields [(26, 0xc), (21, 5), (16, 6), (11, 7), (7, 7), (6, 1), (4, 1), (0, 7)], .amoXor 5 6 7 .n64 true 1),
   (fields [(26, 0xc), (21, 5), (16, 6), (11, 7), (7, 9), (6, 1), (4, 1), (0, 8)], .amoMin 5 6 7 .f32 true 1),
   (fields [(26, 0xc), (21, 5), (16, 6), (11, 7), (7, 9), (6, 1), (4, 1), (0, 9)], .amoMax 5 6 7 .f32 true 1),
   (fields [(26, 0xc), (21, 6), (16, 5), (11, 8), (7, 7), (6, 1), (4, 1), (0, 0xa)], .amoCas2 6 5 8 true 1),
   (fields [(26, 0xc), (21, 5), (16, 6), (11, 7), (7, 9), (6, 1), (4, 1), (0, 0xc)], .amoVadd 5 6 7 .f32 true 1),
   (fields [(26, 0xc), (21, 5), (16, 6), (11, 7), (7, 9), (6, 1), (4, 1), (0, 0xd)], .amoVmin 5 6 7 .f32 true 1),
   (fields [(26, 0xc), (21, 5), (16, 6), (11, 7), (7, 9), (6, 1), (4, 1), (0, 0xe)], .amoVmax 5 6 7 .f32 true 1),
   (fields [(26, 0xc), (21, 5), (16, 6), (11, 7), (7, 9), (6, 1), (4, 1), (0, 0xf)], .amoVswap 5 6 7 .f32 true 1),
   (fields [(7, 0x680000), (4, 2)], .fenAll 2),
   (fields [(7, 0x680002), (4, 2)], .fenLoad 2),
   (fields [(7, 0x680004), (4, 2)], .fenStore 2),
   (fields [(7, 0x680000), (4, 2), (0, 1)], .fenEng 2),
   (fields [(26, 0xd), (21, 5), (16, 6), (0, 7)], .fenPhase 5 6),
   (fields [(26, 0xe), (21, 5), (16, 6)], .barInit 5 6),
   (fields [(26, 0xe), (21, 5), (16, 6), (0, 1)], .barArrive 5 6),
   (fields [(26, 0xe), (21, 5), (16, 6), (0, 2)], .barWait 5 6),
   (fields [(26, 0xe), (21, 5), (16, 6), (0, 3)], .barSync 5 6),
   (fields [(26, 0xf), (21, 5), (16, 6)], .futInit 5 6),
   (fields [(26, 0xf), (21, 5), (16, 6), (0, 1)], .futReg 5 6),
   (fields [(26, 0xf), (21, 5), (16, 6), (0, 2)], .futRes 5 6),
   (fields [(26, 0xf), (21, 5), (16, 6), (0, 3)], .futFail 5 6),
   (fields [(26, 0xf), (21, 5), (16, 6), (0, 4)], .futGet 5 6),
   (fields [(26, 0xf), (21, 5), (16, 6), (0, 0x14)], .futGetTry 5 6),
   (fields [(26, 0x10), (21, 5), (16, 6)], .taskSpawn 5 6),
   (fields [(26, 0x10), (21, 5), (16, 6), (0, 0x10)], .taskSpawnHold 5 6),
   (fields [(0, 0x40000001)], .taskExit),
   (fields [(26, 0x10), (21, 5), (0, 2)], .taskYield 5),
   (fields [(0, 0x44000000)], .hqTake),
   (fields [(21, 0x220), (16, 6), (11, 7), (0, 1)], .hqFill 6 7),
   (fields [(21, 0x220), (16, 6), (11, 7), (0, 2)], .hqFail 6 7)]

theorem test_words_sync : wordsSync.all (means true) = true := by decide +kernel

/-- Words of the families vv, vx, vwhile. -/
def wordsVectorInt : List (Nat × Instr) :=
  [(fields [(26, 0x18), (21, 5), (16, 6), (13, 5), (4, 0x123), (3, 1), (0, 6)], .vwhile 5 6 5 0x123 6),
   (fields [(26, 0x19), (21, 5), (16, 6), (11, 7), (7, 5)], .vvAdd 5 6 7 .n16),
   (fields [(26, 0x19), (21, 5), (16, 6), (11, 7), (7, 5), (0, 1)], .vvSub 5 6 7 .n16),
   (fields [(26, 0x19), (21, 5), (16, 6), (11, 7), (7, 5), (0, 2)], .vvAdds 5 6 7 .n16),
   (fields [(26, 0x19), (21, 5), (16, 6), (11, 7), (7, 5), (0, 3)], .vvSubs 5 6 7 .n16),
   (fields [(26, 0x19), (21, 5), (16, 6), (11, 7), (7, 5), (0, 4)], .vvMul 5 6 7 .n16),
   (fields [(26, 0x19), (21, 5), (16, 6), (11, 7), (7, 5), (0, 5)], .vvMulh 5 6 7 .n16),
   (fields [(26, 0x19), (21, 5), (16, 6), (11, 7), (7, 5), (0, 6)], .vvDiv 5 6 7 .n16),
   (fields [(26, 0x19), (21, 5), (16, 6), (11, 7), (7, 5), (0, 7)], .vvRem 5 6 7 .n16),
   (fields [(26, 0x19), (21, 5), (16, 6), (11, 7), (7, 5), (0, 8)], .vvAnd 5 6 7 .n16),
   (fields [(26, 0x19), (21, 5), (16, 6), (11, 7), (7, 5), (0, 9)], .vvOr 5 6 7 .n16),
   (fields [(26, 0x19), (21, 5), (16, 6), (11, 7), (7, 5), (0, 0xa)], .vvXor 5 6 7 .n16),
   (fields [(26, 0x19), (21, 5), (16, 6), (11, 7), (7, 5), (0, 0xb)], .vvAndn 5 6 7 .n16),
   (fields [(26, 0x19), (21, 5), (16, 6), (11, 7), (7, 5), (0, 0xc)], .vvShl 5 6 7 .n16),
   (fields [(26, 0x19), (21, 5), (16, 6), (11, 7), (7, 5), (0, 0xd)], .vvShr 5 6 7 .n16),
   (fields [(26, 0x19), (21, 5), (16, 6), (11, 7), (7, 5), (0, 0xe)], .vvMin 5 6 7 .n16),
   (fields [(26, 0x19), (21, 5), (16, 6), (11, 7), (7, 5), (0, 0xf)], .vvMax 5 6 7 .n16),
   (fields [(26, 0x19), (21, 5), (16, 6), (7, 5), (0, 0x12)], .vvPcnt 5 6 .n16),
   (fields [(26, 0x19), (21, 5), (16, 6), (7, 5), (0, 0x13)], .vvClz 5 6 .n16),
   (fields [(26, 0x19), (21, 5), (16, 6), (7, 5), (0, 0x14)], .vvCtz 5 6 .n16),
   (fields [(26, 0x19), (21, 5), (11, 7), (7, 5), (0, 0x15)], .vvMv 5 7 .n16),
   (fields [(26, 0x19), (21, 5), (16, 6), (7, 0xd), (0, 0x18)], .vvNeg 5 6 .d64),
   (fields [(26, 0x19), (21, 5), (16, 6), (7, 0xd), (0, 0x19)], .vvAbs 5 6 .d64),
   (fields [(26, 0x19), (21, 5), (16, 6), (11, 7), (0, 0x69a)], .vvQuant 5 6 7),
   (fields [(26, 0x1a), (21, 5), (16, 6), (11, 7), (7, 5)], .vxAdd 5 6 7 .n16),
   (fields [(26, 0x1a), (21, 5), (16, 6), (11, 7), (7, 5), (0, 1)], .vxSub 5 6 7 .n16),
   (fields [(26, 0x1a), (21, 5), (16, 6), (11, 7), (7, 5), (0, 2)], .vxAdds 5 6 7 .n16),
   (fields [(26, 0x1a), (21, 5), (16, 6), (11, 7), (7, 5), (0, 3)], .vxSubs 5 6 7 .n16),
   (fields [(26, 0x1a), (21, 5), (16, 6), (11, 7), (7, 5), (0, 4)], .vxMul 5 6 7 .n16),
   (fields [(26, 0x1a), (21, 5), (16, 6), (11, 7), (7, 5), (0, 5)], .vxMulh 5 6 7 .n16),
   (fields [(26, 0x1a), (21, 5), (16, 6), (11, 7), (7, 5), (0, 6)], .vxDiv 5 6 7 .n16),
   (fields [(26, 0x1a), (21, 5), (16, 6), (11, 7), (7, 5), (0, 7)], .vxRem 5 6 7 .n16),
   (fields [(26, 0x1a), (21, 5), (16, 6), (11, 7), (7, 5), (0, 8)], .vxAnd 5 6 7 .n16),
   (fields [(26, 0x1a), (21, 5), (16, 6), (11, 7), (7, 5), (0, 9)], .vxOr 5 6 7 .n16),
   (fields [(26, 0x1a), (21, 5), (16, 6), (11, 7), (7, 5), (0, 0xa)], .vxXor 5 6 7 .n16),
   (fields [(26, 0x1a), (21, 5), (16, 6), (11, 7), (7, 5), (0, 0xb)], .vxAndn 5 6 7 .n16),
   (fields [(26, 0x1a), (21, 5), (16, 6), (11, 7), (7, 5), (0, 0xc)], .vxShl 5 6 7 .n16),
   (fields [(26, 0x1a), (21, 5), (16, 6), (11, 7), (7, 5), (0, 0xd)], .vxShr 5 6 7 .n16),
   (fields [(26, 0x1a), (21, 5), (16, 6), (11, 7), (7, 5), (0, 0xe)], .vxMin 5 6 7 .n16),
   (fields [(26, 0x1a), (21, 5), (16, 6), (11, 7), (7, 5), (0, 0xf)], .vxMax 5 6 7 .n16),
   (fields [(26, 0x1a), (21, 5), (11, 7), (7, 5), (0, 0x15)], .vxMv 5 7 .n16),
   (fields [(26, 0x1a), (21, 5), (16, 6), (11, 7), (0, 0x69a)], .vxQuant 5 6 7)]

theorem test_words_vector_int : wordsVectorInt.all (means true) = true := by decide +kernel

/-- Words of the families vi, vq, vcmp. -/
def wordsVectorImm : List (Nat × Instr) :=
  [(fields [(26, 0x1b), (21, 5), (16, 6), (11, 0x15), (7, 5)], .viAdd 5 6 0x15 .n16),
   (fields [(26, 0x1b), (21, 5), (16, 6), (11, 0x15), (7, 5), (0, 1)], .viSub 5 6 0x15 .n16),
   (fields [(26, 0x1b), (21, 5), (16, 6), (11, 0x15), (7, 5), (0, 2)], .viAdds 5 6 0x15 .n16),
   (fields [(26, 0x1b), (21, 5), (16, 6), (11, 0x15), (7, 5), (0, 3)], .viSubs 5 6 0x15 .n16),
   (fields [(26, 0x1b), (21, 5), (16, 6), (11, 0x15), (7, 5), (0, 4)], .viMul 5 6 0x15 .n16),
   (fields [(26, 0x1b), (21, 5), (16, 6), (11, 0x15), (7, 5), (0, 5)], .viMulh 5 6 0x15 .n16),
   (fields [(26, 0x1b), (21, 5), (16, 6), (11, 0x15), (7, 5), (0, 6)], .viDiv 5 6 0x15 .n16),
   (fields [(26, 0x1b), (21, 5), (16, 6), (11, 0x15), (7, 5), (0, 7)], .viRem 5 6 0x15 .n16),
   (fields [(26, 0x1b), (21, 5), (16, 6), (11, 0x15), (7, 5), (0, 8)], .viAnd 5 6 0x15 .n16),
   (fields [(26, 0x1b), (21, 5), (16, 6), (11, 0x15), (7, 5), (0, 9)], .viOr 5 6 0x15 .n16),
   (fields [(26, 0x1b), (21, 5), (16, 6), (11, 0x15), (7, 5), (0, 0xa)], .viXor 5 6 0x15 .n16),
   (fields [(26, 0x1b), (21, 5), (16, 6), (11, 0x15), (7, 5), (0, 0xb)], .viAndn 5 6 0x15 .n16),
   (fields [(26, 0x1b), (21, 5), (16, 6), (11, 0x15), (7, 5), (0, 0xc)], .viShl 5 6 0x15 .n16),
   (fields [(26, 0x1b), (21, 5), (16, 6), (11, 0x15), (7, 5), (0, 0xd)], .viShr 5 6 0x15 .n16),
   (fields [(26, 0x1b), (21, 5), (16, 6), (11, 0x15), (7, 5), (0, 0xe)], .viMin 5 6 0x15 .n16),
   (fields [(26, 0x1b), (21, 5), (16, 6), (11, 0x15), (7, 5), (0, 0xf)], .viMax 5 6 0x15 .n16),
   (fields [(26, 0x1b), (21, 5), (11, 0x15), (7, 5), (0, 0x15)], .viMv 5 0x15 .n16),
   (fields [(26, 0x1c), (21, 5), (16, 6), (11, 7), (6, 9), (3, 6)], .vqFma 5 6 7 9 6),
   (fields [(26, 0x1c), (21, 5), (16, 6), (11, 7), (6, 9), (3, 6), (0, 1)], .vqFms 5 6 7 9 6),
   (fields [(26, 0x1c), (21, 5), (16, 6), (11, 7), (6, 9), (3, 6), (0, 2)], .vqFnma 5 6 7 9 6),
   (fields [(26, 0x1c), (21, 5), (16, 6), (11, 7), (6, 9), (3, 6), (0, 3)], .vqFnms 5 6 7 9 6),
   (fields [(26, 0x1c), (21, 5), (16, 6), (11, 7), (6, 9), (3, 6), (0, 4)], .vqSfma 5 6 7 9 6),
   (fields [(26, 0x1c), (21, 5), (16, 6), (11, 7), (6, 9), (3, 6), (0, 5)], .vqSfms 5 6 7 9 6),
   (fields [(26, 0x1c), (21, 5), (16, 6), (11, 7), (6, 9), (3, 6), (0, 6)], .vqSfnma 5 6 7 9 6),
   (fields [(26, 0x1c), (21, 5), (16, 6), (11, 7), (6, 9), (3, 6), (0, 7)], .vqSfnms 5 6 7 9 6),
   (fields [(26, 0x1d), (21, 5), (16, 6), (11, 7), (7, 5), (0, 5)], .vcmp 5 6 7 .n16 5),
   (fields [(26, 0x1d), (21, 5), (16, 6), (11, 7), (7, 5), (3, 1), (0, 5)], .vcmpX 5 6 7 .n16 5),
   (fields [(26, 0x1d), (21, 5), (16, 6), (11, 0x15), (7, 5), (3, 2), (0, 5)], .vcmpI 5 6 0x15 .n16 5),
   (fields [(26, 0x1d), (21, 5), (16, 6), (11, 7), (0, 0x20)], .vcmpMand 5 6 7),
   (fields [(26, 0x1d), (21, 5), (16, 6), (11, 7), (0, 0x21)], .vcmpMor 5 6 7),
   (fields [(26, 0x1d), (21, 5), (16, 6), (11, 7), (0, 0x22)], .vcmpMxor 5 6 7),
   (fields [(26, 0x1d), (21, 5), (16, 6), (11, 7), (0, 0x23)], .vcmpMandn 5 6 7),
   (fields [(26, 0x1d), (21, 5), (0, 0x24)], .vcmpMset 5),
   (fields [(26, 0x1d), (21, 5), (0, 0x25)], .vcmpMclr 5)]

theorem test_words_vector_imm : wordsVectorImm.all (means true) = true := by decide +kernel

/-- Words of the families vred, vperm, vsfu, vcvt. -/
def wordsVectorMove : List (Nat × Instr) :=
  [(fields [(26, 0x1e), (21, 5), (16, 6), (11, 7), (7, 5)], .vredSum 5 6 7 .n16),
   (fields [(26, 0x1e), (21, 5), (16, 6), (11, 7), (7, 5), (0, 1)], .vredMin 5 6 7 .n16),
   (fields [(26, 0x1e), (21, 5), (16, 6), (11, 7), (7, 5), (0, 2)], .vredMax 5 6 7 .n16),
   (fields [(26, 0x1e), (21, 5), (16, 6), (11, 7), (7, 5), (0, 3)], .vredAnd 5 6 7 .n16),
   (fields [(26, 0x1e), (21, 5), (16, 6), (11, 7), (7, 5), (0, 4)], .vredOr 5 6 7 .n16),
   (fields [(26, 0x1e), (21, 5), (16, 6), (11, 7), (7, 5), (0, 5)], .vredXor 5 6 7 .n16),
   (fields [(26, 0x1e), (21, 5), (16, 6), (11, 7), (7, 5), (0, 6)], .vredMinidx 5 6 7 .n16),
   (fields [(26, 0x1e), (21, 5), (16, 6), (11, 7), (7, 5), (0, 7)], .vredMaxidx 5 6 7 .n16),
   (fields [(26, 0x1e), (21, 5), (16, 6), (0, 8)], .vredMpop 5 6),
   (fields [(26, 0x1e), (21, 5), (16, 6), (0, 9)], .vredMfirst 5 6),
   (fields [(26, 0x1f), (21, 5), (16, 6), (11, 7), (7, 6)], .vpermSlup 5 6 7 .n32),
   (fields [(26, 0x1f), (21, 5), (16, 6), (11, 7), (7, 6), (0, 1)], .vpermSldn 5 6 7 .n32),
   (fields [(26, 0x1f), (21, 5), (16, 6), (11, 7), (7, 6), (0, 2)], .vpermPerm 5 6 7 .n32),
   (fields [(26, 0x1f), (21, 5), (16, 6), (7, 6), (0, 3)], .vpermCompress 5 6 .n32),
   (fields [(26, 0x1f), (21, 5), (16, 6), (11, 7), (7, 6), (0, 4)], .vpermXtr 5 6 7 .n32),
   (fields [(26, 0x1f), (21, 5), (16, 6), (11, 7), (7, 6), (0, 5)], .vpermIns 5 6 7 .n32),
   (fields [(26, 0x1f), (21, 5), (11, 7), (7, 6), (0, 6)], .vpermIota 5 7 .n32),
   (fields [(26, 0x1f), (21, 6), (16, 6), (11, 7), (7, 0xd), (0, 8)], .vpermHold 6 6 7 .d64),
   (fields [(26, 0x1f), (21, 6), (7, 0xd), (0, 9)], .vpermDrain 6 .d64),
   (fields [(26, 0x20), (21, 5), (16, 6), (7, 9)], .vsfuRcp 5 6 .f32),
   (fields [(26, 0x20), (21, 5), (16, 6), (7, 9), (0, 1)], .vsfuRcpe 5 6 .f32),
   (fields [(26, 0x20), (21, 5), (16, 6), (7, 9), (0, 2)], .vsfuRsq 5 6 .f32),
   (fields [(26, 0x20), (21, 5), (16, 6), (7, 9), (0, 3)], .vsfuSqrt 5 6 .f32),
   (fields [(26, 0x20), (21, 5), (16, 6), (7, 9), (0, 4)], .vsfuExp2 5 6 .f32),
   (fields [(26, 0x20), (21, 5), (16, 6), (7, 9), (0, 5)], .vsfuLog2 5 6 .f32),
   (fields [(26, 0x20), (21, 5), (16, 6), (7, 9), (0, 6)], .vsfuSin 5 6 .f32),
   (fields [(26, 0x20), (21, 5), (16, 6), (7, 9), (0, 7)], .vsfuCos 5 6 .f32),
   (fields [(26, 0x20), (21, 5), (16, 6), (7, 9), (0, 8)], .vsfuTanh 5 6 .f32),
   (fields [(26, 0x20), (21, 5), (16, 6), (7, 9), (0, 9)], .vsfuSilu 5 6 .f32),
   (fields [(26, 0x20), (21, 5), (16, 6), (7, 9), (0, 0xa)], .vsfuSigm 5 6 .f32),
   (fields [(26, 0x25), (21, 5), (16, 6), (7, 8), (3, 9), (0, 5)], .vcvt 5 6 0 .bf16 .f32 5)]

theorem test_words_vector_move : wordsVectorMove.all (means true) = true := by decide +kernel

/-- Words of the families vld, vst, vstm, vpres, vsettle. -/
def wordsVectorMem : List (Nat × Instr) :=
  [(fields [(26, 0x21), (21, 5), (16, 6), (7, 0xa)], .vldUnit 5 6 .e4m3),
   (fields [(26, 0x21), (21, 5), (16, 6), (7, 0xa), (0, 0x10)], .vldStride 5 6 .e4m3),
   (fields [(26, 0x21), (21, 5), (16, 6), (11, 7), (7, 0xa), (0, 0x20)], .vldIndex 5 6 7 .e4m3),
   (fields [(26, 0x21), (21, 5), (16, 6), (11, 7), (7, 0xa), (0, 0x30)], .vldElem 5 6 7 .e4m3),
   (fields [(26, 0x22), (21, 5), (16, 6), (7, 0xa)], .vstUnit 5 6 .e4m3),
   (fields [(26, 0x22), (21, 5), (16, 6), (7, 0xa), (0, 1)], .vstUnitu 5 6 .e4m3),
   (fields [(26, 0x22), (21, 5), (16, 6), (7, 0xa), (0, 0x10)], .vstStride 5 6 .e4m3),
   (fields [(26, 0x22), (21, 5), (16, 6), (7, 0xa), (0, 0x11)], .vstStrideu 5 6 .e4m3),
   (fields [(26, 0x22), (21, 5), (16, 6), (11, 7), (7, 0xa), (0, 0x20)], .vstIndex 5 6 7 .e4m3),
   (fields [(26, 0x22), (21, 5), (16, 6), (11, 7), (7, 0xa), (0, 0x21)], .vstIndexu 5 6 7 .e4m3),
   (fields [(26, 0x22), (21, 5), (16, 6), (11, 7), (7, 0xa), (0, 0x30)], .vstElem 5 6 7 .e4m3),
   (fields [(26, 0x22), (21, 5), (16, 6), (11, 7), (7, 0xa), (0, 0x31)], .vstElemu 5 6 7 .e4m3),
   (fields [(26, 0x23), (21, 5), (16, 6)], .vstmBind 5 6),
   (fields [(26, 0x23), (21, 5), (0, 1)], .vstmUnbind 5),
   (fields [(26, 0x23), (21, 5), (16, 6), (11, 7), (0, 0x10)], .vstmSpill 5 6 7),
   (fields [(26, 0x23), (21, 5), (16, 6), (0, 0x11)], .vstmFill 5 6),
   (fields [(21, 0x480), (16, 6)], .vsettle 6),
   (fields [(26, 0x24), (21, 5), (16, 6), (7, 0xc), (0, 1)], .vpresPresent 5 6 .mx4),
   (fields [(26, 0x24), (21, 5), (16, 6), (7, 0xc), (0, 2)], .vpresPoisoned 5 6 .mx4),
   (fields [(26, 0x24), (21, 5), (11, 7), (7, 0xc), (0, 3)], .vpresHeal 5 7 .mx4)]

theorem test_words_vector_mem : wordsVectorMem.all (means true) = true := by decide +kernel

/-- Words of the families mx, sp, eng. -/
def wordsArray : List (Nat × Instr) :=
  [(fields [(26, 0x30), (21, 5), (16, 6), (11, 7)], .mxMode 5 6 7),
   (fields [(26, 0x30), (21, 5), (16, 6), (11, 7), (7, 0xb), (0, 1)], .mxTshape 5 6 7 .e5m2),
   (fields [(26, 0x30), (21, 5), (16, 6), (11, 7), (7, 0xb), (0, 2)], .mxOp 5 6 7 .e5m2),
   (fields [(26, 0x30), (21, 5), (0, 3)], .mxZero 5),
   (fields [(26, 0x30), (21, 5), (16, 6), (0, 4)], .mxMv 5 6),
   (fields [(26, 0x30), (21, 5), (16, 6), (11, 7), (0, 0x485)], .mxRdrow 5 6 7),
   (fields [(26, 0x30), (21, 5), (16, 6), (11, 7), (0, 0x486)], .mxRdcol 5 6 7),
   (fields [(26, 0x30), (21, 5), (16, 6), (11, 7), (0, 0x487)], .mxWrrow 5 6 7),
   (fields [(26, 0x30), (21, 5), (16, 6), (11, 7), (0, 0x488)], .mxWrcol 5 6 7),
   (fields [(26, 0x30), (21, 5), (16, 6), (0, 9)], .mxSpill 5 6),
   (fields [(26, 0x30), (21, 5), (16, 6), (0, 0xa)], .mxFill 5 6),
   (fields [(26, 0x31), (21, 5), (16, 6), (7, 9)], .spEval 5 6 .f32),
   (fields [(21, 0x620), (16, 6), (11, 7), (7, 9), (0, 1)], .spGrad 6 7 .f32),
   (fields [(26, 0x31), (21, 5), (16, 6), (11, 7), (7, 9), (0, 2)], .spDx 5 6 7 .f32),
   (fields [(0, 0xc4000003)], .spRefine),
   (fields [(21, 0x620), (16, 6), (0, 4)], .spPair 6),
   (fields [(0, 0xc4000005)], .spGzero),
   (fields [(21, 0x620), (16, 6), (0, 6)], .spGspill 6),
   (fields [(21, 0x620), (16, 6), (0, 7)], .spGfill 6),
   (fields [(26, 0x33), (21, 5), (16, 6), (11, 7), (7, 3)], .engCopy 5 6 7 3),
   (fields [(26, 0x33), (21, 5), (16, 6), (11, 7), (7, 3), (0, 1)], .engMcast 5 6 7 3),
   (fields [(26, 0x33), (21, 5), (16, 6), (11, 7), (7, 3), (0, 2)], .engGather 5 6 7 3),
   (fields [(26, 0x33), (21, 5), (16, 6), (0, 3)], .engPatt 5 6),
   (fields [(21, 0x660), (16, 6), (7, 3), (0, 4)], .engColl 6 3)]

theorem test_words_array : wordsArray.all (means true) = true := by decide +kernel

end

end Sys2Proof.Tests
end

