-- ==== Sys2Proof/Tests/Slice0.lean ====
section
/-! SUPPORT. The tests: the smoke test of every check of WellFormed, and single steps on small states whose results are worked out
from the rules that the comments name. The words of every row are in Sys2Proof/Tests/Words.lean, the states that meet the
conditions of the statements in the Witness files beside this one. -/

namespace Sys2Proof.Tests

set_option Elab.async false

open Sys2Proof.Machine Sys2Proof.Machine.Claim

noncomputable section

/-! ### WellFormed refuses -/

theorem test_wf_alu_type : (Instr.aluAdd 1 2 3 .f32).wf = false := by decide
theorem test_wf_ld_type : (Instr.ld 1 2 .bf16 0).wf = false := by decide
theorem test_wf_fpu_type : (Instr.fpuAdd 1 2 3 .i32).wf = false := by decide
theorem test_wf_fpu_rcp_decimal : (Instr.fpuRcp 1 2 .d64).wf = false := by decide
theorem test_wf_fpu_tof32_from_f32 : (Instr.fpuTof32 1 2 .f32).wf = false := by decide
theorem test_wf_fpu_tof64_from_f64 : (Instr.fpuTof64 1 2 .f64).wf = false := by decide
theorem test_wf_fpu_tod64_from_d64 : (Instr.fpuTod64 1 2 .d64).wf = false := by decide
theorem test_wf_fpu_tobf16_from_d64 : (Instr.fpuTobf16 1 2 .d64).wf = false := by decide
theorem test_wf_csave_nothing : (Instr.csave 1 2 0 true false).wf = false := by decide
theorem test_wf_tlbinv_scope : (Instr.tlbinvAll 3).wf = false := by decide
theorem test_wf_amo_ld_release : (Instr.amoLd 1 2 .i64 false 2).wf = false := by decide
theorem test_wf_amo_st_acquire : (Instr.amoSt 1 2 .i64 false 1).wf = false := by decide
theorem test_wf_amo_type : (Instr.amoAdd 1 2 3 .i16 false 0).wf = false := by decide
theorem test_wf_amo_bitwise_type : (Instr.amoXor 1 2 3 .f32 false 0).wf = false := by decide
theorem test_wf_amo_cas2_odd : (Instr.amoCas2 5 2 4 false 0).wf = false := by decide
theorem test_wf_fen_scope : (Instr.fenAll 6).wf = false := by decide
theorem test_wf_vwhile_off : (Instr.vwhile 1 2 0 0 0).wf = false := by decide
theorem test_wf_vv_integer_only : (Instr.vvAnd 1 2 3 .f32).wf = false := by decide
theorem test_wf_vv_lane_type : (Instr.vvAdd 1 2 3 .f64).wf = false := by decide
theorem test_wf_vv_neg_integer : (Instr.vvNeg 1 2 .i32).wf = false := by decide
theorem test_wf_vq_type : (Instr.vqFma 1 2 3 4 7).wf = false := by decide
theorem test_wf_vcmp_cond : (Instr.vcmp 1 2 3 .i32 6).wf = false := by decide
theorem test_wf_vcmp_i_float : (Instr.vcmpI 1 2 3 .f32 0).wf = false := by decide
theorem test_wf_vred_bitwise : (Instr.vredAnd 1 2 3 .f32).wf = false := by decide
theorem test_wf_vred_index_type : (Instr.vredMinidx 1 2 3 .i64).wf = false := by decide
theorem test_wf_vperm_nibbles : (Instr.vpermSlup 1 2 3 .mx4).wf = false := by decide
theorem test_wf_vperm_hold_odd : (Instr.vpermHold 3 2 1 .i32).wf = false := by decide
theorem test_wf_vsfu_type : (Instr.vsfuRcp 1 2 .d64).wf = false := by decide
theorem test_wf_vld_nibbles : (Instr.vldStride 1 2 .mx4).wf = false := by decide
theorem test_wf_vld_type : (Instr.vldUnit 1 2 .f64).wf = false := by decide
theorem test_wf_vpres_type : (Instr.vpresHeal 1 2 .res).wf = false := by decide
theorem test_wf_vcvt_pair : (Instr.vcvt 1 2 0 .i32 .i64 0).wf = false := by decide
theorem test_wf_vcvt_half : (Instr.vcvt 1 2 2 .mx4 .f32 1).wf = false := by decide
theorem test_wf_mx_tshape_type : (Instr.mxTshape 1 2 3 .f32).wf = false := by decide
theorem test_wf_mx_op_tile : (Instr.mxOp 16 2 3 .bf16).wf = false := by decide
theorem test_wf_mx_mv_tile : (Instr.mxMv 1 16).wf = false := by decide
theorem test_wf_sp_type : (Instr.spEval 1 2 .d64).wf = false := by decide
theorem test_wf_eng_kind : (Instr.engCopy 1 2 3 4).wf = false := by decide
theorem test_wf_eng_pair_of_s31 : (Instr.engCopy 1 2 31 3).wf = false := by decide
theorem test_wf_event_hart : (Instr.dbgHalt 3072).wf = false := by decide
theorem test_wf_event_core : (Instr.traceSample 384).wf = false := by decide

/-! ### Words that no row takes (R250) -/

theorem test_word_alu_reserved_field : (decodeWord (fields [(26, 1), (21, 5), (16, 6), (11, 7), (7, 3), (0, 0x15)])).toOption = none := by
  decide +kernel
theorem test_word_branch_cond_six : (decodeWord (fields [(26, 7), (13, 6)])).toOption = none := by decide +kernel

/-! ### One step -/

/-- A register, or a field of the executing hart, after an instruction. -/
def after' {α : Type} (i : Instr) (s : State) (f : State → α) : Option α :=
  match exec i s with
  | .next t => some (f t)
  | _ => none

/-- One scalar register after an instruction on a hart that holds some. -/
def scalar (i : Instr) (l : List (Reg × Word)) (r : Reg) : Option Word := after' i (mach (regs vec l)) fun t => t.hart.reg r

/-- The trap bank after an instruction: cause word, subcode, address, and the new pc. -/
def bank (i : Instr) (s : State) : Option (Word × Word × Word × Word) :=
  after' i s fun t => (t.hart.sbank.tcause, t.hart.sbank.tsub, t.hart.sbank.taddr, t.hart.pc)

-- R271, R272: 100 + 100 wraps to -56 in i8 and the sign extends.
theorem test_alu_add_wraps : scalar (.aluAdd 3 1 2 .i8) [(1, 0x164), (2, 100)] 3 = some 0xFFFFFFFFFFFFFFC8 := by decide +kernel
-- R272: a saturated n16 sum; a saturated i8 difference.
theorem test_alu_adds_saturates : scalar (.aluAdds 3 1 2 .n16) [(1, 0xFFF0), (2, 0x20)] 3 = some 0xFFFF := by decide +kernel
theorem test_alu_subs_saturates : scalar (.aluSubs 3 1 2 .i8) [(1, 0x80), (2, 1)] 3 = some 0xFFFFFFFFFFFFFF80 := by decide +kernel
-- R272: the high half of (-1) * (-1) is 0; of 2^32 * 2^32 in n64 it is 1.
theorem test_alu_mulh_signed : scalar (.aluMulh 3 1 2 .i64) [(1, 0xFFFFFFFFFFFFFFFF), (2, 0xFFFFFFFFFFFFFFFF)] 3 = some 0 := by decide +kernel
theorem test_alu_mulh_unsigned : scalar (.aluMulh 3 1 2 .n64) [(1, 0x100000000), (2, 0x100000000)] 3 = some 1 := by decide +kernel
-- R272: division by zero gives all ones; the least i8 by -1 gives itself; -7 rem 2 is -1.
theorem test_alu_div_by_zero : scalar (.aluDiv 3 1 2 .n8) [(1, 5)] 3 = some 0xFF := by decide +kernel
theorem test_alu_div_least : scalar (.aluDiv 3 1 2 .i8) [(1, 0x80), (2, 0xFF)] 3 = some 0xFFFFFFFFFFFFFF80 := by decide +kernel
theorem test_alu_rem_sign : scalar (.aluRem 3 1 2 .i32) [(1, 0xFFFFFFF9), (2, 2)] 3 = some 0xFFFFFFFFFFFFFFFF := by decide +kernel
-- R272: a shift counts modulo the width; shr of an i type fills with the sign.
theorem test_alu_shl_by_width : scalar (.aluShl 3 1 2 .n32) [(1, 7), (2, 32)] 3 = some 7 := by decide +kernel
theorem test_alu_shr_sign : scalar (.aluShr 3 1 2 .i16) [(1, 0x8000), (2, 15)] 3 = some 0xFFFFFFFFFFFFFFFF := by decide +kernel
theorem test_alu_slt_signs : scalar (.aluSlt 3 1 2 .i8) [(1, 0x80), (2, 0x7F)] 3 = some 1 := by decide +kernel
theorem test_alu_clz_of_zero : scalar (.aluClz 3 1 .n16) [(1, 0x10000)] 3 = some 16 := by decide +kernel
theorem test_alu_ctz : scalar (.aluCtz 3 1 .n64) [(1, 0x8000000000000000)] 3 = some 63 := by decide +kernel
-- R270: a write of s0 is discarded.
theorem test_alu_writes_s0 : scalar (.aluAdd 0 1 1 .i64) [(1, 5)] 0 = some 0 := by decide +kernel
-- R273: the immediate of add and xor extends its sign, sltu compares it as an unsigned number; sra keeps the sign.
theorem test_alui_add_negative : scalar (.aluiAdd 3 1 0xFFF) [(1, 5)] 3 = some 4 := by decide +kernel
theorem test_alui_sltu_extended : scalar (.aluiSltu 3 1 0xFFF) [(1, 5)] 3 = some 1 := by decide +kernel
theorem test_alui_sra : scalar (.aluiSra 3 1 63) [(1, 0x8000000000000000)] 3 = some 0xFFFFFFFFFFFFFFFF := by decide +kernel
-- R274: hi shifts by 16 and adds its immediate below.
theorem test_hi : scalar (.hi 3 1 0x9123) [(1, 0xFFFF000012345678)] 3 = some 0x0000123456789123 := by decide +kernel
-- R277, R278: the target is the branch's own address plus four times the signed offset.
theorem test_br_lt_taken : after' (.brLt 1 2 0x1FFF) (mach (regs vec [(1, 0xFFFFFFFFFFFFFFFF)])) (·.hart.pc) = some 0xFC := by decide +kernel
theorem test_br_ltu_not_taken : after' (.brLtu 1 2 0x1FFF) (mach (regs vec [(1, 0xFFFFFFFFFFFFFFFF)])) (·.hart.pc) = some 0x104 := by
  decide +kernel
theorem test_jmp_back : after' (.jmp 0x3FFFFFF) (mach vec) (·.hart.pc) = some 0xFC := by decide +kernel
-- R279: jr.call reads s[a] before it writes s[d].
theorem test_jr_call_same_register : after' (.jrCall 1 1) (mach (regs vec [(1, 0x2000)])) (fun t => (t.hart.pc, t.hart.reg 1)) =
    some (0x2000, 0x104) := by decide +kernel
-- R275, R271: an i16 load extends its sign; a store writes its low bytes only.
theorem test_ld_sign : after' (.ld 3 1 .i16 0xFFE) (mach (regs vec [(1, spad 2)]) { spad := [(0, 0xFE), (1, 0xFF)] }) (·.hart.reg 3) =
    some 0xFFFFFFFFFFFFFFFE := by decide +kernel
theorem test_st_bytes : after' (.st 3 1 .n16 0) (mach (regs vec [(1, spad 0), (3, 0xABCDEF)]) { spad := [(2, 9)] }) (·.core.spad) =
    some [(0, 0xEF), (1, 0xCD), (2, 9)] := by decide +kernel
-- R32: a misaligned store traps ALIGN, subcode 1, with its address; R194: CAUSE 3, PL and INTRAP.
theorem test_st_misaligned : bank (.st 3 1 .n32 1) (mach (regs vec [(1, spad 0)])) = some (0x8403, 1, spad 1, 0x4000) := by decide +kernel
-- R285, R237: 1 / 3 in f32 is inexact; a division by zero raises DZ.
theorem test_fpu_div_inexact : after' (.fpuDiv 3 1 2 .f32) (mach (regs vec [(1, 0x3F800000), (2, 0x40400000)]))
    (fun t => (t.hart.reg 3, t.hart.fpflags)) = some (0x3EAAAAAB, 16) := by decide +kernel
theorem test_fpu_div_by_zero : after' (.fpuDiv 3 1 2 .f64) (mach (regs vec [(1, 0xBFF0000000000000)]))
    (fun t => (t.hart.reg 3, t.hart.fpflags)) = some (0xFFF0000000000000, 2) := by decide +kernel
-- R285: 2 * 3 + 1 fused into s[d]; R288: decimal 1 + 2.
theorem test_fpu_fma : after' (.fpuFma 3 1 2 .f32) (mach (regs vec [(1, 0x40000000), (2, 0x40400000), (3, 0x3F800000)]))
    (fun t => (t.hart.reg 3, t.hart.fpflags)) = some (0x40E00000, 0) := by decide +kernel
theorem test_fpu_decimal_add : after' (.fpuAdd 3 1 2 .d64) (mach (regs vec [(1, 0x31C0000000000001), (2, 0x31C0000000000002)]))
    (fun t => (t.hart.reg 3, t.hart.fpflags)) = some (0x31C0000000000003, 0) := by decide +kernel
-- R284: an enabled INVALID stops the instruction with FPX, subcode 1; the flag is raised and the register stays.
theorem test_fpu_invalid_traps : after' (.fpuSqrt 3 1 .f32) (mach (regs { vec with fpctl := 0x100 } [(1, 0xBF800000), (3, 7)]))
    (fun t => (t.hart.reg 3, t.hart.fpflags, t.hart.sbank.tcause, t.hart.sbank.tsub)) = some (7, 1, 0x8409, 1) := by decide +kernel
-- R290: svc leaves tpc at the next instruction; R293: brk at itself, with its code.
theorem test_svc : after' (.svc 9) (mach usr) (fun t => (t.hart.sbank.tcause, t.hart.sbank.tsub, t.hart.sbank.tpc, t.hart.priv)) =
    some (0x8011, 9, 0x104, .supervisor) := by decide +kernel
theorem test_brk : after' (.brk 0xABC) (mach vec) (fun t => (t.hart.sbank.tcause, t.hart.sbank.taddr, t.hart.sbank.tpc)) =
    some (0x8412, 0xABC, 0x100) := by decide +kernel
-- R291: tret to user privilege; R299: halt in user privilege.
theorem test_tret : after' .tret (mach { vec with sbank := { tcause := 0x8011, tpc := 0x204, tvec := 0x4000 } })
    (fun t => (t.hart.priv, t.hart.pc, t.hart.sbank.tcause)) = some (.user, 0x204, 0x11) := by decide +kernel
theorem test_halt_user : bank .halt (mach usr) = some (0x8002, 0, 0, 0x4000) := by decide +kernel
-- R252, R304: a write changes the two bits of vmk.MODE alone; MODE 3 traps ILL and changes nothing.
theorem test_ctl_wr_vmk : after' (.ctlWr 1 0x002) (mach (regs vec [(1, 0xFFFFFFFFFFFFFFFE)])) (·.hart.vmk) = some 2 := by decide +kernel
theorem test_ctl_wr_vmk_three : after' (.ctlWr 1 0x002) (mach (regs vec [(1, 3)])) (fun t => (t.hart.vmk, t.hart.sbank.tcause.toNat % 256)) =
    some (0, 1) := by decide +kernel
-- R387: amo.min on i32 is signed and returns the old value, extended; R271.
theorem test_amo_min_signed : after' (.amoMin 3 1 2 .i32 false 0)
    (mach (regs vec [(1, spad 0), (2, 1)]) { spad := [(0, 0xFF), (1, 0xFF), (2, 0xFF), (3, 0xFF)] })
    (fun t => (t.hart.reg 3, t.core.spad)) = some (0xFFFFFFFFFFFFFFFF, [(0, 0xFF), (1, 0xFF), (2, 0xFF), (3, 0xFF)]) := by decide +kernel
theorem test_amo_cas_fails : after' (.amoCas 3 1 2 .n32 false 0) (mach (regs vec [(1, spad 0), (2, 9), (3, 1)]) { spad := [(0, 5)] })
    (fun t => (t.hart.reg 3, t.core.spad)) = some (5, [(0, 5)]) := by decide +kernel
-- R344: hq.take on a vector hart is illegal.
theorem test_hq_take_vector : bank .hqTake (mach vec) = some (0x8401, 1, 0, 0x4000) := by decide +kernel
-- R307: 2048 bytes hold 512 words of 32 bits; R308: setrows of 5 gives 4.
theorem test_setvl_capacity : after' (.setvl 3 1 0) (mach (regs vec [(1, 1000)])) (fun t => (t.hart.vl, t.hart.reg 3)) =
    some (512, 512) := by decide +kernel
theorem test_setrows : after' (.setrows 3 1) (mach (regs vec [(1, 5)])) (fun t => (t.hart.vrows, t.hart.reg 3)) = some (4, 4) := by
  decide +kernel

/-! ### Vector instructions on two elements -/

/-- A vector hart with vl 2. -/
def vec2 : Hart := { vec with vl := 2 }

-- R311: vv.add in n16 wraps by element; R305: the third element stays.
theorem test_vv_add : after' (.vvAdd 4 2 3 .n16)
    (mach (vregs vec2 [(2, [(0, 0xFF), (1, 0xFF), (2, 1)]), (3, [(0, 1), (2, 2)]), (4, [(4, 7)])]))
    (fun t => (elemAt t.hart 4 0 16, elemAt t.hart 4 1 16, elemAt t.hart 4 2 16)) = some (0, 3, 7) := by decide +kernel
-- R310: vi.add extends its immediate; R304: vmk 1 skips the element whose mask bit is 0.
theorem test_vi_add_masked : after' (.viAdd 4 2 0x1F .i8) (mach (vregs { vec2 with vmk := 1 } [(0, [(0, 2)]), (2, [(0, 5), (1, 5)]), (4, [(0, 9)])]))
    (fun t => (elemAt t.hart 4 0 8, elemAt t.hart 4 1 8)) = some (9, 4) := by decide +kernel
-- R311: vx.div by zero gives all ones.
theorem test_vx_div_zero : after' (.vxDiv 4 2 1 .n8) (mach (vregs vec2 [(2, [(0, 5)])])) (fun t => elemAt t.hart 4 0 8) = some 0xFF := by
  decide +kernel
-- R332: vq.fnma is c - a * b on integers.
theorem test_vq_fnma : after' (.vqFnma 4 1 2 3 3) (mach (vregs vec2 [(1, [(0, 3)]), (2, [(0, 5)]), (3, [(0, 20)])]))
    (fun t => elemAt t.hart 4 0 32) = some 5 := by decide +kernel
-- R312: a signed compare writes one bit per element.
theorem test_vcmp_lt : after' (.vcmp 4 1 2 .i8 2) (mach (vregs vec2 [(1, [(0, 1), (1, 0x80)])])) (fun t => elemAt t.hart 4 0 2) = some 2 := by
  decide +kernel
-- R315: a sum of n8 elements with its start, modulo 256.
theorem test_vred_sum : after' (.vredSum 3 2 1 .n8) (mach (regs (vregs vec2 [(2, [(0, 200), (1, 50)])]) [(1, 10)])) (·.hart.reg 3) = some 4 := by
  decide +kernel
theorem test_vred_mfirst_none : after' (.vredMfirst 3 2) (mach vec2) (·.hart.reg 3) = some 0xFFFFFFFFFFFFFFFF := by decide +kernel
-- R317: slup by one moves element 0 to element 1; iota counts from s[b].
theorem test_vperm_slup : after' (.vpermSlup 4 2 1 .n8) (mach (regs (vregs vec2 [(2, [(0, 5), (1, 6)]), (4, [(0, 9)])]) [(1, 1)]))
    (fun t => (elemAt t.hart 4 0 8, elemAt t.hart 4 1 8)) = some (9, 5) := by decide +kernel
theorem test_vperm_iota : after' (.vpermIota 4 1 .i16) (mach (regs vec2 [(1, 0xFFFF)]))
    (fun t => (elemAt t.hart 4 0 16, elemAt t.hart 4 1 16)) = some (0xFFFF, 0) := by decide +kernel
-- R322, R323: unit-stride moves in the scratchpad.
theorem test_vld_unit : after' (.vldUnit 4 1 .n16) (mach (regs vec2 [(1, spad 4)]) { spad := [(4, 1), (6, 2)] })
    (fun t => (elemAt t.hart 4 0 16, elemAt t.hart 4 1 16)) = some (1, 2) := by decide +kernel
theorem test_vst_stride : after' (.vstStride 4 1 .n8) (mach (regs (vregs { vec2 with vstride := 0xFFFFFFFFFFFFFFFF } [(4, [(0, 7), (1, 8)])]) [(1, spad 1)]))
    (·.core.spad) = some [(0, 8), (1, 7)] := by decide +kernel
-- R331: f32 2^-100 * 2^-100 is hard: a hole, and a READY entry with the operands.
theorem test_vv_mul_hard : after' (.vvMul 4 2 3 .f32) (mach (vregs { vec with vl := 1 } [(2, [(2, 0x80), (3, 0x0D)]), (3, [(2, 0x80), (3, 0x0D)])]))
    (fun t => (((t.hart.vreg 4).presence 0 32 == .hole), t.core.holes.map fun e => (e.2.st, e.2.opa, e.2.opb))) =
    some (true, [(.ready, 0x0D800000, 0x0D800000)]) := by decide +kernel
-- R334: vcvt of f32 2.5 to i32 under RNE gives 2 and raises INEXACT.
theorem test_vcvt_rne : after' (.vcvt 4 2 0 .i32 .f32 1) (mach (vregs { vec with vl := 1 } [(2, [(2, 0x20), (3, 0x40)])]))
    (fun t => (elemAt t.hart 4 0 32, t.hart.fpflags)) = some (2, 16) := by decide +kernel
-- R355: a hart of a gang without the array traps ILL, subcode ARRAY, in the vector entry.
theorem test_mx_zero_without_array : after' (.mxZero 0) (mach vec2) (fun t => (t.hart.sbank.tcause, t.hart.sbank.tsub, t.hart.viq.length)) =
    some (0x8C01, 5, 1) := by decide +kernel

end

end Sys2Proof.Tests
end

