-- ==== Sys2Proof/Tests/WitnessScalar.lean ====
section
/-! SUPPORT. States and operands that meet the hypotheses of the statements about scalar instructions, clause by clause, at values
where the clauses begin or end. -/

namespace Sys2Proof.Tests

set_option Elab.async false

open Sys2Proof.Machine Sys2Proof.Machine.Claim

noncomputable section

/-! ### Encoding and steps -/

theorem witness_EncodeThenDecode : (Instr.ld 31 0 .f64 0x800).wf = true ∧ isEvent (Instr.ld 31 0 .f64 0x800) = false := by decide

theorem witness_EveryWordHasOneMeaning :
    0xFFFFFFFF < 2 ^ 32 ∧ (decodeWord 0xFFFFFFFF).toOption = some (.ill3f 0x3FFFFFF) := by decide +kernel

/-- A machine that runs alu.add s5, s6, s7. -/
def stepping : State := State.reset.withFetchWord 32 0x04A63980

theorem decode_of {n : Nat} {i : Instr} (h : (decodeWord n).toOption = some i) : decodeWord n = .ok i := by
  revert h
  cases decodeWord n <;> simp [Except.toOption]

theorem witness_StepRunsTheDecodedInstruction :
    (stepping.powered = true ∧ stepping.stew.booted = true ∧ stepping.stew.diverged = none ∧ stepping.inbox = [] ∧
      stepping.hart.exited = false ∧ stepping.hart.slot = .running ∧ stepping.hart.pending = none ∧ stepping.hart.builtin = none ∧
      ¬ (stepping.hart.kind = .helper ∧ stepping.hart.pc = 0 ∧ stepping.hart.taken = none) ∧ stepping.hart.viq = [] ∧
      stepping.hart.sync = [] ∧ stepping.hart.stepElems = none ∧ breakpointBefore stepping stepping.turn stepping.hart.pc = false ∧
      stepping.hart.pc.toNat % 4 = 0) ∧
    ∃ s1 u, translate stepping stepping.turn .fetch false stepping.hart.pc.toNat = .ok ({ loc := .dev 0x20000 }, s1) ∧
      serves s1 stepping.turn { loc := .dev 0x20000 } 4 ∧ s1.mem.past.drop (s1.hartAt stepping.turn).codeAt = [] ∧
      decodeWord (leNat ((List.range 4).map fun n => Memory.read1 s1.mem.dev (0x20000 + n))) = .ok (.aluAdd 5 6 7 .i64) ∧
      (Instr.aluAdd 5 6 7 .i64).wf = true ∧ exec (.aluAdd 5 6 7 .i64) s1 = .next u ∧ u.noted = [] ∧
      (u.hartAt stepping.turn).stepsLeft = none ∧ u.mem.ports = [] := by
  refine ⟨by decide +kernel, walked stepping .fetch 0x20000, _, walked_ok (by decide +kernel), serves_dev rfl (by decide +kernel),
    by decide +kernel, decode_of (by decide +kernel), rfl, rfl, by decide +kernel, by decide +kernel, by decide +kernel⟩

theorem witness_MemoryStaysCanonical : memOk { State.reset with inbox := [.energyUpdate 5] } ∧
    ∃ t, step { State.reset with inbox := [.energyUpdate 5] } = .next t := by
  refine ⟨⟨rfl, rfl, fun p m hm => by cases hm⟩, _, rfl⟩

/-! ### Arithmetic, loads and stores -/

/-- The least i64 in s1, all ones in s2. -/
def ends : State := mach (regs vec [(1, 0x8000000000000000), (2, 0xFFFFFFFFFFFFFFFF)])

theorem witness_AluInstructions_arith_sums : alu2 (.aluAdds 0 1 1 .i64) = some (.adds, 0, 1, 1, .i64) ∧ (Instr.aluAdds 0 1 1 .i64).wf = true ∧
    arith .adds (Ty.isSigned .i64) (cut .i64 (ends.hart.reg 1)) (cut .i64 (ends.hart.reg 1)) =
      some (0x8000000000000000 : BitVec (Ty.width .i64)) := by decide +kernel

theorem witness_AluInstructions_arith_quotients : alu2 (.aluDiv 3 1 2 .i64) = some (.div, 3, 1, 2, .i64) ∧ (Instr.aluDiv 3 1 2 .i64).wf = true ∧
    divide .div (Ty.isSigned .i64) (cut .i64 (ends.hart.reg 1)) (cut .i64 (ends.hart.reg 2)) =
      some (0x8000000000000000 : BitVec (Ty.width .i64)) ∧
    divide .rem (Ty.isSigned .i8) (cut .i8 (ends.hart.reg 2)) (cut .i8 (ends.hart.reg 0)) = some (0xFF : BitVec (Ty.width .i8)) := by
  decide +kernel

theorem witness_AluInstructions_logic : alu2 (.aluShr 3 1 2 .i64) = some (.shr, 3, 1, 2, .i64) ∧ (Instr.aluShr 3 1 2 .i64).wf = true ∧
    logic .shr (Ty.isSigned .i64) (cut .i64 (ends.hart.reg 1)) (cut .i64 (ends.hart.reg 2)) =
      some (0xFFFFFFFFFFFFFFFF : BitVec (Ty.width .i64)) ∧
    alu2 (.aluMin 3 1 2 .n8) = some (.min, 3, 1, 2, .n8) ∧ (Instr.aluMin 3 1 2 .n8).wf = true ∧
    extreme .min (Ty.isSigned .n8) (cut .n8 (ends.hart.reg 1)) (cut .n8 (ends.hart.reg 2)) = some (0 : BitVec (Ty.width .n8)) ∧
    Ty.isInt .n64 = true := by decide +kernel

theorem witness_ImmediatesAndHi : immValue (.aluiSra 3 1 63) ends.hart.reg = some (3, 0xFFFFFFFFFFFFFFFF) ∧
    immValue (.hi 0 1 0xFFFF) ends.hart.reg = some (0, 0xFFFF) := by decide +kernel

/-- The last eight bytes of the scratchpad at s1, misaligned by two at s2, a page of device memory at s3. -/
def reach : State := mapped (regs vec [(1, spad 0x1FFFF8), (2, spad 2), (3, 0x30000), (4, 0x8877665544332211)])

theorem witness_LoadsDeliver_scratchpad : let va := reach.hart.reg 1 + BitVec.ofInt 64 (BitVec.toInt (0 : BitVec 12))
    ldTy .f64 = true ∧ va.toNat % Ty.size .f64 = 0 ∧ translate reach reach.turn .load false va.toNat = .ok ({ loc := .spad 0 0x1FFFF8 }, reach) ∧
    serves reach reach.turn { loc := .spad 0 0x1FFFF8 } (Ty.size .f64) ∧ reach.hart.strip = [] :=
  ⟨by decide, by decide +kernel, ok_of (by decide +kernel), serves_spad (by decide +kernel), by decide +kernel⟩

theorem witness_LoadsDeliver_device : let va := reach.hart.reg 3 + BitVec.ofInt 64 (BitVec.toInt (0xFFF : BitVec 12))
    ldTy .i8 = true ∧ va.toNat % Ty.size .i8 = 0 ∧
    translate reach reach.turn .load false va.toNat = .ok ({ loc := .dev 0x2FFFF }, walked reach .load va.toNat) ∧
    serves (walked reach .load va.toNat) reach.turn { loc := .dev 0x2FFFF } (Ty.size .i8) ∧ reach.hart.strip = [] :=
  ⟨by decide, by decide +kernel, walked_ok (by decide +kernel), serves_dev rfl (by decide +kernel), by decide +kernel⟩

theorem witness_StoresPerform : let va := reach.hart.reg 3 + BitVec.ofInt 64 (BitVec.toInt (0x7F8 : BitVec 12))
    ldTy .d64 = true ∧ va.toNat % Ty.size .d64 = 0 ∧
    translate reach reach.turn .store false va.toNat = .ok ({ loc := .dev 0x307F8 }, walked reach .store va.toNat) ∧
    serves (walked reach .store va.toNat) reach.turn { loc := .dev 0x307F8 } (Ty.size .d64) ∧ noStrip reach :=
  ⟨by decide, by decide +kernel, walked_ok (by decide +kernel), serves_dev rfl (by decide +kernel), noStrip_of (by decide +kernel)⟩

theorem witness_MisalignedAccessesTrap :
    (reach.hart.reg 2 + BitVec.ofInt 64 (BitVec.toInt (0 : BitVec 12))).toNat % Ty.size .n32 ≠ 0 ∧ trapReady reach.hart ∧ noStrip reach ∧
    (mach { vec with pc := 2 }).hart.pc.toNat % 4 ≠ 0 :=
  ⟨by decide +kernel, trapReady_of (by decide +kernel), noStrip_of (by decide +kernel), by decide⟩

theorem witness_MisalignedAccessesTrap_fetch : let s := { mach { vec with pc := 2 } with stew := { booted := true } }
    s.powered = true ∧ s.stew.booted = true ∧ s.stew.diverged = none ∧ s.inbox = [] ∧ s.hart.exited = false ∧
    s.hart.slot = .running ∧ s.hart.pending = none ∧ s.hart.builtin = none ∧ s.hart.viq = [] ∧ s.hart.sync = [] ∧
    breakpointBefore s s.turn s.hart.pc = false ∧ s.mem.ports = [] ∧ s.noted = [] ∧ s.hart.pc.toNat % 4 ≠ 0 ∧ trapReady s.hart :=
  ⟨by decide, by decide, by decide, by decide, by decide, by decide, by decide, by decide, by decide, by decide, by decide +kernel,
    by decide, by decide, by decide, trapReady_of (by decide)⟩

/-! ### Traps -/

theorem witness_TrapEntry : trapReady (mach vec).hart ∧ debugHeld (mach vec) (mach vec).turn = false ∧
    (mach vec).hart.slot = .running ∧ (mach vec).hart.viq = [] :=
  ⟨trapReady_of (by decide), by decide +kernel, by decide, by decide⟩

/-- A trap in the S bank under way, and one in the U bank. -/
def inS (w : Word) : State := mach { vec with sbank := { tcause := w, tvec := 0x4000 } }
def inU (w : Word) : State := mach { usr with ubank := { tcause := w, tvec := 0x5000 } }

theorem witness_TrapReturn_S : let h := (inS 0x8411).hart
    true = decide (h.priv = .supervisor ∧ h.sbank.intrap = true) ∧ h.sbank.intrap = true ∧ h.sbank.tcause.toNat / 2 ^ 12 % 4 = 0 ∧
    (h.priv = .user → h.sbank.tcause.toNat.testBit 10 = false) := by decide

theorem witness_TrapReturn_U_masked : let h := (inU 0x9009).hart
    false = decide (h.priv = .supervisor ∧ h.sbank.intrap = true) ∧ h.ubank.intrap = true ∧
    (h.ubank.tcause.toNat / 2 ^ 12 % 4 = 1 ∧ h.ubank.tcause.toNat / 2 ^ 11 % 2 = 0) ∧
    (h.priv = .user → h.ubank.tcause.toNat.testBit 10 = false) := by decide

theorem witness_TrapReturn_vector : let h := { (inU 0x9809).hart with viq := [{ op := .setrows 1, pc := 0xFC, seq := 3 }] }
    false = decide (h.priv = .supervisor ∧ h.sbank.intrap = true) ∧ h.ubank.intrap = true ∧ h.ubank.tcause.toNat / 2 ^ 12 % 4 < 2 ∧
    (h.priv = .user → h.ubank.tcause.toNat.testBit 10 = false) ∧ h.ubank.tcause.toNat / 2 ^ 11 % 2 = 1 ∧ h.viq ≠ [] := by decide

theorem witness_TrapReturn_outside : trapReady (mach vec).hart ∧ (mach vec).hart.ubank.intrap = false :=
  ⟨trapReady_of (by decide), by decide⟩

theorem witness_TrapReturn_level : trapReady (inU 0x8409).hart ∧ (inU 0x8409).hart.priv = .user ∧ (inU 0x8409).hart.ubank.intrap = true ∧
    (inU 0x8409).hart.ubank.tcause.toNat.testBit 10 = true := ⟨trapReady_of (by decide), by decide, by decide, by decide⟩

theorem witness_TrapReturn_resume : trapReady (inU 0xA009).hart ∧ (inU 0xA009).hart.priv = .user ∧ (inU 0xA009).hart.ubank.intrap = true ∧
    (inU 0xA009).hart.ubank.tcause.toNat.testBit 10 = false ∧ 1 < (inU 0xA009).hart.ubank.tcause.toNat / 2 ^ 12 % 4 :=
  ⟨trapReady_of (by decide), by decide, by decide, by decide, by decide⟩

/-! ### Floating point -/

/-- 1, 3, -1 and the greatest f32 in s1 to s4, with some exceptions enabled. -/
def floats (fpctl : Word) (masked : Bool) : State :=
  mach (regs { vec with fpctl := fpctl, masked := masked } [(1, 0x3F800000), (2, 0x40400000), (3, 0xBF800000), (4, 0x7F7FFFFF)])

theorem witness_FpuDelivers : fpuValue (.fpuDiv 5 1 2 .f32) (floats 0 false).hart = some (5, false, 0x3EAAAAAB, 16) ∧
    (Instr.fpuDiv 5 1 2 .f32).wf = true ∧ trapped (floats 0 false).hart.fpctl false 16 = 0 := by decide +kernel

theorem witness_FpuDelivers_masked : fpuValue (.fpuAdd 5 4 4 .f32) (floats 0x400 true).hart = some (5, false, 0x7F800000, 20) ∧
    (Instr.fpuAdd 5 4 4 .f32).wf = true ∧ (floats 0x400 true).hart.masked = true := by decide +kernel

theorem witness_FpuDelivers_sr : (floats 0 false).hart.masked = false ∧ trapped (floats 0 false).hart.fpctl false
    (convertT .f32 .bf16 (.sr (srBits (floats 0 false).hart.srkey (floats 0 false).hart.srcount 0 0)) (pat .f32 (floats 0 false).hart 1)).2 = 0 := by
  decide +kernel

theorem witness_FpuDelivers_sr_masked : (floats 0x1000 true).hart.masked = true := by decide

theorem witness_FpuTraps_sr : trapped (floats 0x1000 false).hart.fpctl false
      (convertT .f32 .bf16 (.sr (srBits (floats 0x1000 false).hart.srkey (floats 0x1000 false).hart.srcount 0 0))
        (pat .f32 (floats 0x1000 false).hart 4)).2 ≠ 0 ∧
    (floats 0x1000 false).hart.masked = false ∧ trapReady (floats 0x1000 false).hart :=
  ⟨by decide +kernel, by decide, trapReady_of (by decide)⟩

theorem witness_FpuTraps : fpuValue (.fpuSqrt 5 3 .f32) (floats 0x100 false).hart = some (5, false, 0x7FC00000, 1) ∧
    (Instr.fpuSqrt 5 3 .f32).wf = true ∧ trapped (floats 0x100 false).hart.fpctl false 1 ≠ 0 ∧ (floats 0x100 false).hart.masked = false ∧
    trapReady (floats 0x100 false).hart :=
  ⟨by decide +kernel, by decide, by decide, by decide, trapReady_of (by decide)⟩

theorem real_of {f : Fmt} {v m : Nat} {e : Int} {neg : Bool} (h : unpackBin f v = .fin neg m e) :
    real f v = some ((if neg then -1 else 1) * (m : ℝ) * (2 : ℝ) ^ e) := by
  simp [real, h]

/-- The f32 patterns of 1 and of 3 stand for 1 and 3. -/
theorem real_one : real (fmtOf .f32) 0x3F800000 = some 1 := by
  rw [real_of (show unpackBin (fmtOf .f32) 0x3F800000 = .fin false 0x800000 (-23) by decide)]
  norm_num

theorem real_three : real (fmtOf .f32) 0x40400000 = some 3 := by
  rw [real_of (show unpackBin (fmtOf .f32) 0x40400000 = .fin false 0xC00000 (-22) by decide)]
  norm_num

theorem witness_FpuSumsAndProductsRoundOnce : (0x3F800000 < 2 ^ Ty.width .f32 ∧ 0x40400000 < 2 ^ Ty.width .f32) ∧
    real (fmtOf .f32) 0x3F800000 = some 1 ∧ real (fmtOf .f32) 0x40400000 = some 3 ∧
    (1 : ℝ) + 3 ≠ 0 ∧ (1 : ℝ) - 3 ≠ 0 ∧ (1 : ℝ) * 3 ≠ 0 ∧ (1 : ℝ) * 3 + 1 ≠ 0 :=
  ⟨by decide, real_one, real_three, by norm_num, by norm_num, by norm_num, by norm_num⟩

theorem witness_FpuQuotientsAndRootsRoundOnce : (0x3F800000 < 2 ^ Ty.width .f32 ∧ 0x40400000 < 2 ^ Ty.width .f32) ∧
    real (fmtOf .f32) 0x40400000 = some 3 ∧ real (fmtOf .f32) 0x3F800000 = some 1 ∧ (3 : ℝ) ≠ 0 ∧ (1 : ℝ) ≠ 0 ∧ (0 : ℝ) < 3 :=
  ⟨by decide, real_three, real_one, by norm_num, by norm_num, by norm_num⟩

/-! ### Control registers and system instructions -/

theorem witness_ControlRegistersRead : let s := mach { vec with vl := 7 }
    s.hart.kind = .vector ∧ s.hart.priv = .supervisor ∧ ((0 : BitVec 12).toNat, 7) ∈ ctlList s ∧
    ((0x180 : BitVec 12).toNat, 0) ∈ ctlList s := by decide +kernel

theorem witness_ControlRegistersWrite : let s := mach (regs vec [(1, 0x7C0)])
    let new := ctlNew s s.turn 1 0x084 (s.hart.reg 1).toNat
    idleQueue s ∧ ctlGet s s.turn 0x084 = some 0 ∧ ctlWritable s.hart.priv 0x084 = true ∧ ctlHidden s.hart.priv 0x084 = false ∧
    ctlAllowed 0x084 new = true ∧ s.hart.spawnMin < 4 ∧ s.hart.boostReq < 4 ∧ classOf s s.turn < 256 :=
  ⟨idleQueue_of (by decide +kernel), by decide +kernel, by decide +kernel, by decide +kernel, by decide +kernel, (by decide), by decide,
    by decide +kernel⟩

theorem witness_ControlRegistersWrite_spawn : let s := mach (regs vec [(1, 0x100)])
    let new := ctlNew s s.turn 1 0x100 (s.hart.reg 1).toNat
    idleQueue s ∧ (ctlGet s s.turn 0x100).isSome = true ∧ ctlWritable s.hart.priv 0x100 = true ∧ ctlHidden s.hart.priv 0x100 = false ∧
    ctlAllowed 0x100 new = true ∧ (s.partAt ((s.partOf (coreOf s.turn)).getD 0)).spawnGrant ≤ new / 2 ^ 8 % 4 :=
  ⟨idleQueue_of (by decide +kernel), by decide +kernel, by decide +kernel, by decide +kernel, by decide +kernel, by decide +kernel⟩

theorem witness_ControlRegisterChecks : trapReady (mach usr).hart ∧ ctlGet (mach usr) 0 0xFFF = none ∧ (mach usr).hart.kind = .vector ∧
    (mach usr).hart.priv = .user ∧ trapReady { usr with kind := .scalar } :=
  ⟨trapReady_of (by decide), by decide +kernel, by decide, by decide, trapReady_of (by decide)⟩

theorem witness_SystemInstructions_idle : let s := { mach (regs vec [(1, 5), (2, 4)]) with now := 99 }
    s.now / 20 < (s.hart.reg 1).toNat ∧ (s.hart.reg 2).toNat ≤ s.now / 20 ∧ s.turn < 384 * 8 := by decide +kernel

theorem witness_SystemInstructions : (mach vec).hart.priv = .supervisor ∧ (2 : BitVec 2) ≠ 3 ∧
    ((mach vec).partAt (((mach vec).partOf (coreOf (mach vec).turn)).getD 0)).mbbase = 0 ∧
    ((mach vec).partAt (((mach vec).partOf (coreOf (mach vec).turn)).getD 0)).dmbase = 0 ∧ (mach vec).hart.strip = [] ∧
    ∀ n : Fin 4, 0 ∈ tlbScope (mach vec) 0 ∧ ((mach vec).hartAt (0 * 8 + n.val)).strip = [] ∧ ((mach vec).hartAt (0 * 8 + n.val)).viq = [] := by
  decide +kernel

/-- The TLB entry of page 0x30, and a strip of hart 1 that holds a store to that page. -/
def pageAt : TlbEntry :=
  { part := 0, asid := 0, vbase := 0x30000, lg := 16, pbase := 0x30000, r := true, w := true, x := true, u := true, kind := 0, enc := false, gen := 0 }

def buffered : StripStore := { place := { loc := .dev 0x30010 }, bytes := [7, 9], page := some pageAt }

theorem witness_SystemInstructions_wait :
    let s := { mach vec with harts := [(0, vec), (1, { vec with strip := [buffered], used := 2 })] }
    s.hart.priv = .supervisor ∧ s.hart.strip = [] ∧ 0 ∈ tlbScope s 0 ∧ buffered ∈ (s.hartAt (0 * 8 + 1)).strip ∧
    buffered.page = some pageAt ∧ pageAt.part = (s.partOf (coreOf s.turn)).getD 0 := by decide +kernel

theorem witness_UserHartsTrapPriv : (mach usr).hart.priv = .user ∧ trapReady (mach usr).hart ∧ (Instr.tlbinvAll 2).wf = true ∧
    (Instr.csave 1 2 0 false true).wf = true := ⟨by decide, trapReady_of (by decide), by decide, by decide⟩

/-! ### Atomics, fences, barriers -/

theorem witness_Atomics : ∃ x, amoOf (.amoCas 4 3 2 .n64 true 3) reach.hart.reg = some x ∧ (Instr.amoCas 4 3 2 .n64 true 3).wf = true ∧
    noStrip reach ∧ (reach.hart.reg x.a).toNat % x.t.size = 0 ∧
    translate reach reach.turn .atomic false (reach.hart.reg x.a).toNat = .ok ({ loc := .dev 0x30000 }, walked reach .atomic 0x30000) ∧
    serves (walked reach .atomic 0x30000) reach.turn { loc := .dev 0x30000 } x.t.size :=
  ⟨_, rfl, by decide, noStrip_of (by decide +kernel), by decide +kernel, walked_ok (by decide +kernel), serves_dev rfl (by decide +kernel)⟩

theorem witness_Atomics_cas2 : (Instr.amoCas2 6 3 8 false 0).wf = true ∧ noStrip reach ∧ (reach.hart.reg 3).toNat % 16 = 0 ∧
    translate reach reach.turn .atomic false (reach.hart.reg 3).toNat = .ok ({ loc := .dev 0x30000 }, walked reach .atomic 0x30000) ∧
    serves (walked reach .atomic 0x30000) reach.turn { loc := .dev 0x30000 } 16 :=
  ⟨by decide, noStrip_of (by decide +kernel), by decide +kernel, walked_ok (by decide +kernel), serves_dev rfl (by decide +kernel)⟩

theorem witness_FencesAndPhase : let s := mach (regs vec [(1, 0), (2, 0x80000000)])
    noStrip s ∧ s.mem.phase < 2 ^ 32 ∧ s.mem.phase % 2 = 0 ∧
    (s.mem.phase + 2 ^ 32 - (s.hart.reg 1).toNat % 2 ^ 32) % 2 ^ 32 < 2 ^ 31 ∧
    ¬ (s.mem.phase % 2 = 0 ∧ (s.mem.phase + 2 ^ 32 - (s.hart.reg 2).toNat % 2 ^ 32) % 2 ^ 32 < 2 ^ 31) :=
  ⟨noStrip_of (by decide +kernel), by decide, by decide, by decide +kernel, by decide +kernel⟩

/-- A hart with an open strip that holds a store to device memory, and one to its scratchpad. -/
def stripped : State :=
  mapped { vec with strip := [buffered, { place := { loc := .spad 0 0x40 }, bytes := [1] }], used := 3 }

theorem witness_FencesAndPhase_strip : stripLands stripped ∧ stripped.hart.strip ≠ [] := by
  refine ⟨⟨fun _ => (by unfold mapsAgree; decide +kernel), fun b hb => ?_⟩, by decide +kernel⟩
  have hs : stripped.hart.strip = [buffered, { place := { loc := .spad 0 0x40 }, bytes := [1] }] := by decide +kernel
  rw [hs] at hb
  rcases List.mem_cons.1 hb with rfl | hb
  · exact ⟨by decide, serves_dev rfl (by decide +kernel)⟩
  · rw [List.mem_singleton.1 hb]
    exact inPiece_false (by decide +kernel)

/-- A placed gang of core 0 with some barriers. -/
def gangWith (bars : Table Barrier) (array : Bool := false) : Gang :=
  { task := 1, cores := [0], part := 0, cls := 0, nv := 1, nh := 1, np := 1, array := array, bars := bars }

/-- Its task. -/
def taskOne : Task :=
  { desc := 0x30040, phys := 0x30040, enc := false, part := 0, die := 0, cls := 0, cores := 1, nv := 1, nh := 1, np := 1, entry := 0x100
    arg := 0, future := 0, start := {}, st := .running }

/-- Hart 0 in that gang. -/
def inGang (h : Hart) (g : Gang) (c : Core := {}) : State :=
  { mach { h with gang := some 1 } { c with gang := some 1 } with gangs := [(1, g)], tasks := [(1, taskOne)] }

/-- The hart of R294's example: slot 3 of core 7 of cluster 5 of die 2, in partition 1, as gang-core 2. -/
def r294 : State :=
  { State.reset with
    turn := 259 * 8 + 3, harts := [(259 * 8 + 3, vec)], cores := [(259, { gang := some 1 })]
    gangs := [(1, { gangWith [] with cores := [260, 261, 259], part := 1 })]
    parts := [(0, Partition.first), (1, { live := true, clusters := 2 ^ 21 })] }

theorem witness_IdTellsTheHart : r294.turn = (2 * 96 + 5 * 12 + 7) * 8 + 3 ∧ r294.partOf 259 = some 1 ∧
    (r294.gangOf 259).any (fun g => g.cores.contains 259 && g.cores.idxOf 259 == 2) = true ∧
    idWord r294 r294.turn = 0x4601004200103ABB := by decide +kernel

theorem witness_TrapReturn_double : let s := inGang { vec with sbank := { tcause := 0xA411, tvec := 0x4000 } } (gangWith [])
    s.hart.priv = .supervisor ∧ s.hart.sbank.intrap = true ∧ 1 < s.hart.sbank.tcause.toNat / 2 ^ 12 % 4 ∧ s.hart.streams = [] ∧
    s.hart.gang = some 1 := by decide +kernel

/-- Barriers 0: not initialised; 1: two parties, one arrived; 2: as 1 with a transfer pending; 3: broken; 4: phase 5. -/
def bars : Table Barrier :=
  [(1, { count := 2, arrived := 1 }), (2, { count := 2, arrived := 1, pend := 1 }), (3, { count := 2, broken := true }),
   (4, { count := 1024, phase := 5 })]

/-- Handles in s1 to s5 by number, counts in s6 and s7, phases in s8 to s10. -/
def barrier (synced : List (Word × Nat × Nat)) : State :=
  inGang (regs { vec with synced := synced } [(1, 1), (2, 2), (3, 3), (4, 4), (5, 0), (6, 1), (7, 1024), (8, 4), (9, 5), (10, 0xFFFFFFFF)])
    (gangWith bars)

theorem barRef_of {s : State} {k h : Nat} {r : BarRef}
    (hb : (match barRef s k h with | .ok q => q.die == r.die && q.own == r.own && q.num == r.num | .error _ => false) = true) :
    barRef s k h = .ok r := by
  split at hb
  · rename_i q he
    rw [he]
    simp only [Bool.and_eq_true, beq_iff_eq] at hb
    obtain ⟨⟨h1, h2⟩, h3⟩ := hb
    cases q; cases r; simp_all
  · cases hb

theorem ready_of {s : State} {a : Reg} {r : BarRef}
    (hb : (match barRef s s.turn (s.hart.reg a).toNat with | .ok q => q.die == r.die && q.own == r.own && q.num == r.num | .error _ => false) = true)
    (h : decide ((barGet s r).broken = false ∧ 0 < (barGet s r).count) = true) : barrierReady s a r :=
  ⟨barRef_of hb, (of_decide_eq_true h).1, (of_decide_eq_true h).2⟩

theorem witness_Barriers_init : noStrip (barrier []) ∧ barRef (barrier []) 0 ((barrier []).hart.reg 5).toNat = .ok ⟨false, 1, 0⟩ ∧
    ((barGet (barrier []) ⟨false, 1, 0⟩).arrived = 0 ∧ (barGet (barrier []) ⟨false, 1, 0⟩).pend = 0 ∧
      barWaited (barrier []) ⟨false, 1, 0⟩ = false) ∧
    1 ≤ ((barrier []).hart.reg 6).toNat ∧ ((barrier []).hart.reg 7).toNat ≤ 1024 :=
  ⟨noStrip_of (by decide +kernel), barRef_of (by decide +kernel), by decide +kernel, by decide +kernel, by decide +kernel⟩

theorem witness_Barriers_arrive : barrierReady (barrier []) 1 ⟨false, 1, 1⟩ ∧
    (barGet (barrier []) ⟨false, 1, 1⟩).arrived < (barGet (barrier []) ⟨false, 1, 1⟩).count ∧
    (barGet (barrier []) ⟨false, 1, 1⟩).arrived + 1 = (barGet (barrier []) ⟨false, 1, 1⟩).count ∧
    (barGet (barrier []) ⟨false, 1, 1⟩).pend = 0 ∧ (barrier []).hart.synced = [] :=
  ⟨ready_of (by decide +kernel) (by decide +kernel), by decide +kernel, by decide +kernel, by decide +kernel, by decide +kernel⟩

theorem witness_Barriers_arrive_pending : barrierReady (barrier []) 2 ⟨false, 1, 2⟩ ∧
    (barGet (barrier []) ⟨false, 1, 2⟩).arrived < (barGet (barrier []) ⟨false, 1, 2⟩).count ∧
    (barGet (barrier []) ⟨false, 1, 2⟩).pend ≠ 0 :=
  ⟨ready_of (by decide +kernel) (by decide +kernel), by decide +kernel, by decide +kernel⟩

theorem witness_Barriers_sync_again : let s := barrier [(0x80, 4, 2), (0x100, 4, 4)]
    let gone := ((barGet s ⟨false, 1, 4⟩).phase + 2 ^ 32 - 4) % 2 ^ 32
    let mine := fun (x : Word × Nat × Nat) => x.1 == s.hart.pc && x.2.1 == (s.hart.reg 4).toNat
    barrierReady s 4 ⟨false, 1, 4⟩ ∧ s.hart.synced.find? mine = some (s.hart.pc, (s.hart.reg 4).toNat, 4) ∧ 0 < gone ∧ gone < 2 ^ 31 ∧
    ((barGet s ⟨false, 1, 4⟩).phase + 2 ^ 32 - 5) % 2 ^ 32 = 0 :=
  ⟨ready_of (by decide +kernel) (by decide +kernel), by decide +kernel, by decide +kernel, by decide +kernel, by decide +kernel⟩

theorem witness_Barriers_wait : let s := barrier []
    let gone := fun (d : Reg) => ((barGet s ⟨false, 1, 4⟩).phase + 2 ^ 32 - (s.hart.reg d).toNat % 2 ^ 32) % 2 ^ 32
    barrierReady s 4 ⟨false, 1, 4⟩ ∧ (0 < gone 8 ∧ gone 8 < 2 ^ 31) ∧ gone 9 = 0 ∧ trapReady s.hart :=
  ⟨ready_of (by decide +kernel) (by decide +kernel), by decide +kernel, by decide +kernel, trapReady_of (by decide +kernel)⟩

theorem witness_Barriers_wait_future : let s := inGang (regs vec [(1, 4), (2, 6)]) (gangWith bars)
    barrierReady s 1 ⟨false, 1, 4⟩ ∧ 2 ^ 31 < ((barGet s ⟨false, 1, 4⟩).phase + 2 ^ 32 - (s.hart.reg 2).toNat % 2 ^ 32) % 2 ^ 32 ∧ trapReady s.hart :=
  ⟨ready_of (by decide +kernel) (by decide +kernel), by decide +kernel, trapReady_of (by decide +kernel)⟩

theorem witness_Barriers_unusable : barRef (barrier []) 0 ((barrier []).hart.reg 3).toNat = .ok ⟨false, 1, 3⟩ ∧
    (barGet (barrier []) ⟨false, 1, 3⟩).broken = true ∧ barRef (barrier []) 0 ((barrier []).hart.reg 5).toNat = .ok ⟨false, 1, 0⟩ ∧
    (barGet (barrier []) ⟨false, 1, 0⟩).broken = false ∧ (barGet (barrier []) ⟨false, 1, 0⟩).count = 0 ∧ trapReady (barrier []).hart :=
  ⟨barRef_of (by decide +kernel), by decide +kernel, barRef_of (by decide +kernel), by decide +kernel, by decide +kernel, trapReady_of (by decide +kernel)⟩

/-! ### Futures and tasks -/

/-- The machine after the walk of the steward's page table for a user address. -/
def found (s : State) (part : Nat) (root : Word) (va : Nat) : State :=
  match findLocal s part root va with | .ok (_, t) => t | .error _ => s

theorem found_ok {s : State} {part va : Nat} {root : Word} {p : Place}
    (h : (match findLocal s part root va with | .ok (q, _) => decide (q = p) | .error _ => false) = true) :
    findLocal s part root va = .ok (p, found s part root va) := by
  unfold found
  split at h
  · rename_i q t he
    rw [he, of_decide_eq_true h]
  · cases h

/-- Device memory with numbers written: address, bytes, value. -/
def withDev (s : State) (l : List (Nat × Nat × Nat)) : State :=
  { s with mem := { s.mem with dev := l.foldl (fun m x => Memory.writeNat m x.1 x.2.1 x.2.2) s.mem.dev } }

/-- A future at s3 in a state, the address of a descriptor with two pending dependencies in s4. -/
def future (st cont : Nat) : State :=
  withDev (mapped (regs vec [(3, 0x30000), (4, 0x30040)])) [(0x30000, 8, cont), (0x30008, 4, 7), (0x3000C, 1, st), (0x30058, 4, 2)]

theorem plain_of {s : State} {p : Place} {n a : Nat} (hp : p.loc = .dev a) (hs : serves s s.turn p n) (ha : a % n = 0) : plainPlace s p n :=
  ⟨hs, a, hp, ha⟩

theorem witness_Futures_get : let s := future 2 0
    noStrip s ∧ (s.hart.reg 3).toNat % 16 = 0 ∧
    translate s s.turn .load false (s.hart.reg 3).toNat = .ok ({ loc := .dev 0x30000 }, walked s .load 0x30000) ∧
    plainPlace (walked s .load 0x30000) { loc := .dev 0x30000 } 16 ∧ numAt (walked s .load 0x30000) (.dev 0x3000C) 1 = 2 ∧
    numAt (walked (future 1 0) .load 0x30000) (.dev 0x3000C) 1 < 2 :=
  ⟨noStrip_of (by decide +kernel), by decide +kernel, walked_ok (by decide +kernel),
    plain_of rfl (serves_dev rfl (by decide +kernel)) (by decide), by decide +kernel, by decide +kernel⟩

theorem witness_Futures_settle : let s := future 0 0
    noStrip s ∧ (s.hart.reg 3).toNat % 16 = 0 ∧
    translate s s.turn .atomic false (s.hart.reg 3).toNat = .ok ({ loc := .dev 0x30000 }, walked s .atomic 0x30000) ∧
    plainPlace (walked s .atomic 0x30000) { loc := .dev 0x30000 } 16 ∧ numAt (walked s .atomic 0x30000) (.dev 0x3000C) 1 = 0 ∧
    numAt (walked (future 3 0) .atomic 0x30000) (.dev 0x3000C) 1 = 3 ∧ trapReady s.hart :=
  ⟨noStrip_of (by decide +kernel), by decide +kernel, walked_ok (by decide +kernel),
    plain_of rfl (serves_dev rfl (by decide +kernel)) (by decide), by decide +kernel, by decide +kernel, trapReady_of (by decide +kernel)⟩

theorem witness_Futures_register : let s1 := walked (future 0 0) .atomic 0x30000
    let s2 := walked s1 .atomic 0x30040
    ((future 0 0).hart.reg 4).toNat % 64 = 0 ∧
    translate s1 s1.turn .atomic false ((future 0 0).hart.reg 4).toNat = .ok ({ loc := .dev 0x30040 }, s2) ∧
    plainPlace s2 { loc := .dev 0x30040 } 64 ∧ plainPlace s2 { loc := .dev 0x30000 } 16 ∧
    Place.devAddr { loc := .dev 0x30000 } + 16 ≤ Place.devAddr { loc := .dev 0x30040 } :=
  ⟨by decide +kernel, walked_ok (by decide +kernel), plain_of rfl (serves_dev rfl (by decide +kernel)) (by decide),
    plain_of rfl (serves_dev rfl (by decide +kernel)) (by decide), by decide⟩

theorem witness_Futures_continuation : let s1 := walked (future 1 0x30040) .atomic 0x30000
    numAt s1 (.dev 0x3000C) 1 = 1 ∧ mapsAgree s1 ∧
    findLocal s1 s1.part s1.hart.ptbase (numAt s1 (.dev 0x30000) 8) = .ok ({ loc := .dev 0x30040 }, found s1 s1.part s1.hart.ptbase (numAt s1 (.dev 0x30000) 8)) ∧
    plainPlace s1 { loc := .dev 0x30040 } 64 ∧ 1 < numAt s1 (.dev 0x30058) 4 :=
  ⟨by decide +kernel, (by unfold mapsAgree; decide +kernel), found_ok (by decide +kernel), plain_of rfl (serves_dev rfl (by decide +kernel)) (by decide), by decide +kernel⟩

theorem queuesEmpty_of {s : State} {die : Nat} (h : (s.dieAt die).queues = []) : queuesEmpty s die := fun cls => by
  simp [queueOf, h]

theorem crowded_of {s : State} {cls : Nat} (h : ((s.dieAt 0).queues == [] && s.gangs == [] &&
    decide (∀ c : Fin 96, (s.coreAt c.val).gang ≠ none)) = true) : crowded s 0 cls := by
  simp only [Bool.and_eq_true, beq_iff_eq, decide_eq_true_eq] at h
  obtain ⟨⟨h1, h2⟩, h3⟩ := h
  refine ⟨queuesEmpty_of h1, fun c hc => h3 ⟨c, ?_⟩, fun p hp => ?_⟩
  · simp only [dieOf] at hc; omega
  · rw [h2] at hp; cases hp

/-- A descriptor at s3 with an entry, some pending dependencies, one core with a vector hart and a helper of class 2, on a die whose cores are taken. -/
def spawner (pend : Nat) : State :=
  let s := withDev (mapped (regs vec [(3, 0x30000)]))
    [(0x30000, 8, 0x400), (0x30018, 4, pend), (0x3001C, 1, 1), (0x3001D, 1, 9), (0x3001E, 1, 2)]
  { s with cores := (List.range 96).map fun c => (c, { gang := some 1 }) }

theorem witness_TaskSpawn : let s := spawner 0
    let s1 := walked s .atomic 0x30000
    noStrip s ∧ (s.hart.reg 3).toNat % 64 = 0 ∧ translate s s.turn .atomic false (s.hart.reg 3).toNat = .ok ({ loc := .dev 0x30000 }, s1) ∧
    plainPlace s1 { loc := .dev 0x30000 } 64 ∧ launchBytes s1 s.turn 0 = .ok (List.replicate 64 0, s1) ∧
    field (bytes64 s1 (.dev 0x30000)) 32 8 = 0 ∧ ownLaunch s1 s.turn = 0 ∧
    descOk (bytes64 s1 (.dev 0x30000)) s.hart.spawnMin = true ∧ launchOk (List.replicate 64 0) = true ∧
    crowded s1 0 (field (bytes64 s1 (.dev 0x30000)) 30 1) ∧
    field (bytes64 (walked (spawner 1) .atomic 0x30000) (.dev 0x30000)) 24 4 ≠ 0 :=
  ⟨noStrip_of (by decide +kernel), by decide +kernel, walked_ok (by decide +kernel),
    plain_of rfl (serves_dev rfl (by decide +kernel)) (by decide), rfl, by decide +kernel, by decide +kernel, by decide +kernel,
    by decide +kernel, crowded_of (by decide +kernel), by decide +kernel⟩

/-- Another hart of the gang in slot 4. -/
def twoHarts : State := { inGang vec (gangWith []) with harts := [(0, { vec with gang := some 1 }), (4, { kind := .scalar, slot := .running, gang := some 1 })] }

theorem witness_TaskExitAndYield_others : let s := twoHarts
    noStrip s ∧ s.hart.kind ≠ .helper ∧ holesOpen s s.turn = false ∧ s.hart.viq.any (usesMemory s.hart) = false ∧ s.hart.gang = some 1 ∧ s.gang? 1 = some (gangWith []) ∧
    s.task? 1 = some taskOne ∧ coreOf s.turn ∈ (gangWith []).cores ∧
    ∃ c n, c ∈ (gangWith []).cores ∧ n < 8 ∧ c * 8 + n ≠ s.turn ∧ (s.hartAt (c * 8 + n)).slot ≠ .empty ∧
      (s.hartAt (c * 8 + n)).exited = false ∧ (s.hartAt (c * 8 + n)).kind ≠ .helper :=
  ⟨noStrip_of (by decide +kernel), by decide +kernel, by decide +kernel, by decide +kernel, by decide +kernel, by decide +kernel, (by decide +kernel),
    by decide +kernel, 0, 4, by decide +kernel⟩

theorem witness_TaskExitAndYield_last : let s := inGang vec (gangWith [])
    noStrip s ∧ s.hart.kind ≠ .helper ∧ holesOpen s s.turn = false ∧ s.hart.viq.any (usesMemory s.hart) = false ∧ s.hart.gang = some 1 ∧ s.gang? 1 = some (gangWith []) ∧
    s.task? 1 = some taskOne ∧ coreOf s.turn ∈ (gangWith []).cores ∧ taskOne.future = 0 ∧ queuesEmpty s taskOne.die ∧
    ¬ ∃ c n, c ∈ (gangWith []).cores ∧ n < 8 ∧ c * 8 + n ≠ s.turn ∧ (s.hartAt (c * 8 + n)).slot ≠ .empty ∧
      (s.hartAt (c * 8 + n)).exited = false ∧ (s.hartAt (c * 8 + n)).kind ≠ .helper := by
  refine ⟨noStrip_of (by decide +kernel), by decide +kernel, by decide +kernel, by decide +kernel, by decide +kernel, by decide +kernel, (by decide +kernel),
    by decide +kernel, by decide, queuesEmpty_of (by decide +kernel), ?_⟩
  rintro ⟨c, n, hc, hn, h1, h2, -⟩
  have hc : c = 0 := by simpa [gangWith] using hc
  subst hc
  have : ∀ n : Fin 8, 0 * 8 + n.val ≠ 0 → ((inGang vec (gangWith [])).hartAt (0 * 8 + n.val)).slot = .empty := by decide +kernel
  exact h2 (this ⟨n, hn⟩ h1)

/-- A gang whose task names a future, in a state. -/
def ending (st : Nat) : State :=
  withDev { withHart (inGang vec (gangWith [])) with tasks := [(1, { taskOne with future := 0x30000, start := { ptbase := 0x14000 } })] }
    [(0x30008, 4, 7), (0x3000C, 1, st)]

theorem witness_TaskExitAndYield_future : let x := { taskOne with future := 0x30000, start := { ptbase := 0x14000 } }
    (ending 0).task? 1 = some x ∧ x.future ≠ 0 ∧ mapsAgree (ending 0) ∧
    (∃ w, findLocal (ending 0) x.part x.start.ptbase x.future.toNat = .ok ({ loc := .dev 0x30000 }, w)) ∧
    (∃ w, findLocal (ending 2) x.part x.start.ptbase x.future.toNat = .ok ({ loc := .dev 0x30000 }, w)) ∧
    plainPlace (ending 0) { loc := .dev 0x30000 } 16 ∧ numAt (ending 0) (.dev 0x3000C) 1 = 0 ∧ 1 < numAt (ending 2) (.dev 0x3000C) 1 :=
  ⟨by decide +kernel, by decide, (by unfold mapsAgree; decide +kernel), ⟨_, found_ok (by decide +kernel)⟩,
    ⟨_, found_ok (by decide +kernel)⟩, plain_of rfl (serves_dev rfl (by decide +kernel)) (by decide), by decide +kernel, by decide +kernel⟩

theorem witness_TaskExitAndYield_yield : let s := inGang vec (gangWith [])
    noStrip s ∧ (mach vec).core.gang = none ∧ s.gangOf (coreOf s.turn) = some (gangWith []) ∧ (gangWith []).cores.head? = some 0 ∧
    queuesEmpty s (dieOf 0) :=
  ⟨noStrip_of (by decide +kernel), by decide +kernel, by decide +kernel, by decide, queuesEmpty_of (by decide +kernel)⟩

/-- A helper in slot 4 with a handler in both banks. -/
def help : Hart := { vec with kind := .helper, ubank := { tvec := 0x5000 } }

theorem witness_TaskExitAndYield_helper : (mach4 help).hart.kind = .helper ∧ trapReady (mach4 help).hart :=
  ⟨by decide, trapReady_of (by decide +kernel)⟩

/-! ### Helpers and context images -/

/-- A READY entry of element 3 of v4 of hart 0, 32 bits wide. -/
def entry (st : HoleState) : HoleEntry :=
  { id := 5, gen := 2, slot := 0, seq := 9, age := 1, row := 0, elem := 3, dreg := 4, maj := 0x19, fn := 4, ty := .f32, sty := .f32
    fpctl := 0, opa := 0x0D800000, opb := 0x0D800000, wid := 32, st := st }

/-- The register that misses it. -/
def holed : Hart := vec.setVreg 4 { absent := [(6, { fills := [(5, 0xFFFF)] }), (7, { fills := [(5, 0xFFFF)] })] }

theorem witness_HelperInstructions_take : let s := mach4 help { holes := [(5, entry .ready)] }
    s.hart.kind = .helper ∧ s.hart.taken = none ∧ nextReady s.core = some (entry .ready) ∧ s.hart.filltab = 0 ∧ untraced s ∧ 4 ≤ slotOf s.turn ∧
    nextReady (mach4 help).core = none :=
  ⟨by decide, by decide, by decide +kernel, by decide, by unfold untraced; decide +kernel, by decide, by decide +kernel⟩

theorem witness_HelperInstructions_fill :
    let s := mach4 (regs { help with taken := some 5 } [(1, 0x205), (2, 0x0304)]) { holes := [(5, entry .taken)] } [(0, holed)]
    s.hart.kind = .helper ∧ s.hart.taken = some 5 ∧ Table.find? s.core.holes 5 = some (entry .taken) ∧ (entry .taken).id = 5 ∧
    BitVec.ofNat 64 ((entry .taken).id + (entry .taken).gen * 256) = s.hart.reg 1 ∧ untraced s ∧ (entry .taken).slot < 4 ∧
    4 ≤ slotOf s.turn ∧ (entry .taken).wid = 32 ∧
    (∀ g, g ∈ granulesOf ((entry .taken).elem * (entry .taken).wid) (entry .taken).wid →
      Table.get {} ((s.hartAt 0).vreg ((entry .taken).dreg + (entry .taken).row)).absent g =
        { fills := [((entry .taken).id, granuleMask ((entry .taken).elem * (entry .taken).wid) (entry .taken).wid g)], poison := 0 }) ∧
    (s.hart.reg 2).toNat / 2 ^ 8 % 2 ^ 8 ≠ 0 :=
  ⟨by decide +kernel, by decide +kernel, by decide +kernel, by decide, by decide +kernel, by unfold untraced; decide +kernel, by decide,
    by decide, by decide, by decide +kernel, by decide +kernel⟩

theorem witness_HelperInstructions_others : (mach vec).hart.kind ≠ .helper ∧ trapReady (mach vec).hart := ⟨by decide, trapReady_of (by decide)⟩

/-- A scalar hart in slot 4 that saves itself to s1, beside a stopped one in slot 5. -/
def saver : State :=
  mach4 (regs { vec with kind := .scalar } [(1, spad 0)]) {} [(5, { slot := .stopped, kind := .scalar })]

theorem witness_ContextImages_size : (Instr.csave 2 0 0x10 false true).wf = true ∧ saver.hart.priv = .supervisor ∧ saver.hart.reg 0 = 0 := by
  decide +kernel

theorem witness_ContextImages_save : let named := namedSlots saver (coreOf saver.turn) (BitVec.toNat (0x10 : BitVec 8))
    noStrip saver ∧ (Instr.csave 2 1 0x10 true false).wf = true ∧ saver.hart.priv = .supervisor ∧ saver.hart.streams = [] ∧
    entriesTaken saver (coreOf saver.turn) named = false ∧ named = [slotOf saver.turn] ∧ 4 ≤ slotOf saver.turn ∧
    (saver.hart.reg 1).toNat ≠ 0 ∧ (saver.hart.reg 1).toNat % 64 = 0 ∧ inSpad saver (saver.hart.reg 1).toNat 704 :=
  ⟨noStrip_of (by decide +kernel), by decide, by decide +kernel, by decide +kernel, by decide +kernel, (by decide +kernel), by decide,
    by decide +kernel, by decide +kernel, inSpad_of (by decide +kernel)⟩

theorem bankLegal_of {b : TrapBank} (h : decide (b.tvec.toNat % 4 = 0 ∧ b.tcause.toNat &&& 0xFCFF = b.tcause.toNat ∧ b.tsub.toNat < 2 ^ 16 ∧
    b.tviq.toNat &&& 0xFFFFFFFF3F = b.tviq.toNat ∧ b.treg.toNat < 64 ∧ b.telem.toNat < 2 ^ 14) = true) : bankLegal b := by
  have := of_decide_eq_true h
  exact this

/-- The image of a hart, and a core that holds it in its scratchpad. -/
def image : List Byte := imageOf 2048 0 false [sectionOf 1 5 (hartBody { kind := .scalar, pc := 0x440 })]

def imaged : State :=
  mach4 (regs { vec with kind := .scalar } [(1, spad 0)])
    { spad := Memory.writeBytes [] 0 image }
    [(5, { slot := .stopped, kind := .scalar })]

theorem imaged_bytes (i : Nat) (hi : i < 704) : spadByte imaged ((imaged.hart.reg 1).toNat + i) = image.getD i 0 := by
  have h1 : (imaged.hart.reg 1).toNat = Config.localBase := by decide +kernel
  have h2 : image.length = 704 := by decide +kernel
  have h3 : imaged.core.spad = Memory.writeBytes [] 0 image := by
    simp [imaged, State.core, State.coreAt, mach4, Table.get, coreOf]
  rw [spadByte, h1, h3, Nat.add_sub_cancel_left, ← Memory.read1_writeBytes_at [] 0 i _ (h2 ▸ hi), Nat.zero_add]

theorem witness_ContextImages_restore : let x : Hart := { kind := .scalar, pc := 0x440 }
    noStrip imaged ∧ imaged.hart.priv = .supervisor ∧ (imaged.hart.reg 1).toNat % 64 = 0 ∧ inSpad imaged (imaged.hart.reg 1).toNat 704 ∧
    coreOf imaged.turn * 8 + 5 ≠ imaged.turn ∧ (imaged.hartAt 5).slot = .stopped ∧ (imaged.hartAt 5).kind = .scalar ∧ imaged.core.holes = [] ∧
    (∀ i, i < 704 → spadByte imaged ((imaged.hart.reg 1).toNat + i) = (imageOf 2048 0 false [sectionOf 1 5 (hartBody x)]).getD i 0) ∧
    x.ptbase.toNat % 2 ^ 13 = 0 ∧ x.spawnMin < 4 ∧ x.boostReq < 3 ∧ x.fpctl.toNat &&& 0x1F1FDF = x.fpctl.toNat ∧ x.fpctl.toNat / 4 % 8 < 5 ∧
    x.fpflags &&& 0x1F001F = x.fpflags ∧ x.srkey < 2 ^ 32 ∧ x.srcount < 2 ^ 32 ∧ bankLegal x.ubank ∧ bankLegal x.sbank :=
  ⟨noStrip_of (by decide +kernel), by decide +kernel, by decide +kernel, inSpad_of (by decide +kernel), by decide, by decide +kernel,
    by decide +kernel, by decide +kernel, imaged_bytes, by decide, by decide, by decide, by decide, (by decide), by decide, by decide,
    by decide, bankLegal_of (by decide), bankLegal_of (by decide)⟩

theorem witness_ContextImages_misaligned : let s := mach (regs vec [(1, spad 32)])
    (Instr.csave 2 1 0 false true).wf = true ∧ s.hart.priv = .supervisor ∧ (s.hart.reg 1).toNat % 64 ≠ 0 ∧ trapReady s.hart :=
  ⟨by decide, by decide +kernel, by decide +kernel, trapReady_of (by decide +kernel)⟩

end

end Sys2Proof.Tests
end

