-- ==== Sys2Proof/Tests/WitnessVector.lean ====
section
/-! SUPPORT. States and operands that meet the hypotheses of the statements about vector instructions. -/

namespace Sys2Proof.Tests

set_option Elab.async false

open Sys2Proof.Machine Sys2Proof.Machine.Claim

noncomputable section

theorem witness_VectorLengths : (mach vec).hart.kind = .vector ∧ (mach vec).hart.intrap = false ∧ noStrip (mach vec) ∧
    (mach vec).hart.pmode.testBit 0 = false ∧ ({ vec with pmode := 2 } : Hart).pmode.testBit 1 = true ∧ (mach { vec with pmode := 2 }).hart.ckpt = none :=
  ⟨by decide, by decide, noStrip_of (by decide), by decide, by decide, by decide⟩

/-! ### Elements -/

/-- Two rows of two 16-bit elements: v2, v3 and v6, v7; the last elements of v2 and v6 overflow an i16. -/
def tile : State :=
  mach (vregs { vec with vl := 2, vrows := 2, vmk := 1 } [(0, [(0, 3)]), (2, [(2, 0xFF), (3, 0x7F)]), (6, [(2, 1)]), (7, [(0, 5)])])

theorem witness_ElementInstructions : ∃ x, laneOf (.vvAdd 4 2 6 .i16) tile.hart.reg = some x ∧ (Instr.vvAdd 4 2 6 .i16).wf = true ∧
    vecReady tile ∧ roomFor tile (x.rows tile.hart) x.regs ∧
    (∀ el q, x.acts tile.hart el q → (x.result tile.hart el q).2.2 = false ∧ trapped tile.hart.fpctl x.dec (x.result tile.hart el q).2.1 = 0) ∧
    x.acts tile.hart 1 1 = true :=
  ⟨_, rfl, by decide, vecReady_of (by decide +kernel), ⟨by decide +kernel, .inr ⟨by decide +kernel, by decide +kernel⟩⟩,
    acts_all (vl := 2) (rows := 2) rfl rfl (by decide +kernel), by decide +kernel⟩

/-- The register length taken whole by bytes, unmasked. -/
def full : State := mach (regs { vec with vl := 2048 } [(1, 0xFF)])

theorem witness_ElementInstructions_full : ∃ x, laneOf (.vxMv 4 1 .n8) full.hart.reg = some x ∧ (Instr.vxMv 4 1 .n8).wf = true ∧ vecReady full ∧
    roomFor full (x.rows full.hart) x.regs ∧ x.d = 4 ∧ full.hart.vl * x.w = 8 * full.lenOf full.turn :=
  ⟨_, rfl, by decide, vecReady_of (by decide +kernel), ⟨by decide +kernel, .inl rfl⟩, by decide, by decide +kernel⟩

/-- Two f32 elements to convert, 1 and 3 in v2. -/
def converts : State :=
  mach (vregs { vec with vl := 2 } [(2, [(2, 0x80), (3, 0x3F), (6, 0x40), (7, 0x40)])])

theorem witness_ElementInstructions_blocks : let h := converts.hart
    let xs := fun (el : Nat) => (List.range 32).map fun n =>
      if el / 32 * 32 + n < h.vl ∧ active h (el / 32 * 32 + n) = true then elemAt h 2 (el / 32 * 32 + n) 32 else 0
    let block := fun el => quantMx4 .f32 (fun _ => Rm.rne) (xs el)
    (Instr.vcvt 4 2 0 .mx4 .f32 1).wf = true ∧ vecReady converts ∧ h.vrows = 1 ∧ (4 : Reg).val ≠ 1 ∧ roomFor converts 1 [(4, 4), (2, 32)] ∧
    ∀ el : Fin 2, (block el.val).2.2 = false ∧ trapped h.fpctl false ((block el.val).2.1.getD (el.val - el.val / 32 * 32) (0, 0)).2 = 0 :=
  ⟨by decide, vecReady_of (by decide +kernel), by decide +kernel, by decide, ⟨by decide +kernel, .inl rfl⟩, by decide +kernel⟩

theorem witness_LaneIntegerFunctions : Ty.isInt .i8 = true ∧
    [BinFn.add, .sub, .adds, .subs, .mul, .mulh, .div, .rem, .and, .or, .xor, .andn, .shl, .shr, .min, .max].getD 15 .add = .max ∧
    intFn2 .max (Ty.isSigned .i8) (0x80 : BitVec (Ty.width .i8)) (0x7F : BitVec (Ty.width .i8)) = some 0x7F ∧
    intFn2 .div (Ty.isSigned .n8) (0x80 : BitVec (Ty.width .n8)) (0 : BitVec (Ty.width .n8)) = some 0xFF := by decide +kernel

theorem witness_LaneFloatFunctions : (0 : Word).toNat.testBit 6 = false ∧ 0x3F800000 < 2 ^ Ty.width .f32 ∧
    (elemFn true 0x19 4 .f32 .f32 0 0 0 0 0 0x3F800000 0x40400000 0).2.2 = false ∧
    (elemFn true 0x1C 0 .bf16 .bf16 0 0 0 0 0 0x3F80 0x3F80 0x3F80).2.2 = false ∧
    (elemFn true 0x25 (Ty.code .f32 * 8 + 1) .bf16 .f32 0 0 0 0 0 0x40400000 0 0).2.2 = false := by decide +kernel

theorem real_zero : real (fmtOf .f32) 0 = some 0 := by
  rw [real_of (show unpackBin (fmtOf .f32) 0 = .fin false 0 (-149) by decide)]
  norm_num

theorem witness_HardBinaryElements : (0 : Word).toNat.testBit 6 = false ∧ (0x3F800000 < 2 ^ Ty.width .f32 ∧ 0x40400000 < 2 ^ Ty.width .f32) ∧
    real (fmtOf .f32) 0x3F800000 = some 1 ∧ real (fmtOf .f32) 0x40400000 = some 3 ∧ (1 : ℝ) ≠ 0 ∧ (3 : ℝ) ≠ 0 ∧
    real (fmtOf .f32) 0 = some 0 :=
  ⟨by decide, by decide, real_one, real_three, by norm_num, by norm_num, real_zero⟩

/-- 1 and 2^-100 in v2 and in v3. -/
def hard : State :=
  mach (vregs { vec with vl := 2 } [(2, [(2, 0x80), (3, 0x3F), (6, 0x80), (7, 0x0D)]), (3, [(2, 0x80), (3, 0x3F), (6, 0x80), (7, 0x0D)])])

theorem witness_HardElementsBecomeHoles : ∃ x, laneOf (.vvMul 4 2 3 .f32) hard.hart.reg = some x ∧ (Instr.vvMul 4 2 3 .f32).wf = true ∧
    vecReady hard ∧ roomFor hard (x.rows hard.hart) x.regs ∧
    (∀ el q, x.acts hard.hart el q → (x.result hard.hart el q).2.2 = false → trapped hard.hart.fpctl x.dec (x.result hard.hart el q).2.1 = 0) ∧
    hard.hart.vl * x.rows hard.hart ≤ 256 ∧ (x.result hard.hart 1 0).2.2 = true ∧ (x.result hard.hart 0 0).2.2 = false :=
  ⟨_, rfl, by decide, vecReady_of (by decide +kernel), ⟨by decide +kernel, .inl rfl⟩,
    acts_all (P := fun el q => _ → _) (vl := 2) (rows := 1) rfl rfl (by decide +kernel), by decide +kernel, by decide +kernel, by decide +kernel⟩

/-- 1 + 1, then infinity less infinity, with INVALID enabled. -/
def stops : State :=
  mach (vregs { vec with vl := 2, fpctl := 0x100 } [(2, [(2, 0x80), (3, 0x3F), (6, 0x80), (7, 0x7F)]), (3, [(2, 0x80), (3, 0x3F), (6, 0x80), (7, 0xFF)])])

theorem witness_ElementExceptionsStop : ∃ x, laneOf (.vvAdd 4 2 3 .f32) stops.hart.reg = some x ∧ (Instr.vvAdd 4 2 3 .f32).wf = true ∧
    vecReady stops ∧ roomFor stops (x.rows stops.hart) x.regs ∧ trapReady stops.hart ∧ x.acts stops.hart 1 0 = true ∧
    ((x.result stops.hart 1 0).2.2 = false ∧ trapped stops.hart.fpctl x.dec (x.result stops.hart 1 0).2.1 ≠ 0) ∧
    ∀ el q, x.acts stops.hart el q → el < 1 ∨ (el = 1 ∧ q < 0) → (x.result stops.hart el q).2.2 = false ∧
      ¬ ((x.result stops.hart el q).2.2 = false ∧ trapped stops.hart.fpctl x.dec (x.result stops.hart el q).2.1 ≠ 0) :=
  ⟨_, rfl, by decide, vecReady_of (by decide +kernel), ⟨by decide +kernel, .inl rfl⟩, trapReady_of (by decide +kernel), by decide +kernel,
    by decide +kernel, acts_all (P := fun el q => _ → _) (vl := 2) (rows := 1) rfl rfl (by decide +kernel)⟩

/-! ### Moves, reductions, loops -/

theorem witness_Permutes : ∃ x, moveOf (.vpermPerm 4 2 6 .i16) tile.hart = some x ∧ (Instr.vpermPerm 4 2 6 .i16).wf = true ∧ vecReady tile ∧
    roomFor tile tile.hart.vrows ((x.d.val, x.t.width) :: (x.a.val, x.t.width) :: x.idx) ∧
    (Instr.vpermCompress 4 2 .i16).wf = true ∧ roomFor tile tile.hart.vrows [(4, 16), (2, 16)] ∧ (Instr.vpermIns 4 1 2 .i16).wf = true ∧
    roomFor tile tile.hart.vrows [(4, 16)] ∧ (Instr.vpermXtr 4 1 2 .i16).wf = true :=
  ⟨_, rfl, by decide, vecReady_of (by decide +kernel), ⟨by decide +kernel, .inr ⟨by decide +kernel, by decide +kernel⟩⟩, by decide,
    ⟨by decide +kernel, .inr ⟨by decide +kernel, by decide +kernel⟩⟩, by decide, ⟨by decide +kernel, .inr ⟨by decide +kernel, by decide +kernel⟩⟩,
    by decide⟩

theorem witness_Reductions : redOf (.vredMin 1 2 3 .n16) = some (.min, .n16, 1, 2, 3) ∧ (Instr.vredMin 1 2 3 .n16).wf = true ∧
    vecReady tile ∧ tile.hart.vl * Ty.width .n16 ≤ 8 * tile.lenOf tile.turn ∧ Ty.isInt .n16 = true ∧ (Instr.vredMinidx 1 2 3 .n16).wf = true ∧
    tile.hart.vl ≤ 8 * tile.lenOf tile.turn :=
  ⟨by decide, by decide, vecReady_of (by decide +kernel), by decide +kernel, by decide, by decide, by decide +kernel⟩

theorem witness_Reductions_float : let s := mach { hard.hart with vl := 1 }
    let f := redStep' .sum .f32 s.hart.fpctl
    let v := fun n => Table.get (redZero .sum .f32) (rowVals s.hart 2 32) n
    redOf (.vredSum 1 2 3 .f32) = some (.sum, .f32, 1, 2, 3) ∧ (Instr.vredSum 1 2 3 .f32).wf = true ∧ vecReady s ∧
    s.hart.vl * Ty.width .f32 ≤ 8 * s.lenOf s.turn ∧ Ty.isInt .f32 = false ∧ 2 ^ 5 * 64 = s.lenOf s.turn ∧
    trapped s.hart.fpctl false (inBlocks f v s.hart.vl 0).2 = 0 ∧ trapped s.hart.fpctl false (byLanes f v (redZero .sum .f32) s.hart.vl 5 0).2 = 0 :=
  ⟨by decide, by decide, vecReady_of (by decide +kernel), by decide +kernel, by decide, by decide +kernel, by decide +kernel, by decide +kernel⟩

/-- Elements 5, 9 and 9 against 5: the first passes eq, the second fails. -/
def looping : State := mach (regs (vregs { vec with vl := 3 } [(2, [(0, 5), (4, 9), (8, 9)])]) [(1, 5)])

theorem witness_VectorLoops : let t := Ty.ofWhile 0
    let pass := fun el => passes 0 t (elemAt looping.hart 2 el t.width) (cut t (looping.hart.reg 1)).toNat
    (Instr.vwhile 1 2 0 3 0).wf = true ∧ vecReady looping ∧ looping.hart.vl * t.width ≤ 8 * looping.lenOf looping.turn ∧
    1 ≤ looping.hart.vl ∧ (∀ el, el < 1 → active looping.hart el = true → (pass el).1 = true) ∧
    (1 < looping.hart.vl → active looping.hart 1 = true ∧ (pass 1).1 = false) ∧
    ∀ el, el ≤ 1 → el < looping.hart.vl → active looping.hart el = true → trapped looping.hart.fpctl (t == .d64) (pass el).2 = 0 :=
  ⟨by decide, vecReady_of (by decide +kernel), by decide +kernel, by decide +kernel, by decide +kernel, by decide +kernel, by decide +kernel⟩

theorem witness_VectorLoops_whole : let s := mach { looping.hart with vl := 1 }
    let t := Ty.ofWhile 0
    let pass := fun el => passes 0 t (elemAt s.hart 2 el t.width) (cut t (s.hart.reg 1)).toNat
    vecReady s ∧ s.hart.vl * t.width ≤ 8 * s.lenOf s.turn ∧ 1 ≤ s.hart.vl ∧ (∀ el, el < 1 → active s.hart el = true → (pass el).1 = true) ∧
    ¬ 1 < s.hart.vl ∧ ∀ el, el ≤ 1 → el < s.hart.vl → active s.hart el = true → trapped s.hart.fpctl (t == .d64) (pass el).2 = 0 :=
  ⟨vecReady_of (by decide +kernel), by decide +kernel, by decide +kernel, by decide +kernel, by decide +kernel, by decide +kernel⟩

/-- Two 32-bit elements with a density bound of one half that one active element does not reach, and one that it does. -/
def sparse (mask : Byte) (vdens : Nat) (hold : List (Word × Word)) : State :=
  mach (vregs { vec with vl := 4, vmk := 1, vdens := vdens, hold := hold, holdW := if hold = [] then 0 else 32 } [(0, [(0, mask)]), (2, [(0, 5)])])

theorem witness_Compaction_dense : let s := sparse 3 0x180 []
    (Instr.vpermHold 6 2 1 .i32).wf = true ∧ vecReady s ∧ s.hart.vl * 32 ≤ 8 * s.lenOf s.turn ∧
    s.hart.vdens % 256 * s.hart.vl ≤ (rowVals s.hart 2 32).length * 256 ∧ (sparse 1 0x40 []).hart.vdens.testBit 8 = false :=
  ⟨by decide, vecReady_of (by decide +kernel), by decide +kernel, by decide +kernel, by decide +kernel⟩

theorem witness_Compaction_sparse : let s := sparse 1 0x180 [(7, 0)]
    (Instr.vpermHold 6 2 1 .i32).wf = true ∧ vecReady s ∧ s.hart.vl * 32 ≤ 8 * s.lenOf s.turn ∧
    ¬ (s.hart.vdens.testBit 8 = false ∨ s.hart.vdens % 256 * s.hart.vl ≤ (rowVals s.hart 2 32).length * 256) ∧
    s.hart.holdW = Ty.width .i32 ∧ s.hart.hold.length + (rowVals s.hart 2 32).length < 8 * s.lenOf s.turn / Ty.width .i32 ∧
    (Instr.vpermDrain 6 .i32).wf = true :=
  ⟨by decide, vecReady_of (by decide +kernel), by decide +kernel, by decide +kernel, by decide +kernel, by decide +kernel, by decide⟩

/-! ### Presence -/

/-- v2 poisoned in granule 1, with its record. -/
def poisoned : State := mach (regs (({ vec with vl := 2 } : Hart).setVreg 2
  { absent := [(1, { fills := [], poison := 0xFFFF })], hw := 64, tag := 16, log := some (9, 0x21) }) [(1, 4), (2, 8)])

theorem witness_PresenceAndSettling_present : (Instr.vpresPresent 4 2 .i16).wf = true ∧ idleQueue poisoned ∧ poisoned.hart.streams = [] ∧
    poisoned.hart.vmk = 0 ∧ (4 : Reg) ≠ 2 ∧ (∀ n, (poisoned.hart.vreg n).bad = []) ∧ (poisoned.hart.vreg 4).absent = [] ∧
    poisoned.hart.vl * Ty.width .i16 ≤ 8 * poisoned.lenOf poisoned.turn :=
  ⟨by decide, idleQueue_of (by decide +kernel), by decide +kernel, by decide +kernel, by decide,
    vregs_all (P := fun v => v.bad = []) (by decide +kernel), by decide +kernel, by decide +kernel⟩

theorem witness_PresenceAndSettling_heal : (Instr.vpresHeal 2 1 .i16).wf = true ∧ idleQueue poisoned ∧ poisoned.hart.streams = [] ∧
    poisoned.hart.vmk = 0 ∧ (∀ n, (poisoned.hart.vreg n).bad = []) ∧ (poisoned.hart.vreg 2).anyHole = false ∧
    poisoned.hart.vl * Ty.width .i16 ≤ 8 * (poisoned.hart.vreg 2).hw ∧ poisoned.hart.vl * Ty.width .i16 ≤ 8 * poisoned.lenOf poisoned.turn ∧
    16 ≤ Ty.width .i16 :=
  ⟨by decide, idleQueue_of (by decide +kernel), by decide +kernel, by decide +kernel,
    vregs_all (P := fun v => v.bad = []) (by decide +kernel), by decide +kernel, by decide +kernel, by decide +kernel, by decide⟩

theorem witness_PresenceAndSettling_settled : idleQueue poisoned ∧ poisoned.hart.streams = [] ∧
    ∀ n, n < 32 ∧ ((poisoned.hart.reg 2).toNat % 2 ^ 32 = 0 ∨ ((poisoned.hart.reg 2).toNat % 2 ^ 32).testBit n = true) →
      (poisoned.hart.vreg n).anyHole = false ∧ (poisoned.hart.vreg n).anyPoison = false := by
  refine ⟨idleQueue_of (by decide +kernel), by decide +kernel, fun n hn => ?_⟩
  have : ∀ n : Fin 32, ((poisoned.hart.reg 2).toNat % 2 ^ 32 = 0 ∨ ((poisoned.hart.reg 2).toNat % 2 ^ 32).testBit n.val = true) →
      (poisoned.hart.vreg n.val).anyHole = false ∧ (poisoned.hart.vreg n.val).anyPoison = false := by decide +kernel
  exact this ⟨n, hn.1⟩ hn.2

theorem witness_PresenceAndSettling_traps : idleQueue poisoned ∧ poisoned.hart.streams = [] ∧ trapReady poisoned.hart ∧ 2 < 32 ∧
    (poisoned.hart.reg 1).toNat % 2 ^ 32 = 2 ^ 2 ∧ (poisoned.hart.vreg 2).absent = [(1, { fills := [], poison := 0xFFFF })] ∧
    2 * 1 < (poisoned.hart.vreg 2).hw :=
  ⟨idleQueue_of (by decide +kernel), by decide +kernel, trapReady_of (by decide +kernel), by decide, by decide +kernel, by decide +kernel,
    by decide +kernel⟩

/-! ### Memory -/

theorem local_of {x : MemI} {s : State} (h : ∀ p, p ∈ positions s.hart → (x.addr s.hart p.1 p.2).toNat % x.t.size = 0 ∧
    Config.localBase ≤ (x.addr s.hart p.1 p.2).toNat ∧ (x.addr s.hart p.1 p.2).toNat + x.t.size ≤ Config.localBase + Config.spadBytes)
    (hb : s.core.badSpad = []) (hp : ∀ slot : Fin 4, (s.hartAt (coreOf s.turn * 8 + slot.val)).pmode.testBit 1 = false) : x.local' s := by
  intro p hm
  obtain ⟨h1, h2, h3⟩ := h p hm
  exact ⟨h1, h2, h3, by rw [hb]; rfl, fun _ _ => inPiece_false hp⟩

/-- The last elements of the scratchpad through indexes in v6 and v7, from s1; nibbles from s2. -/
def moving : State :=
  mach (regs (vregs { vec with vl := 2, vrows := 2 } [(6, [(0, 1), (4, 0)]), (7, [(0, 2), (4, 3)]), (4, [(0, 9)])])
    [(1, spad 0x1FFFF8), (2, spad 0)])

theorem witness_VectorLoads : ∃ x, loadOf (.vldElem 4 1 6 .n16) = some x ∧ (Instr.vldElem 4 1 6 .n16).wf = true ∧ vecReady moving ∧
    roomFor moving moving.hart.vrows x.regs ∧ x.local' moving ∧ moving.hart.strip = [] :=
  ⟨_, rfl, by decide, vecReady_of (by decide +kernel), ⟨by decide +kernel, .inr ⟨by decide +kernel, by decide +kernel⟩⟩,
    local_of (by decide +kernel) (by decide +kernel) (by decide +kernel), by decide +kernel⟩

theorem witness_VectorStores : ∃ x, storeOf (.vstIndexu 4 1 6 .n8) = some x ∧ (Instr.vstIndexu 4 1 6 .n8).wf = true ∧ vecReady moving ∧
    roomFor moving moving.hart.vrows x.regs ∧ x.local' moving ∧ noStrip moving ∧ x.t ≠ .mx4 :=
  ⟨_, rfl, by decide, vecReady_of (by decide +kernel), ⟨by decide +kernel, .inr ⟨by decide +kernel, by decide +kernel⟩⟩,
    local_of (by decide +kernel) (by decide +kernel) (by decide +kernel), noStrip_of (by decide +kernel), by decide⟩

theorem witness_VectorStores_nibbles : ∃ x, storeOf (.vstUnit 4 2 .mx4) = some x ∧ (Instr.vstUnit 4 2 .mx4).wf = true ∧ vecReady moving ∧
    roomFor moving moving.hart.vrows x.regs ∧ x.local' moving ∧ noStrip moving ∧ x.t = .mx4 :=
  ⟨_, rfl, by decide, vecReady_of (by decide +kernel), ⟨by decide +kernel, .inr ⟨by decide +kernel, by decide +kernel⟩⟩,
    local_of (by decide +kernel) (by decide +kernel) (by decide +kernel), noStrip_of (by decide +kernel), by decide⟩

/-- A stream block of one dimension in the last 64 bytes of the scalar data memory. -/
def binding : State := mach (regs vec [(1, sdm 0xFFC0)]) { sdm := [(0xFFD0, 4)] }

theorem witness_StreamsAndFrames_bind : let va := (binding.hart.reg 1).toNat
    let off := va - (Config.localBase + 0x400000)
    let f := fun (o n : Nat) => numAt binding (.sdm (coreOf binding.turn) (off + o)) n
    vecReady binding ∧ binding.hart.strip = [] ∧ Config.localBase + 0x400000 ≤ va ∧ off + 64 ≤ Config.sdmBytes ∧ va % 64 = 0 ∧
    badWord binding.core.badSdm off 64 = false ∧ 2 ≤ (2 : Reg).val ∧ f 8 2 / 128 = 0 ∧ f 10 2 = 0 ∧ f 12 4 = 0 ∧
    Ty.ofCode (f 8 2 % 16) = .i8 ∧ ∀ i, i < f 8 2 / 32 % 4 + 1 → f (16 + 4 * i) 4 ≠ 0 :=
  ⟨vecReady_of (by decide +kernel), by decide +kernel, by decide +kernel, by decide +kernel, by decide +kernel, (by decide +kernel), by decide,
    by decide +kernel, by decide +kernel, by decide +kernel, (by decide +kernel), by decide +kernel⟩

/-- That stream bound, one position on. -/
def bound : Stream :=
  { reg := 2, block := 0xFFC0, base := 0, ty := .i8, write := false, ndim := 1, cnt := [4, 0, 0, 0], str := [0, 0, 0, 0], pos := [1, 0, 0, 0xFFFFFFFF] }

theorem witness_StreamsAndFrames_unbind : let s := mach { vec with streams := [bound] }
    idleQueue s ∧ s.hart.streams = [bound] ∧ bound.reg = (2 : Reg).val ∧ bound.block + 64 ≤ Config.sdmBytes ∧ bound.pos.length = 4 ∧
    ∀ p, p ∈ bound.pos → p < 2 ^ 32 :=
  ⟨idleQueue_of (by decide +kernel), by decide +kernel, by decide, by decide, by decide, by decide⟩

/-- A register with a high-water mark, and harts that spill v2 alone and fill it again. -/
def marked : VReg := { bytes := [(0, 7), (63, 9)], hw := 64, tag := 32 }
def frame : List Byte := frameOf (fun _ => marked) 2048 4
def spilling : State := mach (regs (vec.setVreg 2 marked) [(1, spad 0), (2, 4)])
def filling : State := mach (regs vec [(1, spad 0)]) { spad := Memory.writeBytes [] 0 frame }

theorem witness_StreamsAndFrames_spill : vecReady spilling ∧ noStrip spilling ∧ (spilling.hart.reg 1).toNat % 64 = 0 ∧
    inSpad spilling (spilling.hart.reg 1).toNat
      (frameOf spilling.hart.vreg (spilling.lenOf spilling.turn) ((spilling.hart.reg 2).toNat % 2 ^ 32)).length :=
  ⟨vecReady_of (by decide +kernel), noStrip_of (by decide +kernel), by decide +kernel, inSpad_of (by decide +kernel)⟩

theorem witness_StreamsAndFrames_fill : vecReady filling ∧ filling.hart.strip = [] ∧ (filling.hart.reg 1).toNat % 64 = 0 ∧ 4 < 2 ^ 32 ∧
    2048 < 2 ^ 16 ∧ inSpad filling (filling.hart.reg 1).toNat frame.length ∧
    (∀ i, i < frame.length → spadByte filling ((filling.hart.reg 1).toNat + i) = frame.getD i 0) ∧
    (marked.absent = [] ∧ marked.hw % 64 = 0 ∧ marked.hw ≤ filling.lenOf filling.turn ∧ marked.hw < 2 ^ 16 ∧ marked.tag = 32) :=
  ⟨vecReady_of (by decide +kernel), by decide +kernel, by decide +kernel, by decide, by decide, inSpad_of (by decide +kernel),
    by decide +kernel, by decide +kernel⟩

/-- Two distinct words of the scratchpad through indexes in v6. -/
def adding : State := mach (regs (vregs { vec with vl := 2 } [(6, [(4, 4)]), (4, [(0, 1), (4, 2)])]) [(1, spad 0x1FFFF8)])

theorem witness_VectorAtomics : let s := adding
    let acts := fun el => el < s.hart.vl ∧ active s.hart el = true
    let va := fun el => (s.hart.reg 1 + BitVec.ofNat 64 (elemAt s.hart 6 el (idxWidth .i32))).toNat
    (Instr.amoVadd 4 1 6 .i32 false 0).wf = true ∧ vecReady s ∧ noStrip s ∧ s.hart.vl * idxWidth .i32 ≤ 8 * s.lenOf s.turn ∧
    (∀ el, acts el → va el % Ty.size .i32 = 0 ∧ inSpad s (va el) (Ty.size .i32)) ∧ (∀ x y, acts x → acts y → va x = va y → x = y) := by
  have hv : adding.hart.vl = 2 := by decide +kernel
  refine ⟨by decide, vecReady_of (by decide +kernel), noStrip_of (by decide +kernel), by decide +kernel, fun el h => ?_, fun x y hx hy => ?_⟩
  · have : ∀ el : Fin 2, (adding.hart.reg 1 + BitVec.ofNat 64 (elemAt adding.hart 6 el.val (idxWidth .i32))).toNat % Ty.size .i32 = 0 ∧
        Config.localBase ≤ (adding.hart.reg 1 + BitVec.ofNat 64 (elemAt adding.hart 6 el.val (idxWidth .i32))).toNat ∧
        (adding.hart.reg 1 + BitVec.ofNat 64 (elemAt adding.hart 6 el.val (idxWidth .i32))).toNat + Ty.size .i32 ≤
          Config.localBase + Config.spadBytes := by decide +kernel
    obtain ⟨h1, h2, h3⟩ := this ⟨el, hv ▸ h.1⟩
    exact ⟨h1, h2, h3, by rw [show adding.core.badSpad = [] by decide +kernel]; rfl, fun _ _ => inPiece_false (by decide +kernel)⟩
  · have : ∀ x y : Fin 2, (adding.hart.reg 1 + BitVec.ofNat 64 (elemAt adding.hart 6 x.val (idxWidth .i32))).toNat =
        (adding.hart.reg 1 + BitVec.ofNat 64 (elemAt adding.hart 6 y.val (idxWidth .i32))).toNat → x.val = y.val := by decide +kernel
    exact this ⟨x, hv ▸ hx.1⟩ ⟨y, hv ▸ hy.1⟩

end

end Sys2Proof.Tests
end

