-- ==== Sys2Proof/Tests/WitnessArray.lean ====
section
/-! SUPPORT. States and operands that meet the hypotheses of the statements about the array and the engines. -/

namespace Sys2Proof.Tests

set_option Elab.async false

open Sys2Proof.Machine Sys2Proof.Machine.Claim

noncomputable section

/-! ### The matrix -/

/-- A hart that owns the array in a mode, with 4 by 4 cells, a 4 by 3 tile, some scalar registers. -/
def owner (mode : Nat) (l : List (Reg × Word)) (c : Core := {}) : State :=
  inGang (regs { vec with vl := 4 } l) (gangWith [] true) { c with mode := mode, owner := 0, mvl := 4, tm := 4, tn := 3 }

theorem owner_ready {mode : Nat} {modes : List Nat} {l : List (Reg × Word)} {c : Core} (h1 : vecReady (owner mode l c)) (h2 : noStrip (owner mode l c))
    (h : decide ((owner mode l c).core.mode ∈ modes ∧ (owner mode l c).core.mode ≠ 0 ∧ (owner mode l c).core.owner = slotOf (owner mode l c).turn ∧
      hasArray (owner mode l c) (owner mode l c).turn = true ∧ 0 < (owner mode l c).core.mvl ∧ (owner mode l c).core.mvl ≤ 128 ∧
      (owner mode l c).core.tm ≤ 128 ∧ (owner mode l c).core.tn ≤ 128 ∧ (owner mode l c).core.badCells = []) = true) :
    arrayReady (owner mode l c) modes := arrayReady_of h1 h2 h

theorem witness_MatrixInstructions_mode : let s := inGang (regs vec [(1, 1), (2, 200)]) (gangWith [] true)
    vecReady s ∧ noStrip s ∧ s.core.mode = 0 ∧ (s.hart.reg 0).toNat = 0 ∧ (s.hart.reg 1).toNat = 1 ∧ hasArray s s.turn = true ∧
    s.hart.pmode.testBit 0 = false :=
  ⟨vecReady_of (by decide +kernel), noStrip_of (by decide +kernel), by decide +kernel, by decide +kernel, by decide +kernel, by decide +kernel,
    by decide +kernel⟩

theorem witness_MatrixInstructions_tshape : let s := owner 1 [(1, 0x0020000500FF), (2, 0xFFFF)]
    (Instr.mxTshape 3 1 2 .mx4).wf = true ∧ arrayReady s [1] ∧ (s.hart.reg 1).toNat / 2 ^ 32 % 2 ^ 16 % 4 = 0 :=
  ⟨by decide, owner_ready (vecReady_of (by decide +kernel)) (noStrip_of (by decide +kernel)) (by decide +kernel), by decide +kernel⟩

theorem witness_MatrixInstructions_op : let s := owner 1 []
    (Instr.mxOp 15 2 3 .bf16).wf = true ∧ arrayReady s [1] ∧ s.core.tm * 16 ≤ 8 * s.lenOf s.turn ∧ s.core.tn * 16 ≤ 8 * s.lenOf s.turn :=
  ⟨by decide, owner_ready (vecReady_of (by decide +kernel)) (noStrip_of (by decide +kernel)) (by decide +kernel), by decide +kernel,
    by decide +kernel⟩

theorem witness_MatrixInstructions_move : arrayReady (owner 2 []) [1, 2] ∧ (Instr.mxMv 15 0).wf = true :=
  ⟨owner_ready (vecReady_of (by decide +kernel)) (noStrip_of (by decide +kernel)) (by decide +kernel), by decide⟩

theorem witness_MatrixInstructions_rows : let s := owner 1 [(1, 3)]
    arrayReady s [1, 2] ∧ (s.hart.reg 1).toNat < s.core.mvl ∧ s.core.tm * 32 ≤ 8 * s.lenOf s.turn ∧ s.core.tn * 32 ≤ 8 * s.lenOf s.turn ∧
    (Instr.mxRdrow 4 15 1).wf = true ∧ (Instr.mxWrrow 15 4 1).wf = true :=
  ⟨owner_ready (vecReady_of (by decide +kernel)) (noStrip_of (by decide +kernel)) (by decide +kernel), by decide +kernel, by decide +kernel,
    by decide +kernel, by decide, by decide⟩

theorem witness_MatrixInstructions_spill : let s := owner 1 [(1, spad 0x1FFFC0)]
    arrayReady s [1, 2] ∧ (Instr.mxSpill 15 1).wf = true ∧ (s.hart.reg 1).toNat % 64 = 0 ∧
    inSpad s (s.hart.reg 1).toNat (4 * (s.core.mvl * s.core.mvl)) :=
  ⟨owner_ready (vecReady_of (by decide +kernel)) (noStrip_of (by decide +kernel)) (by decide +kernel), by decide, by decide +kernel,
    inSpad_of (by decide +kernel)⟩

theorem witness_MatrixInstructions_without : needsArray (.spGfill 1) = true ∧ (Instr.spGfill 1).wf = true ∧ idleQueue (mach vec) ∧
    (mach vec).hart.streams = [] ∧ trapReady (mach vec).hart ∧ (mach vec).core.mode = 0 ∧ (owner 1 []).core.owner ≠ 1 ∧
    hasArray (mach vec) 0 = false :=
  ⟨by decide, by decide, idleQueue_of (by decide +kernel), by decide +kernel, trapReady_of (by decide), by decide +kernel, by decide +kernel,
    by decide +kernel⟩

/-! ### Relief -/

/-- Relief mode with the grid of reset, of one interval and degree 3; the inputs are in v2, 1/2 and 2. -/
def relief (c : Core) (paired : Bool := false) : State :=
  let s := owner 2 [(1, 1)] { c with kgrid := if paired then 0x10001 else 1 }
  s.setHart (s.hart.setVreg 2 { bytes := [(3, 0x3F), (7, 0x40)] })

theorem witness_ReliefInstructions : let s := relief {}
    ∃ gr, reliefReady s gr ∧ (Instr.spEval 4 2 .f32).wf = true ∧ (Instr.spDx 4 2 3 .bf16).wf = true ∧ (Instr.spGrad 2 3 .f32).wf = true ∧
      s.core.tm * 32 ≤ 8 * s.lenOf s.turn ∧ s.core.tn * 32 ≤ 8 * s.lenOf s.turn ∧ 0 < s.core.tn ∧ ∀ i, ¬ dark s gr .f32 2 i := by
  refine ⟨(gridOf (relief {}).core).get (by decide +kernel), ⟨arrayReady_of (vecReady_of (by decide +kernel)) (noStrip_of (by decide +kernel))
    (by decide +kernel), (Option.some_get _).symm, by decide +kernel⟩, by decide, by decide, by decide, by decide +kernel, (by decide +kernel),
    by decide +kernel, ?_⟩
  rintro i ⟨hi, -, hd⟩
  have htm : (relief {}).core.tm = 4 := by decide +kernel
  have : ∀ i : Fin 4, (edgeAt (relief {}) ((gridOf (relief {}).core).get (by decide +kernel)) .f32 2 i.val).dark = false := by decide +kernel
  rw [this ⟨i, htm ▸ hi⟩] at hd
  cases hd

theorem witness_ReliefInstructions_darn : let s := relief { kclamp := 3 }
    ∃ gr, reliefReady s gr ∧ dark s gr .f32 2 1 ∧ (∀ x, x < 1 → ¬ dark s gr .f32 2 x) ∧ 0 < s.core.tn := by
  refine ⟨(gridOf (relief { kclamp := 3 }).core).get (by decide +kernel), ⟨arrayReady_of (vecReady_of (by decide +kernel))
    (noStrip_of (by decide +kernel)) (by decide +kernel), (Option.some_get _).symm, by decide +kernel⟩, ?_, ?_, by decide +kernel⟩
  · unfold dark; decide +kernel
  · unfold dark; decide +kernel

theorem witness_ReliefInstructions_refine : let s := relief {}
    ∃ gr, arrayReady s [2] ∧ gridOf s.core = some gr ∧ s.core.kgrid.testBit 13 = false ∧ 2 * gr.g + gr.deg ≤ (if gr.paired then 16 else 8) ∧
      s.core.kinv / 2 ^ 23 % 2 ^ 8 < 254 :=
  ⟨(gridOf (relief {}).core).get (by decide +kernel), arrayReady_of (vecReady_of (by decide +kernel)) (noStrip_of (by decide +kernel))
    (by decide +kernel), (Option.some_get _).symm, by decide +kernel, by decide +kernel, by decide +kernel⟩

theorem witness_ReliefInstructions_pair : let s := owner 2 [(1, 1)] 
    let s := s.setCore { s.core with tm := 2 }
    arrayReady s [2] ∧ (Instr.spPair 1).wf = true ∧ ((s.hart.reg 1).toNat = 1 ∧ 2 * s.core.tm ≤ s.core.mvl) ∧ (s.hart.reg 0).toNat = 0 :=
  ⟨arrayReady_of (vecReady_of (by decide +kernel)) (noStrip_of (by decide +kernel)) (by decide +kernel), by decide, by decide +kernel,
    by decide +kernel⟩

theorem witness_ReliefInstructions_gradients : let s := owner 2 [(1, spad 0x40)]
    arrayReady s [2] ∧ (s.hart.reg 1).toNat % 64 = 0 ∧ inSpad s (s.hart.reg 1).toNat (44 * (s.core.mvl * s.core.mvl)) :=
  ⟨owner_ready (vecReady_of (by decide +kernel)) (noStrip_of (by decide +kernel)) (by decide +kernel), by decide +kernel,
    inSpad_of (by decide +kernel)⟩

/-- The reset grid: u is the input itself, the domain is 0 to 1. -/
theorem witness_EdgeUnit : let c : Core := {}
    ∃ gr, gridOf c = some gr ∧ c.kgrid.testBit 13 = false ∧ 1 ≤ bits c.kdeg 1 0 ∧ 1 ≤ bits c.kgrid 3 0 ∧ 0 < (f32 c.kinv).rat ∧
      (f32 0x3F000000).isNan = false ∧ (f32 0x3F000000).isInf = false ∧
      (let u := fun (x : Nat) => ((f32 x).rat - (f32 c.korg).rat) * (f32 c.kinv).rat
       (0 < gr.g ∧ 0 ≤ u 0x3F800000 ∧ u 0x3F800000 ≤ gr.g ∧ (0 : Nat) + 1 = gr.g) ∧ (0 ≤ u 0 ∧ u 0 < 0 + 1) ∧ u 0xBF800000 < 0 ∧ gr.g < u 0x40000000) ∧
      (f32 0x7FC00000).isNan = true := by
  refine ⟨(gridOf {}).get (by decide +kernel), (Option.some_get _).symm, by decide, by decide, by decide, by decide +kernel, (by decide +kernel),
    by decide +kernel, by decide +kernel, by decide +kernel⟩

/-! ### Transfers -/

theorem witness_EngineTransfers_copy : let s := mach (regs vec [(1, spad 0), (2, spad 0x100), (3, 7), (4, spad 0x1FFFE0)])
    (Instr.engCopy 1 2 3 3).wf = true ∧ vecReady s ∧ noStrip s ∧ inSpad s (s.hart.reg 1).toNat (s.hart.reg 3).toNat ∧
    inSpad s (s.hart.reg 2).toNat (s.hart.reg 3).toNat ∧ apart (s.hart.reg 1).toNat (s.hart.reg 3).toNat (s.hart.reg 2).toNat (s.hart.reg 3).toNat ∧
    blockReady s 3 (cplAddr s 3) ∧ apart (s.hart.reg 1).toNat (s.hart.reg 3).toNat (cplAddr s 3) 32 ∧ blockReady s 0 0 :=
  ⟨by decide, vecReady_of (by decide +kernel), noStrip_of (by decide +kernel), inSpad_of (by decide +kernel), inSpad_of (by decide +kernel),
    .inl (by decide +kernel), .inr ⟨by decide, by decide +kernel, inSpad_of (by decide +kernel)⟩, .inl (by decide +kernel), .inl rfl⟩

/-- A completion block of KIND 2 that names barrier 1. -/
def copyBar : State :=
  inGang (regs vec [(1, spad 0), (2, spad 0x100), (3, 7), (4, spad 0x200)]) (gangWith bars) { spad := [(0x200, 1)] }

theorem witness_EngineTransfers_copy_barrier : (Instr.engCopy 1 2 3 2).wf = true ∧ vecReady copyBar ∧ noStrip copyBar ∧
    inSpad copyBar (copyBar.hart.reg 1).toNat (copyBar.hart.reg 3).toNat ∧ inSpad copyBar (copyBar.hart.reg 2).toNat (copyBar.hart.reg 3).toNat ∧
    apart (copyBar.hart.reg 1).toNat (copyBar.hart.reg 3).toNat (copyBar.hart.reg 2).toNat (copyBar.hart.reg 3).toNat ∧
    cplAddr copyBar 3 % 32 = 0 ∧ inSpad copyBar (cplAddr copyBar 3) 32 ∧ apart (copyBar.hart.reg 1).toNat (copyBar.hart.reg 3).toNat (cplAddr copyBar 3) 32 ∧
    barRef copyBar copyBar.turn (numAt copyBar (spadLoc copyBar (cplAddr copyBar 3)) 8) = .ok ⟨false, 1, 1⟩ ∧
    (barGet copyBar ⟨false, 1, 1⟩).broken = false ∧ 0 < (barGet copyBar ⟨false, 1, 1⟩).count ∧
    (barGet copyBar ⟨false, 1, 1⟩).pend + (copyBar.hart.reg 3).toNat < 2 ^ 48 ∧
    (barGet copyBar ⟨false, 1, 1⟩).arrived < (barGet copyBar ⟨false, 1, 1⟩).count :=
  ⟨by decide, vecReady_of (by decide +kernel), noStrip_of (by decide +kernel), inSpad_of (by decide +kernel), inSpad_of (by decide +kernel),
    .inl (by decide +kernel), by decide +kernel, inSpad_of (by decide +kernel), .inl (by decide +kernel), barRef_of (by decide +kernel),
    by decide +kernel, by decide +kernel, by decide +kernel, by decide +kernel⟩

/-- A completion block of KIND 1 in device memory, whose translation the core keeps. -/
def copyFut : State := walked (mapped (regs vec [(1, spad 0), (2, spad 0x100), (3, 7), (4, 0x30000)])) .store 0x30000

theorem witness_EngineTransfers_copy_future : (Instr.engCopy 1 2 3 1).wf = true ∧ vecReady copyFut ∧ noStrip copyFut ∧
    cplAddr copyFut 3 % 32 = 0 ∧ translate copyFut copyFut.turn .store false (cplAddr copyFut 3) = .ok ({ loc := .dev 0x30000 }, copyFut) ∧
    plainPlace copyFut { loc := .dev 0x30000 } 32 ∧ inSpad copyFut (copyFut.hart.reg 1).toNat (copyFut.hart.reg 3).toNat :=
  ⟨by decide, vecReady_of (by decide +kernel), noStrip_of (by decide +kernel), by decide +kernel, ok_of (by decide +kernel),
    plain_of rfl (serves_dev rfl (by decide +kernel)) (by decide), inSpad_of (by decide +kernel)⟩

/-- Numbers in the scratchpad: offset, bytes, value. -/
def spadWith (l : List (Nat × Nat × Nat)) : Memory := l.foldl (fun m x => Memory.writeNat m x.1 x.2.1 x.2.2) []

/-- A multicast of five bytes to offsets 0x400 and 0x500. -/
def mcast : State :=
  mach (regs vec [(1, spad 0x80), (2, spad 0x100), (3, 5), (4, spad 0x200)])
    { spad := spadWith [(0x80, 1, 2), (0x90, 8, (spad 0x400).toNat), (0x98, 8, (spad 0x500).toNat)] }

theorem witness_EngineTransfers_mcast : let s := mcast
    let dests := [(spad 0x400).toNat, (spad 0x500).toNat]
    let va := (s.hart.reg 1).toNat
    let f := fun o k => numAt s (spadLoc s (va + o)) k
    (Instr.engMcast 1 2 3 3).wf = true ∧ vecReady s ∧ noStrip s ∧ va % 128 = 0 ∧ inSpad s va 128 ∧ 1 ≤ dests.length ∧ dests.length ≤ 12 ∧
    f 0 1 = dests.length ∧ f 1 1 = 0 ∧ f 2 2 = 0 ∧ f 4 4 = 0 ∧ f 8 8 = 0 ∧ (∀ o, o < 16 → f (112 + o) 1 = 0) ∧
    (∀ k, k < dests.length → f (16 + 8 * k) 8 = dests.getD k 0) ∧ inSpad s (s.hart.reg 2).toNat (s.hart.reg 3).toNat ∧
    (∀ x, x ∈ dests → inSpad s x 5 ∧ apart x 5 (s.hart.reg 2).toNat 5 ∧ apart x 5 (cplAddr s 3) 32) ∧
    dests.Pairwise (fun x y => apart x 5 y 5) ∧ blockReady s 3 (cplAddr s 3) := by
  refine ⟨by decide, vecReady_of (by decide +kernel), noStrip_of (by decide +kernel), by decide +kernel, inSpad_of (by decide +kernel), by decide,
    by decide, by decide +kernel, by decide +kernel, (by decide +kernel), by decide +kernel, by decide +kernel, by decide +kernel, by decide +kernel,
    inSpad_of (by decide +kernel), ?_, ?_, .inr ⟨by decide, by decide +kernel, inSpad_of (by decide +kernel)⟩⟩
  · intro x hx
    simp only [List.mem_cons, List.not_mem_nil, or_false] at hx
    rcases hx with rfl | rfl
    · exact ⟨inSpad_of (by decide +kernel), .inr (by decide +kernel), .inr (by decide +kernel)⟩
    · exact ⟨inSpad_of (by decide +kernel), .inr (by decide +kernel), .inr (by decide +kernel)⟩
  · exact List.pairwise_pair.2 (.inl (by decide +kernel))

/-- A pattern of 4-byte elements, three columns, rows 16 bytes apart. -/
def gather : State :=
  let s := mach (regs vec [(1, spad 0), (2, 0x0002000000000000 / 2 ^ 16), (3, 2), (4, spad 0x200)])
  { s with mem := { s.mem with patts := [(0, { base := 0x30000, limit := 0x30020, pitch := 16, cols := 3, esize := 2, valid := true, enc := false, part := 0 })] } }

theorem witness_EngineTransfers_gather : let s := gather
    let x := (s.hart.reg 2).toNat
    let p := s.pattAt 0
    let el := fun i => p.base + i % 2 * p.pitch + (x / 2 ^ 16 % 2 ^ 16 + i / 2) * 4
    (Instr.engGather 1 2 3 3).wf = true ∧ vecReady s ∧ noStrip s ∧ x / 2 ^ 48 = 0 ∧ x / 2 ^ 6 % 2 ^ 10 = 0 ∧ x / 2 ^ 16 % 2 ^ 16 = 0 ∧
    x / 2 ^ 32 % 2 ^ 16 = 2 ∧ x % 64 < (s.partAt s.part).pattCount ∧ (s.partAt s.part).pattBase + x % 64 = 0 ∧ p.valid = true ∧ p.part = s.part ∧
    p.enc = false ∧ 2 < p.cols ∧ p.esize ≤ 4 ∧
    (∀ i, i < 6 → el i % 4 = 0 ∧ el i + 4 ≤ p.limit ∧ serves s s.turn { loc := .dev (el i) } 4) ∧
    inSpad s (s.hart.reg 1).toNat 24 ∧ blockReady s 3 (cplAddr s 3) ∧ apart (s.hart.reg 1).toNat 24 (cplAddr s 3) 32 := by
  refine ⟨by decide, vecReady_of (by decide +kernel), noStrip_of (by decide +kernel), by decide +kernel, by decide +kernel, by decide +kernel,
    by decide +kernel, (by decide +kernel), by decide +kernel, by decide +kernel, by decide +kernel, by decide +kernel, (by decide +kernel),
    by decide +kernel, ?_, inSpad_of (by decide +kernel), .inr ⟨by decide, by decide +kernel, inSpad_of (by decide +kernel)⟩, .inl (by decide +kernel)⟩
  intro i hi
  have h : ∀ i : Fin 6, ((gather.pattAt 0).base + i.val % 2 * (gather.pattAt 0).pitch + (0 + i.val / 2) * 4) % 4 = 0 ∧
      (gather.pattAt 0).base + i.val % 2 * (gather.pattAt 0).pitch + (0 + i.val / 2) * 4 + 4 ≤ (gather.pattAt 0).limit ∧
      gather.owns ((gather.partOf (coreOf gather.turn)).getD 0) ((gather.pattAt 0).base + i.val % 2 * (gather.pattAt 0).pitch + (0 + i.val / 2) * 4) = true ∧
      gather.mem.cap * 4096 > (gather.pattAt 0).base + i.val % 2 * (gather.pattAt 0).pitch + (0 + i.val / 2) * 4 := by
    decide +kernel
  have hx : (gather.hart.reg 2).toNat / 2 ^ 16 % 2 ^ 16 = 0 := by decide +kernel
  obtain ⟨h1, h2, h3, h4⟩ := h ⟨i, hi⟩
  rw [hx]
  exact ⟨h1, h2, rfl, rfl, h4, h3, rfl, .inl rfl⟩

/-- A descriptor of the pattern table, with its translation kept. -/
def patterns : State :=
  walked (mapped (regs vec [(1, 0), (2, spad 0x40)]) { spad := spadWith [(0x40, 8, 0x30000), (0x50, 4, 16), (0x54, 2, 3), (0x56, 1, 2), (0x58, 2, 5)] })
    .load 0x30000

theorem witness_EngineTransfers_patt : let s := patterns
    let va := (s.hart.reg 2).toNat
    let f := fun o n => numAt s (spadLoc s (va + o)) n
    vecReady s ∧ noStrip s ∧ (s.hart.reg 1).toNat < 64 ∧ (s.hart.reg 1).toNat < (s.partAt s.part).pattCount ∧ (s.hart.reg 0).toNat = 0 ∧
    va % 8 = 0 ∧ inSpad s va 32 ∧ f 22 1 ≤ 4 ∧ f 16 4 % 2 ^ f 22 1 = 0 ∧ 0 < f 20 2 ∧ 0 < f 24 2 ∧ f 20 2 * 2 ^ f 22 1 ≤ f 16 4 ∧ f 8 8 = 0 ∧
    f 23 1 = 0 ∧ f 26 6 = 0 ∧ (window s s.turn (f 0 8)).isNone = true ∧
    ∃ e, lookup s s.turn .load false (f 0 8) = .ok (e, s) ∧ rightsStop e .load (s.hart.priv == .user) (f 0 8) = none ∧
      placeOf e (f 0 8) = .ok { loc := .dev 0x30000, kind := e.kind, enc := e.enc } ∧ 0x30000 < s.mem.cap * 4096 ∧ e.kind < 2 := by
  refine ⟨vecReady_of (by decide +kernel), noStrip_of (by decide +kernel), by decide +kernel, by decide +kernel, by decide +kernel, by decide +kernel,
    inSpad_of (by decide +kernel), by decide +kernel, by decide +kernel, by decide +kernel, by decide +kernel, (by decide +kernel), by decide +kernel,
    by decide +kernel, by decide +kernel, by decide +kernel, patterns.core.tlb.head?.get (by decide +kernel), ok_of (by decide +kernel), by decide +kernel,
    ok_of (by decide +kernel), by decide +kernel⟩

/-- A collective of two ranks, this one the first, over three 32-bit elements. -/
def collect : State :=
  mach (regs vec [(1, spad 0x40)])
    { spad := spadWith [(0x40, 8, (spad 0x400).toNat), (0x48, 8, (spad 0x500).toNat), (0x50, 4, 3), (0x54, 1, 2), (0x55, 1, 2), (0x56, 1, 2),
        (0x58, 8, (spad 0x600).toNat), (0x60, 4, 9), (0x78, 8, (spad 0x700).toNat), (0x600, 8, (spad 0x400).toNat), (0x610, 8, (spad 0x420).toNat),
        (0x618, 8, 9), (0x400, 4, 5)] }

theorem witness_EngineTransfers_coll : let s := collect
    let va := (s.hart.reg 1).toNat
    let f := fun o n => numAt s (spadLoc s (va + o)) n
    let src := fun r => numAt s (spadLoc s (f 24 8 + 16 * r)) 8
    let flag := f 24 8 + 16 * f 23 1 + 8
    (Instr.engColl 1 3).wf = true ∧ vecReady s ∧ noStrip s ∧ va % 64 = 0 ∧ inSpad s va 64 ∧ f 16 4 = 3 ∧ f 20 1 ∈ [2, 3, 6, 7, 8, 9] ∧
    Ty.ofCode (f 20 1) = .i32 ∧ (BinFn.max, f 21 1) ∈ [(BinFn.add, 0), (BinFn.min, 1), (BinFn.max, 2)] ∧ f 22 1 = 2 ∧ f 23 1 = 0 ∧ f 32 4 ≠ 0 ∧
    (∀ o, o < 20 → f (36 + o) 1 = 0) ∧ blockReady s 3 (f 56 8) ∧ inSpad s (f 0 8) 12 ∧ apart (f 0 8) 12 (f 8 8) 12 ∧ inSpad s (f 8 8) 12 ∧
    inSpad s (f 24 8) 32 ∧ apart (f 8 8) 12 (f 24 8) 32 ∧ apart (f 8 8) 12 (f 56 8) 32 ∧
    (∀ r, r < 2 → r ≠ f 23 1 → f 32 4 ≤ numAt s (spadLoc s (f 24 8 + 16 * r + 8)) 8) ∧
    ((inSpad s (src 0) 12 ∧ apart (src 0) 12 (f 8 8) 12 ∧ apart (src 0) 12 flag 8) ∧
      inSpad s (src 1) 12 ∧ apart (src 1) 12 (f 8 8) 12 ∧ apart (src 1) 12 flag 8) ∧ apart (f 56 8) 32 flag 8 := by
  refine ⟨by decide, vecReady_of (by decide +kernel), noStrip_of (by decide +kernel), by decide +kernel, inSpad_of (by decide +kernel),
    by decide +kernel, by decide +kernel, by decide +kernel, by decide +kernel, (by decide +kernel), by decide +kernel, by decide +kernel,
    by decide +kernel, .inr ⟨by decide, by decide +kernel, inSpad_of (by decide +kernel)⟩, inSpad_of (by decide +kernel), .inl (by decide +kernel),
    inSpad_of (by decide +kernel), inSpad_of (by decide +kernel), .inl (by decide +kernel), .inl (by decide +kernel), by decide +kernel,
    ⟨⟨inSpad_of (by decide +kernel), .inl (by decide +kernel), .inl (by decide +kernel)⟩, inSpad_of (by decide +kernel), .inl (by decide +kernel),
      .inl (by decide +kernel)⟩, .inr (by decide +kernel)⟩

/-- None of these machines tracks a copy. -/
theorem witness_EngineTransfers_untracked :
    untracked (mach (regs vec [(1, spad 0), (2, spad 0x100), (3, 7), (4, spad 0x1FFFE0)])) ∧ untracked copyBar ∧ untracked copyFut ∧
    untracked mcast ∧ untracked gather ∧ untracked collect := by
  refine ⟨?_, ?_, ?_, ?_, ?_, ?_⟩ <;> exact untracked_of (by decide +kernel)

end

end Sys2Proof.Tests
end

