-- ==== Sys2Proof/Tests/WitnessEvents.lean ====
section
/-! SUPPORT. States and operands that meet the hypotheses of the statements about the device's events. -/

namespace Sys2Proof.Tests

set_option Elab.async false

open Sys2Proof.Machine Sys2Proof.Machine.Claim

noncomputable section

theorem mapsAgree_of {s : State} (h : (s.mem.phase % 2 == 0 && s.mem.was == []) = true) : mapsAgree s := by
  simpa [mapsAgree] using h

theorem unreplicated_of {s : State} (h : (s.mem.repl == [] && s.cores.all fun (p : Nat × Core) => p.2.tlb.all fun e => e.kind != 1) = true) : unreplicated s := by
  simp only [Bool.and_eq_true, beq_iff_eq] at h
  refine ⟨h.1, fun a => ?_⟩
  have h := h.2
  simp only [State.mappedRepl, List.any_eq_false]
  intro p hp
  simp only [Bool.not_eq_true, List.any_eq_false, Bool.and_eq_true, beq_iff_eq]
  intro e he hk
  have := List.all_eq_true.1 (List.all_eq_true.1 h p hp) e he
  simp_all

theorem plainRange_of {s : State} {a n : Nat} (h : decide (a % 512 + n ≤ 512 ∧ a + n ≤ Config.devEnd ∧
    (Table.find? s.mem.sectors (a / 512) = none ∨ Table.find? s.mem.sectors (a / 512) = some .plain)) = true) : plainRange s a n := by
  have := of_decide_eq_true h; exact this

theorem opens_of {s : State} {part a n va : Nat} (h : decide (∀ i, i < n → devStop s part false (a + i) va = none) = true) : opens s part a n va := by
  have := of_decide_eq_true h; exact this

/-! ### Harts and accesses -/

theorem witness_HartEvents_walk : let s := mapped vec
    s.hart.slot = .running ∧ s.hart.exited = false ∧ mapsAgree s ∧ translate s s.turn .load false (0x30000 : Word).toNat = .ok ({ loc := .dev 0x30000 }, walked s .load 0x30000) ∧
    translate s s.turn .load false (0x100000000000000 : Word).toNat = .error (memTrap .page 3 0x100000000000000) ∧ trapReady s.hart := by
  refine ⟨by decide +kernel, by decide +kernel, mapsAgree_of (by decide +kernel), walked_ok (by decide +kernel), ?_,
    trapReady_of (by decide +kernel)⟩
  have : (match translate (mapped vec) (mapped vec).turn .load false (0x100000000000000 : Word).toNat with
      | .ok _ => false | .error e => decide (e = memTrap .page 3 0x100000000000000)) = true := by decide +kernel
  split at this
  · cases this
  · rename_i e he
    rw [he, of_decide_eq_true this]

theorem witness_HartEvents_perform : let s := mach vec
    masterPart s 0 = some 0 ∧ masterPart s 0x600 = none ∧ mapsAgree s ∧ unreplicated s ∧ plainRange s 0x301FF [(7 : Byte)].length ∧
    opens s 0 0x301FF [(7 : Byte)].length 0x301FF :=
  ⟨by decide +kernel, by decide +kernel, mapsAgree_of (by decide +kernel), unreplicated_of (by decide +kernel), plainRange_of (by decide +kernel),
    opens_of (by decide +kernel)⟩

theorem witness_HartEvents_perform_spad : let s := mach vec
    (s.partOf 5).isSome = true ∧ 0x1FFFFF + [(7 : Byte)].length ≤ Config.spadBytes ∧ ∀ i, i < [(7 : Byte)].length → s.inPiece 5 (0x1FFFFF + i) = false :=
  ⟨by decide +kernel, by decide, fun _ _ => inPiece_false (by decide +kernel)⟩

/-- A vector load at element 3 of 8. -/
def half : VEntry := { op := .ld .unit .i32 4 0, elem := 3, phase := 1, seq := 8, count := 8 }

theorem witness_HartEvents_report : let s := mach { vec with viq := [half] }
    (s.hartAt 0).viq = [half] ∧ (s.hartAt 0).intrap = false ∧ half.mayReport 5 0 = true ∧ half.late = none ∧ half.mayReport 2 0 = false := by
  decide +kernel

/-- Updates of two bytes on die 1 that wait. -/
def updates : State :=
  { mach vec with mem := { State.reset.mem with repl := [⟨1, 0, 0x40, [0, 0], [1, 2], false⟩, ⟨2, 0, 0x40, [0], [1], false⟩, ⟨1, 0, 0x42, [0], [2], true⟩] } }

theorem witness_HartEvents_replica : (updates.mem.repl.filter (·.die == (1 : Fin 4).val))[1]? = some ⟨1, 0, 0x42, [0], [2], true⟩ ∧
    (updates.mem.repl.filter (·.die == (1 : Fin 4).val)).head? = some ⟨1, 0, 0x40, [0, 0], [1, 2], false⟩ ∧
    ∀ v, v ∈ (updates.mem.repl.filter (·.die == (1 : Fin 4).val)).take 1 → v.addr + v.after.length ≤ 0x42 := by decide +kernel

theorem witness_HartEvents_completion : let s := mach vec
    noStrip s ∧ (spad 0x40).toNat % 8 = 0 ∧ inSpad s (spad 0x40).toNat 24 :=
  ⟨noStrip_of (by decide +kernel), by decide +kernel, inSpad_of (by decide +kernel)⟩

theorem pair_of {r : Except Stop (Place × State)} {p : Place} {t : State}
    (h : (match r with | .ok (q, u) => decide (q = p) && decide (u = t) | .error _ => false) = true) : r = .ok (p, t) := by
  split at h
  · rename_i q u
    obtain ⟨rfl, rfl⟩ : q = p ∧ u = t := by simpa using h
    rfl
  · cases h

/-- The machine after a completion's status was stored at a block. -/
def statused : State := match store (mapped vec) 0 false 8 0x30010 5 with | .ok w => w | .error _ => mapped vec

theorem witness_HartEvents_completion_future : store (mapped vec) (mapped vec).turn false 8 ((0x30000 : Word).toNat + 16) (5 : Word).toNat = .ok statused ∧
    plainPlace statused { loc := .dev 0x30000 } 16 ∧
    findLocal statused.drainRepl ((statused.partOf (coreOf (mapped vec).turn)).getD 0) (statused.hartAt (mapped vec).turn).ptbase
      (0x30000 : Word).toNat = .ok ({ loc := .dev 0x30000 }, statused.drainRepl) ∧ numAt statused (.dev 0x3000C) 1 = 0 :=
  ⟨ok_of (by decide +kernel), plain_of rfl (serves_dev rfl (by decide +kernel)) (by decide), pair_of (by decide +kernel), by decide +kernel⟩

/-- The block of a collective of two ranks over three elements. -/
def collBlock : Memory :=
  spadWith [(0x40, 8, (spad 0x400).toNat), (0x48, 8, (spad 0x500).toNat), (0x50, 4, 3), (0x54, 1, 2), (0x55, 1, 2), (0x56, 1, 2),
    (0x58, 8, (spad 0x600).toNat), (0x60, 4, 9), (0x78, 8, (spad 0x700).toNat)]

/-- A collective that has waited since time 0, its second rank not arrived. -/
def waitingColl (now : Nat) : State :=
  { mach { vec with viq := [{ op := .eng 4 0 1 0 3, maj := 0x34, fn := 4, x := spad 0x40, phase := 1, block := Memory.readBytes collBlock 0x40 64 }] }
      { spad := collBlock } with now := now }

/-- Its descriptor. -/
def waited : Coll :=
  { src := (spad 0x400).toNat, dst := (spad 0x500).toNat, count := 3, ty := .i32, op := 2, nrank := 2, rank := 0, group := (spad 0x600).toNat
    seq := 9, cpl := (spad 0x700).toNat }

def isWaited (x : Coll) : Bool :=
  decide (x.src = waited.src ∧ x.dst = waited.dst ∧ x.count = waited.count ∧ x.ty = waited.ty ∧ x.op = waited.op ∧ x.nrank = waited.nrank ∧
    x.rank = waited.rank ∧ x.group = waited.group ∧ x.seq = waited.seq ∧ x.cpl = waited.cpl)

theorem waited_of {l : List Byte} (h : (match collOf 3 l with | some x => isWaited x | none => false) = true) : collOf 3 l = some waited := by
  split at h
  · rename_i x he
    have := of_decide_eq_true h
    rw [he]
    cases x
    simp_all [waited]
  · cases h

theorem witness_HartEvents_coll_timeout : let s := waitingColl (20 * 2 ^ 27)
    ∃ e, s.hart.viq = [e] ∧ e.op = .eng 4 0 1 0 3 ∧ e.block ≠ [] ∧ e.status = none ∧ s.hart.slot = .running ∧ s.hart.intrap = false ∧
      e.aux + 2 ^ 27 ≤ s.reftime ∧ collWaits s e waited ∧ (waitingColl (20 * 2 ^ 27 - 1)).reftime < e.aux + 2 ^ 27 := by
  refine ⟨_, rfl, by decide +kernel, by decide +kernel, by decide +kernel, by decide +kernel, (by decide +kernel), by decide +kernel,
    ⟨waited_of (by decide +kernel), rfl, noStrip_of (by decide +kernel), untracked_of (by decide +kernel), ?_, ?_, ?_, ?_, ?_,
      inSpad_of (by decide +kernel), ?_, ⟨1, by decide +kernel, ?_⟩, ?_, inSpad_of (by decide +kernel)⟩, ?_⟩ <;> decide +kernel

theorem witness_HartEvents_dispatch : let s := mach4 { help with slot := .waiting, wait := .hole } { holes := [(5, entry .ready)] }
    ((s.hartAt 4).kind = .helper ∧ (s.hartAt 4).slot = .waiting ∧ (s.hartAt 4).wait = .hole ∧ (s.hartAt 4).taken = none ∧
      (nextReady (s.coreAt (coreOf 4))).isSome = true ∧ (s.hartAt 4).filltab = 0 ∧ (s.coreAt (coreOf 4)).dbg = []) ∧
    nextReady ((mach4 help).coreAt (coreOf 4)) = none := by decide +kernel

theorem witness_HartEvents_idle : let s := mach { vec with slot := .waiting, wait := .clock 5 }
    (s.hartAt 0).slot = .waiting ∧ (s.hartAt 0).wait = .clock 5 ∧ ¬ 5 ≤ s.reftime ∧ 5 ≤ { s with now := 100 }.reftime ∧ (s.hartAt 0).slot ≠ .empty := by
  decide +kernel

/-- A task pre-empted at time 0, whose hart had a load of a host page under way at element 3. -/
def stopped' : State :=
  let h : Hart := { vec with viq := [{ op := .ld .unit .i32 4 0, elem := 3, phase := 1, seq := 8, count := 8, x := 0x1000030000 }], ptbase := 0x14000 }
  let t := { taskOne with st := .ready, saved := [{ at_ := 0, harts := [(0, h)], core := {} }] }
  let s := mapped vec
  { s with tasks := [(1, t)], now := 20 * 1500, mem := { s.mem with dev := Memory.writeNat (Memory.writeNat s.mem.dev 0x12008 8 0x80000000000DF) 0x16008 8 0x10000000FF } }

theorem witness_HartEvents_stop : let h : Hart := { vec with viq := [{ op := .ld .unit .i32 4 0, elem := 3, phase := 1, seq := 8, count := 8, x := 0x1000030000 }], ptbase := 0x14000 }
    stopped'.task? 1 = some { taskOne with st := .ready, saved := [{ at_ := 0, harts := [(0, h)], core := {} }] } ∧
    (0 + 1500 ≤ stopped'.reftime) ∧
    (∃ e rest, h.viq = e :: rest ∧ openPos (stopped'.setHartAt 0 h) 0 3 e = some (3, 0) ∧ openPos (stopped'.setHartAt 0 h) 0 2 e = none) :=
  ⟨by decide +kernel, by decide +kernel, _, _, rfl, by decide +kernel, by decide +kernel⟩

/-! ### Scheduling -/

theorem witness_SchedulingEvents_empty : queuesEmpty (mach vec) (0 : Fin 4).val ∧
    ({ mach vec with dies := [(0, { fenced := true })] }.dieAt (0 : Fin 4).val).fenced = true :=
  ⟨queuesEmpty_of (by decide +kernel), by decide +kernel⟩

/-- A READY task of class 2 at the head of its queue: twelve cores, all of cluster 1, since core 0 is taken. -/
def queued : Task := { taskOne with st := .ready, cls := 2, cores := 12, nv := 1, nh := 1, np := 1 }
def readyTask : State :=
  { mach vec { gang := some 9 } with dies := [(0, { queues := [(2, [1])] })], tasks := [(1, queued)] }

theorem witness_SchedulingEvents_place : let s := readyTask
    (s.dieAt 0).fenced = false ∧ queueOf s 0 2 = [1] ∧ (∀ c, c ≠ 2 → queueOf s 0 c = []) ∧ s.readTask 1 = some queued ∧ queued.st = .ready ∧ queued.saved = [] ∧
    queued.nv ≤ 4 ∧ queued.np + queued.nh ≤ 4 ∧ 1 / 8 = 0 ∧ queued.cores ≤ (freeCores s queued 1).length ∧
    (∀ c, c < 1 → c / 8 = 0 → (freeCores s queued c).length < queued.cores) := by
  refine ⟨by decide +kernel, by decide +kernel, fun c hc => ?_, by decide +kernel, by decide, by decide, by decide, by decide, (by decide), by decide +kernel,
    by decide +kernel⟩
  have : (readyTask.dieAt 0).queues = [(2, [1])] := by decide +kernel
  simp [queueOf, this, Table.get, Ne.symm hc]

/-- The same from a descriptor that lies in memory: what it holds when the task is placed counts. -/
def described : State :=
  withDev { mapped vec { gang := some 9 } with
    dies := [(0, { queues := [(2, [1])] })], tasks := [(1, { queued with desc := 0x30000, phys := 0x30000, cores := 1, entry := 0x900 })] }
    [(0x30000, 8, 0x400), (0x30008, 8, 7), (0x3001C, 1, 12), (0x3001D, 1, 0x49), (0x3001E, 1, 2)]

theorem witness_SchedulingEvents_place_reads : ∃ t b, described.readTask 1 = some t ∧ t.start.supervisor = false ∧
    devStop described t.part false t.phys 0 = none ∧ readAt described t.part t.place 0 64 0 = .ok b ∧ descFits b = true ∧
    t.entry = 0x400 ∧ t.cores = 12 ∧ t.st = .ready ∧ t.saved = [] ∧ t.cores ≤ (freeCores described t 1).length := by
  have hb : (match readAt described 0 { queued with desc := 0x30000, phys := 0x30000 : Task }.place 0 64 0 with
    | .ok b => descFits b | .error _ => false) = true := by decide +kernel
  refine ⟨(described.readTask 1).get (by decide +kernel), ?_⟩
  revert hb
  have hp : ((described.readTask 1).get (by decide +kernel)).part = 0 ∧
      ((described.readTask 1).get (by decide +kernel)).place = { queued with desc := 0x30000, phys := 0x30000 : Task }.place := by decide +kernel
  rw [hp.1, hp.2]
  split
  · rename_i b he
    exact fun hb => ⟨b, (Option.some_get _).symm, by decide +kernel, by decide +kernel, he, hb, by decide +kernel, by decide +kernel, by decide +kernel,
      by decide +kernel, by decide +kernel⟩
  · intro hb; cases hb

theorem noStrips_of {s : State} {cores : List Nat} (h : ∀ c, c ∈ cores → ∀ n : Fin 8, (s.hartAt (c * 8 + n.val)).strip = [] ∧
    (s.hartAt (c * 8 + n.val)).used = 0 ∧ (s.hartAt (c * 8 + n.val)).streams = []) :
    noStrips s cores := fun c hc n hn => h c hc ⟨n, hn⟩

theorem witness_SchedulingEvents_preempt : let s := inGang vec (gangWith [])
    s.gang? 1 = some (gangWith []) ∧ s.task? 1 = some taskOne ∧ (gangWith []).cores ≠ [] ∧ (gangWith []).cores.Nodup ∧
    noStrips s (gangWith []).cores ∧ s.mem.repl = [] ∧ s.gang? 2 = none :=
  ⟨by decide +kernel, by decide +kernel, by decide, by decide, noStrips_of (by decide +kernel), rfl, by decide +kernel⟩

/-- A gang of class 3 on the only cluster of the partition, and a task of class 1 that needs all of it and has waited since time 0. -/
def waits : State :=
  { inGang vec { gangWith [] with cls := 3 } with
    parts := [(0, { Partition.first with clusters := 1 })], dies := [(0, { queues := [(1, [2])], heads := [(1, (2, 0))] })]
    tasks := [(1, { taskOne with cls := 3 }), (2, { queued with cls := 1 })], now := 20 * 50000 }

theorem witness_SchedulingEvents_expiry : ∃ s1, Table.find? (waits.dieAt (0 : Fin 4).val).heads (1 : Fin 4).val = some (2, 0) ∧
    0 + 50000 ≤ waits.reftime ∧ preemptFor waits 0 1 = some s1 ∧ (waits.gangs.map (·.1)).Nodup ∧
    Table.find? ((mach vec).dieAt 0).heads 1 = none :=
  ⟨(preemptFor waits 0 1).get (by decide +kernel), by decide +kernel, by decide +kernel, (Option.some_get _).symm, by decide +kernel,
    by decide +kernel⟩

/-- A gang whose partition has a host ring with room, with a barrier it has arrived at. -/
def ringed : State :=
  { inGang { vec with slot := .waiting, wait := .barrier true 3 0 } (gangWith []) with
    parts := [(0, { Partition.first with mbbase := 0x1000, mbhead := 255, mbtail := 255 })]
    dies := [(0, { bars := [(3, { count := 2, arrived := 1, parties := [(1, 0)] })] })] }

theorem witness_SchedulingEvents_kill : let s := ringed
    s.gang? 1 = some (gangWith []) ∧ s.task? 1 = some taskOne ∧ taskOne.future = 0 ∧ queuesEmpty s taskOne.die ∧ ringReady s taskOne.part ∧
    (∀ c, c ∈ (gangWith []).cores → c < 384) ∧ (gangWith []).cores.head? = some 0 ∧ (Table.find? (s.dieAt (dieOf 0)).bars 3).isSome = true ∧
    noRings (inGang vec (gangWith [])) taskOne.part := by
  refine ⟨by decide +kernel, by decide +kernel, by decide, queuesEmpty_of (by decide +kernel), ?_, by decide, by decide, by decide +kernel, ?_⟩
  · unfold ringReady; decide +kernel
  · unfold noRings; decide +kernel

theorem witness_SchedulingEvents_fence : let s := inGang vec (gangWith [])
    s.stew.replay = false ∧ (∀ d, d < 4 → queuesEmpty s d) ∧ (∀ p, p ∈ s.gangs → ∀ c, c ∈ p.2.cores → dieOf c ≠ (1 : Fin 4).val) ∧
    (∀ p, p ∈ s.tasks → p.2.st ≠ .pending ∨ p.2.die ≠ (1 : Fin 4).val) :=
  ⟨by decide, fun d _ => queuesEmpty_of rfl, by decide +kernel, by decide +kernel⟩

theorem witness_SchedulingEvents_retire : let s := mach vec
    s.stew.replay = false ∧ (s.coreAt 0).gang = none ∧ queuesEmpty s (dieOf 0) := ⟨by decide, by decide +kernel, queuesEmpty_of rfl⟩

theorem witness_SchedulingEvents_debug : let s := mach { vec with halted := true, slot := .stopped, wait := .held }
    s.stew.unlocked = false ∧ { s with stew := { s.stew with unlocked := true } }.stew.unlocked = true ∧ (s.hartAt 0).slot ≠ .empty ∧
    (s.hartAt 0).slot = .stopped ∧ (s.hartAt 0).wait = .held ∧ (s.hartAt 0).kind ≠ .helper ∧ (1 : Nat) ≤ 65535 := by decide +kernel

theorem witness_SchedulingEvents_breakpoint : let s := mach vec { dbg := [(0x40, 0x101), (0x48, 2 ^ 56)] }
    (s.hartAt 0).acts = true ∧ dbgReg s (coreOf 0) 0x40 % 2 = 1 ∧ dbgReg s (coreOf 0) 0x40 / 4 = (s.hartAt 0).pc.toNat / 4 ∧
    (dbgReg s (coreOf 0) 0x48).testBit (56 + slotOf 0) = true ∧ (dbgReg s (coreOf 0) 0x48).testBit 49 = false := by decide +kernel

theorem witness_SchedulingEvents_trace : let s := { mach vec { dbg := [(0x00, 0x0000001000010002), (0x08, 0x30000), (0x10, 0x20), (0x18, 0x10)] } with now := 20 * 4096 }
    dbgReg s 0 0 / 2 ^ 24 % 2 ^ 24 ≠ 0 ∧ (s.coreAt 0).sampled + dbgReg s 0 0 / 2 ^ 24 % 2 ^ 24 ≤ s.reftime ∧ (∀ n, n < 8 → ((dbgReg s 0 0).testBit (16 + n) = true ↔ n = 0)) ∧ dbgReg s 0 0x18 < dbgReg s 0 0x10 ∧
    dbgReg s 0 0x10 < 2 ^ 40 ∧ devStop s ((s.partOf 0).getD 0) false 0x30010 0x30010 = none ∧ plainRange s 0x30010 16 ∧ laneDelta s 0 < 0xFFFF ∧
    (s.hartAt 0).viq = [] ∧ dbgReg (mach vec) 0 0 / 2 ^ 24 % 2 ^ 24 = 0 := by
  refine ⟨by decide +kernel, by decide +kernel, by decide +kernel, by decide +kernel, (by decide +kernel), by decide +kernel, ?_,
    by decide +kernel, by decide +kernel, by decide +kernel⟩
  unfold plainRange; decide +kernel

/-! ### Power, clocks, links -/

/-- A die above its fused temperature, then cooled, with a lowered ceiling on cluster 1 and a hart that wants boost. -/
def warm : State :=
  { mach { vec with boostReq := 1 } with dies := [(0, { tooHot := true, cooled := true })], clusters := [(1, { ceil := 5 })], now := 20 * 10000 }

theorem witness_PowerAndLinkEvents_die : warm.stew.replay = false ∧ (warm.dieAt 0).tooHot = true ∧ (warm.dieAt 0).cooled = true ∧
    (warm.dieAt 0).sampled + 100 ≤ warm.reftime ∧ (warm.dieAt 0).stepped + 10000 ≤ warm.reftime ∧
    (∃ cl, cl / 8 = (0 : Fin 4).val ∧ (warm.clusterAt cl).ceil ≠ 0) ∧ (warm.dieAt 1).tooHot = false ∧ (warm.dieAt 1).cooled = false :=
  ⟨by decide, by decide +kernel, by decide +kernel, by decide +kernel, by decide +kernel, ⟨1, by decide +kernel, by decide +kernel⟩,
    by decide +kernel, by decide +kernel⟩

theorem witness_PowerAndLinkEvents_boost : let d := warm.dieAt 0
    warm.reftime % 400 = 0 ∧ d.interval < warm.reftime ∧ warm.stew.energyAt + 100 ≤ warm.reftime ∧ d.hot = 0 ∧ 16 < min 64 (d.permits + 1) ∧ d.lock = false ∧
    (∀ n, n < 96 → let h := warm.hartAt (0 * 96 + n); (h.slot = .running ∨ h.slot = .waiting) → warm.stew.replay = false → h.boostReq ≤ 1) ∧
    ∃ n, n < 96 ∧ let h := warm.hartAt (0 * 96 + n); (h.slot = .running ∨ h.slot = .waiting) ∧ h.boostReq = 1 :=
  ⟨by decide +kernel, by decide +kernel, by decide +kernel, by decide +kernel, (by decide +kernel), by decide +kernel, by decide +kernel,
    0, by decide, by decide +kernel⟩

theorem witness_PowerAndLinkEvents_hung : let s := { ringed with now := 20 * 2 ^ 27, harts := [(0, vec)] }
    (s.hartAt 0).slot = .running ∧ (s.hartAt 0).exited = false ∧ (s.hartAt 0).halted = false ∧ (s.hartAt 0).retired + 2 ^ 27 ≤ s.reftime ∧ ringReady s 0 ∧
    (s.partOf (coreOf 0)).getD 0 = 0 ∧ coreOf 0 < 384 ∧ ¬ (mach vec).hart.retired + 2 ^ 27 ≤ (mach vec).reftime := by
  refine ⟨by decide +kernel, by decide +kernel, by decide +kernel, by decide +kernel, ?_, by decide +kernel, by decide, by decide +kernel⟩
  unfold ringReady; decide +kernel

/-! ### Retirement -/

/-- Stack 7 is next to leave; the hart's partition has a ring. -/
def leaving : State :=
  { mach vec with
    mem := { State.reset.mem with queued := [7] }
    parts := [(0, { Partition.first with mbbase := 0x1000, ranges := [(0, 8192)] })] }

theorem witness_RetirementEvents_drop : let s := leaving
    let cap := 7 * Config.granulesPerStack
    let t := s.setRegs { s.mem with
      cap := cap, queued := s.mem.queued.tail, leaving := some 7, returned := 0, front := cap, dropAt := s.reftime }
    (s.mem.queued.head? = some (7 : Fin 8).val ∧ s.mem.leaving = none ∧ s.mem.phase % 2 = 0 ∧
      ((List.range 8).filter fun i => s.mem.live.testBit i).length = 8 ∧ s.stew.replay = false) ∧
    liveParts s = [0] ∧ ringReady s 0 ∧ cap < 2 ^ 40 ∧ s.mem.phase < 2 ^ 32 ∧
    bandRanges t 0 (cap * 4096) (s.mem.cap * 4096) = [] ∧ (∀ p, p < 4 → noRings (mach vec) p) := by
  refine ⟨by decide +kernel, by decide +kernel, ?_, by decide, by decide, by decide +kernel, ?_⟩
  · unfold ringReady; decide +kernel
  · unfold noRings; decide +kernel

/-- Stack 7 leaves: the range above the seventh stack must be returned. -/
def emptying (returned phase : Nat) : State :=
  { leaving with mem := { leaving.mem with queued := [], leaving := some 7, cap := 7 * Config.granulesPerStack, returned := returned, phase := phase }, now := 20 * 2 ^ 30 }

theorem witness_RetirementEvents_failing : ∀ p, p < 4 → (leaving.partAt p).dmbase = 0 ∨ (leaving.partAt p).dmfut = 0 := by decide

theorem witness_RetirementEvents_return : let s := emptying 0 0
    s.mem.leaving.isSome = true ∧ s.mem.phase % 2 = 0 ∧ (s.partAt (0 : Fin 4).val).live = true ∧ s.mem.returned.testBit (0 : Fin 4).val = false ∧ s.mem.dropAt + 2 ^ 30 ≤ s.reftime ∧
    (∀ p, p ∈ s.tasks → p.2.part ≠ (0 : Fin 4).val) ∧ (emptying 1 0).mem.returned.testBit 0 = true ∧
    ¬ ((mach vec).mem.leaving.isSome = true ∧ (mach vec).mem.phase % 2 = 0 ∧ ((mach vec).partAt 0).live = true) := by decide +kernel

theorem witness_RetirementEvents_walk : let s := emptying 1 4
    s.mem.leaving = some 7 ∧ bandBusy s = false ∧ (s.mem.phase % 2 = 0 ∧ ∀ p, p ∈ liveParts s → s.mem.returned.testBit p = true) ∧ 7 < 8 ∧
    (mach vec).mem.leaving = none := by decide +kernel

theorem witness_RetirementEvents_move : let s := emptying 1 5
    let two := { s with mem := { s.mem with step := 2, front := s.mem.staged + 4, infl := 2 } }
    s.mem.phase % 2 = 1 ∧ { s with mem := { s.mem with step := 1 } }.mem.step = 1 ∧ two.mem.step ≠ 1 ∧ two.mem.moved = [] ∧ 1 < two.mem.front ∧
    two.mem.front - 1 ∉ two.mem.moved ∧ { s with mem := { s.mem with step := 3, front := 1 } }.mem.front = 1 := by decide +kernel

theorem witness_RetirementEvents_flying (n : Nat) : let s := emptying 1 5
    let two := { s with mem := { s.mem with step := 2, front := s.mem.staged + 4, infl := 2 } }
    ∃ off, off < max two.mem.infl (min (max 1 n) (min 512 (two.mem.front - two.mem.staged))) ∧
      two.mem.front - 2 = two.mem.front - 1 - off ∧ two.mem.front - 2 ∉ two.mem.moved :=
  ⟨1, Nat.lt_of_lt_of_le (by decide) (Nat.le_max_left ..), rfl, by decide⟩

theorem witness_RetirementEvents_still (n : Nat) : let s := emptying 1 5
    let done := { s with mem := { s.mem with step := 2, front := s.mem.staged } }
    done.mem.step ≠ 1 ∧ ∀ g, ¬ ∃ off, off < max done.mem.infl (min (max 1 n) (min 512 (done.mem.front - done.mem.staged))) ∧
      g = done.mem.front - 1 - off ∧ g ∉ done.mem.moved := by
  refine ⟨by decide, ?_⟩
  have none (x off : Nat) : ¬ off < max 0 (min (max 1 n) (min 512 (x - x))) := by simp
  rintro g ⟨off, h, -⟩
  exact none _ off h

/-! ### The host and the fabric -/

/-- The last two bytes of a sector through the window of function 0. -/
def windowed : State := mapped vec

/-- What the walk of an offset of the window gives. -/
def seen (off : Nat) : Leaf × Nat :=
  match walk2 windowed 0 off off with
  | .ok x => x
  | .error _ => ({ base := 0, lg := 0, r := false, w := false, x := false, u := false, kind := 9, enc := false }, 0)

theorem seen_ok {off : Nat} (h : (match walk2 windowed 0 off off with | .ok _ => true | .error _ => false) = true) :
    walk2 windowed (0 : Fin 4).val ((windowed.partAt (0 : Fin 4).val).winbase + off) ((windowed.partAt (0 : Fin 4).val).winbase + off) =
      .ok (seen off) := by
  have h0 : (windowed.partAt (0 : Fin 4).val).winbase = 0 := by decide +kernel
  rw [h0, Nat.zero_add]
  unfold seen
  change walk2 windowed 0 off off = _
  split at h
  · rename_i x he; rw [he]
  · cases h

theorem witness_HostLinkEvents_window : mapsAgree windowed ∧ windowed.stew.recording = false ∧ unreplicated windowed ∧
    (windowed.partAt (0 : Fin 4).val).live = true ∧ 0x301FE % 4096 + 2 ≤ 4096 ∧ 0x301FE + 2 ≤ 2 ^ 36 ∧
    (windowed.partAt (0 : Fin 4).val).winbase + 0x301FE + 2 ≤ 2 ^ 52 ∧
    walk2 windowed (0 : Fin 4).val ((windowed.partAt (0 : Fin 4).val).winbase + 0x301FE) ((windowed.partAt (0 : Fin 4).val).winbase + 0x301FE) =
      .ok (seen 0x301FE) ∧ (seen 0x301FE).1.kind = 0 ∧ (seen 0x301FE).1.w = true ∧ (seen 0x301FE).1.r = true ∧
    plainRange windowed (seen 0x301FE).2 2 ∧ devStop windowed (0 : Fin 4).val false (seen 0x301FE).2 0x301FE = none ∧
    devStop windowed (0 : Fin 4).val false ((seen 0x301FE).2 + 2 - 1) 0x301FE = none ∧
    ∀ i, i < 2 → Table.find? windowed.mem.bad (((seen 0x301FE).2 + i) / 64) = none :=
  ⟨mapsAgree_of (by decide +kernel), by decide, unreplicated_of (by decide +kernel), by decide +kernel, by decide, by decide, by decide +kernel,
    seen_ok (by decide +kernel), by decide +kernel, by decide +kernel, by decide +kernel, plainRange_of (by decide +kernel), by decide +kernel,
    by decide +kernel, by decide +kernel⟩

theorem witness_HostLinkEvents_atomic : let q : AmoReq := { fn := .cas, ty := .n64, cmp := 0, y := 2 ^ 64 - 1 }
    completes q.fn 16 = true ∧ q.ty = (if 16 = 4 then Ty.n32 else .n64) ∧ 0x301F0 % 16 = 0 ∧ (seen 0x301F0).2 % 16 = 0 ∧
    (walk2 windowed (0 : Fin 4).val ((windowed.partAt (0 : Fin 4).val).winbase + 0x301F0) ((windowed.partAt (0 : Fin 4).val).winbase + 0x301F0) =
      .ok (seen 0x301F0)) ∧ plainRange windowed (seen 0x301F0).2 16 ∧ completes .add 16 = false ∧ completes .swap 4 = true ∧ 0x301F0 % 4 = 0 :=
  ⟨rfl, rfl, by decide, by decide +kernel, seen_ok (by decide +kernel), plainRange_of (by decide +kernel), rfl, rfl, by decide⟩

theorem refused_of {s : State} {fn off n : Nat} {w : Access}
    (h : (match windowPlace s fn off n w with | .error (.trap x) => decide (x.media = none ∧ x.cause ≠ .ue) | _ => false) = true) :
    ∃ x, windowPlace s fn off n w = .error (.trap x) ∧ x.media = none ∧ x.cause ≠ .ue := by
  split at h
  · rename_i x he
    exact ⟨x, he, of_decide_eq_true h⟩
  · cases h

theorem witness_HostLinkEvents_refused : let s := leaving
    mapsAgree s ∧ s.stew.recording = false ∧
    (∃ x, windowPlace s (0 : Fin 4).val 0 [(1 : Byte)].length .store = .error (.trap x) ∧ x.media = none ∧ x.cause ≠ .ue) ∧
    (∃ x, windowPlace (mach vec) (0 : Fin 4).val 0 4 .load = .error (.trap x) ∧ x.media = none ∧ x.cause ≠ .ue) ∧
    (s.partAt (0 : Fin 4).val).live = true ∧ ringReady s (0 : Fin 4).val ∧ (s.partAt (0 : Fin 4).val).winbase + 0 < 2 ^ 64 ∧
    mapsAgree (mach vec) ∧ noRings (mach vec) (0 : Fin 4).val ∧ ((mach vec).partAt (3 : Fin 4).val).live = false := by
  refine ⟨mapsAgree_of (by decide +kernel), by decide, refused_of (by decide +kernel), refused_of (by decide +kernel), by decide +kernel, ?_,
    by decide +kernel, mapsAgree_of (by decide +kernel), ?_, by decide +kernel⟩
  · unfold ringReady; decide +kernel
  · unfold noRings; decide +kernel

/-- Port 63 with a window of 64 MiB for reads and writes, and with an empty bucket. -/
def portal : Port := { windows := [{ base := 2 ^ 26, len := 2 ^ 26, r := true, w := true }] }

def ported (p : Port) : State := { mach vec with mem := { State.reset.mem with ports := [(63, p)] } }

theorem witness_HostLinkEvents_fabric : let r : Request := { master := 0, addr := 2 ^ 27 - 2, write := some [1, 2], len := 2 }
    policed (ported portal) (63 : Fin 64).val ∧ ((ported portal).portAt (63 : Fin 64).val) = portal ∧
    (∃ w, w ∈ portal.windows ∧ w.base ≤ r.addr ∧ r.addr + requestSize r ≤ w.base + w.len ∧
      (r.write = none ∨ r.amo.isSome = true → w.r = true) ∧ (r.write.isSome = true ∨ r.amo.any (·.fn != .ld) = true → w.w = true)) ∧
    (¬ ∃ w, w ∈ portal.windows ∧ w.base ≤ 0 ∧ True) ∧
    (let p := (ported { portal with tokens := 0, rate := 0 }).portAt (63 : Fin 64).val
     p.up = true ∧ min p.depth (p.tokens + ((mach vec).reftime - p.since) * p.rate) = 0) ∧
    ((ported { portal with up := false }).portAt (63 : Fin 64).val).up = false := by
  refine ⟨?_, by decide +kernel, ⟨_, List.mem_singleton.2 rfl, by decide, by decide, fun _ => rfl, fun _ => rfl⟩, ?_, by decide +kernel, by decide +kernel⟩
  · unfold policed; decide +kernel
  · rintro ⟨w, hw, h, -⟩
    have := List.mem_singleton.1 hw
    subst this
    exact absurd h (by decide)

theorem witness_HostLinkEvents_tail : let s := { leaving with parts := [(0, { Partition.first with mbbase := 0x1000, mbheld := [List.replicate 64 5] })] }
    (s.partAt (0 : Fin 4).val).mbheld = [List.replicate 64 5] ∧ (s.partAt (0 : Fin 4).val).mbbase ≠ 0 ∧
    ((s.partAt (0 : Fin 4).val).mbhead + 1) % 256 ≠ (0 : Word).toNat % 256 ∧
    (List.replicate 64 (5 : Byte)).length = 64 ∧ (leaving.partAt 0).mbheld = [] ∧ (leaving.partAt 0).dmheld = [] ∧ 0 < 384 ∧
    leaving.partOf 0 = some (0 : Fin 4).val ∧ s.stew.recording = false ∧ s.stew.cmdBusy = false ∧ (s.partAt (0 : Fin 4).val).live = true := by
  decide +kernel

theorem witness_HostLinkEvents_steward : regAccepts (mach vec) 0x200 true 0 = false ∧ (mach vec).stew.recording = false ∧
    (255 : Word).toNat % 2 ^ 16 ∉ List.range' 256 11745 ∧ (12000 : Word).toNat % 2 ^ 16 ∈ List.range' 256 11745 := by decide +kernel

/-- A host spawn into function 0: a descriptor at 0x30000, on a die whose cores are taken. -/
def hosting : State :=
  let s := spawner 0
  s.setPartAt 0 { s.partAt 0 with hsctx := 0x14000 }

theorem witness_HostLinkEvents_spawn : let s := hosting
    let p := s.partAt (0 : Fin 4).val
    let v : Word := 0x30000
    p.live = true ∧ s.stew.recording = false ∧ mapsAgree s ∧ v.toNat / 2 ^ 6 % 2 ^ 50 * 64 = 0x30000 ∧
    ¬ (v.toNat / 2 ^ 56 ≠ 0 ∨ v.toNat / 2 ^ 3 % 8 ≠ 0 ∨ p.clusters / 2 ^ (8 * (v.toNat % 4)) % 2 ^ 8 = 0 ∨ p.hsctx = 0) ∧
    hostPlace s (0 : Fin 4).val p.hsctx .atomic 0x30000 = .ok ({ loc := .dev 0x30000 }, s) ∧ 0x30000 % 64 = 0 ∧ plainRange s 0x30000 64 ∧
    Table.find? s.mem.bad (0x30000 / 64) = none ∧ field (bytes64 s (.dev 0x30000)) 32 8 = 0 ∧
    descOk (bytes64 s (.dev 0x30000)) (max p.hsprio p.spawnGrant) = true ∧ launchOk (List.replicate 64 0) = true ∧
    crowded s 0 (field (bytes64 s (.dev 0x30000)) 30 1) :=
  ⟨by decide +kernel, by decide +kernel, mapsAgree_of (by decide +kernel), by decide, by decide +kernel, pair_of (by decide +kernel), by decide,
    plainRange_of (by decide +kernel), by decide +kernel, by decide +kernel, by decide +kernel, by decide +kernel, crowded_of (by decide +kernel)⟩

theorem witness_HostLinkEvents_spawn_illegal : let s := leaving
    (s.partAt (0 : Fin 4).val).live = true ∧ (s.partAt (0 : Fin 4).val).hsctx = 0 ∧ ringReady s (0 : Fin 4).val ∧ noRings (mach vec) 0 := by
  refine ⟨by decide +kernel, by decide +kernel, ?_, ?_⟩
  · unfold ringReady; decide +kernel
  · unfold noRings; decide +kernel

theorem witness_HostLinkEvents_spawn_window : let s := leaving.setPartAt 0 { leaving.partAt 0 with hsctx := 0x14000 }
    let v : Word := 0xFFFE0000000000
    let p := s.partAt (0 : Fin 4).val
    p.live = true ∧ v.toNat / 2 ^ 6 % 2 ^ 50 * 64 / 2 ^ 40 ∈ [0xFFFE, 0xFFFF] ∧ ringReady s (0 : Fin 4).val ∧
    ¬ (v.toNat / 2 ^ 56 ≠ 0 ∨ v.toNat / 2 ^ 3 % 8 ≠ 0 ∨ p.clusters / 2 ^ (8 * (v.toNat % 4)) % 2 ^ 8 = 0 ∨ p.hsctx = 0) := by
  refine ⟨by decide +kernel, by decide, ?_, by decide +kernel⟩
  unfold ringReady; decide +kernel

/-- A machine that replays a script. -/
def replaying (script : List Arrival) : State := { mach vec with stew := { State.reset.stew with replay := true, script := script } }

theorem witness_HostLinkEvents_replay : let a : Arrival := { tick := 0, what := .write (0 : Fin 4).val 0 (.bytes []) }
    let s := replaying [a]
    s.stew.replay = true ∧ s.stew.recording = false ∧ s.stew.script = [a] ∧ a.tick = s.reftime ∧
    (s.reftime < { a with tick := 1 }.tick) ∧ a.tick < { s with now := 20 }.reftime ∧
    (mach vec).stew.replay = false := by decide +kernel

/-- A management command block: opcode, length of the payload, SEQ, RESULT, payload. -/
def block (op : Nat) (payload : List Byte) (seq : Nat := 1) (result : Nat := 0x2000) : List Byte :=
  leBytes 2 op ++ leBytes 2 0 ++ leBytes 4 payload.length ++ leBytes 8 seq ++ leBytes 8 result ++ leBytes 40 0 ++ payload

theorem witness_HostLinkEvents_replay_command : let b := block 6 []
    let a : Arrival := { tick := 0, what := .command b true false }
    let c : Command := { port := some b, signed := true }
    commandOf (.record c) = some c ∧ asksFor (.record c) = some .record ∧ parseCommand c (replaying [a]) = some .record ∧
    ∀ l, Instr.record c ≠ .unlock c l true := ⟨rfl, rfl, by decide +kernel, fun l h => by cases h⟩

/-! ### Commands -/

/-- The payload of PART create: partition 1, the clusters of die 1, port 0, the 64 MiB above the first partition. -/
def partPayload : List Byte :=
  leBytes 1 1 ++ leBytes 1 1 ++ leBytes 6 0 ++ leBytes 8 0xFF00 ++ leBytes 8 1 ++ leBytes 2 1 ++ leBytes 6 0 ++ leBytes 8 (4096 + 2 ^ 16)

/-- Commands through the management port, and one that CMD has submitted. -/
def byPort (op : Nat) (payload : List Byte) : Command := portCommand (block op payload) true

def submitted : State :=
  { mach vec with
    stew := { State.reset.stew with cmdBusy := true, cmd := 0x5000 }
    mem := { State.reset.mem with host := Memory.writeBytes [] 0x5000 (block 6 []) } }

theorem good_of {s : State} {c : Command} {op : CmdOp} (h : decide (c.port.isSome = true ∧ s.stew.recording = false ∧
    parseCommand c s = some op ∧ c.signed = true ∧ s.stew.lastSeq < cmdNum s c 8 8) = true) : good s c op := by
  have := of_decide_eq_true h; exact this

theorem witness_ManagementEvents_answers : let c : Command := { port := none, signed := true }
    commandOf (.record c) = some c ∧ asksFor (.record c) = some .record ∧ arrived submitted c ∧ parseCommand c submitted = some .record ∧
    parseCommand (byPort 9 []) (mach vec) = none ∧ arrived (mach vec) (byPort 9 []) ∧ (mach vec).stew.cmdBusy = false ∧
    cmdNum (mach vec) (portCommand (block 6 [] 0) true) 8 8 ≤ (mach vec).stew.lastSeq ∧
    parseCommand (portCommand (block 6 [] 0) true) (mach vec) = some .record ∧ parseCommand (byPort 5 []) (mach vec) = some .challenge ∧
    submitted.stew.lastSeq < cmdNum submitted c 8 8 ∧ submitted.stew.recording = false ∧ submitted.stew.replay = false := by
  refine ⟨rfl, rfl, ⟨fun _ => rfl, rfl⟩, by decide +kernel, by decide +kernel, ⟨fun h => (by cases h), rfl⟩, rfl, by decide +kernel, by decide +kernel,
    by decide +kernel, by decide +kernel, rfl, rfl⟩

theorem blockIs_of {s : State} {b : List Byte} {sg : Bool} {op plen seq result : Nat} (h : decide (cmdNum s (portCommand b sg) 0 2 = op ∧
    cmdNum s (portCommand b sg) 2 2 = 0 ∧ cmdNum s (portCommand b sg) 4 4 = plen ∧ cmdNum s (portCommand b sg) 8 8 = seq ∧
    cmdNum s (portCommand b sg) 16 8 = result ∧ cmdNum s (portCommand b sg) 24 40 = 0 ∧ 64 + plen ≤ b.length) = true) :
    blockIs s (portCommand b sg) op plen seq result := by
  have := of_decide_eq_true h; exact this

theorem witness_ManagementEvents_blocks : let s := mach vec
    blockIs s (byPort 1 (leBytes 8 7)) 1 8 1 0x2000 ∧ cmdNum s (byPort 1 (leBytes 8 7)) 64 1 < 8 ∧ cmdNum s (byPort 1 (leBytes 8 7)) 65 7 = 0 ∧
    blockIs s (byPort 2 partPayload) 2 (32 + 8 * [(4096, 1)].length) 1 0x2000 ∧ cmdNum s (byPort 2 partPayload) 64 1 = 1 ∧
    cmdNum s (byPort 2 partPayload) 65 1 < 4 ∧ cmdNum s (byPort 2 partPayload) 88 2 = [(4096, 1)].length ∧
    cmdNum s (byPort 2 partPayload) (96 + 8 * 0) 8 = 4096 + 1 * 2 ^ 16 ∧
    blockIs s (byPort 2 (leBytes 1 2 ++ leBytes 31 0)) 2 32 1 0x2000 ∧ cmdNum s (byPort 2 (leBytes 1 2 ++ leBytes 31 0)) 64 1 = 2 ∧
    blockIs s (byPort 3 (leBytes 8 3)) 3 8 1 0x2000 ∧ blockIs s (byPort 4 (leBytes 32 9)) 4 32 1 0x2000 ∧
    blockIs s (byPort 5 []) 5 0 1 0x2000 ∧ blockIs s (byPort 6 []) 6 0 1 0x2000 :=
  ⟨blockIs_of (by decide +kernel), by decide +kernel, by decide +kernel, blockIs_of (by decide +kernel), by decide +kernel, by decide +kernel,
    by decide +kernel, by decide +kernel, blockIs_of (by decide +kernel), by decide +kernel, blockIs_of (by decide +kernel),
    blockIs_of (by decide +kernel), blockIs_of (by decide +kernel), blockIs_of (by decide +kernel)⟩

theorem witness_ManagementEvents_good : let s := mach vec
    good s (byPort 1 (leBytes 8 7)) (.retire 7) ∧ s.stew.replay = false ∧ s.mem.live.testBit 7 = true ∧
    2 ≤ ((List.range 8).filter fun i => s.mem.live.testBit i).length ∧ s.mem.leaving ≠ some 7 ∧ (emptying 0 0).mem.leaving = some 7 ∧
    good s (byPort 4 (leBytes 32 9)) (.quote (leBytes 32 9)) ∧ good s (byPort 5 []) .challenge ∧ good s (byPort 6 []) .record ∧
    good (replaying []) (byPort 6 []) .record ∧ (∀ n, CmdOp.record ≠ .quote n) :=
  ⟨good_of (by decide +kernel), rfl, by decide, by decide, (by decide), by decide, good_of (by decide +kernel), good_of (by decide +kernel),
    good_of (by decide +kernel), good_of (by decide +kernel), fun n h => by cases h⟩

theorem witness_ManagementEvents_part : let s := mach vec
    good s (byPort 2 partPayload) (.create (1 : Fin 4).val 0xFF00 1 [(4096, 1)]) ∧ s.stew.replay = false ∧ (1 : Fin 4).val ≠ 0 ∧
    (s.partAt (1 : Fin 4).val).live = false ∧
    (∀ p, p < 4 → p ≠ (1 : Fin 4).val → (s.partAt p).live = true → (s.partAt p).clusters &&& 0xFF00 = 0 ∧ (s.partAt p).ports &&& 1 = 0 ∧
      ∀ r x, r ∈ (s.partAt p).ranges → x ∈ [(4096, 1)] → ¬ (r.1 < x.1 + x.2 ∧ x.1 < r.1 + r.2)) := by
  refine ⟨good_of (by decide +kernel), by decide, by decide, by decide +kernel, ?_⟩
  intro p hp _ hl
  have h0 : ∀ p : Fin 4, ((mach vec).partAt p.val).live = true → p.val = 0 := by decide +kernel
  have := h0 ⟨p, hp⟩ hl
  simp only at this
  subst this
  refine ⟨by decide +kernel, by decide +kernel, fun r x hr hx => ?_⟩
  have hr' : ((mach vec).partAt 0).ranges = [(0, 4096)] := by decide +kernel
  rw [hr'] at hr
  simp only [List.mem_singleton] at hr hx
  subst hr; subst hx
  decide

/-- Partition 1 with the memory above partition 0 and a running task of it. -/
def second : State :=
  { mach vec with
    parts := [(0, Partition.first), (1, { live := true, clusters := 0xFF00, ranges := [(4096, 1)] })]
    tasks := [(1, { taskOne with part := 1 })], gangs := [(1, { gangWith [] with part := 1, cores := [96] })] }

theorem witness_ManagementEvents_destroy : (second.partAt (1 : Fin 4).val).live = true ∧ (1 : Fin 4).val ≠ 0 ∧
    (∀ x, x ∈ { second with tasks := [] }.tasks → x.2.part ≠ (1 : Fin 4).val) ∧ second.tasks = [(1, { taskOne with part := 1 })] ∧
    ({ taskOne with part := 1 } : Task).st = .running ∧ second.stew.replay = false ∧
    good { second with tasks := [] } (byPort 2 (leBytes 1 2 ++ leBytes 1 1 ++ leBytes 30 0)) (.destroy (1 : Fin 4).val) ∧
    good second (byPort 3 (leBytes 8 1)) (.reset (1 : Fin 4).val) ∧ good (mach vec) (byPort 3 (leBytes 8 1)) (.reset (1 : Fin 4).val) :=
  ⟨by decide +kernel, by decide, by decide, by decide, by decide, by decide, good_of (by decide +kernel), good_of (by decide +kernel),
    good_of (by decide +kernel)⟩

/-- UNLOCK's second block: a challenge and two signatures' room. -/
def unlocking : Command := byPort 5 (List.replicate 16640 0)

theorem witness_ManagementEvents_unlock : let s := { mach vec with stew := { State.reset.stew with challenge := some (List.replicate 32 0) } }
    good s unlocking (.unlock (List.replicate 32 0)) ∧ s.stew.replay = false ∧ s.stew.challenge = some (List.replicate 32 0) ∧
    (mach vec).stew.challenge = none := by
  refine ⟨⟨rfl, rfl, ?_, rfl, by decide +kernel⟩, by decide, by decide, by decide⟩
  decide +kernel

/-- The image of the first task of partition 0. -/
def firstImage : LoadRequest :=
  { part := 0, bytes := [(0x400, [1, 2, 3])], patts := [15], root2 := 0x10000, ptbase := 0x14000, tvec := 0x4000, entry := 0x20000, arg := 7, die := 0, cls := 0
    cores := 12, nv := 4, nh := 3, np := 1 }

theorem witness_ManagementEvents_boot : let s := mach vec
    s.stew.minVersion = 0 ∧ s.stew.armed = false ∧ firstImage.part = 0 ∧ firstImage.bytes = [(0x400, [1, 2, 3])] ∧ firstImage.die = 0 ∧
    firstImage.cls < 4 ∧ 1 ≤ firstImage.cores ∧ firstImage.cores ≤ 12 ∧ 1 ≤ firstImage.nv ∧ firstImage.nv ≤ 4 ∧ firstImage.np + firstImage.nh ≤ 4 ∧
    (¬ ∃ x, x ∈ firstImage.patts ∧ 16 ≤ x) ∧ (∃ x, x ∈ { firstImage with patts := [16] }.patts ∧ 16 ≤ x) ∧
    plainRange s 0x400 [(1 : Byte), 2, 3].length ∧ (∀ c, (s.coreAt c).lanesFailed = 0) := by
  refine ⟨by decide, by decide, by decide, by decide, by decide, by decide, by decide, by decide, by decide, by decide, by decide, by decide,
    ⟨16, by decide, by decide⟩, plainRange_of (by decide +kernel), fun c => ?_⟩
  simp only [mach, State.coreAt, Table.get]
  split <;> rfl

theorem witness_ManagementEvents_stages : let bad : StageCheck := { slh := false }
    stageFault bad 0 ≠ none ∧ stageFault {} 0 = none ∧ stageFault {} 1 ≠ none ∧ stageFault { version := 1 } 1 = none := by decide +kernel

end

end Sys2Proof.Tests
end

