-- ==== Sys2Proof/Tests/WitnessComplete.lean ====
section
/-! SUPPORT. States and operands that meet the hypotheses of the statements about completion. -/

namespace Sys2Proof.Tests

set_option Elab.async false

open Sys2Proof.Machine Sys2Proof.Machine.Claim

noncomputable section

/-! ### Scalar instructions -/

/-- A supervisor with the last eight bytes of its scratchpad in s2. -/
def plain : State := mach (regs vec [(2, spad 0x1FFFF8)])

theorem witness_ScalarInstructionsComplete : (Instr.aluAdd 1 2 3 .n64).wf = true ∧ (Instr.aluiShl 1 2 63).wf = true ∧
    (Instr.fpuTod64 1 2 .f64).wf = true ∧ plain.hart.fpctl &&& 0x1F1F00#64 = 0 ∧ (Instr.ld 1 2 .i64 0).wf = true ∧
    spadAt plain (plain.hart.reg 2 + BitVec.ofInt 64 (0 : BitVec 12).toInt).toNat (Ty.size .i64) ∧ plain.hart.strip = [] ∧
    plain.hart.kind = .vector ∧ plain.hart.priv = .supervisor ∧ plain.hart.viq = [] ∧ (0x180, 0) ∈ ctlList plain ∧
    idleQueue plain ∧ trapReady plain.hart ∧ debugHeld plain plain.turn = false ∧ plain.hart.slot = .running ∧ plain.hart.exited = false ∧
    ((0 : Word).toNat ≤ plain.now / 20) ∧ noRings plain plain.part ∧ noStrip plain ∧ plain.mem.phase % 2 = 0 ∧ plain.mem.phase < 2 ^ 32 ∧
    (plain.mem.phase + 2 ^ 32 - (plain.hart.reg 0).toNat % 2 ^ 32) % 2 ^ 32 < 2 ^ 31 := by
  refine ⟨by decide, by decide, by decide, by decide +kernel, by decide, ⟨inSpad_of (by decide +kernel), by decide +kernel⟩, by decide +kernel,
    by decide +kernel, by decide +kernel, (by decide +kernel), by decide +kernel, idleQueue_of (by decide +kernel), trapReady_of (by decide +kernel),
    by decide +kernel, by decide +kernel, (by decide +kernel), by decide, ?_, noStrip_of (by decide +kernel), by decide, by decide, by decide +kernel⟩
  unfold noRings; decide +kernel

theorem witness_ScalarInstructionsComplete_tret : let s := mach { vec with sbank := { tcause := 0x8001, tpc := 0x200 } }
    s.hart.priv = .supervisor ∧ s.hart.sbank.intrap = true ∧ s.hart.sbank.tcause.toNat / 2 ^ 12 % 4 = 0 := by decide +kernel

theorem witness_ScalarInstructionsComplete_queues (k : Nat) : (plain.hartAt k).strip = [] ∧ (plain.hartAt k).viq = [] := by
  simp only [plain, mach, State.hartAt, Table.get]
  split <;> simp_all [regs]
  decide

/-! ### Memory, contexts, barriers, futures, tasks -/

theorem witness_MemorySyncAndContextComplete_store : let s := mach (regs vec [(1, 7), (2, spad 0x1FFFF0)])
    noStrip s ∧ (Instr.st 1 2 .i64 8).wf = true ∧ spadAt s (s.hart.reg 2 + BitVec.ofInt 64 (8 : BitVec 12).toInt).toNat (Ty.size .i64) ∧
    (Instr.amoCas 3 2 1 .n64 true 3).wf = true ∧ spadAt s (s.hart.reg 2).toNat (Ty.size .n64) ∧ (Instr.amoCas2 4 2 6 false 0).wf = true ∧
    spadAt s (s.hart.reg 2).toNat 16 :=
  ⟨noStrip_of (by decide +kernel), by decide, ⟨inSpad_of (by decide +kernel), by decide +kernel⟩, by decide,
    ⟨inSpad_of (by decide +kernel), by decide +kernel⟩, by decide, ⟨inSpad_of (by decide +kernel), by decide +kernel⟩⟩

theorem witness_MemorySyncAndContextComplete_images : noStrip saver ∧ (Instr.csave 2 1 0x10 true false).wf = true ∧ csaveReady saver 1 0x10 ∧
    noStrip imaged ∧ crestReady imaged 1 5 2048 { kind := .scalar, pc := 0x440 } := by
  refine ⟨noStrip_of (by decide +kernel), by decide, ?_, noStrip_of (by decide +kernel), ?_⟩
  · obtain ⟨-, h1, h2, h3, h4, h5, h6, h7, h8, h9⟩ := witness_ContextImages_save
    exact ⟨h2, h3, h4, h5, h6, (by decide +kernel), h8, h9⟩
  · obtain ⟨-, h1, h2, h3, h4, h5, h6, h7, h8, h9, h10, h11, h12, h13, h14, h15, h16⟩ := witness_ContextImages_restore
    exact ⟨h1, h2, h3, (by decide), (by decide), h4, h5, h6, h7, h8, h9, h10, h11, h12, h13, h14, h15, h16⟩

theorem witness_MemorySyncAndContextComplete_helper : let s := mach4 help { holes := [(5, entry .ready)] }
    let t := mach4 (regs { help with taken := some 5 } [(1, 0x205), (2, 0x0304)]) { holes := [(5, entry .taken)] } [(0, holed)]
    noStrip s ∧ takeReady s (entry .ready) ∧ noStrip t ∧ settleReady t 1 (entry .taken) ∧ 1 ≤ (t.hart.reg 2).toNat / 2 ^ 8 % 2 ^ 8 := by
  obtain ⟨h1, h2, h3, h4, h5, h6, -⟩ := witness_HelperInstructions_take
  obtain ⟨g1, g2, g3, -, g5, g6, g7, g8, g9, g10, -⟩ := witness_HelperInstructions_fill
  exact ⟨noStrip_of (by decide +kernel), ⟨h1, h2, h3, h4, h5, h6⟩, noStrip_of (by decide +kernel),
    ⟨g1, g2, g3, g5, g6, g7, g8, rfl, .inr (.inr (.inr (.inl g9))), g10⟩, by decide +kernel⟩

theorem witness_MemorySyncAndContextComplete_barriers : let s := barrier []
    noStrip s ∧ (barRef s s.turn (s.hart.reg 5).toNat = .ok ⟨false, 1, 0⟩ ∧ (barGet s ⟨false, 1, 0⟩).arrived = 0 ∧
      (barGet s ⟨false, 1, 0⟩).pend = 0 ∧ barWaited s ⟨false, 1, 0⟩ = false ∧ 1 ≤ (s.hart.reg 6).toNat ∧ (s.hart.reg 7).toNat ≤ 1024) ∧
    (barRef s s.turn (s.hart.reg 1).toNat = .ok ⟨false, 1, 1⟩ ∧ (barGet s ⟨false, 1, 1⟩).broken = false ∧
      (barGet s ⟨false, 1, 1⟩).arrived + 1 = (barGet s ⟨false, 1, 1⟩).count ∧ (barGet s ⟨false, 1, 1⟩).pend = 0 ∧ s.hart.synced = []) ∧
    (barRef s s.turn (s.hart.reg 4).toNat = .ok ⟨false, 1, 4⟩ ∧ 0 < (barGet s ⟨false, 1, 4⟩).count ∧
      ((barGet s ⟨false, 1, 4⟩).phase + 2 ^ 32 - (s.hart.reg 8).toNat % 2 ^ 32) % 2 ^ 32 ∈ List.range' 1 (2 ^ 31 - 1)) := by
  have h : ((barGet (barrier []) ⟨false, 1, 4⟩).phase + 2 ^ 32 - ((barrier []).hart.reg 8).toNat % 2 ^ 32) % 2 ^ 32 = 1 := by decide +kernel
  refine ⟨noStrip_of (by decide +kernel), ⟨barRef_of (by decide +kernel), by decide +kernel⟩, ⟨barRef_of (by decide +kernel), by decide +kernel⟩,
    barRef_of (by decide +kernel), by decide +kernel, ?_⟩
  rw [h, List.mem_range'_1]
  decide

theorem witness_MemorySyncAndContextComplete_futures : let va := fun (s : State) => (s.hart.reg 3).toNat
    noStrip (future 2 0) ∧ futureAt (future 2 0) (walked (future 2 0) .load 0x30000) .load (va (future 2 0)) { loc := .dev 0x30000 } 2 ∧
    noStrip (future 0 0) ∧ futureAt (future 0 0) (walked (future 0 0) .atomic 0x30000) .atomic (va (future 0 0)) { loc := .dev 0x30000 } 0 ∧
    futureAt (future 2 0) (walked (future 2 0) .atomic 0x30000) .atomic (va (future 2 0)) { loc := .dev 0x30000 } 2 ∧
    ((future 2 0).hart.reg 4).toNat % 64 = 0 := by
  refine ⟨noStrip_of (by decide +kernel), ⟨by decide +kernel, walked_ok (by decide +kernel), ?_, by decide +kernel⟩, noStrip_of (by decide +kernel),
    ⟨by decide +kernel, walked_ok (by decide +kernel), ?_, by decide +kernel⟩, ⟨by decide +kernel, walked_ok (by decide +kernel), ?_, by decide +kernel⟩,
    (by decide +kernel)⟩ <;> exact plain_of rfl (serves_dev rfl (by decide +kernel)) (by decide)

theorem witness_MemorySyncAndContextComplete_spawn : let s1 := walked (spawner 0) .atomic 0x30000
    let t1 := walked (spawner 2) .atomic 0x30000
    noStrip (spawner 0) ∧ spawnReady (spawner 0) s1 s1 false 3 { loc := .dev 0x30000 } (List.replicate 64 0) ∧
    noStrip (spawner 2) ∧ spawnReady (spawner 2) t1 t1 true 3 { loc := .dev 0x30000 } (List.replicate 64 0) := by
  refine ⟨noStrip_of (by decide +kernel), ⟨by decide +kernel, walked_ok (by decide +kernel), ?_, ?_, ?_, by decide +kernel, by decide +kernel,
    (fun h => by cases h), by decide +kernel, .inl (crowded_of (by decide +kernel))⟩, noStrip_of (by decide +kernel),
    ⟨by decide +kernel, walked_ok (by decide +kernel), ?_, ?_, ?_, by decide +kernel, by decide +kernel, (fun _ => by decide +kernel),
      (by decide +kernel), .inr (by decide +kernel)⟩⟩
  all_goals first | exact plain_of rfl (serves_dev rfl (by decide +kernel)) (by decide) | skip
  · rw [show field (bytes64 (walked (spawner 0) .atomic 0x30000) (.dev 0x30000)) 32 8 = 0 by decide +kernel]
    have : ownLaunch (walked (spawner 0) .atomic 0x30000) (spawner 0).turn = 0 := by decide +kernel
    simp only [this]; rfl
  · rw [show field (bytes64 (walked (spawner 2) .atomic 0x30000) (.dev 0x30000)) 32 8 = 0 by decide +kernel]
    have : ownLaunch (walked (spawner 2) .atomic 0x30000) (spawner 2).turn = 0 := by decide +kernel
    simp only [this]; rfl

theorem witness_MemorySyncAndContextComplete_exit : noStrip twoHarts ∧ exitReady twoHarts ∧ noStrip plain ∧ plain.core.gang = none := by
  refine ⟨noStrip_of (by decide +kernel), ⟨by decide +kernel, by decide +kernel, by decide +kernel, 1, gangWith [], taskOne, 0, 4, by decide +kernel, by decide +kernel,
    by decide +kernel, by decide +kernel, (by decide +kernel), by decide, by decide +kernel, ?_⟩, noStrip_of (by decide +kernel), by decide +kernel⟩
  decide +kernel

/-! ### Vector instructions -/

theorem oneRow_of {s : State} (h1 : vecReady s) (h2 : noStrip s)
    (h : decide ((∀ n : Fin 4, coreOf s.turn * 8 + n.val ≠ s.turn → (s.hartAt (coreOf s.turn * 8 + n.val)).viq = []) ∧ s.core.tracks = [] ∧
      s.hart.hold = [] ∧ s.hart.vrows = 1 ∧ s.hart.vl ≤ 128 ∧ s.hart.vl * 64 ≤ 8 * s.lenOf s.turn ∧ s.hart.fpctl &&& 0x1F1F00#64 = 0) = true) :
    oneRow s := by
  obtain ⟨g, h⟩ := of_decide_eq_true h
  exact ⟨h1, h2, fun n hn => g ⟨n, hn⟩, h⟩

theorem witness_VectorInstructionsComplete_lanes : let s := mach { hard.hart with vl := 128 }
    oneRow s ∧ (Instr.vvMul 4 2 3 .f32).wf = true ∧ (Instr.vcmpI 0 2 31 .i8 5).wf = true ∧ (Instr.vcvt 4 2 0 .mx4 .f32 1).wf = true ∧
    (Instr.vwhile 1 2 0 3 0).wf = true ∧ (Instr.setvl 1 2 3).wf = true :=
  ⟨oneRow_of (vecReady_of (by decide +kernel)) (noStrip_of (by decide +kernel)) (by decide +kernel), by decide, by decide, by decide, by decide,
    by decide⟩

theorem witness_VectorInstructionsComplete_memory : let s := mach { moving.hart with vrows := 1 }
    oneRow s ∧ (∃ x, loadOf (.vldElem 4 1 6 .n16) = some x ∧ (Instr.vldElem 4 1 6 .n16).wf = true ∧ x.local' s) ∧
    (∃ x, storeOf (.vstUnit 4 2 .mx4) = some x ∧ (Instr.vstUnit 4 2 .mx4).wf = true ∧ x.local' s) :=
  ⟨oneRow_of (vecReady_of (by decide +kernel)) (noStrip_of (by decide +kernel)) (by decide +kernel),
    ⟨_, rfl, by decide, local_of (by decide +kernel) (by decide +kernel) (by decide +kernel)⟩,
    ⟨_, rfl, by decide, local_of (by decide +kernel) (by decide +kernel) (by decide +kernel)⟩⟩

theorem witness_VectorInstructionsComplete_atomics : oneRow adding ∧ (Instr.amoVadd 4 1 6 .i32 false 0).wf = true ∧ amovReady adding 1 6 .i32 := by
  obtain ⟨h1, h2, h3, -, h5, h6⟩ := witness_VectorAtomics
  exact ⟨oneRow_of h2 h3 (by decide +kernel), h1, fun el h => ⟨(h5 el h).2, (h5 el h).1⟩, h6⟩

theorem witness_VectorInstructionsComplete_frames : oneRow binding ∧ bindReady binding 2 1 ∧ oneRow spilling ∧ (spilling.hart.reg 1).toNat % 64 = 0 ∧
    inSpad spilling (spilling.hart.reg 1).toNat
      (frameOf spilling.hart.vreg (spilling.lenOf spilling.turn) ((spilling.hart.reg 2).toNat % 2 ^ 32)).length ∧
    oneRow filling ∧ frameAt filling (filling.hart.reg 1).toNat ∧ idleQueue (mach { vec with streams := [bound] }) ∧
    boundTo (mach { vec with streams := [bound] }) 2 := by
  obtain ⟨h1, -, h3, h4, h5, h6, h7, h8, h9, h10, h11, h12⟩ := witness_StreamsAndFrames_bind
  obtain ⟨s1, s2, s3, s4⟩ := witness_StreamsAndFrames_spill
  obtain ⟨f1, -, f3, f4, f5, f6, f7, f8⟩ := witness_StreamsAndFrames_fill
  obtain ⟨u1, u2, u3, u4, u5, u6⟩ := witness_StreamsAndFrames_unbind
  exact ⟨oneRow_of h1 (noStrip_of (by decide +kernel)) (by decide +kernel),
    ⟨h3, h4, h5, h6, h7, h8, h9, h10, by rw [h11]; decide, by rw [h11]; decide, by rw [h11]; decide, h12⟩,
    oneRow_of s1 s2 (by decide +kernel), s3, s4, oneRow_of f1 (noStrip_of (by decide +kernel)) (by decide +kernel),
    ⟨fun _ => marked, 2048, 4, f3, f4, f5, f6, f7, fun _ => ⟨f8.1, f8.2.1, f8.2.2.1, f8.2.2.2.1, .inr (.inr (.inl f8.2.2.2.2))⟩⟩,
    u1, bound, u2, u3, u4, u5, u6⟩

/-! ### The array and the engines -/

theorem othersIdle_of {s : State} (h : decide (∀ n : Fin 4, coreOf s.turn * 8 + n.val ≠ s.turn → (s.hartAt (coreOf s.turn * 8 + n.val)).viq = []) = true) :
    othersIdle s := fun n hn => of_decide_eq_true h ⟨n, hn⟩

theorem witness_ArrayAndEngineInstructionsComplete_array : let s := owner 1 [(1, 3), (4, 0x0020000400FF), (5, 0xFFFF), (6, spad 0)]
    othersIdle s ∧ s.hart.fpctl &&& 0x1F1F00#64 = 0 ∧ arrayReady s [1, 2] ∧ arrayReady s [1] ∧ s.core.owner = slotOf s.turn ∧ (s.hart.reg 0).toNat = 0 ∧
    (Instr.mxTshape 3 4 5 .mx4).wf = true ∧ (s.hart.reg 4).toNat / 2 ^ 32 % 4 = 0 ∧ (Instr.mxOp 15 2 3 .mx4).wf = true ∧
    (s.core.tm * 32 ≤ 8 * s.lenOf s.turn ∧ s.core.tn * 32 ≤ 8 * s.lenOf s.turn) ∧ (Instr.mxMv 15 0).wf = true ∧
    (Instr.mxWrcol 15 4 1).wf = true ∧ (s.hart.reg 1).toNat < s.core.mvl ∧ (Instr.mxFill 15 6).wf = true ∧ (s.hart.reg 6).toNat % 64 = 0 ∧
    inSpad s (s.hart.reg 6).toNat (4 * (s.core.mvl * s.core.mvl)) :=
  ⟨othersIdle_of (by decide +kernel), by decide +kernel, owner_ready (vecReady_of (by decide +kernel)) (noStrip_of (by decide +kernel)) (by decide +kernel),
    owner_ready (vecReady_of (by decide +kernel)) (noStrip_of (by decide +kernel)) (by decide +kernel), (by decide +kernel), by decide +kernel, by decide,
    by decide +kernel, by decide, (by decide +kernel), by decide, by decide, by decide +kernel, by decide, (by decide +kernel), inSpad_of (by decide +kernel)⟩

theorem witness_ArrayAndEngineInstructionsComplete_mode : let s := inGang (regs vec [(1, 1), (2, 200)]) (gangWith [] true)
    othersIdle s ∧ s.hart.fpctl &&& 0x1F1F00#64 = 0 ∧ vecReady s ∧ noStrip s ∧ s.core.mode = 0 ∧ (s.hart.reg 1).toNat = 1 ∧ hasArray s s.turn = true ∧
    s.hart.pmode.testBit 0 = false :=
  ⟨othersIdle_of (by decide +kernel), by decide +kernel, vecReady_of (by decide +kernel), noStrip_of (by decide +kernel), by decide +kernel,
    by decide +kernel, by decide +kernel, by decide +kernel⟩

theorem witness_ArrayAndEngineInstructionsComplete_relief : let s := relief {}
    othersIdle s ∧ s.hart.fpctl &&& 0x1F1F00#64 = 0 ∧ s.core.kclamp % 4 ≠ 3 ∧
    ∃ gr, reliefReady s gr ∧ (Instr.spEval 4 2 .f32).wf = true ∧ s.core.tm * 32 ≤ 8 * s.lenOf s.turn ∧ s.core.tn * 32 ≤ 8 * s.lenOf s.turn ∧
      s.core.kgrid.testBit 13 = false ∧ 2 * gr.g + gr.deg ≤ (if gr.paired then 16 else 8) ∧ s.core.kinv / 2 ^ 23 % 2 ^ 8 < 254 := by
  refine ⟨othersIdle_of (by decide +kernel), by decide +kernel, by decide +kernel, (gridOf (relief {}).core).get (by decide +kernel),
    ⟨arrayReady_of (vecReady_of (by decide +kernel)) (noStrip_of (by decide +kernel)) (by decide +kernel), (Option.some_get _).symm, (by decide +kernel)⟩,
    by decide, by decide +kernel, by decide +kernel, by decide +kernel, (by decide +kernel), by decide +kernel⟩

theorem witness_ArrayAndEngineInstructionsComplete_gradients : let s := owner 2 [(1, spad 0x40)]
    othersIdle s ∧ arrayReady s [2] ∧ (Instr.spPair 0).wf = true ∧ (s.hart.reg 0).toNat = 0 ∧ (s.hart.reg 1).toNat % 64 = 0 ∧
    inSpad s (s.hart.reg 1).toNat (44 * (s.core.mvl * s.core.mvl)) :=
  ⟨othersIdle_of (by decide +kernel), owner_ready (vecReady_of (by decide +kernel)) (noStrip_of (by decide +kernel)) (by decide +kernel), by decide,
    by decide +kernel, by decide +kernel, inSpad_of (by decide +kernel)⟩

theorem witness_ArrayAndEngineInstructionsComplete_copy : let s := mach (regs vec [(1, spad 0), (2, spad 0x100), (3, 7), (4, spad 0x1FFFE0)])
    othersIdle s ∧ vecReady s ∧ noStrip s ∧ untracked s ∧ (Instr.engCopy 1 2 3 0).wf = true ∧ copyReady s 1 2 3 := by
  obtain ⟨-, h1, h2, h3, h4, h5, -⟩ := witness_EngineTransfers_copy
  exact ⟨othersIdle_of (by decide +kernel), h1, h2, untracked_of (by decide +kernel), by decide, h3, h4, h5⟩

theorem witness_ArrayAndEngineInstructionsComplete_mcast : othersIdle mcast ∧ vecReady mcast ∧ noStrip mcast ∧ untracked mcast ∧
    (Instr.engMcast 1 2 3 0).wf = true ∧ mcastReady mcast 1 2 3 [(spad 0x400).toNat, (spad 0x500).toNat] := by
  obtain ⟨-, h1, h2, h3, h4, h5, h6, h7, h8, h9, h10, h11, h12, h13, h14, h15, h16, -⟩ := witness_EngineTransfers_mcast
  have h : (mcast.hart.reg 3).toNat = 5 := by decide +kernel
  refine ⟨othersIdle_of (by decide +kernel), h1, h2, untracked_of (by decide +kernel), by decide, h3, h4, h5, h6, h7, h8, h9, h10, h11, h12, h13, h14, ?_, ?_⟩
  · intro x hx; rw [h]; exact ⟨(h15 x hx).1, (h15 x hx).2.1⟩
  · rw [h]; exact h16

theorem witness_ArrayAndEngineInstructionsComplete_gather : othersIdle gather ∧ vecReady gather ∧ noStrip gather ∧ untracked gather ∧
    (Instr.engGather 1 2 3 0).wf = true ∧ gatherReady gather 1 2 3 := by
  obtain ⟨-, h1, h2, h3, h4, h5, h6, h7, h8, h9, h10, h11, h12, h13, h14, h15, -⟩ := witness_EngineTransfers_gather
  have hr : (gather.hart.reg 3).toNat = 2 := by decide +kernel
  have he : (gather.pattAt 0).esize = 2 := by decide +kernel
  refine ⟨othersIdle_of (by decide +kernel), h1, h2, untracked_of (by decide +kernel), by decide, ?_⟩
  unfold gatherReady
  simp only [h5, h6, h8, hr, he]
  refine ⟨h3, h4, by decide, by decide, by decide, h7, h9, h10, h11, h12, by decide, fun i hi => ?_, h15⟩
  have := h14 i hi
  rw [h5] at this
  exact this

theorem witness_ArrayAndEngineInstructionsComplete_patt : othersIdle patterns ∧ vecReady patterns ∧ noStrip patterns ∧ untracked patterns ∧
    (patterns.hart.reg 1).toNat < 64 ∧ (patterns.hart.reg 1).toNat < (patterns.partAt patterns.part).pattCount ∧ (patterns.hart.reg 0).toNat = 0 := by
  obtain ⟨h1, h2, h3, h4, h5, -⟩ := witness_EngineTransfers_patt
  exact ⟨othersIdle_of (by decide +kernel), h1, h2, untracked_of (by decide +kernel), h3, h4, h5⟩

/-- The collective of that block without a completion block. -/
def reaching : State :=
  mach (regs vec [(1, spad 0x40)])
    { spad := spadWith [(0x40, 8, (spad 0x400).toNat), (0x48, 8, (spad 0x500).toNat), (0x50, 4, 3), (0x54, 1, 2), (0x55, 1, 2), (0x56, 1, 2),
        (0x58, 8, (spad 0x600).toNat), (0x60, 4, 9), (0x600, 8, (spad 0x400).toNat), (0x610, 8, (spad 0x420).toNat), (0x618, 8, 9), (0x400, 4, 5)] }

theorem witness_ArrayAndEngineInstructionsComplete_coll : othersIdle reaching ∧ vecReady reaching ∧ noStrip reaching ∧ untracked reaching ∧
    (Instr.engColl 1 0).wf = true ∧ collReach reaching 1 := by
  refine ⟨othersIdle_of (by decide +kernel), vecReady_of (by decide +kernel), noStrip_of (by decide +kernel), untracked_of (by decide +kernel), by decide, ?_⟩
  let f := fun o n => numAt reaching (spadLoc reaching ((reaching.hart.reg 1).toNat + o)) n
  have e0 : f 0 8 = (spad 0x400).toNat := by decide +kernel
  have e8 : f 8 8 = (spad 0x500).toNat := by decide +kernel
  have e16 : f 16 4 = 3 := by decide +kernel
  have e20 : f 20 1 = 2 := by decide +kernel
  have e22 : f 22 1 = 2 := by decide +kernel
  have e23 : f 23 1 = 0 := by decide +kernel
  have e24 : f 24 8 = (spad 0x600).toNat := by decide +kernel
  have r0 : numAt reaching (spadLoc reaching ((spad 0x600).toNat + 16 * 0)) 8 = (spad 0x400).toNat := by decide +kernel
  have r1 : numAt reaching (spadLoc reaching ((spad 0x600).toNat + 16 * 1)) 8 = (spad 0x420).toNat := by decide +kernel
  simp only [f] at e0 e8 e16 e20 e22 e23 e24
  unfold collReach
  simp only [e0, e8, e16, e20, e22, e23, e24]
  refine ⟨by decide +kernel, inSpad_of (by decide +kernel), by decide, by decide, by decide, by decide +kernel, (by decide), by decide, by decide,
    (by decide +kernel), by decide +kernel, inSpad_of (by decide +kernel), .inl (by decide +kernel), inSpad_of (by decide +kernel),
    inSpad_of (by decide +kernel), .inl (by decide +kernel), (by decide +kernel), fun r hr => ?_⟩
  have : r = 0 ∨ r = 1 := by omega
  rcases this with rfl | rfl
  · rw [r0]; exact ⟨inSpad_of (by decide +kernel), .inl (by decide +kernel), .inl (by decide +kernel)⟩
  · rw [r1]; exact ⟨inSpad_of (by decide +kernel), .inl (by decide +kernel), .inl (by decide +kernel)⟩

/-! ### Events -/

theorem witness_HartAndSchedulingEventsComplete : placeable readyTask (0 : Fin 4).val 1 1 queued ∧
    ((mach vec).stew.replay = false ∧ (∀ d, d < 4 → queuesEmpty (mach vec) d) ∧ (mach vec).gangs = [] ∧ (mach vec).tasks = []) ∧
    (ringed.gang? 1 = some (gangWith []) ∧ noRings (inGang vec (gangWith [])) taskOne.part ∧ queuesEmpty (inGang vec (gangWith [])) taskOne.die) := by
  obtain ⟨h1, h2, h3, h4, h5, h6, h7, h8, h9, h10⟩ := witness_SchedulingEvents_place
  refine ⟨⟨h1, ⟨2, by decide, h2, h3⟩, h4, h5, h6, h7, h8, h9, h10⟩, ⟨by decide, fun d _ => queuesEmpty_of rfl, rfl, rfl⟩, by decide +kernel, ?_,
    queuesEmpty_of (by decide +kernel)⟩
  unfold noRings; decide +kernel

theorem witness_HartAndSchedulingEventsComplete_debug :
    let s := { mach { vec with halted := true, slot := .stopped, wait := .held } with stew := { State.reset.stew with unlocked := true } }
    s.stew.unlocked = true ∧ (s.hartAt 0).slot = .stopped ∧ (s.hartAt 0).wait = .held ∧ (s.hartAt 0).kind ≠ .helper ∧
    (let t := mach vec { dbg := [(0x40, 0x101), (0x48, 2 ^ 56)] }
     (t.hartAt 0).acts = true ∧ breakpointAt t 0 (t.hartAt 0).pc false (0 : Fin 4).val = true) ∧
    let u := { mach vec { dbg := [(0x00, 0x0000001000000002)] } with now := 20 * 4096 }
    dbgReg u 0 0 / 2 ^ 24 % 2 ^ 24 ≠ 0 ∧ (u.coreAt 0).sampled + dbgReg u 0 0 / 2 ^ 24 % 2 ^ 24 ≤ u.reftime ∧
      ∀ n, n < 8 → (dbgReg u 0 0).testBit (16 + n) = false := by decide +kernel

theorem witness_PowerLinkAndRetirementEventsComplete : mayDrop leaving (7 : Fin 8).val = true ∧ (∀ p, p < 4 → noRings { leaving with parts := [] } p) ∧
    mayDrop { leaving with parts := [] } 7 = true ∧ (80 : Nat) ≤ 95 ∧ ringReady ringed ((ringed.partOf (coreOf 0)).getD 0) ∧
    { emptying 1 5 with mem := { (emptying 1 5).mem with step := 1 } }.mem.phase % 2 = 1 := by
  refine ⟨by decide +kernel, ?_, by decide +kernel, by decide, ?_, by decide⟩
  · unfold noRings; decide +kernel
  · unfold ringReady; decide +kernel

theorem witness_HostAndManagementEventsComplete : let s := hosting
    let p := s.partAt (0 : Fin 4).val
    let v : Word := 0x30000
    p.live = true ∧ v.toNat / 2 ^ 56 = 0 ∧ v.toNat / 2 ^ 2 % 16 = 0 ∧ p.clusters / 2 ^ (8 * (v.toNat % 4)) % 2 ^ 8 ≠ 0 ∧ p.hsctx ≠ 0 ∧
    hostPlace s (0 : Fin 4).val p.hsctx .atomic (v.toNat / 2 ^ 6 % 2 ^ 50 * 64) = .ok ({ loc := .dev 0x30000 }, s) ∧ plainRange s 0x30000 64 ∧
    mapsAgree s ∧ s.stew.recording = false ∧ (mach vec).stew.chain = {} ∧ (mach vec).stew.images = [] ∧
    field (bytes64 { s with mem := { s.mem with dev := Memory.writeNat s.mem.dev 0x30018 4 1 } } (.dev 0x30000)) 24 4 ≠ 0 ∧
    (mach vec).mem.live.testBit (7 : Fin 8).val = true ∧ 2 ≤ liveCount (mach vec) ∧ (mach vec).mem.leaving ≠ some 7 ∧ 7 ∉ (mach vec).mem.queued ∧
    heldByOther (mach vec) 1 0xFF00 1 [(4096, 1)] = false ∧
    (mach vec).stew.acked + 2 ^ 30 ≤ { mach vec with now := 20 * 2 ^ 30 }.reftime ∧ (0 : Word).toNat % 2 ^ 36 = 0 :=
  ⟨by decide +kernel, by decide, by decide, by decide +kernel, by decide +kernel, pair_of (by decide +kernel), plainRange_of (by decide +kernel),
    mapsAgree_of (by decide +kernel), by decide +kernel, by decide, by decide, by decide +kernel, by decide +kernel, by decide +kernel, (by decide +kernel), by decide +kernel, by decide +kernel, by decide +kernel, by decide⟩

end

end Sys2Proof.Tests
end

section
/-! ## Every step keeps the memories canonical (O5)

The architect's lemmas (Laws/Sound) say that a write of a target keeps device memory, the memories of the hosts and those of the
peers in canonical form. What follows carries that through the model, function by function and in the model's order, up to `step`:
whatever a function makes of a state with canonical memories has canonical memories. Where a function only rearranges what other
functions do, its lemma is an analysis of its branches with their lemmas; folds and recursions have an induction of their own. -/

namespace Sys2Proof.Machine

/-- The state that the run of an entry leaves. -/
def Run.state : Run → State | .done s _ | .wait s _ | .stop s _ _ | .halt s _ => s

/-- The state that a run of positions leaves. -/
def RunOut.state : RunOut → State | .done s | .wait s _ _ | .stop s _ _ _ | .halt s _ _ _ => s

/-- The state that a position leaves. -/
def Pos.state : Pos → State | .done s | .wait s | .stop s _ => s

/-- The state that a segment's accesses leave. -/
def SegOut.state : SegOut → State | .done s | .wait s _ _ | .stop s _ _ _ => s

/-- The state that a load's segments leave. -/
def LoadOut.state : LoadOut → State | .done s | .trim s _ | .wait s | .stop s _ _ _ => s

/-- The state in which a turn executes or ends. -/
def Turn.state : Turn → State | .insn _ s | .act s => s

end Sys2Proof.Machine

namespace Sys2Proof.Machine.Claim
open Sys2Proof.Machine
set_option Elab.async false

/-- A bind of answers answers when both parts do. -/
theorem bind_eq_ok {ε α β : Type} {x : Except ε α} {f : α → Except ε β} {b : β} :
    (x >>= f) = .ok b ↔ ∃ a, x = .ok a ∧ f a = .ok b := by
  cases x <;> simp [bind, Except.bind]

/-- A mapped answer answers when the answer does. -/
theorem map_eq_ok {ε α β : Type} {x : Except ε α} {f : α → β} {b : β} : x.map f = .ok b ↔ ∃ a, x = .ok a ∧ f a = b := by
  cases x <;> simp [Except.map]

/-- What every step of a fold keeps, the fold keeps. -/
theorem memOk_foldl {α : Type} {f : State → α → State} (hf : ∀ {s a}, memOk s → memOk (f s a)) {l : List α} {s : State}
    (h : memOk s) : memOk (l.foldl f s) :=
  List.foldlRecOn l f h fun _ h _ _ => hf h

/-! ### Machine/Hart.lean -/

theorem memOk_setHartAt {s : State} {k h} (hs : memOk s) : memOk (State.setHartAt s k h) := hs

theorem memOk_setHart {s : State} {h} (hs : memOk s) : memOk (State.setHart s h) := hs

theorem memOk_setCoreAt {s : State} {c x} (h : memOk s) : memOk (State.setCoreAt s c x) := h

theorem memOk_setCore {s : State} {x} (h : memOk s) : memOk (State.setCore s x) := h

theorem memOk_setDieAt {s : State} {d x} (h : memOk s) : memOk (State.setDieAt s d x) := h

theorem memOk_setClusterAt {s : State} {c x} (h : memOk s) : memOk (State.setClusterAt s c x) := h

theorem memOk_setPartAt {s : State} {p x} (h : memOk s) : memOk (State.setPartAt s p x) := h

theorem memOk_setPortAt {s : State} {p x} (h : memOk s) : memOk (State.setPortAt s p x) := h

theorem memOk_setPattAt {s : State} {n x} (h : memOk s) : memOk (State.setPattAt s n x) := h

theorem memOk_setTask {s : State} {n x} (h : memOk s) : memOk (State.setTask s n x) := h

theorem memOk_setGang {s : State} {n x} (h : memOk s) : memOk (State.setGang s n x) := h

theorem memOk_draw {s : State} (h : memOk s) : memOk (State.draw s) := h

theorem memOk_diverge {s : State} {d} (h : memOk s) : memOk (State.diverge s d) := by
  unfold State.diverge
  grind [memOk]

theorem memOk_arrives {s : State} {a} (h : memOk s) : memOk (State.arrives s a) := by
  unfold State.arrives
  grind [memOk]


/-! ### Machine/Walk.lean -/

theorem memOk_setRegs {s : State} {m : MemSys} (h : memOk { s with mem := m }) : memOk (s.setRegs m) := by
  unfold State.setRegs
  dsimp only
  split <;> exact h

theorem memOk_note {s : State} {st} (h : memOk s) : memOk (State.note s st) := h

theorem memOk_moveDone {s : State} {g} (h : memOk s) : memOk (moveDone s g) := memOk_of_same h (moveDone_same s g)


/-! ### Machine/Holes.lean -/

theorem memOk_failEntry {s : State} {core e cause sub} (h : memOk s) :
    memOk (failEntry s core e cause sub) := memOk_setCoreAt (memOk_foldl (fun h => memOk_setHartAt h) h)

theorem memOk_resolveAll {s : State} {core x} (h : memOk s) : memOk (resolveAll core x s) := by
  fun_induction resolveAll core x s <;> grind [memOk_note, memOk_failEntry, memOk_setCoreAt]

theorem memOk_fillEntry {s : State} {core e val} (h : memOk s) : memOk (fillEntry s core e val) := by
  unfold fillEntry
  grind [memOk_setHartAt, memOk_resolveAll, memOk_setCoreAt]

theorem memOk_freeFailed {s : State} {k of} (h : memOk s) : memOk (freeFailed s k of) := by
  unfold freeFailed
  grind [memOk_setHartAt, memOk_setCoreAt]

theorem memOk_reapHoles {s : State} {k} (h : memOk s) : memOk (reapHoles s k) := by
  unfold reapHoles
  grind [memOk_freeFailed]

theorem memOk_reviveHoles {s : State} {core slots} (h : memOk s) :
    memOk (reviveHoles core slots s) := memOk_setCoreAt (memOk_foldl (fun h => memOk_setHartAt h) h)


/-! ### Machine/Translate.lean -/

theorem memOk_reachAll {s : State} {requester as} (h : memOk s) :
    memOk (State.reachAll s requester as) := memOk_of_same h (reachAll_same _ _ _)

theorem memOk_reachTables {s : State} {requester part ptbase va} (h : memOk s) :
    memOk (State.reachTables s requester part ptbase va) := by
  unfold State.reachTables
  grind [memOk_reachAll]

theorem memOk_reachTables2 {s : State} {requester part pa} (h : memOk s) : memOk (State.reachTables2 s requester part pa) := by
  unfold State.reachTables2
  grind [memOk_reachAll]

theorem memOk_lookup {s u : State} {k acc unit va x0} (h : memOk s) (e : lookup s k acc unit va = .ok (x0, u)) : memOk u := by
  unfold lookup at e
  grind [memOk_draw, memOk_setHartAt, memOk_reachTables, memOk_setCoreAt]

theorem memOk_lookupBy {s u : State} {pages k acc unit va x0} (h : memOk s) (e : lookupBy pages s k acc unit va = .ok (x0, u)) :
    memOk u := by
  unfold lookupBy at e
  grind [memOk_lookup]

theorem memOk_translateAs {s u : State} {requester pages k acc unit va x0 x1} (h : memOk s)
    (e : translateAs requester pages s k acc unit va = .ok (x0, x1, u)) :
    memOk u := by
  revert e
  fun_cases translateAs requester pages s k acc unit va <;> grind [memOk_lookupBy, memOk_reach]

theorem memOk_translateBy {s u : State} {pages k acc unit va x0 x1} (h : memOk s) (e : translateBy pages s k acc unit va = .ok
    (x0, x1, u)) :
    memOk u := by
  unfold translateBy at e
  grind [memOk_translateAs]

theorem memOk_translate {s u : State} {k acc unit va x0} (h : memOk s) (e : translate s k acc unit va = .ok (x0, u)) :
    memOk u := by
  unfold translate at e
  grind [memOk_translateBy]


/-! ### Machine/Target.lean -/

theorem memOk_drainRepl {s : State} (h : memOk s) : memOk (State.drainRepl s) := h

theorem memOk_settleAtomics {s : State} {k} (h : memOk s) : memOk (settleAtomics s k) := by
  unfold settleAtomics
  grind [memOk_drainRepl]


/-! ### Machine/Tasks.lean -/

theorem memOk_findLocal {s u : State} {part ptbase va x0} (h : memOk s) (e : findLocal s part ptbase va = .ok (x0, u)) :
    memOk u := by
  unfold findLocal at e
  grind [memOk_reachTables, memOk_reach]

theorem memOk_findRing {s u : State} {part pa x0} (h : memOk s) (e : findRing s part pa = .ok (x0, u)) : memOk u := by
  unfold findRing at e
  grind [memOk_reachTables2, memOk_reach]

theorem memOk_writeAt {s u : State} {part p off bytes} (h : memOk s) (e : writeAt s part p off bytes = .ok u) : memOk u := by
  unfold writeAt at e
  split at e
  · cases e
  · cases e
    exact memOk_of_dev h (devWrite_ok ‹_› h.1) rfl rfl rfl

theorem memOk_attempt {s : State} {r} (h : memOk s) (hr : ∀ {u}, r = .ok u → memOk u) : memOk (s.attempt r) := by
  unfold State.attempt
  grind [memOk_note]

theorem memOk_writeAt' {s : State} {part p off bytes} (h : memOk s) : memOk (writeAt' s part p off bytes) := by
  unfold writeAt'
  grind [memOk_attempt, memOk_writeAt, memOk_reach]

theorem memOk_setQnext {s : State} {id next} (h : memOk s) : memOk (setQnext s id next) := by
  unfold setQnext
  grind [memOk_writeAt']

theorem memOk_setQueue {s : State} {die cls q} (h : memOk s) : memOk (setQueue s die cls q) := h

theorem memOk_enqueue {s : State} {die cls id front} (h : memOk s) : memOk (enqueue s die cls id front) := by
  unfold enqueue
  grind [memOk_setQueue, memOk_setQnext]

theorem memOk_unqueue {s : State} {die cls id} (h : memOk s) : memOk (unqueue s die cls id) := by
  unfold unqueue
  grind [memOk_setQueue, memOk_setQnext]

theorem memOk_dequeue {s : State} {die cls} (h : memOk s) : memOk (dequeue s die cls) := by
  unfold dequeue
  grind [memOk_setQueue, memOk_setQnext, memOk_setDieAt]

theorem memOk_setHarts {s : State} {core gang hs} (h : memOk s) :
    memOk (setHarts s core gang hs) := memOk_foldl (fun h => memOk_setHartAt h) h

theorem memOk_placeCore {s : State} {t id k core} (h : memOk s) : memOk (placeCore s t id k core) := by
  unfold placeCore
  grind [memOk_setHarts, memOk_reviveHoles, memOk_setCoreAt]

theorem memOk_placeTask {s : State} {id t cores} (h : memOk s) :
    memOk (placeTask s id t cores) := memOk_foldl (fun h => memOk_placeCore h) h

theorem memOk_tryPlace {s u : State} {die cls} (h : memOk s) (e : tryPlace s die cls = some u) : memOk u := by
  unfold tryPlace at e
  grind [memOk_placeTask, memOk_dequeue]

theorem memOk_writeBackStream {s : State} {k st} (h : memOk s) : memOk (writeBackStream k s st) := h

theorem memOk_writeBackStreams {s : State} {k} (h : memOk s) :
    memOk (writeBackStreams s k) := memOk_foldl (fun h => memOk_writeBackStream h) h

theorem memOk_freeCore {s : State} {core} (h : memOk s) :
    memOk (freeCore s core) := memOk_foldl (fun h => memOk_setHartAt h) (memOk_setCoreAt h)

theorem memOk_stopHart {s : State} {k} (h : memOk s) : memOk (stopHart s k) := by
  unfold stopHart
  grind [memOk_commitStrip, memOk_settleRepl, memOk_writeBackStreams]

theorem memOk_preemptGang {s : State} {id} (h : memOk s) : memOk (preemptGang s id) := by
  simp only [preemptGang]
  split
  · exact memOk_enqueue (memOk_setTask (memOk_setGang (memOk_foldl (fun h => memOk_freeCore h)
      (memOk_foldl (fun h => memOk_foldl (fun h => memOk_stopHart h) h) h))))
  · exact h

theorem memOk_preemptFor {s u : State} {die cls} (h : memOk s) (e : preemptFor s die cls = some u) : memOk u := by
  simp only [preemptFor] at e
  split at e
  · cases e
  · split at e
    · cases e
    · cases e
      exact memOk_foldl (fun h => memOk_preemptGang h) h

theorem memOk_noteHead {s : State} {die cls} (h : memOk s) : memOk (noteHead s die cls) := by
  unfold noteHead
  grind [memOk_setDieAt]

theorem memOk_passClass {s : State} {die cls x} (h : memOk s) : memOk (passClass die cls x s) := by
  induction x generalizing s with
  | zero => exact h
  | succ n ih =>
    have hn := memOk_noteHead (die := die) (cls := cls) h
    simp only [passClass]
    split
    · exact ih (memOk_tryPlace h ‹_›)
    · split
      · split
        · obtain ⟨u, hu, hv⟩ := Option.bind_eq_some_iff.1 ‹_›
          exact ih (memOk_tryPlace (memOk_preemptFor hn hu) hv)
        · exact hn
      · exact hn

theorem memOk_pass {s : State} {die} (h : memOk s) : memOk (pass s die) := by
  unfold pass
  split
  · exact h
  · exact memOk_foldl (fun h => memOk_passClass h) h

theorem memOk_taskReady {s : State} {phys link} (h : memOk s) : memOk (taskReady s phys link) := by
  unfold taskReady
  grind [memOk_enqueue, memOk_setTask, memOk_pass]

theorem memOk_pendingChange {s u : State} {part p va up fail} (h : memOk s) (e : pendingChange s part p va up fail = .ok u) :
    memOk u := by
  obtain ⟨_, -, e⟩ := bind_eq_ok.1 e
  obtain ⟨_, -, e⟩ := bind_eq_ok.1 e
  obtain ⟨_, -, e⟩ := bind_eq_ok.1 e
  obtain ⟨t, ht, e⟩ := bind_eq_ok.1 e
  have ht : memOk t := memOk_writeAt h ht
  have ready : ∀ {v : State} {c : Bool} {x : Nat}, memOk v → memOk (if c then taskReady v p.devAddr x else v) :=
    fun h => by split <;> [exact memOk_taskReady h; exact h]
  dsimp only at e
  split at e
  · obtain ⟨v, hv, e⟩ := bind_eq_ok.1 e
    cases e
    exact ready (memOk_writeAt ht hv)
  · cases e
    exact ready ht

theorem memOk_setFailin {s u : State} {part p va} (h : memOk s) (e : setFailin s part p va = .ok u) : memOk u := by
  simp only [setFailin, bind_eq_ok] at e
  grind [memOk_writeAt]

theorem memOk_settleFuture {s u : State} {part ptbase p f fail cause code} (h : memOk s)
    (e : settleFuture s part ptbase p f fail cause code = .ok u) :
    memOk u := by
  simp only [settleFuture] at e
  split at e
  · obtain ⟨⟨d, t⟩, hd, e⟩ := bind_eq_ok.1 e
    obtain ⟨v, hv, e⟩ := bind_eq_ok.1 e
    exact memOk_pendingChange (memOk_writeAt (memOk_findLocal h hd) hv) e
  · exact memOk_writeAt h e

theorem memOk_completeFuture {s : State} {part ptbase va fail cause code} (h : memOk s) :
    memOk (completeFuture s part ptbase va fail cause code) := by
  refine memOk_attempt (memOk_drainRepl h) fun {u} e => ?_
  obtain ⟨⟨p, t⟩, hp, e⟩ := bind_eq_ok.1 e
  obtain ⟨f, -, e⟩ := bind_eq_ok.1 e
  have ht : memOk t := memOk_findLocal (memOk_drainRepl h) hp
  dsimp only at e
  split at e
  · exact memOk_settleFuture ht e
  · cases e; exact ht

theorem memOk_completeDoorbell {s : State} {part} (h : memOk s) : memOk (completeDoorbell s part) := by
  refine memOk_attempt (memOk_setPartAt h) fun {u} e => ?_
  obtain ⟨⟨p, t⟩, hp, e⟩ := bind_eq_ok.1 e
  obtain ⟨f, -, e⟩ := bind_eq_ok.1 e
  have ht : memOk t := memOk_findRing (memOk_drainRepl (memOk_setPartAt h)) hp
  dsimp only at e
  split at e
  · obtain ⟨v, hv, e⟩ := bind_eq_ok.1 e
    cases e
    exact memOk_setPartAt (memOk_settleFuture ht hv)
  · cases e; exact ht

theorem memOk_putHost {s : State} {part msg} (h : memOk s) :
    memOk (putHost s part msg) := ⟨h.1, Memory.wf_writeBytes h.2.1 _ _, h.2.2⟩

theorem memOk_putDevice {s : State} {part msg} (h : memOk s) : memOk (putDevice s part msg) := by
  have ht : memOk (s.attempt do
      let (q, s) ← findRing s part ((s.partAt part).dmbase + (s.partAt part).dmhead * 64)
      writeAt s part q 0 msg) := by
    refine memOk_attempt h fun {u} e => ?_
    obtain ⟨⟨q, t⟩, hq, e⟩ := bind_eq_ok.1 e
    exact memOk_writeAt (memOk_findRing h hq) e
  unfold putDevice
  grind [memOk_setPartAt, memOk_completeDoorbell]

theorem memOk_sendHost {s : State} {part msg isKill} (h : memOk s) : memOk (sendHost s part msg isKill) := by
  unfold sendHost
  grind [memOk_putHost, memOk_setPartAt]

theorem memOk_sendDevice {s : State} {part msg isKill} (h : memOk s) : memOk (sendDevice s part msg isKill) := by
  unfold sendDevice
  grind [memOk_setPartAt, memOk_putDevice]

theorem memOk_send {s : State} {part msg isKill} (h : memOk s) : memOk (send s part msg isKill) := by
  unfold send
  grind [memOk_sendDevice, memOk_sendHost]

theorem memOk_flushHost {s : State} {part x} (h : memOk s) : memOk (flushHost part x s) := by
  fun_induction flushHost part x s <;> grind [memOk_putHost, memOk_setPartAt]

theorem memOk_flushDevice {s : State} {part x} (h : memOk s) : memOk (flushDevice part x s) := by
  fun_induction flushDevice part x s <;> grind [memOk_setPartAt, memOk_putDevice]

theorem memOk_breakBars {s : State} {id g t} (h : memOk s) : memOk (breakBars s id g t) := h

theorem memOk_failTracks {s : State} {core} (h : memOk s) : memOk (failTracks s core) := h

theorem memOk_killGang {s : State} {id reason c} (h : memOk s) : memOk (killGang s id reason c) := by
  unfold killGang
  split
  · rename_i g t _ _
    have freed : ∀ {s : State}, memOk s → memOk (g.cores.foldl (fun s c => freeCore (failTracks s c) c) s) :=
      fun h => memOk_foldl (fun h => memOk_freeCore (memOk_failTracks h)) h
    have gone : ∀ {s : State} x, memOk s → memOk { s with gangs := x } := fun _ h => h
    grind [memOk_unqueue, memOk_setTask, memOk_completeFuture, memOk_send, memOk_pass, memOk_drainRepl, memOk_breakBars]
  · exact h

theorem memOk_killTask {s : State} {id reason} (h : memOk s) : memOk (killTask s id reason) := by
  have gone : ∀ {s : State} x, memOk s → memOk { s with gangs := x } := fun _ h => h
  unfold killTask
  grind [memOk_killGang, memOk_breakBars, memOk_unqueue, memOk_setTask, memOk_completeFuture, memOk_send]

theorem memOk_resetPartition {s : State} {part} (h : memOk s) :
    memOk (resetPartition s part) := memOk_foldl (fun h => memOk_killTask h) h

theorem memOk_finishTask {s : State} {id} (h : memOk s) : memOk (finishTask s id) := by
  have gone : ∀ {s : State} x, memOk s → memOk { s with gangs := x } := fun _ h => h
  unfold finishTask
  split
  · have freed := memOk_foldl (f := freeCore) (fun h => memOk_freeCore h) (l := Gang.cores ‹_›) h
    grind [memOk_setTask, memOk_completeFuture, memOk_pass]
  · exact h

theorem memOk_sendHealth {s : State} (h : memOk s) : memOk (sendHealth s) := memOk_foldl (fun h => memOk_send h) h

theorem memOk_queueStack {s : State} {stack} (h : memOk s) : memOk (queueStack s stack) := by
  unfold queueStack
  grind [memOk]

theorem memOk_raiseFailing {s : State} {stack} (h : memOk s) : memOk (raiseFailing s stack) := by
  have raised : ∀ {s : State} x y, memOk s → memOk { s with mem := { s.mem with failing := x, reported := y } } := fun _ _ h => h
  unfold raiseFailing
  grind [memOk_sendHealth, memOk_queueStack]

theorem memOk_mediaSeen {s : State} {t} (h : memOk s) : memOk (mediaSeen s t) := by
  unfold mediaSeen
  grind [memOk_raiseFailing]


/-! ### Machine/Debug.lean -/

theorem memOk_setDbgReg {s : State} {core off v} (h : memOk s) : memOk (setDbgReg s core off v) := h

theorem memOk_traceStore {s : State} {core rec} (h : memOk s) : memOk (traceStore s core rec) := by
  unfold traceStore
  grind [memOk_setDbgReg, memOk_poke, memOk_reach, memOk_setCoreAt]

theorem memOk_traceWrite {s : State} {core body} (h : memOk s) : memOk (traceWrite s core body) := by
  unfold traceWrite
  grind [memOk_traceStore]

theorem memOk_trace {s : State} {k pipe fin seq elem flags row pc} (h : memOk s) :
    memOk (trace s k pipe fin seq elem flags row pc) := by
  unfold trace
  grind [memOk_traceWrite]

theorem memOk_closeTrace {s : State} {k e flags} (h : memOk s) : memOk (closeTrace s k e flags).1 := by
  unfold closeTrace
  grind [memOk_trace]

theorem memOk_traceSlotSample {s : State} {k} (h : memOk s) : memOk (traceSlotSample s k) := by
  unfold traceSlotSample
  grind [memOk_traceWrite]

theorem memOk_syncCluster {s : State} {cl} (h : memOk s) : memOk (syncCluster s cl) := by
  refine memOk_foldl (fun {s c} h => ?_) h
  grind [memOk_traceStore]

theorem memOk_haltHart {s : State} {k} (h : memOk s) : memOk (haltHart s k) := by
  unfold haltHart
  grind [memOk_setHartAt]

theorem memOk_resumeHart {s : State} {k insns elems} (h : memOk s) : memOk (resumeHart s k insns elems) := by
  unfold resumeHart
  grind [memOk_setHartAt]

theorem memOk_debugCommand {s : State} {core v} (h : memOk s) : memOk (debugCommand s core v) := by
  unfold debugCommand
  grind [memOk_resumeHart, memOk_haltHart]

theorem memOk_countStep {s : State} {k} (h : memOk s) : memOk (countStep s k) := by
  unfold countStep
  grind [memOk_setHartAt, memOk_haltHart]


/-! ### Machine/Registers.lean -/

theorem memOk_writeDmbase {s : State} {part v} (h : memOk s) : memOk (writeDmbase s part v) := by
  unfold writeDmbase
  grind [memOk_setPartAt]

theorem memOk_writeDmtail {s : State} {part v} (h : memOk s) : memOk (writeDmtail s part v) := by
  unfold writeDmtail
  grind [memOk_setPartAt, memOk_flushDevice]

theorem memOk_writeService {s : State} {part off v} (h : memOk s) : memOk (writeService s part off v) := by
  unfold writeService
  grind [memOk_writeDmtail, memOk_setPartAt, memOk_writeDmbase]

theorem memOk_writeDebug {s : State} {core off v} (h : memOk s) : memOk (writeDebug s core off v) := by
  unfold writeDebug
  grind [memOk_setDbgReg, memOk_debugCommand, memOk_traceStore]

theorem memOk_regWrite {s : State} {a v} (h : memOk s) : memOk (regWrite s a v) := by
  unfold regWrite
  grind [memOk_writeDebug, memOk_writeService]

theorem memOk_regStore {s u : State} {master a bytes va} (h : memOk s) (e : regStore s master a bytes va = .ok u) : memOk u := by
  unfold regStore at e
  grind [memOk_regWrite]


/-! ### Machine/Ops.lean -/

theorem memOk_writePlace {s u : State} {k p acc bytes va} (h : memOk s) (e : writePlace s k p acc bytes va = .ok u) :
    memOk u := by
  unfold writePlace at e
  grind [memOk_regStore, memOk_targetWrite]

theorem memOk_unprotect {s : State} {k} (h : memOk s) : memOk (unprotect s k) := by
  unfold unprotect
  grind [memOk_setHartAt, memOk_commitStrip]

theorem memOk_reserveStrip {s : State} {k n} (h : memOk s) : memOk (reserveStrip s k n) := by
  unfold reserveStrip
  grind [memOk_setHartAt, memOk_unprotect]

theorem memOk_storePlace {s u : State} {k p page mask ord bytes va} (h : memOk s)
    (e : storePlace s k p page mask ord bytes va = .ok u) :
    memOk u := by
  unfold storePlace at e
  grind [memOk_setHartAt, memOk_settleRepl, memOk_unprotect, memOk_writePlace]

theorem memOk_storeBy {s u : State} {pages k unit ord n mask va v} (h : memOk s)
    (e : storeBy pages s k unit ord n mask va v = .ok u) :
    memOk u := by
  unfold storeBy at e
  split at e
  · cases e
  · split at e
    · cases e
    · exact memOk_storePlace (memOk_translateBy h ‹_›) e

theorem memOk_store {s u : State} {k unit n va v} (h : memOk s) (e : store s k unit n va v = .ok u) : memOk u := by
  unfold store at e
  grind [memOk_storeBy]

theorem memOk_loadRange {s u : State} {k va x x0} (h : memOk s) (e : loadRange s k va x = .ok (x0, u)) : memOk u := by
  induction x generalizing s va x0 u with
  | zero => cases e; exact h
  | succ n ih =>
    unfold loadRange at e
    split at e
    · cases e
    · split at e
      · cases e
      · cases e; exact ih (memOk_load h ‹_›) ‹_›

theorem memOk_helperDefault {s : State} {k t} (h : memOk s) : memOk (helperDefault s k t) := by
  unfold helperDefault
  grind [memOk_setHartAt, memOk_failEntry]

theorem memOk_takeTrap {s : State} {k tpc vec t} (h : memOk s) : memOk (takeTrap s k tpc vec t) := by
  unfold takeTrap
  grind [memOk_setHartAt, memOk_killGang, memOk_writeBackStreams, memOk_helperDefault, memOk_haltHart, memOk_enterBank]

theorem memOk_dropHeld {s : State} {core freed n} (h : memOk s) : memOk (dropHeld core freed s n) := by
  unfold dropHeld
  grind [memOk_setHartAt]

theorem memOk_rewind {s : State} {k ck} (h : memOk s) :
    memOk (rewind s k ck) := memOk_foldl (fun h => memOk_dropHeld h) (memOk_foldl (fun h => memOk_closeTrace h) h)

theorem memOk_seeError {s : State} {t} (h : memOk s) : memOk (seeError s t) := by
  unfold seeError
  grind [memOk_diverge, memOk_mediaSeen]

theorem memOk_failedTag {s : State} {part a} (h : memOk s) : memOk (failedTag s part a) := by
  unfold failedTag
  grind [memOk_setPartAt, memOk_resetPartition]

theorem memOk_settleNoted {s : State} (h : memOk s) : memOk (settleNoted s) := by
  refine memOk_foldl (fun {s st} h => ?_) h
  split
  · exact memOk_seeError h
  · exact memOk_failedTag h

theorem memOk_raise {s : State} {k tpc vec st} (h : memOk s) : memOk (raise s k tpc vec st) := by
  unfold raise
  grind [memOk_takeTrap, memOk_seeError, memOk_rewind, memOk_failedTag]

theorem memOk_stop {s : State} {st} (h : memOk s) : memOk (stop s st) := by
  unfold stop
  grind [memOk_raise]

theorem memOk_illegalWord {s : State} {w} (h : memOk s) : memOk (illegalWord s w) := by
  unfold illegalWord
  grind [memOk_stop]

theorem memOk_illegal {s : State} (h : memOk s) : memOk (illegal s) := by
  unfold illegal
  grind [memOk_stop]

theorem memOk_privileged {s : State} (h : memOk s) : memOk (privileged s) := by
  unfold privileged
  grind [memOk_stop]

theorem memOk_waitFor {s : State} {w} (h : memOk s) : memOk (waitFor s w) := h

theorem memOk_orStop {s : State} {r} (h : memOk s) (hr : ∀ {u}, r = .ok u → memOk u) : memOk (orStop s r) := by
  unfold orStop
  grind [memOk_stop]

theorem memOk_leaveTrap {s : State} (h : memOk s) : memOk (leaveTrap s) := by
  unfold leaveTrap
  grind [memOk_illegal, memOk_setHart, memOk_privileged]


/-! ### Machine/Fetch.lean -/

theorem memOk_fetchWord {s u : State} {k pc x0} (h : memOk s) (e : fetchWord s k pc = .ok (x0, u)) : memOk u := by
  unfold fetchWord at e
  grind [memOk_translate]


/-! ### Machine/Sched.lean -/

theorem memOk_account {before after : State} (h : memOk after) : memOk (account before after) := by
  simp only [account]
  split
  · exact h
  · generalize (after.hartAt before.turn).done - _ = n
    have h : memOk (after.setHartAt before.turn { after.hartAt before.turn with retired := after.reftime }) := memOk_setHartAt h
    induction n with
    | zero => exact h
    | succ n ih => exact memOk_countStep ih

theorem memOk_pass1 {s : State} (h : memOk s) : memOk (pass1 s) := h

theorem memOk_tick {before after : State} (h : memOk after) : memOk (tick before after) := by
  unfold tick
  grind [memOk_pass1, memOk_settleNoted, memOk_account]


/-! ### Machine/Alu.lean -/

theorem memOk_writeReg {s : State} {d v} (h : memOk s) : memOk (writeReg s d v) := h

theorem memOk_aluBin {s u : State} {fn d a b t} (h : memOk s) (e : aluBin fn d a b t s = .next u) : memOk u := by
  unfold aluBin at e
  grind [memOk_writeReg]

theorem memOk_aluUn {s u : State} {fn d a t} (h : memOk s) (e : aluUn fn d a t s = .next u) : memOk u := by
  unfold aluUn at e
  grind [memOk_writeReg]

theorem memOk_aluCmp {s u : State} {cond d a b t} (h : memOk s) (e : aluCmp cond d a b t s = .next u) : memOk u := by
  unfold aluCmp at e
  grind [memOk_writeReg]

theorem memOk_aluImm {s u : State} {f d a} (h : memOk s) (e : aluImm f d a s = .next u) : memOk u := by
  unfold aluImm at e
  grind [memOk_writeReg]


/-! ### Machine/LoadStore.lean -/

theorem memOk_branch {s u : State} {taken a b off} (h : memOk s) (e : branch taken a b off s = .next u) : memOk u := by
  unfold branch at e
  grind [memOk_finish, memOk_setHart]

theorem memOk_jumpTo {s u : State} {h pc} (hs : memOk s) (e : jumpTo s h pc = .next u) : memOk u := by
  unfold jumpTo at e
  grind [memOk_setHart]


/-! ### Machine/Fpu.lean -/

theorem memOk_fpuEnd {s : State} {d dec v flags} (h : memOk s) : memOk (fpuEnd s d dec v flags) := by
  unfold fpuEnd
  grind [memOk_stop, memOk_finish, memOk_setHart]

theorem memOk_fpuBin {s u : State} {f d a b t} (h : memOk s) (e : fpuBin f d a b t s = .next u) : memOk u := by
  unfold fpuBin at e
  grind [memOk_fpuEnd]

theorem memOk_fpuUn {s u : State} {f d a t} (h : memOk s) (e : fpuUn f d a t s = .next u) : memOk u := by
  unfold fpuUn at e
  grind [memOk_fpuEnd]

theorem memOk_fpuCmp {s u : State} {f d a b t} (h : memOk s) (e : fpuCmp f d a b t s = .next u) : memOk u := by
  unfold fpuCmp at e
  grind [memOk_fpuEnd]

theorem memOk_fpuCvt {s u : State} {src dst rm d a} (h : memOk s) (e : fpuCvt src dst rm d a s = .next u) : memOk u := by
  unfold fpuCvt at e
  grind [memOk_fpuEnd]

theorem memOk_fpuToInt {s u : State} {dst rm d a t} (h : memOk s) (e : fpuToInt dst rm d a t s = .next u) : memOk u := by
  unfold fpuToInt at e
  grind [memOk_fpuEnd]

theorem memOk_fpuFromInt {s u : State} {src d a t} (h : memOk s) (e : fpuFromInt src d a t s = .next u) : memOk u := by
  unfold fpuFromInt at e
  grind [memOk_fpuEnd]


/-! ### Machine/Control.lean -/

theorem memOk_stall {s : State} (h : memOk s) : memOk (stall s) := h

theorem memOk_ctlPut {s : State} {k n v} (h : memOk s) : memOk (ctlPut s k n v) := by
  unfold ctlPut
  grind [memOk_setHartAt, memOk_setCoreAt]

theorem memOk_settleSync {s : State} {k} (h : memOk s) : memOk (settleSync s k) := by
  unfold settleSync
  grind [memOk_setHartAt]

theorem memOk_syncCtl {s : State} {d n} (h : memOk s) : memOk (syncCtl s d n) := by
  unfold syncCtl
  grind [memOk_finish, memOk_stall]


/-! ### Machine/System.lean -/

theorem memOk_supervisor {s : State} {f : State} {u : State} (h : memOk s) (hf : memOk f) (e : supervisor s f = .next u) :
    memOk u := by
  unfold supervisor at e
  grind [memOk_privileged]

theorem memOk_dropTlb {s : State} {core hit} (h : memOk s) : memOk (dropTlb s core hit) := by
  refine memOk_foldl (fun {s n} h => ?_) (memOk_setCoreAt h)
  grind [memOk_setHartAt]

theorem memOk_tlbinv {s u : State} {hit scope} (h : memOk s) (e : tlbinv hit scope s = .next u) : memOk u := by
  have committed : ∀ c : Bool, memOk (if c then commitStrip s s.turn else s) := fun c => by
    cases c
    · exact h
    · exact memOk_commitStrip h _
  have ends : ∀ {u : State} (c : Bool), memOk u → memOk (if c then stall u else finish u u.hart) := fun c h => by
    cases c
    · exact memOk_finish h _
    · exact memOk_stall h
  exact memOk_supervisor h (ends _ (memOk_foldl (fun h => memOk_dropTlb h) (committed _))) e


/-! ### Machine/Atomic.lean -/

theorem memOk_atomicIn {s u : State} {k p fn t n va f x0} (h : memOk s) (e : atomicIn s k p fn t n va f = .ok (x0, u)) :
    memOk u := by
  unfold atomicIn at e
  grind [memOk_writePlace]

theorem memOk_atomicAt {s u : State} {k fn t n va f x0} (h : memOk s) (e : atomicAt s k fn t n va f = .ok (x0, u)) : memOk u := by
  unfold atomicAt at e
  split at e
  · cases e
  · split at e
    · cases e
    · exact memOk_atomicIn (memOk_translate h ‹_›) e

theorem memOk_beforeAmo {s : State} {ord} (h : memOk s) : memOk (beforeAmo s ord) := by
  unfold beforeAmo
  grind [memOk_commitStrip, memOk_drainRepl]

theorem memOk_afterAmo {s : State} {k ord} (h : memOk s) : memOk (afterAmo s k ord) := by
  unfold afterAmo
  grind [memOk_settleRepl]

theorem memOk_amo {s u : State} {fn ret d a b t ord} (h : memOk s) (e : amo fn ret d a b t ord s = .next u) : memOk u := by
  unfold amo at e
  grind [memOk_stop, memOk_writeReg, memOk_finish, memOk_afterAmo, memOk_atomicAt, memOk_beforeAmo]

theorem memOk_fence {s : State} {settle} (h : memOk s) (hf : ∀ {s}, memOk s → memOk (settle s)) : memOk (fence settle s) := by
  unfold fence
  grind [memOk_commitStrip, memOk_finish]


/-! ### Machine/Sync.lean -/

theorem memOk_barSet {r} {s : State} {b} (h : memOk s) : memOk (barSet s r b) := by
  unfold barSet
  grind [memOk_setDieAt, memOk_setGang]

theorem memOk_completePhases {r} {s : State} {x} (h : memOk s) : memOk (completePhases r x s) := by
  fun_induction completePhases r x s <;> grind [memOk_setDieAt, memOk_barSet]

theorem memOk_barFall {r} {s : State} {n} (h : memOk s) : memOk (barFall s r n) := by
  unfold barFall
  grind [memOk_completePhases, memOk_barSet]

theorem memOk_arrive {r} {s : State} (h : memOk s) : memOk (arrive s r) := by
  unfold arrive
  grind [memOk_commitStrip, memOk_drainRepl, memOk_completePhases, memOk_barSet]

theorem memOk_barAwait {r} {s : State} {pass : State} {handle p} (h : memOk s) (hpass : memOk pass) :
    memOk (barAwait s r handle p pass) := by
  dsimp only [barAwait]
  split
  · exact hpass
  · split
    · exact memOk_waitFor h
    · exact memOk_stop h

theorem memOk_localPlace {s u : State} {k acc va x0} (h : memOk s) (e : localPlace s k acc va = .ok (x0, u)) : memOk u := by
  unfold localPlace at e
  grind [memOk_translate]

theorem memOk_futureAt {s u : State} {acc va x0 x1} (h : memOk s) (e : Machine.futureAt s acc va = .ok (x0, x1, u)) :
    memOk u := by
  simp only [Machine.futureAt, bind_eq_ok] at e
  grind [memOk_commitStrip, memOk_localPlace]

theorem memOk_futSettle {s u : State} {fail a cause code} (h : memOk s) (e : futSettle fail a cause code s = .next u) :
    memOk u := by
  cases e
  refine memOk_orStop h fun {u} e => ?_
  obtain ⟨⟨p, f, t⟩, hp, e⟩ := bind_eq_ok.1 e
  have ht : memOk t := memOk_futureAt (memOk_drainRepl (memOk_commitStrip h _)) hp
  grind [memOk_settleFuture, memOk_finish]

theorem memOk_futGet {s u : State} {wait d a} (h : memOk s) (e : futGet wait d a s = .next u) : memOk u := by
  cases e
  refine memOk_orStop h fun {u} e => ?_
  obtain ⟨⟨p, f, t⟩, hp, e⟩ := bind_eq_ok.1 e
  have ht : memOk t := memOk_futureAt h hp
  grind [memOk_waitFor, memOk_writeReg]


/-! ### Machine/Spawn.lean -/

theorem memOk_spawnAt {s u : State} {part p desc b start hold die} (h : memOk s)
    (e : spawnAt s part p desc b start hold die = .ok u) :
    memOk u := by
  have last : ∀ {v : State} {c : Prop} [Decidable c] {id x cls}, memOk v →
      memOk (if c then pass (enqueue (v.setTask id x) die cls id false) die else v.setTask id x) := fun h => by
    split
    · exact memOk_pass (memOk_enqueue (memOk_setTask h))
    · exact memOk_setTask h
  unfold spawnAt at e
  split at e
  · cases e
  · cases hold
    · obtain ⟨t, ht, e⟩ := bind_eq_ok.1 e
      obtain ⟨v, hv, e⟩ := bind_eq_ok.1 e
      have ht : memOk t := by cases ht; exact h
      cases e
      exact last (memOk_writeAt ht hv)
    · obtain ⟨t, ht, e⟩ := bind_eq_ok.1 e
      obtain ⟨v, hv, e⟩ := bind_eq_ok.1 e
      cases e
      exact last (memOk_writeAt (memOk_writeAt h ht) hv)

theorem memOk_launchBytes {s u : State} {k va x0} (h : memOk s) (e : launchBytes s k va = .ok (x0, u)) : memOk u := by
  unfold launchBytes at e
  split at e
  · cases e; exact h
  · simp only [bind_eq_ok] at e
    obtain ⟨_, -, p, hp, _, -, e⟩ := e
    cases e
    exact memOk_localPlace h hp

theorem memOk_descPlace {s u : State} {k va x0} (h : memOk s) (e : descPlace s k va = .ok (x0, u)) : memOk u := by
  simp only [descPlace, bind_eq_ok] at e
  grind [memOk_localPlace]

theorem memOk_spawn {s u : State} {hold d a} (h : memOk s) (e : spawn hold d a s = .next u) : memOk u := by
  cases e
  refine memOk_orStop h fun {u} e => ?_
  obtain ⟨⟨p, t⟩, ht, e⟩ := bind_eq_ok.1 e
  obtain ⟨b, -, e⟩ := bind_eq_ok.1 e
  obtain ⟨⟨l, v⟩, hv, e⟩ := bind_eq_ok.1 e
  have hv : memOk v := memOk_launchBytes (memOk_descPlace h ht) hv
  dsimp only at e
  split at e
  · cases e
  · exact memOk_spawnAt (memOk_writeReg (memOk_drainRepl (memOk_commitStrip hv _))) e

theorem memOk_searchTable {s u : State} {k table e i dflt x x0} (h : memOk s) (e : searchTable k table e i dflt x s = .ok
    (x0, u)) :
    memOk u := by
  induction x generalizing s i dflt with
  | zero => cases e; exact h
  | succ n ih =>
    obtain ⟨⟨key, t⟩, ht, e'⟩ := bind_eq_ok.1 e
    obtain ⟨⟨routine, v⟩, hv, e'⟩ := bind_eq_ok.1 e'
    have hv : memOk v := memOk_load (memOk_load h ht) hv
    grind

theorem memOk_routineFor {s u : State} {k e x0} (h : memOk s) (e : routineFor s k e = .ok (x0, u)) : memOk u := by
  simp only [routineFor] at e
  split at e
  · cases e; exact h
  · obtain ⟨⟨n, t⟩, ht, e⟩ := bind_eq_ok.1 e
    exact memOk_searchTable (memOk_load h ht) e

theorem memOk_takeEntry {s : State} {k e} (h : memOk s) : memOk (takeEntry s k e) := by
  unfold takeEntry
  grind [memOk_setHartAt, memOk_trace, memOk_raise, memOk_setCoreAt, memOk_routineFor]

theorem memOk_dispatchHelper {s : State} {k} (h : memOk s) : memOk (dispatchHelper s k) := by
  unfold dispatchHelper
  grind [memOk_takeEntry]

theorem memOk_fillHeld {s : State} {k e v flags} (h : memOk s) : memOk (fillHeld s k e v flags) := by
  unfold fillHeld
  grind [memOk_setHartAt, memOk_drainRepl, memOk_trace, memOk_fillEntry]


/-! ### Machine/Lanes.lean -/

theorem memOk_Pos_halts {p : Pos} {s : State} {el q} (hp : memOk p.state) (h : memOk s) : memOk (Pos.halts p s el q).state := by
  unfold Pos.halts
  grind [RunOut.state, Pos.state, memOk]

theorem memOk_runPos {s : State} {f rows lim cut fuel el q} (hf : ∀ {s el q}, memOk s → memOk (f s el q).state) (h : memOk s) :
    memOk (runPos f rows lim cut fuel el q s).state := by
  induction fuel generalizing s el q with
  | zero => exact h
  | succ n ih =>
    have hp := hf (el := el) (q := q) h
    unfold runPos
    split
    · exact h
    · split
      · exact h
      · split
        · exact memOk_Pos_halts hp h
        · split <;> rename_i hq <;> rw [hq] at hp
          · split <;> exact ih hp
          · exact hp
          · exact hp

theorem memOk_putElem {s : State} {k n el w v} (h : memOk s) : memOk (putElem s k n el w v) := h

theorem memOk_poisonElem {s : State} {k n el w cause sub} (h : memOk s) : memOk (poisonElem s k n el w cause sub) := h

theorem memOk_makeHole {s u : State} {k n el w x} (h : memOk s) (e : makeHole s k n el w x = some u) : memOk u := by
  unfold makeHole at e
  grind [memOk_setHartAt, memOk_setCoreAt]

theorem memOk_roomed {s : State} {act : Pos} {k e el q} (h : memOk s) (hact : memOk act.state) :
    memOk (roomed s k e el q act).state := by
  unfold roomed
  grind [Pos.state, memOk]

theorem memOk_putPos {s : State} {k e t st d el q g rs f moved} (h : memOk s) :
    memOk (putPos s k e t st d el q g rs f moved).state := by
  unfold putPos
  grind [memOk_setHartAt, memOk_note, memOk_poisonElem, memOk_makeHole, memOk_putElem, Pos.state]

theorem memOk_gated {s : State} {act : Pos} {m} (h : memOk s) (hact : memOk act.state) : memOk (gated m s act).state := by
  unfold gated
  grind [Pos.state, memOk]

theorem memOk_lanePos {s : State} {k e t st d wd all a b c el q} (h : memOk s) :
    memOk (lanePos k e t st d wd all a b c s el q).state := by
  unfold lanePos
  grind [memOk_putPos, memOk_gated, memOk_roomed, Pos.state]

theorem memOk_movePos {s : State} {k cap e fn t d a b el q} (h : memOk s) : memOk (movePos k cap e fn t d a b s el q).state := by
  unfold movePos
  grind [memOk_putPos, memOk_gated, memOk_roomed, Pos.state]

theorem memOk_insPos {s : State} {k e t d el q} (h : memOk s) : memOk (insPos k e t d s el q).state := by
  unfold insPos
  grind [memOk_putElem, memOk_gated, Pos.state]


/-! ### Machine/VMem.lean -/

theorem memOk_goes {s u : State} {m k pages va x0 x1} (h : memOk s) (e : MemOp.goes m k pages s va = .ok (x0, x1, u)) :
    memOk u := by
  unfold MemOp.goes at e
  grind [memOk_translateBy]

theorem memOk_runAhead {s : State} {m k e x y z w} (h : memOk s) : memOk (runAhead m k e x y z w s).s := by
  fun_induction runAhead m k e x y z w s <;> grind [memOk_goes]

theorem memOk_landAll {s : State} {k reg w vals} (h : memOk s) :
    memOk (landAll s k reg w vals) := memOk_foldl (fun h => memOk_putElem h) h

theorem memOk_loadFault {s : State} {k t m start vals el q st} (h : memOk s) :
    memOk (loadFault k t m start s vals el q st).state := by
  unfold loadFault
  grind [memOk_landAll, LoadOut.state]

theorem memOk_loadFrom {s : State} {k e t m start x y z w} (h : memOk s) : memOk (loadFrom k e t m start x y z w s).state := by
  fun_induction loadFrom k e t m start x y z w s <;> grind [memOk_loadFault, memOk_runAhead, memOk_landAll, LoadOut.state]

theorem memOk_storeAcc {s u : State} {k m ordered a v} (h : memOk s) (e : storeAcc k m ordered s a v = .ok u) : memOk u := by
  unfold storeAcc at e
  grind [memOk_storePlace]

theorem memOk_storeAccs {s : State} {k m x} (h : memOk s) : memOk (storeAccs k m x s).state := by
  fun_induction storeAccs k m x s <;> grind [memOk_storeAcc, SegOut.state]

theorem memOk_segmentsFrom {s : State} {k m perform fuel poss e} (hp : ∀ {l s}, memOk s → memOk (perform l s).state)
    (h : memOk s) :
    memOk (segmentsFrom k m perform fuel poss e s).1.state := by
  induction fuel generalizing s poss e with
  | zero => exact h
  | succ n ih =>
    have ha : memOk (runAhead m k e poss [] [] e.pages s).s := memOk_runAhead h
    have hl := hp (l := (runAhead m k e poss [] [] e.pages s).accs) ha
    simp only [segmentsFrom]
    split
    · exact ha
    · split
      · rename_i hq
        rw [hq] at hl
        split
        · exact ih hl
        · exact hl
        · exact hl
      · exact hl

theorem memOk_storeFrom {s : State} {k m poss e} (h : memOk s) : memOk (storeFrom k m poss e s).1.state := by
  unfold storeFrom
  grind [memOk_segmentsFrom, memOk_storeAccs]

theorem memOk_storeUnder {s u : State} {k m did a v} (h : memOk s) (e : storeUnder k m did s a v = .ok u) : memOk u := by
  unfold storeUnder at e
  split at e
  · exact memOk_storeAcc h e
  · refine List.foldlRecOn (motive := fun r : Except Stop State => ∀ u, r = .ok u → memOk u) _ _
      (fun u e => by cases e; exact h) (fun r hr i _ u e => ?_) _ e
    split at e
    · cases e
    · have hw := hr _ rfl
      split at e
      · cases e; exact hw
      · exact memOk_storePlace hw e

theorem memOk_storeLoose {x : Loose} {k m l} (h : memOk x.s) : memOk (storeLoose k m l x).s := by
  induction l generalizing x with
  | nil => exact h
  | cons a rest ih =>
    unfold storeLoose
    split
    · exact ih h
    · split
      · exact ih h
      · exact h
    · exact h
    · split
      · exact h
      · exact ih (memOk_storeUnder h ‹_›)

theorem memOk_looseFrom {x : Loose} {k m fuel poss e} (h : memOk x.s) : memOk (looseFrom k m fuel poss e x).1.s := by
  induction fuel generalizing x poss e with
  | zero => exact h
  | succ n ih =>
    have ha : memOk (runAhead m k e poss [] [] e.pages x.s).s := memOk_runAhead h
    have hl := memOk_storeLoose (k := k) (m := m) (l := (runAhead m k e poss [] [] e.pages x.s).accs) (x := { x with s := _ }) ha
    simp only [looseFrom]
    split
    · exact ha
    · split
      · exact hl
      · split
        · exact ih hl
        · exact hl
        · exact hl

theorem memOk_streamRead {s : State} {k e x} (h : memOk s) : memOk (streamRead s k e x).state := by
  unfold streamRead
  grind [memOk_setHartAt, memOk_loadFrom, LoadOut.state]

theorem memOk_bindStream {s u : State} {k reg va} (h : memOk s) (e : bindStream s k reg va = .ok u) : memOk u := by
  obtain ⟨_, -, e⟩ := bind_eq_ok.1 e
  obtain ⟨⟨p, v⟩, hv, e⟩ := bind_eq_ok.1 e
  have hv : memOk v := memOk_translate h hv
  dsimp only at e
  split at e
  · split at e
    · cases e
    · obtain ⟨b, -, e⟩ := bind_eq_ok.1 e
      split at e
      · cases e
      · split at e
        · cases e
        · cases e; exact memOk_setHartAt hv
  · cases e

theorem memOk_unbindStream {s u : State} {k reg} (h : memOk s) (e : unbindStream s k reg = .ok u) : memOk u := by
  unfold unbindStream at e
  grind [memOk_setHartAt, memOk_writeBackStream]

theorem memOk_fillRegs {s u : State} {k va x0} (h : memOk s) (e : fillRegs s k va = .ok (x0, u)) : memOk u := by
  obtain ⟨_, -, e⟩ := bind_eq_ok.1 e
  obtain ⟨⟨b, v⟩, hv, e⟩ := bind_eq_ok.1 e
  obtain ⟨⟨b', w⟩, hw, e⟩ := bind_eq_ok.1 e
  have hw : memOk w := memOk_loadRange (memOk_loadRange h hv) hw
  dsimp only at e
  split at e
  · cases e
  · split at e
    · cases e
    · cases e; exact memOk_draw (memOk_setHartAt hw)

theorem memOk_rangeAhead {s : State} {k acc va x y} (h : memOk s) : memOk (rangeAhead k acc va x y s).1 := by
  fun_induction rangeAhead k acc va x y s <;> grind [memOk_translateBy]

theorem memOk_storeBytes {s : State} {pages k va x y} (h : memOk s) : memOk (storeBytes pages k va x y s).1 := by
  fun_induction storeBytes pages k va x y s <;> grind [memOk_storeBy]

theorem memOk_storeFrame {s : State} {k va i bytes} (h : memOk s) : memOk (storeFrame s k va i bytes).1 := by
  unfold storeFrame
  grind [memOk_rangeAhead, memOk_storeBytes]


/-! ### Machine/Vector.lean -/

theorem memOk_ofRunOut {r : RunOut} {e} (hr : memOk r.state) : memOk (ofRunOut e r).state := by
  unfold ofRunOut
  grind [Run.state, RunOut.state, memOk]

theorem memOk_runEach {s : State} {k e f} (h : memOk s) (hf : ∀ {s el q}, memOk s → memOk (f s el q).state) :
    memOk (runEach s k e f).state := by
  unfold runEach
  grind [memOk_ofRunOut, memOk_runPos]

theorem memOk_haltAt {s : State} {attempt : Run} {e el q bp} (h : memOk s) (hattempt : memOk attempt.state) :
    memOk (haltAt s e el q bp attempt).state := by
  unfold haltAt
  grind [Run.state, memOk]

theorem memOk_runWhole {s : State} {act : Run} {k e} (h : memOk s) (hact : memOk act.state) :
    memOk (runWhole s k e act).state := by
  unfold runWhole
  grind [Run.state, memOk]

theorem memOk_Row_on {s : State} {r : Row} {e f} (h : memOk s) (hf : ∀ {l}, memOk (f l).state) : memOk (r.on s e f).state := by
  unfold Row.on
  grind [Run.state, memOk]

theorem memOk_withRow {s : State} {k e reg w f} (h : memOk s) (hf : ∀ {l}, memOk (f l).state) :
    memOk (withRow s k e reg w f).state := by
  unfold withRow
  grind [memOk_Row_on, memOk_haltAt, Run.state]

theorem memOk_deliver {s : State} {k e d v} (h : memOk s) : memOk (deliver s k e d v).state := h

theorem memOk_runRed {s : State} {k e fn t d a} (h : memOk s) : memOk (runRed s k e fn t d a).state := by
  unfold runRed
  grind [memOk_setHartAt, memOk_withRow, memOk_deliver, Run.state]

theorem memOk_runRedIdx {s : State} {k e wantMax t d a} (h : memOk s) : memOk (runRedIdx s k e wantMax t d a).state := by
  unfold runRedIdx
  grind [memOk_withRow, memOk_deliver]

theorem memOk_runMpop {s : State} {k e d a} (h : memOk s) : memOk (runMpop s k e d a).state := by
  unfold runMpop
  grind [memOk_withRow, memOk_deliver]

theorem memOk_runMfirst {s : State} {k e d a} (h : memOk s) : memOk (runMfirst s k e d a).state := by
  unfold runMfirst
  grind [memOk_withRow, memOk_deliver]

theorem memOk_runXtr {s : State} {k e t d a} (h : memOk s) : memOk (runXtr s k e t d a).state := by
  unfold runXtr
  grind [memOk_deliver, Run.state]

theorem memOk_whilePos {s : State} {k e a cond t el} (h : memOk s) : memOk (whilePos k e a cond t s el).1.state := by
  unfold whilePos
  grind [memOk_setHartAt, Pos.state]

theorem memOk_whileFrom {s : State} {k e a cond t lim x} (h : memOk s) : memOk (whileFrom k e a cond t lim x s).state := by
  fun_induction whileFrom k e a cond t lim x s <;> grind [memOk_whilePos, Run.state, Pos.state]

theorem memOk_splitMask {s : State} {k e first off} (h : memOk s) : memOk (splitMask s k e first off).state := by
  have ht := memOk_foldl (f := fun s i => putElem s k 0 i 1 (if i < first then 1 else 0)) (fun h => memOk_putElem h)
    (l := List.range e.count) h
  simp only [splitMask]
  split
  · exact memOk_setHartAt ht
  · exact ht

theorem memOk_runWhile {s : State} {k e a cond off t} (h : memOk s) : memOk (runWhile s k e a cond off t).state := by
  unfold runWhile
  grind [memOk_whileFrom, memOk_splitMask, memOk_haltAt, Run.state]

theorem memOk_putPairs {s : State} {k t d l} (h : memOk s) :
    memOk (putPairs s k t d l) := memOk_foldl (fun h => memOk_putElem (memOk_putElem h)) h

theorem memOk_delivered {s : State} {k e n} (h : memOk s) : memOk (delivered s k e n) := by
  simp only [delivered]
  split
  · exact memOk_setHartAt h
  · exact memOk_setHartAt (memOk_foldl (fun h => memOk_putElem h) h)

theorem memOk_runHold {s : State} {k e t d a} (h : memOk s) : memOk (runHold s k e t d a).state := by
  unfold runHold
  grind [memOk_setHartAt, memOk_withRow, memOk_delivered, memOk_putPairs, Run.state]

theorem memOk_runDrain {s : State} {k e t d} (h : memOk s) : memOk (runDrain s k e t d).state := by
  unfold runDrain
  grind [memOk_setHartAt, memOk_delivered, memOk_putPairs, Run.state]

theorem memOk_quantPos {s : State} {k e src d a half sr el q} (h : memOk s) :
    memOk (quantPos k e src d a half sr s el q).state := by
  unfold quantPos
  grind [memOk_setHartAt, memOk_putElem, Pos.state]

theorem memOk_runQuant {s : State} {k e src d a half sr} (h : memOk s) : memOk (runQuant s k e src d a half sr).state := by
  unfold runQuant
  grind [memOk_runEach, memOk_quantPos, Run.state]

theorem memOk_inCut {s : State} {k e poss perform} (h : memOk s) (hp : ∀ {l e s}, memOk s → memOk (perform l e s).1.state) :
    memOk (inCut s k e poss perform).state := by
  unfold inCut
  grind [memOk_haltAt, Run.state]

theorem memOk_runLoad {s : State} {k e mode t d b} (h : memOk s) : memOk (runLoad s k e mode t d b).state := by
  unfold runLoad
  grind [memOk_setHartAt, memOk_inCut, memOk_loadFrom, Run.state, LoadOut.state]

theorem memOk_reserveOnce {s : State} {k n e} (h : memOk s) : memOk (reserveOnce s k n e).1 := by
  unfold reserveOnce
  grind [memOk_reserveStrip]

theorem memOk_ofSeg {r : SegOut × VEntry} (h : memOk r.1.state) : memOk (ofSeg r).1.state := by
  unfold ofSeg
  grind [Run.state, SegOut.state, memOk]

theorem memOk_ofLoose {r : Loose × VEntry} (h : memOk r.1.s) : memOk (ofLoose r).1.state := by
  unfold ofLoose
  grind [Run.state, memOk]

theorem memOk_runStore {s : State} {k e mode ordered t d b} (h : memOk s) : memOk (runStore s k e mode ordered t d b).state := by
  unfold runStore
  grind [memOk_inCut, memOk_ofLoose, memOk_storeFrom, memOk_ofSeg, memOk_reserveOnce, memOk_looseFrom]

theorem memOk_runStreamStore {s : State} {k e x} (h : memOk s) : memOk (runStreamStore s k e x).state := by
  unfold runStreamStore
  grind [memOk_setHartAt, memOk_inCut, memOk_storeFrom, memOk_ofSeg, Run.state, SegOut.state]

theorem memOk_inCount {s : State} {k e n perform} (h : memOk s) (hp : ∀ {n e s}, memOk s → memOk (perform n e s).state) :
    memOk (inCount s k e n perform).state := by
  unfold inCount
  grind [Run.state, memOk]

theorem memOk_runSpill {s : State} {k e d} (h : memOk s) : memOk (runSpill s k e d).state := by
  unfold runSpill
  grind [memOk_storeFrame, memOk_deliver, memOk_inCount, memOk_reserveOnce, Run.state]

theorem memOk_runFill {s : State} {k e d} (h : memOk s) : memOk (runFill s k e d).state := by
  unfold runFill
  grind [memOk_fillRegs, memOk_deliver, Run.state]

theorem memOk_ofExcept {s : State} {e} {r : Except Stop State} (h : memOk s) (hr : ∀ {u}, r = .ok u → memOk u) :
    memOk (ofExcept s e r).state := by
  unfold ofExcept
  grind [Run.state, memOk]

theorem memOk_runSettle {s : State} {k e} (h : memOk s) : memOk (runSettle s k e).state := by
  unfold runSettle
  grind [memOk_freeFailed, Run.state]

theorem memOk_seenPos {s : State} {k e poisoned t d a el x} (h : memOk s) : memOk (seenPos k e poisoned t d a s el x).state := by
  unfold seenPos
  grind [memOk_putElem, memOk_gated, Pos.state]

theorem memOk_healPos {s : State} {k e t d el x} (h : memOk s) : memOk (healPos k e t d s el x).state := by
  unfold healPos
  grind [memOk_setHartAt, memOk_gated, Pos.state]

theorem memOk_clearLog {s : State} {k n} (h : memOk s) : memOk (clearLog s k n) := by
  unfold clearLog
  grind [memOk_setHartAt]

theorem memOk_runHeal {s : State} {k e t d} (h : memOk s) : memOk (runHeal s k e t d).state := by
  unfold runHeal
  grind [memOk_clearLog, memOk_runEach, memOk_healPos, Run.state]

theorem memOk_amoAccs {s : State} {k e fn t d x} (h : memOk s) : memOk (amoAccs k e fn t d x s).state := by
  fun_induction amoAccs k e fn t d x s <;> grind [memOk_putElem, memOk_atomicIn, SegOut.state]

theorem memOk_runAmov {s : State} {k e fn t d b ord} (h : memOk s) : memOk (runAmov s k e fn t d b ord).state := by
  unfold runAmov
  grind [memOk_segmentsFrom, memOk_inCut, memOk_commitStrip, memOk_settleRepl, memOk_drainRepl, memOk_amoAccs, memOk_ofSeg,
    Run.state]


/-! ### Machine/Matrix.lean -/

theorem memOk_behind {s : State} {act : Run} {g e} (h : memOk s) (hact : memOk act.state) : memOk (behind g s e act).state := by
  unfold behind
  grind [Run.state, memOk]

theorem memOk_onSeen {s : State} {e} {r : Seen Run} (h : memOk s) (hr : ∀ {x}, r = .ok x → memOk x.state) :
    memOk (onSeen s e r).state := by
  unfold onSeen
  grind [Run.state, memOk]

theorem memOk_onCells {s : State} {k e reg cells act} (h : memOk s) (hact : ∀ {s}, memOk s → memOk (act s).state) :
    memOk (onCells s k e reg cells act).state := by
  unfold onCells
  grind [memOk_note, memOk_unprotect, Run.state]

theorem memOk_runMxMode {s : State} {k e d} (h : memOk s) : memOk (runMxMode s k e d).state := by
  unfold runMxMode
  grind [memOk_deliver, memOk_setCoreAt, Run.state]

theorem memOk_runMxTshape {s : State} {k e t d} (h : memOk s) : memOk (runMxTshape s k e t d).state := by
  unfold runMxTshape
  grind [memOk_setHartAt, memOk_deliver, memOk_setCoreAt, Run.state]

theorem memOk_runMxOp {s : State} {k e t d a b} (h : memOk s) : memOk (runMxOp s k e t d a b).state := by
  refine memOk_behind h (memOk_onSeen h fun {r} e => ?_)
  iterate 7 obtain ⟨_, -, e⟩ := bind_eq_ok.1 e
  cases e
  exact memOk_onCells h fun h => memOk_setCoreAt h

theorem memOk_everyCell {s : State} {k e reads f} (h : memOk s) : memOk (everyCell s k e reads f).state := by
  unfold everyCell
  grind [memOk_setCoreAt, memOk_onCells, Run.state]

theorem memOk_runMxZero {s : State} {k e d} (h : memOk s) : memOk (runMxZero s k e d).state := by
  unfold runMxZero
  grind [memOk_everyCell, memOk_behind]

theorem memOk_runMxMv {s : State} {k e d a} (h : memOk s) : memOk (runMxMv s k e d a).state := by
  unfold runMxMv
  grind [memOk_everyCell, memOk_behind]

theorem memOk_lineMove {s : State} {col k e act} (h : memOk s) (hact : ∀ {n}, memOk (act n).state) :
    memOk (lineMove col s k e act).state := by
  unfold lineMove
  grind [memOk_behind]

theorem memOk_runMxRead {s : State} {k e col d a} (h : memOk s) : memOk (runMxRead s k e col d a).state := by
  refine memOk_lineMove h fun {n} => memOk_onSeen h fun {r} e => ?_
  obtain ⟨act, -, e⟩ := bind_eq_ok.1 e
  have moved : ∀ {bad : Nat → Bool} {l : List Nat} {v : Nat → Nat} {c : Nat → Stop}, memOk (l.foldl (fun s el =>
      if bad el then (poisonElem s k d.val el 32 (causeCode .ue) 2).note (c el) else putElem s k d.val el 32 (v el)) s) :=
    memOk_foldl (fun h => by split <;> [exact memOk_note (memOk_poisonElem h); exact memOk_putElem h]) h
  dsimp only at e
  split at e
  · split at e
    · cases e
    · cases e; exact moved
  · cases e; exact moved

theorem memOk_runMxWrite {s : State} {k e col d a} (h : memOk s) : memOk (runMxWrite s k e col d a).state := by
  refine memOk_lineMove h fun {n} => memOk_onSeen h fun {r} e => ?_
  iterate 3 obtain ⟨_, -, e⟩ := bind_eq_ok.1 e
  cases e
  exact memOk_setCoreAt (memOk_unprotect h)

theorem memOk_storeWords {s u : State} {k va ord x} (h : memOk s) (e : storeWords k va ord x s = .ok u) : memOk u := by
  revert e
  fun_induction storeWords k va ord x s <;> grind [memOk_storeBy]

theorem memOk_loadWords {s u : State} {k va x x0} (h : memOk s) (e : loadWords k va x s = .ok (x0, u)) : memOk u := by
  induction x generalizing s va x0 u with
  | zero => cases e; exact h
  | succ n ih =>
    unfold loadWords at e
    split at e
    · split at e
      · cases e; exact ih (memOk_load h ‹_›) ‹_›
      · cases e
    · cases e

theorem memOk_moveCell {s u : State} {fill k b n reg va i j} (h : memOk s) (e : moveCell fill k b n reg va i j s = .ok u) :
    memOk u := by
  unfold moveCell at e
  grind [memOk_storeWords, memOk_loadWords, memOk_setCoreAt]

theorem memOk_moveOne {r} {s u : State} {fill k b n reg base mvl e} (h : memOk s)
    (e : moveOne fill k b n reg base mvl e s r = .ok u) :
    memOk u := by
  unfold moveOne at e
  grind [memOk_moveCell]

theorem memOk_moveCells {s : State} {one l} (h : memOk s) (hone : ∀ {s r u}, memOk s → one s r = .ok u → memOk u) :
    memOk (moveCells one l s).1 := by
  induction l generalizing s with
  | nil => exact h
  | cons r rest ih =>
    unfold moveCells
    split
    · exact ih (hone h ‹_›)
    · exact h

theorem memOk_runMoves {s : State} {modes fill b n reg k e} (h : memOk s) : memOk (runMoves modes fill b n reg s k e).state := by
  unfold runMoves
  grind [memOk_moveCells, memOk_unprotect, memOk_moveOne, memOk_inCount, memOk_behind, memOk_reserveOnce, Run.state]


/-! ### Machine/Relief.lean -/

theorem memOk_withInputs {s : State} {k e t a b act} (h : memOk s) (hact : ∀ {c g l m}, memOk (act c g l m).state) :
    memOk (withInputs s k e t a b act).state := by
  refine memOk_behind h ?_
  dsimp only
  split
  · exact h
  · refine memOk_onSeen h fun {r} e => ?_
    iterate 5 obtain ⟨_, -, e⟩ := bind_eq_ok.1 e
    cases e
    exact hact

theorem memOk_putResults {s : State} {k e fn t d n l} (h : memOk s) : memOk (putResults s k e fn t d n l).state := by
  unfold putResults
  dsimp only
  split
  · exact h
  · split
    · rename_i u e
      refine List.foldlRecOn (motive := fun o : Option State => ∀ u, o = some u → memOk u) _ _
        (fun u e => by cases e; exact h) (fun o ho p _ u e => ?_) u e
      obtain ⟨v, hv, e⟩ := Option.bind_eq_some_iff.1 e
      have hv := ho v hv
      split at e
      · cases e; exact memOk_putElem hv
      · cases e; exact memOk_note (memOk_poisonElem hv)
      · exact memOk_makeHole hv e
    · exact h

theorem memOk_unlessBroken {s : State} {r : Run} {k e l} (h : memOk s) (hr : memOk r.state) :
    memOk (unlessBroken s k e l r).state := by
  unfold unlessBroken
  grind [Run.state, memOk]

theorem memOk_runSpEval {s : State} {k e t d a} (h : memOk s) : memOk (runSpEval s k e t d a).state := by
  unfold runSpEval
  grind [memOk_withInputs, memOk_unlessBroken, memOk_putResults]

theorem memOk_runSpDx {s : State} {k e t d a b} (h : memOk s) : memOk (runSpDx s k e t d a b).state := by
  unfold runSpDx
  grind [memOk_withInputs, memOk_unlessBroken, memOk_putResults]

theorem memOk_runSpGrad {s : State} {k e t a b} (h : memOk s) : memOk (runSpGrad s k e t a b).state := by
  unfold runSpGrad
  grind [memOk_withInputs, memOk_setCoreAt, memOk_onCells, Run.state]

theorem memOk_runSpRefine {s : State} {k e} (h : memOk s) : memOk (runSpRefine s k e).state := by
  unfold runSpRefine
  grind [memOk_behind, memOk_setCoreAt, memOk_onCells, Run.state]

theorem memOk_runSpPair {s : State} {k e} (h : memOk s) : memOk (runSpPair s k e).state := by
  unfold runSpPair
  grind [memOk_behind, memOk_setCoreAt, Run.state]

theorem memOk_runSpGzero {s : State} {k e} (h : memOk s) : memOk (runSpGzero s k e).state := by
  unfold runSpGzero
  grind [memOk_everyCell, memOk_behind]


/-! ### Machine/Engine.lean -/

theorem memOk_engPlace {s u : State} {k acc va x0} (h : memOk s) (e : engPlace s k acc va = .ok (x0, u)) : memOk u := by
  unfold engPlace at e
  grind [memOk_translateAs]

theorem memOk_engRead {s u : State} {k va x x0} (h : memOk s) (e : engRead s k va x = .ok (x0, u)) : memOk u := by
  induction x generalizing s va x0 u with
  | zero => cases e; exact h
  | succ n ih =>
    unfold engRead at e
    split at e
    · cases e
    · split at e
      · cases e
      · split at e
        · cases e
        · cases e; exact ih (memOk_engPlace h ‹_›) ‹_›

theorem memOk_engPut {s u : State} {k va bytes} (h : memOk s) (e : engPut s k va bytes = .ok u) : memOk u := by
  unfold engPut at e
  split at e
  · cases e
  · split at e
    · cases e
    · cases e; exact memOk_writePlace (memOk_engPlace h ‹_›) ‹_›

theorem memOk_engWrite {s u : State} {k x y} (h : memOk s) (e : engWrite k x y s = .ok u) : memOk u := by
  revert e
  fun_induction engWrite k x y s <;> grind [memOk_engPut]

theorem memOk_copyStep {s u : State} {k dst src n} (h : memOk s) (e : copyStep s k dst src n = .ok u) : memOk u := by
  unfold copyStep at e
  split at e
  · cases e
  · exact memOk_engPut (memOk_engRead h ‹_›) e

theorem memOk_copyRun {s : State} {k dst src n x y} (h : memOk s) : memOk (copyRun k dst src n x y s).1 := by
  fun_induction copyRun k dst src n x y s <;> grind [memOk_copyStep]

theorem memOk_addTrack {s : State} {k dst n o f} (h : memOk s) : memOk (addTrack s k dst n o f) := by
  unfold addTrack
  grind [memOk_setCoreAt]

theorem memOk_untrack {s : State} {k} (h : memOk s) : memOk (untrack s k) := memOk_foldl (fun h => memOk_setCoreAt h) h

theorem memOk_cplIssue {s u : State} {k kind e va total x1} (h : memOk s) (e : cplIssue s k kind e va total = .ok (u, x1)) :
    memOk u := by
  unfold cplIssue at e
  split at e
  · cases e; exact h
  · obtain ⟨_, -, e⟩ := bind_eq_ok.1 e
    obtain ⟨⟨p, t⟩, ht, e⟩ := bind_eq_ok.1 e
    have ht : memOk t := memOk_translate h ht
    grind [memOk_barSet, bind_eq_ok]

theorem memOk_cplDone {s : State} {k kind e va status} (h : memOk s) : memOk (cplDone s k kind e va status) := by
  unfold cplDone
  grind [memOk_attempt, memOk_drainRepl, memOk_store, memOk_completeFuture, memOk_barFall]

theorem memOk_writeRegs {s : State} {k l} (h : memOk s) : memOk (writeRegs s k l) := memOk_foldl (fun h => memOk_setHartAt h) h

theorem memOk_engDone {s : State} {k e kind cva status} (h : memOk s) : memOk (Machine.engDone s k e kind cva status).state := by
  unfold Machine.engDone
  grind [Run.state, memOk]

theorem memOk_engSignal {s : State} {k e kind status} (h : memOk s) : memOk (engSignal s k e kind status).state := by
  unfold engSignal
  grind [memOk_untrack, Run.state]

theorem memOk_engEnd {s : State} {k e kind cva dfail patt elem f regs again} (h : memOk s) :
    memOk (engEnd s k e kind cva dfail patt elem f regs again).state := by
  unfold engEnd
  grind [memOk_note, memOk_writeRegs, memOk_engDone, Run.state]

theorem memOk_runCopy {s : State} {k e d a b kind} (h : memOk s) : memOk (runCopy s k e d a b kind).state := by
  unfold runCopy
  grind [memOk_engEnd, memOk_cplIssue, memOk_addTrack, memOk_copyRun, memOk_unprotect, Run.state]

theorem memOk_mcastRun {s : State} {k src n x} (h : memOk s) : memOk (mcastRun k src n x s).1 := by
  fun_induction mcastRun k src n x s <;> grind [memOk_copyRun]

theorem memOk_mcastSave {s : State} {k va offset dfail} (h : memOk s) : memOk (mcastSave s k va offset dfail) := by
  unfold mcastSave
  grind [memOk_attempt, memOk_store]

theorem memOk_runMcast {s : State} {k e x a b kind} (h : memOk s) : memOk (runMcast s k e x a b kind).state := by
  have run : ∀ {u : State} {o l}, memOk u → memOk (mcastRun k e.x.toNat o l (unprotect u k)).1 :=
    fun h => memOk_mcastRun (memOk_unprotect h)
  simp only [runMcast]
  split
  · exact h
  · split
    · exact h
    · have ht := memOk_loadRange h ‹_›
      split
      · exact ht
      · split
        · exact ht
        · split
          · exact ht
          · split
            · exact ht
            · have hu := memOk_cplIssue ht ‹_›
              split
              · split
                · exact memOk_engEnd (run hu)
                · exact memOk_engEnd (memOk_mcastSave (run hu))
              · exact memOk_engEnd (memOk_foldl (fun h => memOk_note h) (memOk_foldl (fun h => memOk_addTrack h) (run hu)))

theorem memOk_pattRead {s u : State} {k part p i j x0} (h : memOk s) (e : pattRead s k part p i j = .ok (x0, u)) : memOk u := by
  unfold pattRead at e
  grind [memOk_reach]

theorem memOk_gatherRun {s : State} {k part p dst rows cf x y} (h : memOk s) :
    memOk (gatherRun k part p dst rows cf x y s).1 := by
  induction x generalizing s y with
  | zero => exact h
  | succ n ih =>
    unfold gatherRun
    split
    · exact h
    · split
      · exact memOk_pattRead h ‹_›
      · exact ih (memOk_engWrite (memOk_pattRead h ‹_›) ‹_›)

theorem memOk_addFill {s : State} {k start len digest} (h : memOk s) : memOk (addFill s k start len digest) := by
  unfold addFill
  grind [memOk_setCoreAt]

theorem memOk_runGather {s : State} {k e d a kind} (h : memOk s) : memOk (runGather s k e d a kind).state := by
  unfold runGather
  grind [memOk_addFill, memOk_engEnd, memOk_draw, memOk_cplIssue, memOk_unprotect, memOk_gatherRun, Run.state]

theorem memOk_runPatt {s : State} {k e} (h : memOk s) : memOk (runPatt s k e).state := by
  simp only [runPatt]
  split
  · exact h
  · split
    · exact h
    · split
      · exact memOk_setPattAt h
      · split
        · exact h
        · split
          · exact h
          · have ht := memOk_loadRange h ‹_›
            split
            · exact ht
            · split
              · exact ht
              · exact ht
              · split
                · exact ht
                · have hu := memOk_lookup ht ‹_›
                  grind [memOk_setPattAt, Run.state]

theorem memOk_engNat {s u : State} {k va n x0} (h : memOk s) (e : engNat s k va n = .ok (x0, u)) : memOk u := by
  unfold engNat at e
  grind [memOk_engRead]

theorem memOk_collElem {s u : State} {k x i y z x0} (h : memOk s) (e : collElem k x i y z s = .ok (x0, u)) : memOk u := by
  induction y generalizing s z with
  | nil => cases e; exact h
  | cons r rest ih =>
    obtain ⟨⟨base, t⟩, ht, e⟩ := bind_eq_ok.1 e
    obtain ⟨⟨v, w⟩, hw, e⟩ := bind_eq_ok.1 e
    exact ih (memOk_engNat (memOk_engNat h ht) hw) e

theorem memOk_collRun {s : State} {k x y z} (h : memOk s) : memOk (collRun k x y z s).1 := by
  induction y generalizing s z with
  | zero => exact h
  | succ n ih =>
    unfold collRun
    split
    · exact h
    · split
      · exact memOk_collElem h ‹_›
      · exact ih (memOk_engWrite (memOk_collElem h ‹_›) ‹_›)

theorem memOk_collGo {s : State} {k e x kind} (h : memOk s) : memOk (collGo s k e x kind).state := by
  unfold collGo
  grind [memOk_engEnd, memOk_collRun, Run.state]

theorem memOk_collStart {s : State} {k e kind} (h : memOk s) : memOk (collStart s k e kind).state := by
  simp only [collStart]
  split
  · exact h
  · split
    · exact h
    · have ht := memOk_loadRange h ‹_›
      split
      · exact ht
      · split
        · exact ht
        · split
          · exact ht
          · have hu := memOk_drainRepl (memOk_unprotect (k := k) (memOk_cplIssue ht ‹_›))
            split
            · exact memOk_engEnd hu
            · exact memOk_collGo (memOk_engWrite hu ‹_›)

theorem memOk_runColl {s : State} {k e kind} (h : memOk s) : memOk (runColl s k e kind).state := by
  unfold runColl
  grind [memOk_collStart, memOk_collGo]

theorem memOk_runEng {s : State} {k e fn d a b kind} (h : memOk s) : memOk (runEng s k e fn d a b kind).state := by
  unfold runEng
  grind [memOk_runMcast, memOk_runColl, memOk_runGather, memOk_runCopy, memOk_runPatt, memOk_engSignal]


/-! ### Machine/Queue.lean -/

theorem memOk_openTrace {s : State} {k e} (h : memOk s) : memOk (openTrace s k e) := by
  unfold openTrace
  grind [memOk_trace]

theorem memOk_readStreams {s : State} {k x y} (h : memOk s) : memOk (readStreams k x s y).state := by
  fun_induction readStreams k x s y <;> grind [memOk_streamRead, Run.state, LoadOut.state]

theorem memOk_beginEntry {s : State} {k e} (h : memOk s) : memOk (beginEntry s k e).state := by
  unfold beginEntry
  grind [memOk_readStreams, Run.state]

theorem memOk_newStrip {s : State} {k e} (h : memOk s) : memOk (newStrip s k e) := by
  unfold newStrip
  grind [memOk_setHartAt, memOk_commitStrip]

theorem memOk_runSetvl {s : State} {k e d w} (h : memOk s) : memOk (runSetvl s k e d w).state := by
  unfold runSetvl
  grind [memOk_setHartAt, memOk_newStrip, memOk_deliver]

theorem memOk_runCtl {s : State} {k e fn num} (h : memOk s) : memOk (runCtl s k e fn num).state := by
  unfold runCtl
  grind [memOk_ctlPut, Run.state]

theorem memOk_runOp {s : State} {k e} (h : memOk s) : memOk (runOp s k e).state := by
  unfold runOp
  grind [memOk_runSettle, memOk_runCtl, memOk_lanePos, memOk_runLoad, memOk_runMxOp, memOk_runQuant, memOk_runMfirst,
    memOk_runSetvl, memOk_runAmov, memOk_runFill, memOk_runEach, memOk_runDrain, memOk_runSpGrad, memOk_runXtr, memOk_runWhile,
    memOk_runMxTshape, memOk_bindStream, memOk_unbindStream, memOk_seenPos, memOk_runSpEval, memOk_ofExcept, memOk_runRed,
    memOk_runEng, memOk_runMxMode, memOk_runRedIdx, memOk_runMxRead, memOk_runSpRefine, memOk_runMxMv, memOk_runSpGzero,
    memOk_runStore, memOk_runMxZero, memOk_insPos, memOk_runMxWrite, memOk_runHeal, memOk_movePos, memOk_runHold,
    memOk_runSpill, memOk_runWhole, memOk_runMoves, memOk_deliver, memOk_runSpDx, memOk_runSpPair, memOk_runMpop]

theorem memOk_markRegs {s : State} {k e busy} (h : memOk s) :
    memOk (markRegs s k e busy) := memOk_foldl (fun h => memOk_setHartAt h) h

theorem memOk_beginStream {s : State} {k e i x} (h : memOk s) : memOk (beginStream s k e i x).1 := by
  unfold beginStream
  grind [memOk_reserveStrip]

theorem memOk_storeStreams {s : State} {k x y} (h : memOk s) : memOk (storeStreams k x s y).state := by
  fun_induction storeStreams k x s y <;> grind [memOk_beginStream, memOk_runStreamStore, Run.state]

theorem memOk_afterOp {s : State} {k e} (h : memOk s) : memOk (afterOp s k e).state := by
  unfold afterOp
  grind [memOk_storeStreams, memOk_beginStream, Run.state]

theorem memOk_goOn {s : State} {k e} (h : memOk s) : memOk (goOn s k e).state := by
  unfold goOn
  grind [memOk_markRegs, memOk_storeStreams, memOk_runOp, memOk_afterOp, Run.state]

theorem memOk_traced {s : State} {k e} (h : memOk s) : memOk (traced s k e).state := by
  unfold traced
  grind [memOk_goOn, memOk_openTrace, Run.state]

theorem memOk_advance {s : State} {k e} (h : memOk s) : memOk (advance s k e).state := by
  unfold advance
  grind [memOk_traced, memOk_beginEntry, Run.state]

theorem memOk_keep {s : State} {k e} (h : memOk s) : memOk (keep s k e) := by
  unfold keep
  grind [memOk_markRegs, memOk_setHartAt]

theorem memOk_retire {s : State} {k} (h : memOk s) : memOk (retire s k) := by
  unfold retire
  grind [memOk_setHartAt, memOk_settleSync, memOk_haltHart, memOk_reapHoles]

theorem memOk_settle {r : Run} {k old} (hr : memOk r.state) : memOk (settle k old r).1 := by
  unfold settle
  grind [memOk_cplDone, memOk_keep, memOk_raise, memOk_closeTrace, memOk_haltHart, memOk_retire, Run.state]

theorem memOk_headTurn {s : State} {k} (h : memOk s) : memOk (headTurn s k).1 := by
  unfold headTurn
  grind [memOk_settle, memOk_advance, memOk_settleSync]

theorem memOk_runHead {s : State} {k} (h : memOk s) : memOk (runHead s k) := by
  unfold runHead
  grind [memOk_headTurn]

theorem memOk_push {s : State} {e} (h : memOk s) : memOk (push s e) := by
  unfold push
  grind [memOk_setHart, memOk_setCore, memOk_runHead]

theorem memOk_commit {s : State} {e} (h : memOk s) : memOk (commit s e) := by
  unfold commit
  grind [memOk_illegal, memOk_push, memOk_stall]

theorem memOk_ctlCommit {s : State} {fn n x} (h : memOk s) : memOk (ctlCommit s fn n x) := by
  unfold ctlCommit
  grind [memOk_push, memOk_ctlPut, memOk_stall]

theorem memOk_ctlWrite {s u : State} {fn a num} (h : memOk s) (e : ctlWrite fn a num s = .next u) : memOk u := by
  unfold ctlWrite at e
  grind [memOk_stop, memOk_illegal, memOk_finish, memOk_privileged, memOk_ctlPut, memOk_ctlCommit]

theorem memOk_builtinEnd {s : State} {k} (h : memOk s) : memOk (builtinEnd s k) := h

theorem memOk_builtinStep {s : State} {k} (h : memOk s) : memOk (builtinStep s k) := by
  simp only [builtinStep]
  split
  · split
    · exact memOk_builtinEnd (memOk_fillHeld h)
    · split
      · exact memOk_builtinEnd h
      · exact memOk_raise h
  · split
    · exact memOk_raise h
    · have ht := memOk_loadRange h ‹_›
      split
      · exact memOk_raise (memOk_setHartAt ht)
      · exact ht


/-! ### Machine/VecArith.lean -/

theorem memOk_laneT {s u : State} {maj fn t d a b c} (h : memOk s) (e : laneT maj fn t d a b c s = .next u) : memOk u := by
  unfold laneT at e
  grind [memOk_commit]

theorem memOk_vvForm {s u : State} {fn d a b t} (h : memOk s) (e : vvForm fn d a b t s = .next u) : memOk u := by
  unfold vvForm at e
  grind [memOk_laneT]

theorem memOk_vxForm {s u : State} {fn d a b t} (h : memOk s) (e : vxForm fn d a b t s = .next u) : memOk u := by
  unfold vxForm at e
  grind [memOk_laneT]

theorem memOk_viForm {s u : State} {fn d a imm t} (h : memOk s) (e : viForm fn d a imm t s = .next u) : memOk u := by
  unfold viForm at e
  grind [memOk_laneT]

theorem memOk_vqForm {s u : State} {fn d a b c t3} (h : memOk s) (e : vqForm fn d a b c t3 s = .next u) : memOk u := by
  unfold vqForm at e
  grind [memOk_laneT]


/-! ### Machine/VecMask.lean -/

theorem memOk_cmpForm {s u : State} {fn t d a y} (h : memOk s) (e : cmpForm fn t d a y s = .next u) : memOk u := by
  unfold cmpForm at e
  grind [memOk_commit]

theorem memOk_maskForm {s u : State} {fn d a b} (h : memOk s) (e : maskForm fn d a b s = .next u) : memOk u := by
  unfold maskForm at e
  grind [memOk_commit]

theorem memOk_redForm {s u : State} {op fn d b} (h : memOk s) (e : redForm op fn d b s = .next u) : memOk u := by
  unfold redForm at e
  grind [memOk_commit]


/-! ### Machine/VecMove.lean -/

theorem memOk_permForm {s u : State} {op fn x y} (h : memOk s) (e : permForm op fn x y s = .next u) : memOk u := by
  unfold permForm at e
  grind [memOk_commit]

theorem memOk_presForm {s u : State} {op fn x y} (h : memOk s) (e : presForm op fn x y s = .next u) : memOk u := by
  unfold presForm at e
  grind [memOk_commit]


/-! ### Machine/VecFloat.lean -/

theorem memOk_sfuForm {s u : State} {fn d a t} (h : memOk s) (e : sfuForm fn d a t s = .next u) : memOk u := by
  unfold sfuForm at e
  grind [memOk_laneT]


/-! ### Machine/VecMem.lean -/

theorem memOk_loadForm {s u : State} {mode d a b t} (h : memOk s) (e : loadForm mode d a b t s = .next u) : memOk u := by
  unfold loadForm at e
  grind [memOk_commit]

theorem memOk_storeForm {s u : State} {mode ordered d a b t} (h : memOk s) (e : storeForm mode ordered d a b t s = .next u) :
    memOk u := by
  unfold storeForm at e
  grind [memOk_commit]

theorem memOk_stmForm {s u : State} {op x y} (h : memOk s) (e : stmForm op x y s = .next u) : memOk u := by
  unfold stmForm at e
  grind [memOk_commit]

theorem memOk_amovForm {s u : State} {fn d a b t ord} (h : memOk s) (e : amovForm fn d a b t ord s = .next u) : memOk u := by
  unfold amovForm at e
  grind [memOk_commit]


/-! ### Machine/ArrayInsn.lean -/

theorem memOk_arrayForm {s u : State} {op maj fn x y} (h : memOk s) (e : arrayForm op maj fn x y s = .next u) : memOk u := by
  unfold arrayForm at e
  grind [memOk_commit]

theorem memOk_engForm {s u : State} {fn d a b kind} (h : memOk s) (e : engForm fn d a b kind s = .next u) : memOk u := by
  unfold engForm at e
  grind [memOk_commit]


/-! ### Machine/Context.lean -/

theorem memOk_stopForImage {s : State} {k} (h : memOk s) : memOk (stopForImage s k) := by
  unfold stopForImage
  grind [memOk_setHartAt, memOk_settleRepl, memOk_writeBackStreams, memOk_untrack, memOk_unprotect]

theorem memOk_stopSlot {s : State} {k} (h : memOk s) : memOk (stopSlot s k) := by
  unfold stopSlot
  grind [memOk_setHartAt, memOk_setCoreAt, memOk_stopForImage]

theorem memOk_storeImage {s : State} {k va x y} (h : memOk s) : memOk (storeImage k va x y s).1 := by
  fun_induction storeImage k va x y s <;> grind [memOk_storeBy]

theorem memOk_leaveSlots {s : State} {keep core slots} (h : memOk s) : memOk (leaveSlots keep core slots s) := by
  unfold leaveSlots
  split
  · exact h
  · exact memOk_foldl (fun h => memOk_setHartAt h) h

theorem memOk_csaveImage {s : State} {d core slots withCore} (h : memOk s) : memOk (csaveImage d core slots withCore s).2 := h

theorem memOk_joinHoles {s : State} {core slot es} (h : memOk s) : memOk (joinHoles core slot es s) := by
  unfold joinHoles
  grind [memOk_setHartAt, memOk_reviveHoles, memOk_setCoreAt]

theorem memOk_dropHoles {s : State} {core slots} (h : memOk s) : memOk (dropHoles core slots s) := by
  refine memOk_foldl (fun {s n} h => ?_) (memOk_setCoreAt h)
  grind [memOk_setHartAt]

theorem memOk_applyImage {r} {s : State} {core go} (h : memOk s) :
    memOk (applyImage s core r go) := memOk_foldl (fun h => memOk_joinHoles h) (memOk_foldl (fun h => memOk_setHartAt h)
    (memOk_setCoreAt (memOk_dropHoles (memOk_foldl (fun h => memOk_settleRepl h _) h))))


/-! ### Machine/Issue.lean -/

theorem memOk_enterOne {s : State} {k before e} (h : memOk s) : memOk (enterOne s k before e).1 := by
  unfold enterOne
  grind [memOk_runAhead]

theorem memOk_enterFrom {s : State} {k before x} (h : memOk s) : memOk (enterFrom k before x s).2 := by
  fun_induction enterFrom k before x s <;> grind [memOk_enterOne]

theorem memOk_enterAhead {s : State} {k} (h : memOk s) : memOk (enterAhead s k) := by
  unfold enterAhead
  grind [memOk_setHartAt, memOk_enterOne, memOk_enterFrom]


/-! ### Machine/EventsRun.lean -/

theorem memOk_serve {s u : State} {r read write b} (h : memOk s) (hw : ∀ {b u}, write b = .ok u → memOk u)
    (e : serve s r read write = .ok (b, u)) :
    memOk u := by
  have written : ∀ {d : List Byte} {b'}, (write d).map (fun s => (b', s)) = .ok (b, u) → memOk u := fun e => by
    obtain ⟨v, hv, e⟩ := map_eq_ok.1 e
    cases e
    exact hw hv
  unfold serve at e
  split at e
  · obtain ⟨_, -, e⟩ := map_eq_ok.1 e
    cases e
    exact h
  · exact written e
  · split at e
    · cases e
    · split at e
      · cases e
      · dsimp only at e
        split at e
        · cases e
          exact h
        · split at e
          · exact written e
          · cases e
            exact h
        · exact written e

theorem memOk_performDev {r} {s u : State} {part x0} (h : memOk s) (e : performDev s r part = .ok (x0, u)) : memOk u := by
  simp only [performDev] at e
  split at e
  · cases e
  · exact memOk_serve (memOk_foldl (fun h => memOk_reach h _ _) h)
      (fun e => memOk_inboundWrite (memOk_foldl (fun h => memOk_reach h _ _) h) e) e

theorem memOk_performSpad {r} {s u : State} {c x0} (h : memOk s) (e : performSpad s r c = .ok (x0, u)) : memOk u := by
  unfold performSpad at e
  grind [memOk_serve, memOk_setCoreAt]

theorem memOk_perform {r} {s u : State} {x0} (h : memOk s) (e : perform s r = .ok (x0, u)) : memOk u := by
  unfold perform at e
  grind [memOk_regStore, memOk_performDev, memOk_performSpad, memOk_serve]

theorem memOk_afterRequest {s : State} {r : Except Stop (List Byte × State)} (h : memOk s) (hr : ∀ {b u}, r = .ok
    (b, u) → memOk u) :
    memOk (afterRequest s r) := by
  unfold afterRequest
  grind [memOk_seeError, memOk_raise]

theorem memOk_stopTimeout {s : State} {k kind t} (h : memOk s) : memOk (stopTimeout s k kind t) := h

theorem memOk_moveTask {s : State} {die id} (h : memOk s) : memOk (moveTask s die id) := by
  unfold moveTask
  grind [memOk_unqueue, memOk_killTask, memOk_enqueue, memOk_setTask]

theorem memOk_clearCore {s : State} {core} (h : memOk s) : memOk (clearCore s core) := by
  unfold clearCore
  grind [memOk_preemptGang]

theorem memOk_debugEvent {s : State} {f : State} {u : State} (h : memOk s) (hf : memOk f) (e : debugEvent s f = .next u) :
    memOk u := by
  unfold debugEvent at e
  grind []


/-! ### Machine/EventsPower.lean -/

theorem memOk_setClock {s : State} {cl f} (h : memOk s) : memOk (setClock s cl f) := by
  unfold setClock
  grind [memOk_syncCluster, memOk_setDieAt, memOk_setClusterAt]

theorem memOk_setCeilings {s : State} {die f} (h : memOk s) : memOk (setCeilings s die f) := by
  unfold setCeilings
  split
  · exact memOk_diverge h
  · exact memOk_foldl (fun h => memOk_setClock h) h

theorem memOk_thermal {s : State} {die beyond cooled} (h : memOk s) : memOk (thermal s die beyond cooled) := h

theorem memOk_intervalEnd {s : State} {die} (h : memOk s) :
    memOk (intervalEnd s die) := memOk_foldl (fun h => memOk_setClock h) (memOk_setDieAt h)


/-! ### Machine/EventsMem.lean -/

theorem memOk_giveBack {s : State} {part} (h : memOk s) : memOk (giveBack s part) := h

theorem memOk_portChange {s : State} {port up} (h : memOk s) : memOk (portChange s port up) := h

theorem memOk_serveFabric {r} {s : State} {port} (h : memOk s) : memOk (serveFabric s port r) := by
  unfold serveFabric
  grind [memOk_perform, memOk_afterRequest]

theorem memOk_drainPort {s : State} {port x} (h : memOk s) : memOk (drainPort port x s) := by
  fun_induction drainPort port x s <;> grind [memOk_serveFabric, memOk_setPortAt]

theorem memOk_fabricRequest {r} {s : State} {port} (h : memOk s) : memOk (fabricRequest s port r) := by
  unfold fabricRequest
  grind [memOk_setPortAt, memOk_drainPort]

theorem memOk_drainPorts {s : State} (h : memOk s) : memOk (drainPorts s) := memOk_foldl (fun h => memOk_drainPort h) h


/-! ### Machine/EventsHost.lean -/

theorem memOk_windowRefused {s : State} {fn off st} (h : memOk s) : memOk (windowRefused s fn off st) := by
  unfold windowRefused
  grind [memOk_send, memOk_seeError, memOk_setPartAt]

theorem memOk_plinthStopped {s : State} {st} (h : memOk s) : memOk (plinthStopped s st) := by
  unfold plinthStopped
  grind [memOk_seeError, memOk_raise]

theorem memOk_windowDo {s : State} {fn off n acc run} (h : memOk s) (hrun : ∀ {s d b u}, memOk s → run s d = .ok
    (b, u) → memOk u) :
    memOk (windowDo s fn off n acc run).2 := by
  unfold windowDo
  grind [memOk_windowRefused, memOk_reachTables2, memOk_reach, memOk_plinthStopped]

theorem memOk_hostPut {s : State} {fn off data} (h : memOk s) : memOk (hostPut s fn off data) := by
  refine memOk_windowDo h fun {s d b u} h e => ?_
  obtain ⟨v, hv, e⟩ := map_eq_ok.1 e
  cases e
  exact memOk_inboundWrite h hv

theorem memOk_hostWrite {s : State} {fn off data} (h : memOk s) :
    memOk (hostWrite s fn off data) := memOk_foldl (fun h => memOk_hostPut h) h

theorem memOk_answerHost {fn} {r : Option (List Byte) × State} (h : memOk r.2) : memOk (answerHost fn r) := h

theorem memOk_hostAtomic {s : State} {fn off q n} (h : memOk s) : memOk (hostAtomic s fn off q n) := by
  unfold hostAtomic
  grind [memOk_inboundWrite, memOk_setPartAt, memOk_answerHost, memOk_windowDo, memOk_serve]

theorem memOk_hostData {s : State} {fn off d} (h : memOk s) : memOk (hostData s fn off d) := by
  unfold hostData
  grind [memOk_hostAtomic, memOk_hostWrite]

theorem memOk_hostGet {s : State} {fn off len} (h : memOk s) : memOk (hostGet s fn off len).2 := by
  refine memOk_windowDo h fun {s d b u} h e => ?_
  obtain ⟨v, hv, e⟩ := map_eq_ok.1 e
  cases e
  exact h

theorem memOk_hostRead {s : State} {fn x} (h : memOk s) : memOk (hostRead fn x s).2 := by
  fun_induction hostRead fn x s <;> grind [memOk_hostGet]

theorem memOk_latchEnergy {s : State} {fn} (h : memOk s) : memOk (latchEnergy s fn) := h

theorem memOk_barRead {s : State} {fn off n} (h : memOk s) : memOk (barRead s fn off n).2 := by
  unfold barRead
  grind [memOk_latchEnergy]

theorem memOk_hostReadAt {s : State} {fn a n} (h : memOk s) : memOk (hostReadAt s fn a n) := by
  unfold hostReadAt
  grind [memOk_hostRead, memOk_barRead, memOk_answerHost]

theorem memOk_writeMbtail {s : State} {fn v} (h : memOk s) : memOk (writeMbtail s fn v) := by
  unfold writeMbtail
  grind [memOk_flushHost, memOk_setPartAt]

theorem memOk_writeMbbase {s : State} {fn v} (h : memOk s) : memOk (writeMbbase s fn v) := by
  unfold writeMbbase
  grind [memOk_setPartAt]

theorem memOk_writeWinbase {s : State} {fn v} (h : memOk s) : memOk (writeWinbase s fn v) := by
  unfold writeWinbase
  grind [memOk_setPartAt]

theorem memOk_submit {s : State} {fn v} (h : memOk s) : memOk (submit s fn v) := by
  unfold submit
  grind [memOk]

theorem memOk_hostPlace {s u : State} {part ctx acc va x0} (h : memOk s) (e : hostPlace s part ctx acc va = .ok (x0, u)) :
    memOk u := by
  revert e
  fun_cases hostPlace s part ctx acc va <;> grind [memOk_reachTables, memOk_reach]

theorem memOk_hostSpawn {s u : State} {part v} (h : memOk s) (e : hostSpawn s part v = .ok u) : memOk u := by
  unfold hostSpawn at e
  dsimp only at e
  split at e
  · cases e
  · obtain ⟨⟨d, t⟩, ht, e⟩ := bind_eq_ok.1 e
    obtain ⟨b, -, e⟩ := bind_eq_ok.1 e
    have ht : memOk t := memOk_hostPlace h ht
    dsimp only at e
    split at e
    · obtain ⟨⟨l, w⟩, hw, e⟩ := bind_eq_ok.1 e
      cases hw
      split at e
      · cases e
      · exact memOk_spawnAt ht e
    · obtain ⟨_, -, e⟩ := bind_eq_ok.1 e
      obtain ⟨⟨q, w⟩, hw, e⟩ := bind_eq_ok.1 e
      obtain ⟨⟨l, w'⟩, hl, e⟩ := bind_eq_ok.1 e
      obtain ⟨_, -, hl⟩ := map_eq_ok.1 hl
      cases hl
      split at e
      · cases e
      · exact memOk_spawnAt (memOk_hostPlace ht hw) e

theorem memOk_writeHspawn {s : State} {fn v} (h : memOk s) : memOk (writeHspawn s fn v) := by
  unfold writeHspawn
  grind [memOk_send, memOk_hostSpawn, memOk_seeError, memOk_raise]

theorem memOk_barWrite {s : State} {fn off v} (h : memOk s) : memOk (barWrite s fn off v) := by
  unfold barWrite
  grind [memOk_submit, memOk_writeMbtail, memOk_writeHspawn, memOk_writeMbbase, memOk_writeWinbase]

theorem memOk_hostRegister {s : State} {fn off v} (h : memOk s) : memOk (hostRegister s fn off v) := by
  unfold hostRegister
  grind [memOk_barWrite, memOk_arrives]

theorem memOk_writeSteward {s u : State} {addr v} (h : memOk s) (e : writeSteward s addr v = some u) : memOk u := by
  unfold writeSteward at e
  grind [memOk_setPortAt, memOk]

theorem memOk_drawEntropy {s : State} {n} (h : memOk s) : memOk (drawEntropy s n).2 := by
  unfold drawEntropy
  split
  · exact h
  · exact memOk_arrives (s := { s with free := s.free + n }) h

theorem memOk_writeResult {s : State} {c status result} (h : memOk s) : memOk (writeResult s c status result) := by
  unfold writeResult
  dsimp only
  split
  · exact h
  · exact ⟨h.1, Memory.wf_writeBytes (Memory.wf_writeBytes h.2.1 _ _) _ _, h.2.2⟩

theorem memOk_retireStack {s : State} {stack} (h : memOk s) : memOk (retireStack s stack).1 := by
  unfold retireStack
  grind [memOk_queueStack]

theorem memOk_assignPorts {s : State} {ports part} (h : memOk s) :
    memOk (assignPorts s ports part) := memOk_foldl (fun h => memOk_setPortAt h) h

theorem memOk_createPart {s : State} {part clusters ports ranges} (h : memOk s) :
    memOk (createPart s part clusters ports ranges).1 := by
  unfold createPart
  grind [memOk_assignPorts, memOk_setPartAt]

theorem memOk_zeroRange {r} {s : State} (h : memOk s) : memOk (zeroRange s r) := ⟨Memory.wf_clear h.1 _ _, h.2⟩

theorem memOk_destroyPart {s : State} {part} (h : memOk s) : memOk (destroyPart s part).1 := by
  simp only [destroyPart]
  split
  · exact h
  · exact memOk_assignPorts (memOk_setPartAt (memOk_foldl (fun h => memOk_zeroRange h) (memOk_resetPartition h)))

theorem memOk_resetPart {s : State} {part} (h : memOk s) : memOk (resetPart s part).1 := by
  unfold resetPart
  grind [memOk_resetPartition]

theorem memOk_quote {s : State} {nonce} (h : memOk s) : memOk (quote s nonce).1 := memOk_drawEntropy h

theorem memOk_giveChallenge {s : State} (h : memOk s) : memOk (giveChallenge s).1 := memOk_drawEntropy h

theorem memOk_unlock {s : State} {challenge vendor} (h : memOk s) : memOk (unlock s challenge vendor).1 := by
  unfold unlock
  grind [memOk]

theorem memOk_runManaged {s : State} {op vendor} (h : memOk s) : memOk (runManaged op vendor s).1 := by
  cases op with
  | retire => exact memOk_retireStack h
  | create => exact memOk_createPart h
  | destroy => exact memOk_destroyPart h
  | reset => exact memOk_resetPart h
  | quote => exact memOk_quote h
  | challenge => exact memOk_giveChallenge h
  | unlock => exact memOk_unlock h
  | record => exact h

theorem memOk_runCommand {s : State} {c vendor} (h : memOk s) : memOk (runCommand s c vendor) := by
  have sequenced : memOk { s with stew := { s.stew with lastSeq := leNat (blockBytes c s 8 8) } } := h
  unfold runCommand
  grind [memOk_writeResult, memOk_runManaged]

theorem memOk_takeCommand_logged {s : State} {c vendor} (h : memOk s) : memOk (takeCommand.logged c vendor s) := by
  unfold takeCommand.logged
  grind [memOk_arrives]

theorem memOk_takeCommand {s : State} {c op vendor} (h : memOk s) : memOk (takeCommand s c op vendor) := by
  unfold takeCommand
  grind [memOk_takeCommand_logged, memOk_runCommand]

theorem memOk_loadPolicers {s : State} (h : memOk s) : memOk (loadPolicers s) := memOk_foldl (fun h => memOk_setPortAt h) h

theorem memOk_packageState {s : State} {replay} (h : memOk s) : memOk (packageState s replay) := by
  refine memOk_loadPolicers ?_
  split
  · exact memOk_assignPorts h
  · exact h

theorem memOk_loadImage {r} {s : State} (h : memOk s) :
    memOk (loadImage s r) := memOk_pass (memOk_enqueue (memOk_setTask (memOk_setPartAt (memOk_foldl (fun h => memOk_poke h _ _) h))))

theorem memOk_measure {s : State} {n c} (h : memOk s) : memOk (measure s n c) := h

theorem memOk_bootStages {s : State} {x y} (h : memOk s) : memOk (bootStages x y s) := by
  induction y generalizing s x with
  | nil => exact h
  | cons c rest ih =>
    have hm : memOk (measure s x c) := memOk_measure h
    simp only [bootStages]
    split
    · exact hm
    · exact ih hm

theorem memOk_bootImage {r} {s : State} (h : memOk s) : memOk (bootImage s r) := by
  unfold bootImage
  grind [memOk_measure, memOk_loadImage]

theorem memOk_boot {s : State} {chain images} (h : memOk s) : memOk (boot s chain images) := by
  have staged : ∀ {x y}, memOk (bootStages x y
      ({ s with stew := { s.stew with chain := chain, images := images } }.arrives (.boot images))) :=
    memOk_bootStages (memOk_arrives h)
  simp only [boot]
  split
  · exact memOk_foldl (fun h => memOk_bootImage h) staged
  · exact staged

theorem memOk_inject {s u : State} {a} (h : memOk s) (e : inject s a = some u) : memOk u := by
  cases a with
  | write => cases e; exact memOk_hostData h
  | read => cases e; exact memOk_hostReadAt h
  | register => cases e; exact memOk_barWrite h
  | port n r =>
    simp only [inject] at e
    split at e <;> cases e
    exact memOk_fabricRequest h
  | command => cases e; exact memOk_runCommand h
  | entropy => cases e; exact h
  | boot => cases e; exact h


/-! ### The dispatch and a step -/

theorem memOk_fetchTurn {s : State} (h : memOk s) : memOk (fetchTurn s).state := by
  unfold fetchTurn
  grind [memOk_stop, memOk_illegalWord, memOk_fetchWord, Turn.state]

theorem memOk_issueTurn {s : State} (h : memOk s) : memOk (issueTurn s).state := by
  unfold issueTurn
  grind [memOk_fetchTurn, memOk_haltHart, Turn.state]

theorem memOk_vectorTurn {s : State} (h : memOk s) : memOk (vectorTurn s).state := by
  unfold vectorTurn
  grind [memOk_headTurn, memOk_enterAhead, memOk_issueTurn, Turn.state]

theorem memOk_runningTurn {s : State} (h : memOk s) : memOk (runningTurn s).state := by
  unfold runningTurn
  grind [memOk_vectorTurn, memOk_setHart, memOk_settleSync, memOk_builtinStep, memOk_raise, memOk_issueTurn, Turn.state]

theorem memOk_turnOf {s : State} (h : memOk s) : memOk (turnOf s).state := by
  unfold turnOf
  grind [memOk_runningTurn, memOk_setHart, memOk_dispatchHelper, memOk_runHead, Turn.state]

theorem memOk_endTurn {before after : State} (h : memOk after) : memOk (endTurn before after) := by
  unfold endTurn
  grind [memOk_drainPorts, memOk_tick]


/-! ### Machine/LoadStore.lean -/

theorem memOk_execLd {s u : State} {d a t off} (h : memOk s) (e : execLd d a t off s = .next u) : memOk u := by
  unfold execLd at e
  grind [memOk_stop, memOk_writeReg, memOk_load]

theorem memOk_execSt {s u : State} {d a t off} (h : memOk s) (e : execSt d a t off s = .next u) : memOk u := by
  unfold execSt at e
  grind [memOk_stop, memOk_reserveStrip, memOk_finish, memOk_store]

theorem memOk_execJrCall {s u : State} {d a} (h : memOk s) (e : execJrCall d a s = .next u) : memOk u := by
  unfold execJrCall at e
  grind [memOk_jumpTo]


/-! ### Machine/Fpu.lean -/

theorem memOk_execFpuTobf16sr {s u : State} {d a} (h : memOk s) (e : execFpuTobf16sr d a s = .next u) : memOk u := by
  unfold execFpuTobf16sr at e
  grind [memOk_fpuEnd, memOk_setHart]


/-! ### Machine/Control.lean -/

theorem memOk_execCtlRd {s u : State} {d num} (h : memOk s) (e : execCtlRd d num s = .next u) : memOk u := by
  unfold execCtlRd at e
  grind [memOk_stop, memOk_writeReg, memOk_syncCtl]


/-! ### Machine/System.lean -/

theorem memOk_execIll {s u : State} {x} (h : memOk s) (e : execIll x s = .next u) : memOk u := by
  unfold execIll at e
  grind [memOk_illegalWord]

theorem memOk_execIll3f {s u : State} {x} (h : memOk s) (e : execIll3f x s = .next u) : memOk u := by
  unfold execIll3f at e
  grind [memOk_illegalWord]

theorem memOk_execSvc {s u : State} {n} (h : memOk s) (e : execSvc n s = .next u) : memOk u := by
  unfold execSvc at e
  grind [memOk_raise]

theorem memOk_execTret {s u : State} (h : memOk s) (e : execTret s = .next u) : memOk u := by
  unfold execTret at e
  grind [memOk_leaveTrap]

theorem memOk_execIdle {s u : State} {d a} (h : memOk s) (e : execIdle d a s = .next u) : memOk u := by
  unfold execIdle at e
  grind [memOk_writeReg, memOk_waitFor]

theorem memOk_execBrk {s u : State} {code} (h : memOk s) (e : execBrk code s = .next u) : memOk u := by
  unfold execBrk at e
  grind [memOk_stop, memOk_haltHart]

theorem memOk_execId {s u : State} {d} (h : memOk s) (e : execId d s = .next u) : memOk u := by
  unfold execId at e
  grind [memOk_writeReg]

theorem memOk_execTlbinvPage {s u : State} {a scope} (h : memOk s) (e : execTlbinvPage a scope s = .next u) : memOk u := by
  unfold execTlbinvPage at e
  grind [memOk_tlbinv]

theorem memOk_execHalt {s u : State} (h : memOk s) (e : execHalt s = .next u) : memOk u := by
  unfold execHalt at e
  grind [memOk_send, memOk_setHart, memOk_supervisor]


/-! ### Machine/Atomic.lean -/

theorem memOk_execAmoCas2 {s u : State} {d a b x ord} (h : memOk s) (e : execAmoCas2 d a b x ord s = .next u) : memOk u := by
  unfold execAmoCas2 at e
  grind [memOk_stop, memOk_finish, memOk_afterAmo, memOk_atomicAt, memOk_beforeAmo]

theorem memOk_execFenAll {s u : State} {scope} (h : memOk s) (e : execFenAll scope s = .next u) : memOk u := by
  unfold execFenAll at e
  grind [memOk_setHart, memOk_drainRepl, memOk_fence]

theorem memOk_execFenLoad {s u : State} {x} (h : memOk s) (e : execFenLoad x s = .next u) : memOk u := by
  unfold execFenLoad at e
  grind [memOk_settleAtomics, memOk_fence]

theorem memOk_execFenStore {s u : State} {x} (h : memOk s) (e : execFenStore x s = .next u) : memOk u := by
  unfold execFenStore at e
  grind [memOk_drainRepl, memOk_fence]

theorem memOk_execFenEng {s u : State} {x} (h : memOk s) (e : execFenEng x s = .next u) : memOk u := by
  unfold execFenEng at e
  grind [memOk_drainRepl, memOk_fence]

theorem memOk_execFenPhase {s u : State} {d a} (h : memOk s) (e : execFenPhase d a s = .next u) : memOk u := by
  unfold execFenPhase at e
  grind [memOk_writeReg, memOk_commitStrip, memOk_drainRepl, memOk_waitFor]


/-! ### Machine/Sync.lean -/

theorem memOk_execBarInit {s u : State} {d a} (h : memOk s) (e : execBarInit d a s = .next u) : memOk u := by
  cases e
  refine memOk_orStop h fun {u} e => ?_
  obtain ⟨r, -, e⟩ := bind_eq_ok.1 e
  dsimp only at e
  split at e
  · cases e
  · split at e
    · cases e
    · cases e
      exact memOk_finish (memOk_barSet (memOk_commitStrip h _)) _

theorem memOk_execBarArrive {s u : State} {d a} (h : memOk s) (e : execBarArrive d a s = .next u) : memOk u := by
  unfold execBarArrive at e
  grind [memOk_stop, memOk_writeReg, memOk_arrive]

theorem memOk_execBarWait {s u : State} {d a} (h : memOk s) (e : execBarWait d a s = .next u) : memOk u := by
  unfold execBarWait at e
  grind [memOk_stop, memOk_barAwait, memOk_commitStrip, memOk_finish]

theorem memOk_execBarSync {s u : State} {d a} (h : memOk s) (e : execBarSync d a s = .next u) : memOk u := by
  unfold execBarSync at e
  grind [memOk_stop, memOk_writeReg, memOk_barAwait, memOk_arrive, memOk_setHart]

theorem memOk_execFutInit {s u : State} {d a} (h : memOk s) (e : execFutInit d a s = .next u) : memOk u := by
  cases e
  refine memOk_orStop h fun {u} e => ?_
  obtain ⟨⟨p, f, t⟩, ht, e⟩ := bind_eq_ok.1 e
  have ht : memOk t := memOk_futureAt h ht
  dsimp only at e
  split at e
  · cases e
  · obtain ⟨v, hv, e⟩ := bind_eq_ok.1 e
    cases e
    exact memOk_writeReg (memOk_writeAt ht hv)

theorem memOk_execFutReg {s u : State} {d a} (h : memOk s) (e : execFutReg d a s = .next u) : memOk u := by
  cases e
  refine memOk_orStop h fun {u} e => ?_
  obtain ⟨_, -, e⟩ := bind_eq_ok.1 e
  split at e
  · cases e
  · obtain ⟨⟨p, f, t⟩, ht, e⟩ := bind_eq_ok.1 e
    have ht : memOk t := memOk_futureAt (memOk_drainRepl (memOk_commitStrip h _)) ht
    dsimp only at e
    split at e
    · obtain ⟨⟨q, v⟩, hv, e⟩ := bind_eq_ok.1 e
      obtain ⟨w, hw, e⟩ := bind_eq_ok.1 e
      obtain ⟨x, hx, e⟩ := bind_eq_ok.1 e
      cases e
      exact memOk_writeReg (memOk_pendingChange (memOk_writeAt (memOk_localPlace ht hv) hw) hx)
    · cases e
    · cases e
      exact memOk_writeReg ht
    · obtain ⟨⟨q, v⟩, hv, e⟩ := bind_eq_ok.1 e
      obtain ⟨w, hw, e⟩ := bind_eq_ok.1 e
      cases e
      exact memOk_writeReg (memOk_setFailin (memOk_localPlace ht hv) hw)


/-! ### Machine/Spawn.lean -/

theorem memOk_execTaskExit {s u : State} (h : memOk s) (e : execTaskExit s = .next u) : memOk u := by
  unfold execTaskExit at e
  grind [memOk_illegal, memOk_setHartAt, memOk_commitStrip, memOk_finishTask, memOk_drainRepl, memOk_setCore, memOk_stall]

theorem memOk_execTaskYield {s u : State} {d} (h : memOk s) (e : execTaskYield d s = .next u) : memOk u := by
  unfold execTaskYield at e
  grind [memOk_preemptGang, memOk_writeReg, memOk_commitStrip, memOk_placeTask, memOk_pass, memOk_dequeue]

theorem memOk_execHqTake {s u : State} (h : memOk s) (e : execHqTake s = .next u) : memOk u := by
  unfold execHqTake at e
  grind [memOk_illegal, memOk_takeEntry, memOk_waitFor]

theorem memOk_execHqFill {s u : State} {a b} (h : memOk s) (e : execHqFill a b s = .next u) : memOk u := by
  unfold execHqFill at e
  grind [memOk_illegal, memOk_fillHeld, memOk_finish]

theorem memOk_execHqFail {s u : State} {a b} (h : memOk s) (e : execHqFail a b s = .next u) : memOk u := by
  unfold execHqFail at e
  grind [memOk_illegal, memOk_finish, memOk_setHart, memOk_failEntry, memOk_drainRepl, memOk_trace]


/-! ### Machine/Queue.lean -/

theorem memOk_execSetvl {s u : State} {d a wid} (h : memOk s) (e : execSetvl d a wid s = .next u) : memOk u := by
  unfold execSetvl at e
  grind [memOk_commit, memOk_stall]

theorem memOk_execSetrows {s u : State} {d a} (h : memOk s) (e : execSetrows d a s = .next u) : memOk u := by
  unfold execSetrows at e
  grind [memOk_setHart, memOk_commit, memOk_push]


/-! ### Machine/VecMask.lean -/

theorem memOk_execVwhile {s u : State} {d a cond off t3} (h : memOk s) (e : execVwhile d a cond off t3 s = .next u) :
    memOk u := by
  unfold execVwhile at e
  grind [memOk_commit]


/-! ### Machine/VecFloat.lean -/

theorem memOk_execVcvt {s u : State} {d a b t src rnd} (h : memOk s) (e : execVcvt d a b t src rnd s = .next u) : memOk u := by
  unfold execVcvt at e
  grind [memOk_commit]


/-! ### Machine/Context.lean -/

theorem memOk_execCsave {s u : State} {d a slots keep core} (h : memOk s) (e : execCsave d a slots keep core s = .next u) :
    memOk u := by
  unfold execCsave at e
  extract_lets h' n named others va at e
  split at e
  · cases e; exact memOk_privileged h
  · split at e
    · cases e; exact memOk_writeReg h
    · split at e
      · cases e; exact memOk_stop h
      · rename_i t v _ _ _
        have ht : memOk t := memOk_unprotect (memOk_foldl (fun h => memOk_stopSlot h) h)
        have hv : memOk v := by
          unfold v
          split
          · exact memOk_stopForImage ht
          · exact ht
        split at e
        · cases e; exact memOk_stall h
        · split at e
          · cases e; exact memOk_stop hv
          · have hw := memOk_csaveImage (d := d) (core := n) (slots := named) (withCore := core) hv
            split at e
            rename_i image w hi
            rw [hi] at hw
            have hx := memOk_storeImage (k := s.turn) (va := va) (x := image.length / 8) (y := image) hw
            split at e <;> rename_i hs <;> rw [hs] at hx <;> cases e
            · exact memOk_stop hx
            · exact memOk_leaveSlots (memOk_writeReg hx)

theorem memOk_execCrest {s u : State} {a go} (h : memOk s) (e : execCrest a go s = .next u) : memOk u := by
  unfold execCrest at e
  dsimp only at e
  split at e
  · cases e; exact memOk_privileged h
  · split at e
    · cases e; exact memOk_stop h
    · split at e
      · cases e; exact memOk_stop h
      · have ht := memOk_loadRange h ‹_›
        split at e
        · cases e; exact memOk_stop h
        · split at e
          · cases e; exact memOk_stop h
          · have hv := memOk_loadRange ht ‹_›
            split at e
            · cases e; exact memOk_stop h
            · split at e
              · cases e; exact memOk_stop h
              · split at e
                · cases e; exact memOk_stall h
                · split at e
                  · cases e; exact memOk_applyImage hv
                  · cases e; exact memOk_finish (memOk_applyImage hv) _


/-! ### Machine/EventsRun.lean -/

theorem memOk_execTrapEntry {s u : State} {t} (h : memOk s) (e : execTrapEntry t s = .next u) : memOk u := by
  unfold execTrapEntry at e
  grind [memOk_raise]

theorem memOk_execTableWalk {s u : State} {va acc} (h : memOk s) (e : execTableWalk va acc s = .next u) : memOk u := by
  unfold execTableWalk at e
  grind [memOk_stop, memOk_translate]

theorem memOk_execAccessPerform {r} {s u : State} (h : memOk s) (e : execAccessPerform r s = .next u) : memOk u := by
  unfold execAccessPerform at e
  grind [memOk_perform, memOk_afterRequest]

theorem memOk_execTargetFaultReport {s u : State} {hart elem row t} (h : memOk s)
    (e : execTargetFaultReport hart elem row t s = .next u) :
    memOk u := by
  unfold execTargetFaultReport at e
  grind [memOk_setHartAt]

theorem memOk_execReplCopyUpdate {s u : State} {die k} (h : memOk s) (e : execReplCopyUpdate die k s = .next u) : memOk u := by
  unfold execReplCopyUpdate at e
  grind [memOk]

theorem memOk_execStreamReadAhead {s u : State} {x y} (h : memOk s) (e : execStreamReadAhead x y s = .next u) : memOk u := by
  unfold execStreamReadAhead at e
  grind []

theorem memOk_execEngCompletion {s u : State} {hart kind block status} (h : memOk s)
    (e : execEngCompletion hart kind block status s = .next u) :
    memOk u := by
  unfold execEngCompletion at e
  grind [memOk_cplDone]

theorem memOk_execCollTimeout {s u : State} {hart} (h : memOk s) (e : execCollTimeout hart s = .next u) : memOk u := by
  unfold execCollTimeout at e
  grind [memOk_runHead]

theorem memOk_execHqTakeDispatch {s u : State} {hart} (h : memOk s) (e : execHqTakeDispatch hart s = .next u) : memOk u := by
  unfold execHqTakeDispatch at e
  grind [memOk_dispatchHelper]

theorem memOk_execIdleWake {s u : State} {hart} (h : memOk s) (e : execIdleWake hart s = .next u) : memOk u := by
  unfold execIdleWake at e
  grind [memOk_setHartAt]

theorem memOk_execPlacementPass {s u : State} {die} (h : memOk s) (e : execPlacementPass die s = .next u) : memOk u := by
  unfold execPlacementPass at e
  grind [memOk_pass]

theorem memOk_execPreempt {s u : State} {gang} (h : memOk s) (e : execPreempt gang s = .next u) : memOk u := by
  unfold execPreempt at e
  grind [memOk_preemptGang, memOk_pass]

theorem memOk_execPreemptWaitExpiry {s u : State} {die cls} (h : memOk s) (e : execPreemptWaitExpiry die cls s = .next u) :
    memOk u := by
  unfold execPreemptWaitExpiry at e
  grind [memOk_pass]

theorem memOk_execRemoteStopTimeout {s u : State} {hart t} (h : memOk s) (e : execRemoteStopTimeout hart t s = .next u) :
    memOk u := by
  unfold execRemoteStopTimeout at e
  grind [memOk_stopTimeout]

theorem memOk_execHostStopTimeout {s u : State} {hart t} (h : memOk s) (e : execHostStopTimeout hart t s = .next u) :
    memOk u := by
  unfold execHostStopTimeout at e
  grind [memOk_stopTimeout]

theorem memOk_execGangKill {s u : State} {gang why} (h : memOk s) (e : execGangKill gang why s = .next u) : memOk u := by
  unfold execGangKill at e
  grind [memOk_killGang]

theorem memOk_execDieFence {s u : State} {die} (h : memOk s) (e : execDieFence die s = .next u) : memOk u := by
  unfold execDieFence at e
  split at e
  · cases e; exact memOk_diverge h
  · extract_lets _ fenced on killed _ kept moved at e
    have hkilled : memOk killed := memOk_foldl (fun h => memOk_killGang h) (memOk_setDieAt h)
    have hkept : memOk kept := hkilled
    have hmoved : memOk moved := memOk_foldl (fun h => memOk_moveTask h) hkept
    injection e with e
    exact e ▸ memOk_foldl (fun h => memOk_pass h) hmoved

theorem memOk_execLaneGroupRetire {s u : State} {core group} (h : memOk s) (e : execLaneGroupRetire core group s = .next u) :
    memOk u := by
  unfold execLaneGroupRetire at e
  grind [memOk_diverge, memOk_pass, memOk_clearCore, memOk_setCoreAt]

theorem memOk_execArrayRowGroupRetirement {s u : State} {core column group} (h : memOk s)
    (e : execArrayRowGroupRetirement core column group s = .next u) :
    memOk u := by
  unfold execArrayRowGroupRetirement at e
  grind [memOk_diverge, memOk_pass, memOk_clearCore, memOk_setCoreAt]

theorem memOk_execDbgHalt {s u : State} {hart} (h : memOk s) (e : execDbgHalt hart s = .next u) : memOk u := by
  unfold execDbgHalt at e
  grind [memOk_debugEvent, memOk_haltHart]

theorem memOk_execDbgResume {s u : State} {hart} (h : memOk s) (e : execDbgResume hart s = .next u) : memOk u := by
  unfold execDbgResume at e
  grind [memOk_debugEvent, memOk_resumeHart]

theorem memOk_execDbgStepInstruction {s u : State} {hart count} (h : memOk s)
    (e : execDbgStepInstruction hart count s = .next u) :
    memOk u := by
  unfold execDbgStepInstruction at e
  grind [memOk_debugEvent, memOk_resumeHart]

theorem memOk_execDbgStepElements {s u : State} {hart count} (h : memOk s) (e : execDbgStepElements hart count s = .next u) :
    memOk u := by
  unfold execDbgStepElements at e
  grind [memOk_debugEvent, memOk_resumeHart]

theorem memOk_execBreakpointHit {s u : State} {hart k} (h : memOk s) (e : execBreakpointHit hart k s = .next u) : memOk u := by
  unfold execBreakpointHit at e
  grind [memOk_haltHart]

theorem memOk_execTraceSample {s u : State} {core} (h : memOk s) (e : execTraceSample core s = .next u) : memOk u := by
  unfold execTraceSample at e
  cases e
  split
  · exact h
  · exact memOk_foldl (fun h => memOk_traceSlotSample h) (memOk_setCoreAt h)


/-! ### Machine/EventsPower.lean -/

theorem memOk_execGovernorSample {s u : State} {die percent} (h : memOk s) (e : execGovernorSample die percent s = .next u) :
    memOk u := by
  unfold execGovernorSample at e
  grind [memOk_setDieAt]

theorem memOk_execThermalOver {s u : State} {die} (h : memOk s) (e : execThermalOver die s = .next u) : memOk u := by
  unfold execThermalOver at e
  grind [memOk_thermal, memOk_setCeilings]

theorem memOk_execThermalStepDown {s u : State} {die} (h : memOk s) (e : execThermalStepDown die s = .next u) : memOk u := by
  unfold execThermalStepDown at e
  grind [memOk_thermal, memOk_setCeilings]

theorem memOk_execThermalRecover {s u : State} {die} (h : memOk s) (e : execThermalRecover die s = .next u) : memOk u := by
  unfold execThermalRecover at e
  grind [memOk_thermal]

theorem memOk_execThermalStepUp {s u : State} {die} (h : memOk s) (e : execThermalStepUp die s = .next u) : memOk u := by
  unfold execThermalStepUp at e
  grind [memOk_thermal, memOk_setCeilings]

theorem memOk_execBoostIntervalEnd {s u : State} {die} (h : memOk s) (e : execBoostIntervalEnd die s = .next u) : memOk u := by
  unfold execBoostIntervalEnd at e
  grind [memOk_intervalEnd]

theorem memOk_execEnergyUpdate {s u : State} {microjoules} (h : memOk s) (e : execEnergyUpdate microjoules s = .next u) :
    memOk u := by
  unfold execEnergyUpdate at e
  grind [memOk]

theorem memOk_execHangWatchdog {s u : State} {hart} (h : memOk s) (e : execHangWatchdog hart s = .next u) : memOk u := by
  unfold execHangWatchdog at e
  grind [memOk_send]


/-! ### Machine/EventsMem.lean -/

theorem memOk_execPlinthFailing {s u : State} {stack} (h : memOk s) (e : execPlinthFailing stack s = .next u) : memOk u := by
  unfold execPlinthFailing at e
  grind [memOk_raiseFailing]

theorem memOk_execRetireDrop {s u : State} {stack} (h : memOk s) (e : execRetireDrop stack s = .next u) : memOk u := by
  unfold execRetireDrop at e
  cases e
  split
  · exact h
  · exact memOk_foldl (fun h => memOk_foldl (fun h => memOk_send h) h) (memOk_setRegs h)

theorem memOk_execRangeReturn {s u : State} {part} (h : memOk s) (e : execRangeReturn part s = .next u) : memOk u := by
  unfold execRangeReturn at e
  grind [memOk_giveBack]

theorem memOk_execPartitionDeadline {s u : State} {part} (h : memOk s) (e : execPartitionDeadline part s = .next u) :
    memOk u := by
  unfold execPartitionDeadline at e
  grind [memOk_giveBack, memOk_resetPartition]

theorem memOk_execWalkStart {s u : State} (h : memOk s) (e : execWalkStart s = .next u) : memOk u := by
  unfold execWalkStart at e
  cases e
  split
  · split
    · exact memOk_setRegs h
    · exact h
  · exact h

theorem memOk_execGranuleMove {s u : State} (h : memOk s) (e : execGranuleMove s = .next u) : memOk u := by
  have flies : memOk (s.setRegs { s.mem with infl := s.mem.window (Config.movesStarted s.free) }) := memOk_setRegs h
  unfold execGranuleMove at e
  cases e
  split
  · exact h
  · split
    · exact memOk_moveDone h
    · dsimp only
      split
      · refine memOk_moveDone ?_
        exact flies
      · exact h

theorem memOk_execCopyBroadcast {s u : State} {requester} (h : memOk s) (e : execCopyBroadcast requester s = .next u) :
    memOk u := by
  unfold execCopyBroadcast at e
  grind [memOk]

theorem memOk_execLinkDown {s u : State} {port} (h : memOk s) (e : execLinkDown port s = .next u) : memOk u := by
  unfold execLinkDown at e
  grind [memOk_portChange]

theorem memOk_execLinkUp {s u : State} {port} (h : memOk s) (e : execLinkUp port s = .next u) : memOk u := by
  unfold execLinkUp at e
  grind [memOk_portChange]

theorem memOk_execPeerReset {s u : State} {port} (h : memOk s) (e : execPeerReset port s = .next u) : memOk u := by
  unfold execPeerReset at e
  grind [memOk_portChange]

theorem memOk_execFabricInboundRequest {r} {s u : State} {port} (h : memOk s) (e : execFabricInboundRequest port r s = .next u) :
    memOk u := by
  unfold execFabricInboundRequest at e
  grind [memOk_fabricRequest, memOk_arrives]


/-! ### Machine/EventsHost.lean -/

theorem memOk_execHostInboundWrite {s u : State} {fn off data} (h : memOk s) (e : execHostInboundWrite fn off data s = .next u) :
    memOk u := by
  unfold execHostInboundWrite at e
  grind [memOk_arrives, memOk_hostData]

theorem memOk_execHostInboundRead {s u : State} {fn off len} (h : memOk s) (e : execHostInboundRead fn off len s = .next u) :
    memOk u := by
  unfold execHostInboundRead at e
  grind [memOk_hostReadAt, memOk_arrives]

theorem memOk_execEnergyLoRead {s u : State} {fn} (h : memOk s) (e : execEnergyLoRead fn s = .next u) : memOk u := by
  unfold execEnergyLoRead at e
  grind [memOk_hostReadAt, memOk_arrives]

theorem memOk_execMbtailWrite {s u : State} {fn value} (h : memOk s) (e : execMbtailWrite fn value s = .next u) : memOk u := by
  unfold execMbtailWrite at e
  grind [memOk_hostRegister]

theorem memOk_execWinbaseWrite {s u : State} {fn value} (h : memOk s) (e : execWinbaseWrite fn value s = .next u) : memOk u := by
  unfold execWinbaseWrite at e
  grind [memOk_hostRegister]

theorem memOk_execHostSpawn {s u : State} {fn value} (h : memOk s) (e : execHostSpawn fn value s = .next u) : memOk u := by
  unfold execHostSpawn at e
  grind [memOk_hostRegister]

theorem memOk_execDmbaseWrite {s u : State} {part value} (h : memOk s) (e : execDmbaseWrite part value s = .next u) :
    memOk u := by
  unfold execDmbaseWrite at e
  grind [memOk_writeDmbase]

theorem memOk_execDmtailWrite {s u : State} {part value} (h : memOk s) (e : execDmtailWrite part value s = .next u) :
    memOk u := by
  unfold execDmtailWrite at e
  grind [memOk_writeDmtail]

theorem memOk_execRegisterWrite {s u : State} {master addr value} (h : memOk s)
    (e : execRegisterWrite master addr value s = .next u) :
    memOk u := by
  unfold execRegisterWrite at e
  grind [memOk_regWrite, memOk_hostRegister, memOk_writeSteward]

theorem memOk_execRetire {s u : State} {c stack} (h : memOk s) (e : execRetire c stack s = .next u) : memOk u := by
  unfold execRetire at e
  grind [memOk_takeCommand]

theorem memOk_execPartCreate {s u : State} {c part clusters ports ranges} (h : memOk s)
    (e : execPartCreate c part clusters ports ranges s = .next u) :
    memOk u := by
  unfold execPartCreate at e
  grind [memOk_takeCommand]

theorem memOk_execPartDestroy {s u : State} {c part} (h : memOk s) (e : execPartDestroy c part s = .next u) : memOk u := by
  unfold execPartDestroy at e
  grind [memOk_takeCommand]

theorem memOk_execReset {s u : State} {c part} (h : memOk s) (e : execReset c part s = .next u) : memOk u := by
  unfold execReset at e
  grind [memOk_takeCommand]

theorem memOk_execQuote {s u : State} {c nonce} (h : memOk s) (e : execQuote c nonce s = .next u) : memOk u := by
  unfold execQuote at e
  grind [memOk_takeCommand]

theorem memOk_execUnlockChallenge {s u : State} {c} (h : memOk s) (e : execUnlockChallenge c s = .next u) : memOk u := by
  unfold execUnlockChallenge at e
  grind [memOk_takeCommand]

theorem memOk_execUnlock {s u : State} {c challenge vendorSigned} (h : memOk s)
    (e : execUnlock c challenge vendorSigned s = .next u) :
    memOk u := by
  unfold execUnlock at e
  grind [memOk_takeCommand]

theorem memOk_execRecord {s u : State} {c} (h : memOk s) (e : execRecord c s = .next u) : memOk u := by
  unfold execRecord at e
  grind [memOk_takeCommand]

theorem memOk_execPackageReset {s u : State} {replay chain images} (h : memOk s)
    (e : execPackageReset replay chain images s = .next u) :
    memOk u := by
  unfold execPackageReset at e
  grind [memOk_boot, memOk_packageState]

theorem memOk_execStewardWatchdog {s u : State} (h : memOk s) (e : execStewardWatchdog s = .next u) : memOk u := by
  unfold execStewardWatchdog at e
  grind [memOk_boot, memOk_packageState]

theorem memOk_execReplayInject {s u : State} {a} (h : memOk s) (e : execReplayInject a s = .next u) : memOk u := by
  unfold execReplayInject at e
  cases e
  split
  · split
    · exact h
    · split
      · exact memOk_diverge h
      · split
        · rename_i he
          refine memOk_inject ?_ he
          exact h
        · exact memOk_diverge h
  · exact h

theorem memOk_execPackagePowerOff {s u : State} (h : memOk s) (e : execPackagePowerOff s = .next u) : memOk u := by
  unfold execPackagePowerOff at e
  grind [memOk]


/-! ### The dispatch and a step -/

theorem memOk_exec {s u : State} {i} (h : memOk s) (e : exec i s = .next u) : memOk u := by
  cases i with unfold exec at e
  | aluAdd | aluSub | aluAdds | aluSubs | aluMul | aluMulh | aluDiv | aluRem | aluAnd | aluOr | aluXor | aluAndn |
  aluShl | aluShr | aluMin | aluMax => exact memOk_aluBin h e
  | aluSlt | aluSeq => exact memOk_aluCmp h e
  | aluPcnt | aluClz | aluCtz => exact memOk_aluUn h e
  | aluiAdd | aluiAnd | aluiOr | aluiXor | aluiShl | aluiShr | aluiSra | aluiSlt | aluiSltu | hi => exact memOk_aluImm h e
  | brEq | brNe | brLt | brGe | brLtu | brGeu => exact memOk_branch h e
  | jmp | jrGo => exact memOk_jumpTo h e
  | fpuAdd | fpuSub | fpuMul | fpuDiv | fpuFma | fpuMin | fpuMax | fpuQuant => exact memOk_fpuBin h e
  | fpuSqrt | fpuNeg | fpuAbs | fpuRcp | fpuRsq => exact memOk_fpuUn h e
  | fpuEq | fpuLt | fpuLe | fpuUnord => exact memOk_fpuCmp h e
  | fpuTof32 | fpuTof64 | fpuTod64 | fpuTobf16 => exact memOk_fpuCvt h e
  | fpuToi64 | fpuToi64z | fpuTon64 => exact memOk_fpuToInt h e
  | fpuFromi64 | fpuFromn64 => exact memOk_fpuFromInt h e
  | tlbinvAsid | tlbinvAll => exact memOk_tlbinv h e
  | amoLd | amoSt | amoSwap | amoCas | amoAdd | amoAnd | amoOr | amoXor | amoMin | amoMax => exact memOk_amo h e
  | futRes | futFail => exact memOk_futSettle h e
  | futGet | futGetTry => exact memOk_futGet h e
  | taskSpawn | taskSpawnHold => exact memOk_spawn h e
  | ctlWr | ctlSet | ctlClr => exact memOk_ctlWrite h e
  | vvAdd | vvSub | vvAdds | vvSubs | vvMul | vvMulh | vvDiv | vvRem | vvAnd | vvOr | vvXor | vvAndn | vvShl |
  vvShr | vvMin | vvMax | vvQuant => exact memOk_vvForm h e
  | vvPcnt | vvClz | vvCtz | vvMv | vvNeg | vvAbs | vxMv | viMv => exact memOk_laneT h e
  | vxAdd | vxSub | vxAdds | vxSubs | vxMul | vxMulh | vxDiv | vxRem | vxAnd | vxOr | vxXor | vxAndn | vxShl |
  vxShr | vxMin | vxMax | vxQuant => exact memOk_vxForm h e
  | viAdd | viSub | viAdds | viSubs | viMul | viMulh | viDiv | viRem | viAnd | viOr | viXor | viAndn | viShl |
  viShr | viMin | viMax => exact memOk_viForm h e
  | vqFma | vqFms | vqFnma | vqFnms | vqSfma | vqSfms | vqSfnma | vqSfnms => exact memOk_vqForm h e
  | vcmp | vcmpX | vcmpI => exact memOk_cmpForm h e
  | vcmpMand | vcmpMor | vcmpMxor | vcmpMandn | vcmpMset | vcmpMclr => exact memOk_maskForm h e
  | vredSum | vredMin | vredMax | vredAnd | vredOr | vredXor | vredMinidx | vredMaxidx | vredMpop | vredMfirst => exact memOk_redForm h e
  | vpermSlup | vpermSldn | vpermPerm | vpermCompress | vpermXtr | vpermIns | vpermIota | vpermHold | vpermDrain => exact memOk_permForm h e
  | vsettle | vpresPresent | vpresPoisoned | vpresHeal => exact memOk_presForm h e
  | vsfuRcp | vsfuRcpe | vsfuRsq | vsfuSqrt | vsfuExp2 | vsfuLog2 | vsfuSin | vsfuCos | vsfuTanh | vsfuSilu |
  vsfuSigm => exact memOk_sfuForm h e
  | vldUnit | vldStride | vldIndex | vldElem => exact memOk_loadForm h e
  | vstUnit | vstUnitu | vstStride | vstStrideu | vstIndex | vstIndexu | vstElem | vstElemu => exact memOk_storeForm h e
  | vstmBind | vstmUnbind | vstmSpill | vstmFill => exact memOk_stmForm h e
  | amoVadd | amoVmin | amoVmax | amoVswap => exact memOk_amovForm h e
  | mxMode | mxTshape | mxOp | mxZero | mxMv | mxRdrow | mxRdcol | mxWrrow | mxWrcol | mxSpill | mxFill | spEval |
  spGrad | spDx | spRefine | spPair | spGzero | spGspill | spGfill => exact memOk_arrayForm h e
  | engCopy | engMcast | engGather | engPatt | engColl => exact memOk_engForm h e
  | ld => exact memOk_execLd h e
  | st => exact memOk_execSt h e
  | jrCall => exact memOk_execJrCall h e
  | fpuTobf16sr => exact memOk_execFpuTobf16sr h e
  | ctlRd => exact memOk_execCtlRd h e
  | ill => exact memOk_execIll h e
  | ill3f => exact memOk_execIll3f h e
  | svc => exact memOk_execSvc h e
  | tret => exact memOk_execTret h e
  | idle => exact memOk_execIdle h e
  | brk => exact memOk_execBrk h e
  | id => exact memOk_execId h e
  | tlbinvPage => exact memOk_execTlbinvPage h e
  | halt => exact memOk_execHalt h e
  | amoCas2 => exact memOk_execAmoCas2 h e
  | fenAll => exact memOk_execFenAll h e
  | fenLoad => exact memOk_execFenLoad h e
  | fenStore => exact memOk_execFenStore h e
  | fenEng => exact memOk_execFenEng h e
  | fenPhase => exact memOk_execFenPhase h e
  | barInit => exact memOk_execBarInit h e
  | barArrive => exact memOk_execBarArrive h e
  | barWait => exact memOk_execBarWait h e
  | barSync => exact memOk_execBarSync h e
  | futInit => exact memOk_execFutInit h e
  | futReg => exact memOk_execFutReg h e
  | taskExit => exact memOk_execTaskExit h e
  | taskYield => exact memOk_execTaskYield h e
  | hqTake => exact memOk_execHqTake h e
  | hqFill => exact memOk_execHqFill h e
  | hqFail => exact memOk_execHqFail h e
  | setvl => exact memOk_execSetvl h e
  | setrows => exact memOk_execSetrows h e
  | vwhile => exact memOk_execVwhile h e
  | vcvt => exact memOk_execVcvt h e
  | csave => exact memOk_execCsave h e
  | crest => exact memOk_execCrest h e
  | trapEntry => exact memOk_execTrapEntry h e
  | tableWalk => exact memOk_execTableWalk h e
  | accessPerform => exact memOk_execAccessPerform h e
  | targetFaultReport => exact memOk_execTargetFaultReport h e
  | replCopyUpdate => exact memOk_execReplCopyUpdate h e
  | streamReadAhead => exact memOk_execStreamReadAhead h e
  | engCompletion => exact memOk_execEngCompletion h e
  | collTimeout => exact memOk_execCollTimeout h e
  | hqTakeDispatch => exact memOk_execHqTakeDispatch h e
  | idleWake => exact memOk_execIdleWake h e
  | placementPass => exact memOk_execPlacementPass h e
  | preempt => exact memOk_execPreempt h e
  | preemptWaitExpiry => exact memOk_execPreemptWaitExpiry h e
  | remoteStopTimeout => exact memOk_execRemoteStopTimeout h e
  | hostStopTimeout => exact memOk_execHostStopTimeout h e
  | gangKill => exact memOk_execGangKill h e
  | dieFence => exact memOk_execDieFence h e
  | laneGroupRetire => exact memOk_execLaneGroupRetire h e
  | arrayRowGroupRetirement => exact memOk_execArrayRowGroupRetirement h e
  | dbgHalt => exact memOk_execDbgHalt h e
  | dbgResume => exact memOk_execDbgResume h e
  | dbgStepInstruction => exact memOk_execDbgStepInstruction h e
  | dbgStepElements => exact memOk_execDbgStepElements h e
  | breakpointHit => exact memOk_execBreakpointHit h e
  | traceSample => exact memOk_execTraceSample h e
  | governorSample => exact memOk_execGovernorSample h e
  | thermalOver => exact memOk_execThermalOver h e
  | thermalStepDown => exact memOk_execThermalStepDown h e
  | thermalRecover => exact memOk_execThermalRecover h e
  | thermalStepUp => exact memOk_execThermalStepUp h e
  | boostIntervalEnd => exact memOk_execBoostIntervalEnd h e
  | energyUpdate => exact memOk_execEnergyUpdate h e
  | hangWatchdog => exact memOk_execHangWatchdog h e
  | plinthFailing => exact memOk_execPlinthFailing h e
  | retireDrop => exact memOk_execRetireDrop h e
  | rangeReturn => exact memOk_execRangeReturn h e
  | partitionDeadline => exact memOk_execPartitionDeadline h e
  | walkStart => exact memOk_execWalkStart h e
  | granuleMove => exact memOk_execGranuleMove h e
  | copyBroadcast => exact memOk_execCopyBroadcast h e
  | linkDown => exact memOk_execLinkDown h e
  | linkUp => exact memOk_execLinkUp h e
  | peerReset => exact memOk_execPeerReset h e
  | fabricInboundRequest => exact memOk_execFabricInboundRequest h e
  | hostInboundWrite => exact memOk_execHostInboundWrite h e
  | hostInboundRead => exact memOk_execHostInboundRead h e
  | energyLoRead => exact memOk_execEnergyLoRead h e
  | mbtailWrite => exact memOk_execMbtailWrite h e
  | winbaseWrite => exact memOk_execWinbaseWrite h e
  | hostSpawn => exact memOk_execHostSpawn h e
  | dmbaseWrite => exact memOk_execDmbaseWrite h e
  | dmtailWrite => exact memOk_execDmtailWrite h e
  | registerWrite => exact memOk_execRegisterWrite h e
  | retire => exact memOk_execRetire h e
  | partCreate => exact memOk_execPartCreate h e
  | partDestroy => exact memOk_execPartDestroy h e
  | reset => exact memOk_execReset h e
  | quote => exact memOk_execQuote h e
  | unlockChallenge => exact memOk_execUnlockChallenge h e
  | unlock => exact memOk_execUnlock h e
  | record => exact memOk_execRecord h e
  | packageReset => exact memOk_execPackageReset h e
  | stewardWatchdog => exact memOk_execStewardWatchdog h e
  | replayInject => exact memOk_execReplayInject h e
  | packagePowerOff => exact memOk_execPackagePowerOff h e

theorem memOk_step {s u : State} (h : memOk s) (e : step s = .next u) : memOk u := by
  have shorter : ∀ l, memOk { s with inbox := l } := fun _ => h
  unfold step at e
  split at e
  · cases e
  · split at e
    · cases e
    · split at e
      · cases e
      · split at e
        · split at e <;> cases e
          rename_i he
          exact memOk_settleNoted (memOk_exec (shorter _) he)
        · have ht := memOk_turnOf h
          split at e <;> rename_i he <;> rw [he] at ht
          · cases e
            exact memOk_endTurn ht
          · split at e <;> cases e
            rename_i hu
            exact memOk_endTurn (memOk_exec ht hu)

/-- Settles O5: the invariant of every part of a step (`memOk_exec`, `memOk_turnOf`, `memOk_endTurn`) is the step's. -/
theorem memoryStaysCanonical : Obligations.MemoryStaysCanonical := fun _ _ h e => memOk_step h e

end Sys2Proof.Machine.Claim
end

section
/-! ## Events of power, clocks, watchdogs and links (O57) -/

namespace Sys2Proof.Machine.Claim
open Sys2Proof.Machine
set_option Elab.async false

/-! ### What a trace record changes -/

/-- The two states agree but for the memory system, the errors met, the steward's registers and the cores. -/
def TracedFrom (s t : State) : Prop :=
  ∃ m l w cs, t = { s with mem := m, noted := l, stew := w, cores := cs }

theorem TracedFrom.refl (s : State) : TracedFrom s s := ⟨_, _, _, _, rfl⟩

theorem TracedFrom.trans {s t u : State} : TracedFrom s t → TracedFrom t u → TracedFrom s u := by
  rintro ⟨m, l, w, cs, rfl⟩ ⟨m', l', w', cs', rfl⟩
  exact ⟨m', l', w', cs', rfl⟩

theorem tracedFrom_foldl {α : Type} {f : State → α → State} (hf : ∀ s a, TracedFrom s (f s a)) (l : List α) (s : State) :
    TracedFrom s (l.foldl f s) :=
  List.foldlRecOn l f (.refl s) fun _ h _ _ => h.trans (hf _ _)

theorem setRegs_traced (s : State) (m : MemSys) : TracedFrom s (s.setRegs m) := by
  unfold State.setRegs
  dsimp only
  split <;> exact ⟨_, _, _, _, rfl⟩

theorem noteCopied_traced (s : State) (f : Nat → Bool) : TracedFrom s (noteCopied s f) :=
  let ⟨_, h⟩ := noteCopied_eq s f
  ⟨_, _, _, _, h⟩

theorem walkEnd_traced (s : State) : TracedFrom s (walkEnd s) :=
  (setRegs_traced _ _).trans ⟨_, _, _, _, rfl⟩

theorem moveDone_traced (s : State) (g : Nat) : TracedFrom s (moveDone s g) := by
  simp only [moveDone]
  split
  · split <;> exact (noteCopied_traced _ _).trans (setRegs_traced _ _)
  · split
    · exact ((noteCopied_traced _ _).trans (setRegs_traced _ _)).trans (walkEnd_traced _)
    · exact (noteCopied_traced _ _).trans (setRegs_traced _ _)

theorem finishMoves_traced (g n : Nat) (s : State) : TracedFrom s (finishMoves g n s) := by
  induction n generalizing s with
  | zero => exact .refl s
  | succ n ih =>
    unfold finishMoves
    split
    · exact (moveDone_traced _ _).trans (ih _)
    · exact .refl s

theorem reach_traced (s : State) (requester a : Nat) : TracedFrom s (s.reach requester a) := by
  simp only [State.reach]
  split
  · exact .refl s
  · split
    · exact finishMoves_traced _ _ _
    · exact (finishMoves_traced _ _ _).trans ⟨_, _, _, _, rfl⟩

theorem poke_traced (s : State) (a : Nat) (bytes : List Byte) : TracedFrom s (s.poke a bytes) := by
  unfold State.poke
  split <;> exact ⟨_, _, _, _, rfl⟩

theorem setCoreAt_traced (s : State) (c : Nat) (x : Core) : TracedFrom s (s.setCoreAt c x) := ⟨_, _, _, _, rfl⟩

theorem traceStore_traced (s : State) (core : Nat) (rec : List Byte) : TracedFrom s (traceStore s core rec) := by
  simp only [traceStore]
  split
  · exact setCoreAt_traced _ _ _
  · have poked : ∀ (o : Option Stop) (a : Nat), TracedFrom s
        (match o with | some _ => s | none => if a < Config.devEnd then (s.reach core a).poke a rec else s) := fun o a => by
      split
      · exact .refl s
      · split
        · exact (reach_traced _ _ _).trans (poke_traced _ _ _)
        · exact .refl s
    exact (poked _ _).trans ((setCoreAt_traced _ _ _).trans (setCoreAt_traced _ _ _))

theorem syncCluster_traced (s : State) (cl : Nat) : TracedFrom s (syncCluster s cl) :=
  tracedFrom_foldl (fun s c => by split <;> [exact traceStore_traced _ _ _; exact .refl s]) _ _

/-! ### The clocks of a die -/

/-- A change of a cluster's clock is the change of its settings, a bit of its die's mask, and trace records. -/
theorem setClock_eq (s : State) (cl : Nat) (f : Cluster → Cluster) :
    TracedFrom (if (f (s.clusterAt cl)).step < 2 then
        (s.setClusterAt cl (f (s.clusterAt cl))).setDieAt (cl / 8)
          { s.dieAt (cl / 8) with hot := (s.dieAt (cl / 8)).hot ||| 2 ^ (cl % 8) }
      else s.setClusterAt cl (f (s.clusterAt cl))) (setClock s cl f) := by
  have traced : TracedFrom (s.setClusterAt cl (f (s.clusterAt cl)))
      (if (f (s.clusterAt cl)).step = (s.clusterAt cl).step then s.setClusterAt cl (f (s.clusterAt cl))
        else syncCluster (s.setClusterAt cl (f (s.clusterAt cl))) cl) := by
    split
    · exact .refl _
    · exact syncCluster_traced _ _
  obtain ⟨m, l, w, cs, h⟩ := traced
  simp only [setClock, h]
  split <;> exact ⟨m, l, w, cs, rfl⟩

theorem setClock_kept (s : State) (cl : Nat) (f : Cluster → Cluster) :
    (setClock s cl f).harts = s.harts ∧ (setClock s cl f).gangs = s.gangs ∧ (setClock s cl f).tasks = s.tasks := by
  obtain ⟨m, l, w, cs, h⟩ := setClock_eq s cl f
  rw [h]
  split <;> exact ⟨rfl, rfl, rfl⟩

theorem setClock_clusterAt (s : State) (cl : Nat) (f : Cluster → Cluster) (j : Nat) :
    (setClock s cl f).clusterAt j = if j = cl then f (s.clusterAt cl) else s.clusterAt j := by
  have set : (s.setClusterAt cl (f (s.clusterAt cl))).clusterAt j = if j = cl then f (s.clusterAt cl) else s.clusterAt j := by
    split
    · next h => rw [h, State.clusterAt_setClusterAt_self]
    · next h => exact State.clusterAt_setClusterAt_of_ne _ _ h
  obtain ⟨m, l, w, cs, h⟩ := setClock_eq s cl f
  rw [h, ← set]
  split <;> rfl

theorem setClock_dieAt (s : State) (cl : Nat) (f : Cluster → Cluster) (d : Nat) :
    (setClock s cl f).dieAt d = if d = cl / 8 ∧ (f (s.clusterAt cl)).step < 2 then
      { s.dieAt d with hot := (s.dieAt d).hot ||| 2 ^ (cl % 8) } else s.dieAt d := by
  obtain ⟨m, l, w, cs, h⟩ := setClock_eq s cl f
  rw [h]
  by_cases hs : (f (s.clusterAt cl)).step < 2
  · by_cases hd : d = cl / 8
    · subst hd
      rw [if_pos hs, if_pos ⟨rfl, hs⟩]
      exact State.dieAt_setDieAt_self _ _ _
    · rw [if_pos hs, if_neg fun h => hd h.1]
      exact State.dieAt_setDieAt_of_ne _ _ hd
  · rw [if_neg hs, if_neg fun h => hs h.2]
    rfl

/-- The first n clusters of a die change their clocks. -/
def clocked (die : Nat) (F : Nat → Cluster → Cluster) (n : Nat) (s : State) : State :=
  (List.range n).foldl (fun s i => setClock s (8 * die + i) (F i)) s

theorem clocked_succ (die : Nat) (F : Nat → Cluster → Cluster) (n : Nat) (s : State) :
    clocked die F (n + 1) s = setClock (clocked die F n s) (8 * die + n) (F n) := by
  simp [clocked, List.range_succ]

theorem setCeilings_eq_clocked {s : State} (h : s.stew.replay = false) (die : Nat) (f : Cluster → Nat) :
    setCeilings s die f = clocked die (fun _ c => { c with ceil := f c }) 8 s := by
  simp [setCeilings, h, clocked, clustersOf, List.foldl_map]

theorem clocked_kept (die : Nat) (F : Nat → Cluster → Cluster) (n : Nat) (s : State) :
    (clocked die F n s).harts = s.harts ∧ (clocked die F n s).gangs = s.gangs ∧ (clocked die F n s).tasks = s.tasks := by
  induction n with
  | zero => exact ⟨rfl, rfl, rfl⟩
  | succ n ih =>
    obtain ⟨hh, hg, ht⟩ := setClock_kept (clocked die F n s) (8 * die + n) (F n)
    rw [clocked_succ, hh, hg, ht]
    exact ih

theorem clocked_clusterAt (die : Nat) (F : Nat → Cluster → Cluster) (n : Nat) (s : State) (j : Nat) :
    (clocked die F n s).clusterAt j =
      if 8 * die ≤ j ∧ j < 8 * die + n then F (j - 8 * die) (s.clusterAt j) else s.clusterAt j := by
  induction n generalizing j with
  | zero => rw [if_neg (by omega)]; rfl
  | succ n ih =>
    rw [clocked_succ, setClock_clusterAt]
    by_cases hj : j = 8 * die + n
    · rw [if_pos hj, ih, if_neg (by omega), if_pos (by omega), hj, Nat.add_sub_cancel_left]
    · rw [if_neg hj, ih]
      exact if_congr (by omega) rfl rfl

/-- Of its die, the change of the clocks sets the bits of the clusters that come above 1.0 GHz. -/
theorem clocked_dieAt (die : Nat) (F : Nat → Cluster → Cluster) {n : Nat} (hn : n ≤ 8) (s : State) :
    ∃ hot, (clocked die F n s).dieAt die = { s.dieAt die with hot := hot } ∧
      ∀ j, hot.testBit j = true ↔ (s.dieAt die).hot.testBit j = true ∨ (j < n ∧ (F j (s.clusterAt (8 * die + j))).step < 2) := by
  induction n with
  | zero => exact ⟨_, rfl, fun j => by simp [clocked, State.dieAt]⟩
  | succ n ih =>
    obtain ⟨hot, hd, hb⟩ := ih (by omega)
    have hu : (clocked die F n s).clusterAt (8 * die + n) = s.clusterAt (8 * die + n) := by
      rw [clocked_clusterAt, if_neg (by omega)]
    have hc : (8 * die + n) / 8 = die ∧ (8 * die + n) % 8 = n := by omega
    rw [clocked_succ, setClock_dieAt, hu, hc.1, hc.2, hd]
    by_cases hs : (F n (s.clusterAt (8 * die + n))).step < 2
    · refine ⟨hot ||| 2 ^ n, by rw [if_pos ⟨rfl, hs⟩], fun j => ?_⟩
      rw [Nat.testBit_or, Bool.or_eq_true, hb, Nat.testBit_two_pow]
      grind
    · refine ⟨hot, by rw [if_neg fun h => hs h.2], fun j => ?_⟩
      rw [hb]
      grind

/-! ### Little-endian bytes and the fields of a message -/

@[simp] theorem length_leBytes (k n : Nat) : (leBytes k n).length = k := by
  induction k generalizing n with
  | zero => rfl
  | succ k ih => simp [leBytes, ih]

theorem leNat_leBytes (k n : Nat) : leNat (leBytes k n) = n % 256 ^ k := by
  induction k generalizing n with
  | zero => simp [leBytes, leNat, Nat.mod_one]
  | succ k ih =>
    rw [leBytes, leNat, ih, BitVec.toNat_ofNat, pow_succ' 256 k]
    exact (Nat.mod_mul ..).symm

/-- The field at the front of a list. -/
@[simp] theorem field_head (n v : Nat) (l : List Byte) : field (leBytes n v ++ l) 0 n = v % 256 ^ n := by
  simp [field, leNat_leBytes]

/-- A field behind the front of a list. -/
@[simp] theorem field_skip {m off n : Nat} (h : m ≤ off) (v : Nat) (l : List Byte) :
    field (leBytes m v ++ l) off n = field l (off - m) n := by
  simp [field, List.drop_append, List.drop_of_length_le, h]

theorem field_append_left {l : List Byte} {off n : Nat} (h : off + n ≤ l.length) (l' : List Byte) :
    field (l ++ l') off n = field l off n := by
  unfold field
  rw [List.drop_append_of_le_length (by omega), List.take_append_of_le_length (by rw [List.length_drop]; omega)]

/-- Bytes of a host's memory that a message was just written to are a field of the message. -/
theorem numAt_putHost {s : State} {part : Nat} {msg : List Byte} {off n : Nat} (h : off + n ≤ msg.length) :
    numAt (putHost s part msg) (.host (ringSlot s part + off)) n = field msg off n := by
  unfold numAt field
  congr 1
  refine List.ext_getElem (by simp; omega) fun i hi _ => ?_
  simp only [List.getElem_map, List.getElem_range, Loc.plus, byteAt, putHost]
  simp only [List.length_map, List.length_range] at hi
  rw [Nat.add_assoc]
  refine (Memory.read1_writeBytes_at _ _ _ _ (by omega)).trans ?_
  simp [List.getElem_take, List.getElem_drop, List.getD_eq_getElem?_getD, show off + i < msg.length by omega]

theorem putHost_outside (s : State) (part : Nat) {msg : List Byte} (h : msg.length = 64) :
    memOutside s (putHost s part msg) [(.host (ringSlot s part), 64)] := by
  intro x hx ho
  cases x with
  | host a =>
    refine Memory.read1_writeBytes_outside _ _ _ _ ?_
    by_contra hc
    refine ho _ List.mem_cons_self ⟨a - ringSlot s part, ?_, ?_⟩ <;> unfold ringSlot at * <;> simp only [Loc.plus] <;> grind
  | regs a => cases hx
  | _ => rfl

theorem send_of_noRings {s : State} {p : Nat} (h : noRings s p) (msg : List Byte) (isKill : Bool) : send s p msg isKill = s := by
  obtain ⟨hm, hd⟩ := h
  simp [send, sendHost, sendDevice, hm, hd]

theorem send_of_ringReady {s : State} {p : Nat} (h : ringReady s p) (msg : List Byte) (isKill : Bool) :
    send s p msg isKill = putHost s p msg := by
  obtain ⟨hm, hd, hh, hr⟩ := h
  have hp : ((putHost s p msg).partAt p).dmbase = 0 := by simp [putHost, hd]
  simp [send, sendHost, sendDevice, hm, hh, hr, hp]

theorem length_killRecord (task : Word) (reason core : Nat) (c : Option Culprit) : (killRecord task reason core c).length = 32 := by
  cases c <;> simp [killRecord]

theorem length_message {body : List Byte} (kind : Nat) (h : body.length ≤ 56) : (message kind body).length = 64 := by
  simp [message]; omega

/-! ### Translations to a port -/

theorem Table.get_map {α : Type} (d : α) (f : α → α) (hd : f d = d) (m : Table α) (i : Nat) :
    Table.get d (m.map fun p => (p.1, f p.2)) i = f (Table.get d m i) := by
  induction m with
  | nil => exact hd.symm
  | cons p m ih =>
    simp only [List.map_cons, Table.get]
    split
    · rfl
    · exact ih

/-- A translation kept for a page of a port's peer. -/
def namesPort (port : Nat) (e : TlbEntry) : Bool := e.kind == 2 && bits e.pbase 49 44 == port

theorem namesPort_iff {port : Nat} {e : TlbEntry} : namesPort port e = true ↔ e.kind = 2 ∧ e.pbase / 2 ^ 44 % 2 ^ 6 = port := by
  simp [namesPort, bits]

theorem coreAt_dropPort (s : State) (port c : Nat) :
    (dropPort s port).coreAt c = { s.coreAt c with tlb := (s.coreAt c).tlb.filter fun e => !namesPort port e } :=
  Table.get_map ({} : Core) (fun c => { c with tlb := c.tlb.filter fun e => !namesPort port e }) rfl s.cores c

theorem hartAt_dropPort (s : State) (port k : Nat) :
    ∃ u, (dropPort s port).hartAt k = { s.hartAt k with utr := u } ∧
      ∀ e, u = some e ↔ (s.hartAt k).utr = some e ∧ ¬ namesPort port e = true := by
  unfold dropPort
  extract_lets names core hart
  refine ⟨(hart (s.hartAt k)).utr, Table.get_map ({} : Hart) hart rfl s.harts k, fun e => ?_⟩
  simp only [hart]
  split
  · next x hx =>
    rw [hx]
    change (if namesPort port x = true then none else some x) = some e ↔ _
    grind
  · next hx => simp [hx]

/-! ### The statements about each event -/

theorem governorSample_idle {s : State} {die : Fin 4} {p : Nat}
    (h : s.stew.replay = true ∨ s.reftime < (s.dieAt die.val).sampled + 100) : exec (.governorSample die p) s = .next s :=
  congrArg Host.Outcome.next (if_pos h)

theorem governorSample_counts {s : State} {die : Fin 4} {p : Nat} (hr : s.stew.replay = false)
    (ht : (s.dieAt die.val).sampled + 100 ≤ s.reftime) :
    exec (.governorSample die p) s =
      .next (s.setDieAt die.val { grantStep (s.dieAt die.val) p with sampled := s.reftime }) :=
  congrArg Host.Outcome.next (if_neg (by rw [hr]; simp; omega))

theorem grantStep_eq (d : Die) (p : Nat) :
    grantStep d p =
      if 95 < p then
        (if d.grant < 2 ∧ 1 ≤ d.above then { d with grant := d.grant + 1, above := 0, below := 0 }
          else { d with above := d.above + 1, below := 0 })
      else if p < 80 then
        (if 0 < d.grant ∧ 49 ≤ d.below then { d with grant := d.grant - 1, above := 0, below := 0 }
          else { d with above := 0, below := d.below + 1 })
      else { d with above := 0, below := 0 } := by
  by_cases hi : 95 < p
  · have lo : ¬ p < 80 := by omega
    simp [grantStep, hi, lo]
  · by_cases lo : p < 80
    · simp [grantStep, hi, lo]
    · simp [grantStep, hi, lo]

/-- New ceilings, by f, for the clusters of a die. -/
def ceilingsMove (s : State) (die : Nat) (f : Cluster → Nat) (t : State) : Prop :=
  t.harts = s.harts ∧ t.gangs = s.gangs ∧ t.tasks = s.tasks ∧
    ∀ cl, (t.clusterAt cl).want = (s.clusterAt cl).want ∧
      (t.clusterAt cl).ceil = if cl / 8 = die then f (s.clusterAt cl) else (s.clusterAt cl).ceil

theorem setCeilings_moves {s : State} (h : s.stew.replay = false) (die : Nat) (beyond cooled : Bool) (f : Cluster → Nat) :
    ceilingsMove s die f (setCeilings (thermal s die beyond cooled) die f) := by
  rw [setCeilings_eq_clocked (s := thermal s die beyond cooled) h]
  obtain ⟨hh, hg, ht⟩ := clocked_kept die (fun _ c => { c with ceil := f c }) 8 (thermal s die beyond cooled)
  refine ⟨hh, hg, ht, fun cl => ?_⟩
  rw [clocked_clusterAt]
  by_cases hc : cl / 8 = die
  · rw [if_pos (by omega), if_pos hc]
    exact ⟨rfl, rfl⟩
  · rw [if_neg (by omega), if_neg hc]
    exact ⟨rfl, rfl⟩

theorem thermalOver_moves {s : State} (h : s.stew.replay = false) (die : Fin 4) :
    ∃ t, exec (.thermalOver die) s = .next t ∧ ceilingsMove s die.val (fun c => min 5 (max c.want c.ceil + 1)) t :=
  ⟨_, rfl, setCeilings_moves h _ _ _ _⟩

theorem thermalStepDown_moves {s : State} (h : s.stew.replay = false) {die : Fin 4} (hot : (s.dieAt die.val).tooHot = true)
    (hs : (s.dieAt die.val).stepped + 1000 ≤ s.reftime) :
    ∃ t, exec (.thermalStepDown die) s = .next t ∧ ceilingsMove s die.val (fun c => min 5 (c.ceil + 1)) t :=
  ⟨_, congrArg Host.Outcome.next (if_pos ⟨hot, hs⟩), setCeilings_moves h _ _ _ _⟩

theorem thermalStepDown_idle {s : State} {die : Fin 4}
    (h : (s.dieAt die.val).tooHot = false ∨ s.reftime < (s.dieAt die.val).stepped + 1000) :
    exec (.thermalStepDown die) s = .next s :=
  congrArg Host.Outcome.next (if_neg (by rintro ⟨hot, hs⟩; rcases h with h | h <;> [simp [h] at hot; omega]))

theorem any_ceil_iff (s : State) (die : Nat) :
    (clustersOf die).any (fun cl => (s.clusterAt cl).ceil != 0) = true ↔ ∃ cl, cl / 8 = die ∧ (s.clusterAt cl).ceil ≠ 0 := by
  simp only [clustersOf, List.any_eq_true, List.mem_map, List.mem_range, bne_iff_ne, exists_exists_and_eq_and]
  constructor
  · rintro ⟨i, hi, h⟩
    exact ⟨8 * die + i, by omega, h⟩
  · rintro ⟨cl, rfl, h⟩
    exact ⟨cl % 8, by omega, by rwa [Nat.div_add_mod]⟩

theorem thermalStepUp_moves {s : State} (h : s.stew.replay = false) {die : Fin 4} (cool : (s.dieAt die.val).cooled = true)
    (hs : (s.dieAt die.val).stepped + 10000 ≤ s.reftime) (hc : ∃ cl, cl / 8 = die.val ∧ (s.clusterAt cl).ceil ≠ 0) :
    ∃ t, exec (.thermalStepUp die) s = .next t ∧ ceilingsMove s die.val (fun c => c.ceil - 1) t :=
  ⟨_, congrArg Host.Outcome.next (if_pos (by simp [cool, hs, (any_ceil_iff s die.val).2 hc])), setCeilings_moves h _ _ _ _⟩

theorem thermalStepUp_idle {s : State} {die : Fin 4}
    (h : (s.dieAt die.val).cooled = false ∨ s.reftime < (s.dieAt die.val).stepped + 10000 ∨
      ∀ cl, cl / 8 = die.val → (s.clusterAt cl).ceil = 0) :
    exec (.thermalStepUp die) s = .next s := by
  refine congrArg Host.Outcome.next (if_neg fun hi => ?_)
  simp only [Bool.and_eq_true, decide_eq_true_eq, any_ceil_iff] at hi
  obtain ⟨⟨cool, hs⟩, cl, hcl, hne⟩ := hi
  rcases h with h | h | h
  · simp [h] at cool
  · omega
  · exact hne (h cl hcl)

/-! ### The end of a boost interval -/

theorem popcount_uncharged (hot free : Nat) :
    popcount (hot &&& (0xFF ^^^ free)) 8 = ((List.range 8).filter fun j => hot.testBit j && !free.testBit j).length := by
  have low : ∀ j, j < 8 → Nat.testBit 0xFF j = true := by decide
  refine congrArg List.length (List.filter_congr fun j hj => ?_)
  simp [Nat.testBit_and, Nat.testBit_xor, low j (List.mem_range.1 hj)]

theorem poolStep_permits (d : Die) :
    (poolStep d).permits = if d.hot = 0 then min 64 (d.permits + 1)
      else d.permits - ((List.range 8).filter fun j => d.hot.testBit j && !d.free.testBit j).length := by
  rw [← popcount_uncharged]
  rfl

theorem poolStep_lock (d : Die) :
    (poolStep d).lock = if d.lock then decide ((poolStep d).permits < 32) else decide ((poolStep d).permits = 0) := by
  rw [poolStep]
  dsimp only
  generalize (if d.hot = 0 then _ else _ : Nat) = pool
  cases d.lock
  · by_cases hp : pool = 0 <;> simp [hp]
  · by_cases hp : 32 ≤ pool <;> simp [hp]; omega

theorem intervalEnd_eq (s : State) (die : Nat) :
    ∃ free, intervalEnd s die =
      clocked die (fun i c => { c with want := nextClock s (s.dieAt die) (poolStep (s.dieAt die)) (8 * die + i) }) 8
        (s.setDieAt die { poolStep (s.dieAt die) with hot := 0, free := free, interval := s.reftime }) := by
  unfold intervalEnd
  extract_lets old new clocks free ended
  exact ⟨free, by simp only [clocks, clocked, clustersOf, List.foldl_map]; rfl⟩

theorem foldl_max_eq {l : List Nat} {m b : Nat} (hb : b ≤ m) (hl : ∀ x ∈ l, x ≤ m) (hm : m = b ∨ m ∈ l) :
    l.foldl max b = m := by
  induction l generalizing b with
  | nil => simpa [eq_comm] using hm
  | cons x l ih =>
    have hx := hl x List.mem_cons_self
    refine ih (max_le hb hx) (fun y hy => hl y (List.mem_cons_of_mem _ hy)) ?_
    rcases hm with rfl | hm
    · exact .inl (max_eq_left hx).symm
    · rcases List.mem_cons.1 hm with rfl | hm
      · exact .inl (max_eq_right hb).symm
      · exact .inr hm

/-- The request of a cluster is the largest of its harts' that are neither EMPTY nor STOPPED, and 0 in replay. -/
theorem clusterRequest_eq {s : State} {cl req : Nat}
    (hle : ∀ n, n < 96 → ((s.hartAt (cl * 96 + n)).slot = .running ∨ (s.hartAt (cl * 96 + n)).slot = .waiting) →
      s.stew.replay = false → (s.hartAt (cl * 96 + n)).boostReq ≤ req)
    (hex : req = 0 ∨ (s.stew.replay = false ∧ ∃ n, n < 96 ∧
      ((s.hartAt (cl * 96 + n)).slot = .running ∨ (s.hartAt (cl * 96 + n)).slot = .waiting) ∧
        (s.hartAt (cl * 96 + n)).boostReq = req)) :
    clusterRequest s cl = req := by
  cases hr : s.stew.replay
  · simp only [clusterRequest, hr, Bool.false_eq_true, if_false]
    refine foldl_max_eq (Nat.zero_le _) (fun x hx => ?_) ?_
    · obtain ⟨n, hn, rfl⟩ := List.mem_map.1 hx
      split
      · next hs => exact hle n (List.mem_range.1 hn) (by simpa using hs) hr
      · exact Nat.zero_le _
    · rcases hex with rfl | ⟨-, n, hn, hs, rfl⟩
      · exact .inl rfl
      · refine .inr (List.mem_map.2 ⟨n, List.mem_range.2 hn, ?_⟩)
        rw [if_pos (by simpa using hs)]
  · rcases hex with rfl | ⟨h, -⟩
    · simp [clusterRequest, hr]
    · rw [hr] at h; cases h

/-- What the end of an interval leaves in the clusters: the clock that the pool gives, on the die alone. -/
theorem intervalEnd_clusterAt (s : State) (die cl : Nat) :
    (intervalEnd s die).clusterAt cl =
      if cl / 8 = die then { s.clusterAt cl with want := nextClock s (s.dieAt die) (poolStep (s.dieAt die)) cl } else s.clusterAt cl := by
  obtain ⟨free, h⟩ := intervalEnd_eq s die
  rw [h, clocked_clusterAt]
  by_cases hc : cl / 8 = die
  · rw [if_pos (by omega), if_pos hc, show 8 * die + (cl - 8 * die) = cl by omega]
    rfl
  · rw [if_neg (by omega), if_neg hc]
    rfl

/-- What it leaves in the die: the new pool, and the mask of the clusters above 1.0 GHz. -/
theorem intervalEnd_dieAt (s : State) (die : Nat) :
    ∃ hot free, (intervalEnd s die).dieAt die = { poolStep (s.dieAt die) with hot := hot, free := free, interval := s.reftime } ∧
      ∀ j, j < 8 → (hot.testBit j = true ↔ ((intervalEnd s die).clusterAt (8 * die + j)).step < 2) := by
  obtain ⟨free, h⟩ := intervalEnd_eq s die
  obtain ⟨hot, hd, hb⟩ := clocked_dieAt die (fun i c => { c with want := nextClock s (s.dieAt die) (poolStep (s.dieAt die)) (8 * die + i) })
    (Nat.le_refl 8) (s.setDieAt die { poolStep (s.dieAt die) with hot := 0, free := free, interval := s.reftime })
  rw [State.dieAt_setDieAt_self] at hd hb
  refine ⟨hot, free, by rw [h, hd], fun j hj => ?_⟩
  rw [hb, intervalEnd_clusterAt, if_pos (by omega)]
  simp [hj]

theorem intervalEnd_kept (s : State) (die : Nat) : (intervalEnd s die).harts = s.harts := by
  obtain ⟨free, h⟩ := intervalEnd_eq s die
  rw [h]
  exact (clocked_kept _ _ _ _).1

/-- Above 16 permits and unlocked, a cluster gets its request. -/
theorem nextClock_request {s : State} {old new : Die} {cl : Nat} (hl : new.lock = false) (hp : 16 < new.permits) :
    nextClock s old new cl = 2 - clusterRequest s cl := by
  simp [nextClock, hl, hp, requestStep]

/-- Locked, it gets clock step 2, or step 1 where the lock is new and the cluster stood above 1.0 GHz. -/
theorem nextClock_locked {s : State} {old new : Die} {cl : Nat} (hl : new.lock = true) :
    nextClock s old new cl = if old.lock = false ∧ (s.clusterAt cl).step < 2 then 1 else 2 := by
  simp [nextClock, hl]

theorem intervalEnd_permits (s : State) (die : Nat) :
    ((intervalEnd s die).dieAt die).permits = if (s.dieAt die).hot = 0 then min 64 ((s.dieAt die).permits + 1)
      else (s.dieAt die).permits - ((List.range 8).filter fun j => (s.dieAt die).hot.testBit j && !(s.dieAt die).free.testBit j).length := by
  obtain ⟨_, _, hd, -⟩ := intervalEnd_dieAt s die
  rw [hd]
  exact poolStep_permits _

theorem intervalEnd_lock (s : State) (die : Nat) :
    ((intervalEnd s die).dieAt die).lock = if (s.dieAt die).lock then decide (((intervalEnd s die).dieAt die).permits < 32)
      else decide (((intervalEnd s die).dieAt die).permits = 0) := by
  obtain ⟨_, _, hd, -⟩ := intervalEnd_dieAt s die
  rw [hd]
  exact poolStep_lock _

theorem intervalEnd_hot (s : State) (die : Nat) {j : Nat} (hj : j < 8) :
    ((intervalEnd s die).dieAt die).hot.testBit j = true ↔ ((intervalEnd s die).clusterAt (8 * die + j)).step < 2 := by
  obtain ⟨_, _, hd, hb⟩ := intervalEnd_dieAt s die
  rw [hd]
  exact hb j hj

theorem intervalEnd_want (s : State) (die : Nat) {j : Nat} (hj : j < 8) :
    ((intervalEnd s die).clusterAt (8 * die + j)).want = nextClock s (s.dieAt die) (poolStep (s.dieAt die)) (8 * die + j) := by
  rw [intervalEnd_clusterAt, if_pos (by omega)]

theorem intervalEnd_want_request (s : State) (die : Nat) {j : Nat} (hj : j < 8)
    (hp : 16 < ((intervalEnd s die).dieAt die).permits) (hl : ((intervalEnd s die).dieAt die).lock = false) :
    ((intervalEnd s die).clusterAt (8 * die + j)).want = 2 - clusterRequest s (8 * die + j) := by
  obtain ⟨_, _, hd, -⟩ := intervalEnd_dieAt s die
  rw [hd] at hp hl
  exact (intervalEnd_want s die hj).trans (nextClock_request (new := poolStep (s.dieAt die)) hl hp)

theorem intervalEnd_want_locked (s : State) (die : Nat) {j : Nat} (hj : j < 8) (hl : ((intervalEnd s die).dieAt die).lock = true) :
    ((intervalEnd s die).clusterAt (8 * die + j)).want =
      if (s.dieAt die).lock = false ∧ (s.clusterAt (8 * die + j)).step < 2 then 1 else 2 := by
  obtain ⟨_, _, hd, -⟩ := intervalEnd_dieAt s die
  rw [hd] at hl
  exact (intervalEnd_want s die hj).trans (nextClock_locked (new := poolStep (s.dieAt die)) hl)

theorem intervalEnd_elsewhere (s : State) (die cl : Nat) :
    ((intervalEnd s die).clusterAt cl).ceil = (s.clusterAt cl).ceil ∧
      (cl / 8 ≠ die → (intervalEnd s die).clusterAt cl = s.clusterAt cl) := by
  rw [intervalEnd_clusterAt]
  split
  · next h => exact ⟨rfl, fun hn => absurd h hn⟩
  · exact ⟨rfl, fun _ => rfl⟩

/-! ### Hung harts -/

/-- A running hart that has retired nothing for as long as the watchdog allows (R429). -/
def hung (s : State) (k : Nat) : Prop :=
  (s.hartAt k).slot = .running ∧ (s.hartAt k).exited = false ∧ (s.hartAt k).halted = false ∧
    (s.hartAt k).retired + hangLimit ≤ s.reftime

theorem hung_iff (s : State) (k : Nat) :
    ((s.hartAt k).slot == .running && (s.hartAt k).acts && !(s.hartAt k).halted &&
      decide ((s.hartAt k).retired + hangLimit ≤ s.reftime)) = true ↔ hung s k := by
  cases hs : (s.hartAt k).slot <;> simp [hung, Hart.acts, hs, and_assoc]

/-- The notice of a hung hart: a kill record with REASON 0. -/
def hangNotice (s : State) (k : Nat) : List Byte :=
  killRecord (match (s.hartAt k).gang.bind s.task? with | some t => t.desc | none => 0) 0 (coreOf k)
    (some (.ofTrap k (s.hartAt k).pc { cause := .none }))

theorem hangWatchdog_idle {s : State} {k : Nat} (h : ¬ hung s k) : exec (.hangWatchdog k) s = .next s :=
  congrArg Host.Outcome.next (if_neg fun hi => h ((hung_iff s k).1 hi))

theorem hangWatchdog_reports {s : State} {k : Nat} (h : hung s k) :
    exec (.hangWatchdog k) s = .next (send s ((s.partOf (coreOf k)).getD 0) (message 4 (hangNotice s k)) false) :=
  congrArg Host.Outcome.next (if_pos ((hung_iff s k).2 h))

theorem putHost_kept (s : State) (part : Nat) (msg : List Byte) :
    (putHost s part msg).harts = s.harts ∧ (putHost s part msg).gangs = s.gangs ∧ (putHost s part msg).tasks = s.tasks ∧
      (putHost s part msg).parts = Table.set s.parts part { s.partAt part with mbhead := ((s.partAt part).mbhead + 1) % 256 } :=
  ⟨rfl, rfl, rfl, rfl⟩

theorem told_putHost {s : State} {p kind : Nat} {body : List Byte} {fields : List (Nat × Nat × Nat)} (hk : kind < 256)
    (hb : body.length ≤ 56) (hf : ∀ f, f ∈ fields → f.1 + f.2.1 ≤ body.length ∧ field body f.1 f.2.1 = f.2.2) :
    told s (putHost s p (message kind body)) p kind fields := by
  have hl := length_message kind hb
  have hm : message kind body = leBytes 8 (kind % 256) ++ (body ++ List.replicate (56 - body.length) 0) := List.append_assoc ..
  obtain ⟨-, -, -, hp⟩ := putHost_kept s p (message kind body)
  refine ⟨?_, fun f hf' => ?_, putHost_outside s p hl, hp⟩
  · have h := numAt_putHost (s := s) (part := p) (msg := message kind body) (off := 0) (n := 8) (by omega)
    rw [Nat.add_zero, hm, field_head] at h
    rw [hm, h]
    omega
  · obtain ⟨hr, hv⟩ := hf f hf'
    rw [Nat.add_assoc, numAt_putHost (by omega), hm, field_skip (by omega), Nat.add_sub_cancel_left, field_append_left hr, hv]

theorem hangNotice_fields (s : State) (k : Nat) (hc : coreOf k < 384) :
    ∀ f, f ∈ [(0, 8, (((s.hartAt k).gang.bind s.task?).map (·.desc.toNat)).getD 0), (8, 1, 0), (12, 2, coreOf k), (14, 1, slotOf k),
        (16, 8, (s.hartAt k).pc.toNat)] →
      f.1 + f.2.1 ≤ (hangNotice s k).length ∧ field (hangNotice s k) f.1 f.2.1 = f.2.2 := by
  have hs : slotOf k < 8 := Nat.mod_lt _ (by decide)
  have task : (match (s.hartAt k).gang.bind s.task? with | some t => t.desc | none => 0).toNat =
      (((s.hartAt k).gang.bind s.task?).map (·.desc.toNat)).getD 0 := by
    cases (s.hartAt k).gang.bind s.task? <;> rfl
  have ht : (((s.hartAt k).gang.bind s.task?).map (·.desc.toNat)).getD 0 < 2 ^ 64 := task ▸ BitVec.isLt _
  have hp : (s.hartAt k).pc.toNat < 2 ^ 64 := BitVec.isLt _
  simp only [List.forall_mem_cons, hangNotice, length_killRecord]
  simp only [killRecord, task, Culprit.ofTrap, List.append_assoc]
  generalize (((s.hartAt k).gang.bind s.task?).map (·.desc.toNat)).getD 0 = desc at ht
  simp
  omega

theorem hangWatchdog_told {s : State} {k : Nat} (h : hung s k) (hr : ringReady s ((s.partOf (coreOf k)).getD 0)) (hc : coreOf k < 384) :
    ∃ t, exec (.hangWatchdog k) s = .next t ∧ t.harts = s.harts ∧ t.gangs = s.gangs ∧ t.tasks = s.tasks ∧
      told s t ((s.partOf (coreOf k)).getD 0) 4
        [(0, 8, (((s.hartAt k).gang.bind s.task?).map (·.desc.toNat)).getD 0), (8, 1, 0), (12, 2, coreOf k), (14, 1, slotOf k),
          (16, 8, (s.hartAt k).pc.toNat)] :=
  have ⟨hh, hg, ht, _⟩ := putHost_kept s ((s.partOf (coreOf k)).getD 0) (message 4 (hangNotice s k))
  ⟨_, by rw [hangWatchdog_reports h, send_of_ringReady hr], hh, hg, ht,
    told_putHost (by omega) (by simp [hangNotice, length_killRecord]) (hangNotice_fields s k hc)⟩

/-! ### Links -/

/-- What a link that changes leaves: a new generation of its port, and no translation kept for a page of its peer. -/
theorem portChange_changes (s : State) (port : Nat) (up : Bool) :
    let names := fun (e : TlbEntry) => e.kind = 2 ∧ e.pbase / 2 ^ 44 % 2 ^ 6 = port
    let t := portChange s port up
    t.portAt port = { s.portAt port with up := up, gen := ((s.portAt port).gen + 1) % 256 } ∧
    (∀ n, n ≠ port → t.portAt n = s.portAt n) ∧
    (∀ c e, e ∈ (t.coreAt c).tlb ↔ e ∈ (s.coreAt c).tlb ∧ ¬ names e) ∧
    (∀ k e, (t.hartAt k).utr = some e ↔ (s.hartAt k).utr = some e ∧ ¬ names e) ∧
    (∀ k, { t.hartAt k with utr := none } = { s.hartAt k with utr := none }) ∧
    (∀ c, Core.rest (t.coreAt c) = Core.rest (s.coreAt c)) ∧ t.mem = { s.mem with ports := t.mem.ports } := by
  intro names t
  have hc : ∀ c, t.coreAt c = { s.coreAt c with tlb := (s.coreAt c).tlb.filter fun e => !namesPort port e } := coreAt_dropPort _ _
  have hh : ∀ k, ∃ u, t.hartAt k = { s.hartAt k with utr := u } ∧
      ∀ e, u = some e ↔ (s.hartAt k).utr = some e ∧ ¬ namesPort port e = true := hartAt_dropPort _ _
  have hn : ∀ e, names e ↔ namesPort port e = true := fun _ => namesPort_iff.symm
  refine ⟨State.portAt_setPortAt_self _ _ _, fun _ h => State.portAt_setPortAt_of_ne _ _ h, fun c e => ?_, fun k e => ?_, fun k => ?_,
    fun c => ?_, rfl⟩
  · rw [hc, hn]; simp
  · obtain ⟨u, hu, he⟩ := hh k
    rw [hu, hn]
    exact he e
  · obtain ⟨u, hu, -⟩ := hh k
    rw [hu]
  · rw [hc]; rfl

/-! ### The obligation -/

/-- Settles O57: each event by its own lemma. -/
theorem powerAndLinkEvents : Obligations.PowerAndLinkEvents := by
  refine ⟨fun s die p => ?_, fun s die hr => ?_, fun s die => ?_, fun s die => ?_, fun s n => rfl, fun s k => ?_, fun s => rfl,
    fun s port => ?_, fun s n => rfl⟩
  · refine ⟨governorSample_idle, fun hr ht => ⟨_, governorSample_counts hr ht, fun n hn => State.dieAt_setDieAt_of_ne _ _ hn,
      rfl, rfl, ?_⟩⟩
    rw [State.dieAt_setDieAt_self, grantStep_eq]
    split
    · split <;> rfl
    · split
      · split <;> rfl
      · rfl
  · exact ⟨thermalOver_moves hr die, thermalStepDown_moves hr, thermalStepDown_idle, thermalStepUp_moves hr, thermalStepUp_idle⟩
  · exact ⟨_, rfl, rfl, rfl, State.dieAt_setDieAt_self _ _ _, fun n hn => State.dieAt_setDieAt_of_ne _ _ hn⟩
  · refine ⟨fun h => congrArg Host.Outcome.next (if_neg (by omega)), fun h0 hi => ⟨intervalEnd s die.val,
      congrArg Host.Outcome.next (if_pos ⟨h0, hi⟩), intervalEnd_kept s die.val, intervalEnd_permits s die.val, ?_,
      intervalEnd_elsewhere s die.val, fun j => intervalEnd_hot s die.val, fun j req hj hp hl hle hex => ?_,
      fun j => intervalEnd_want_locked s die.val⟩⟩
    · rw [intervalEnd_lock, intervalEnd_permits]
    · rw [intervalEnd_want_request s die.val hj (by rwa [intervalEnd_permits]) hl, clusterRequest_eq hle hex]
  · exact ⟨hangWatchdog_idle, fun h hn => by rw [hangWatchdog_reports h, send_of_noRings hn], hangWatchdog_told⟩
  · exact ⟨⟨_, rfl, portChange_changes s port.val false⟩, ⟨_, rfl, portChange_changes s port.val true⟩,
      ⟨_, rfl, portChange_changes s port.val _⟩⟩

end Sys2Proof.Machine.Claim
end

section
/-! ## idle, id, tlbinv and halt (O26) -/

namespace Sys2Proof.Machine.Claim
open Sys2Proof.Machine
set_option Elab.async false

/-! ### The ends of a scalar instruction, in the words of the claims -/

theorem setReg_next (h : Hart) (d : Reg) (v : Word) : (h.setReg d v).next = stepped h d v := by
  unfold Hart.setReg stepped
  split <;> rfl

/-- An instruction that writes one scalar register and goes on. -/
theorem writeReg_eq_wrote (s : State) (d : Reg) (v : Word) : writeReg s d v = wrote s d v := by
  rw [writeReg, finish, setReg_next]
  rfl

/-! ### idle and id -/

theorem idle_over {s : State} {d a : Reg} (h : (s.hart.reg a).toNat ≤ s.now / 20) :
    exec (.idle d a) s = .next (wrote s d (BitVec.ofNat 64 (s.now / 20))) :=
  (congrArg Host.Outcome.next (if_pos h)).trans (congrArg Host.Outcome.next (writeReg_eq_wrote ..))

theorem idle_waits {s : State} {d a : Reg} (h : s.now / 20 < (s.hart.reg a).toNat) :
    exec (.idle d a) s = .next (withTurn s { s.hart with slot := .waiting, wait := .clock (s.hart.reg a).toNat }) :=
  congrArg Host.Outcome.next (if_neg (Nat.not_le.2 h))

theorem id_writes (s : State) (d : Reg) : exec (.id d) s = .next (wrote s d (BitVec.ofNat 64 (idWord s s.turn))) :=
  congrArg Host.Outcome.next (writeReg_eq_wrote ..)

/-- The fields of id by the number of the hart (R294). -/
theorem idWord_eq (s : State) :
    idWord s s.turn = 0x46 * 2 ^ 56 + 2 ^ 48 + (s.partOf (s.turn / 8)).getD 0 * 2 ^ 38 +
      gangCore s s.turn * 2 ^ 32 + s.turn / 8 * 2 ^ 12 + s.turn / 768 * 2 ^ 10 + s.turn / 96 % 8 * 2 ^ 7 +
      s.turn / 8 % 12 * 2 ^ 3 + s.turn % 8 := by
  have hd : dieOf (coreOf s.turn) = s.turn / 768 := Nat.div_div_eq_div_mul ..
  have hc : s.turn / 8 / 12 = s.turn / 96 := Nat.div_div_eq_div_mul ..
  simp only [idWord, hd]
  simp only [coreOf, slotOf, hc]
  rfl

/-! ### The translations that tlbinv drops -/

/-- A hart without the translation of its unit-stride register, where that is hit. -/
def dropUtr (hit : TlbEntry → Bool) (h : Hart) : Hart := if h.utr.any hit then { h with utr := none } else h

/-- A core without the translations of its gather TLB that are hit. -/
def dropEntries (hit : TlbEntry → Bool) (c : Core) : Core := { c with tlb := c.tlb.filter fun e => !hit e }

theorem dropUtr_utr (hit : TlbEntry → Bool) (h : Hart) (e : TlbEntry) :
    (dropUtr hit h).utr = some e ↔ h.utr = some e ∧ ¬ hit e = true := by
  unfold dropUtr
  cases hu : h.utr <;> grind

theorem dropUtr_eq (hit : TlbEntry → Bool) (h : Hart) : ∃ u, dropUtr hit h = { h with utr := u } := by
  unfold dropUtr
  split <;> exact ⟨_, rfl⟩

theorem dropUtr_twice (hit : TlbEntry → Bool) (h : Hart) : dropUtr hit (dropUtr hit h) = dropUtr hit h := by
  unfold dropUtr
  split <;> simp_all

theorem dropEntries_twice (hit : TlbEntry → Bool) (c : Core) : dropEntries hit (dropEntries hit c) = dropEntries hit c := by
  simp [dropEntries]

/-- A fold over a run of harts that changes each of them alone. -/
theorem foldl_range_hartAt {f : State → Nat → State} {g : Hart → Hart} {base : Nat}
    (hf : ∀ s n k, (f s n).hartAt k = if k = base + n then g (s.hartAt k) else s.hartAt k) (n : Nat) (s : State) (k : Nat) :
    ((List.range n).foldl f s).hartAt k = if base ≤ k ∧ k < base + n then g (s.hartAt k) else s.hartAt k := by
  induction n with
  | zero => rw [if_neg (by omega)]; rfl
  | succ n ih =>
    rw [List.range_succ, List.foldl_append, List.foldl_cons, List.foldl_nil, hf, ih]
    by_cases hk : k = base + n
    · rw [if_pos hk, if_neg (by omega), if_pos (by omega)]
    · rw [if_neg hk]
      exact if_congr (by omega) rfl rfl

theorem dropTlb_hartAt (s : State) (core : Nat) (hit : TlbEntry → Bool) (k : Nat) :
    (dropTlb s core hit).hartAt k = if k / 8 = core ∧ k % 8 < 4 then dropUtr hit (s.hartAt k) else s.hartAt k := by
  unfold dropTlb
  refine (foldl_range_hartAt (g := dropUtr hit) (base := core * 8) (fun s n k => ?_) 4 _ k).trans (if_congr (by omega) rfl rfl)
  by_cases hk : k = core * 8 + n
  · subst hk
    rw [if_pos rfl, dropUtr]
    dsimp only
    split
    · next e hu => by_cases hh : hit e = true <;> simp [hu, hh]
    · next hu => simp [hu]
  · rw [if_neg hk]
    dsimp only
    split
    · split
      · exact State.hartAt_setHartAt_of_ne _ _ hk
      · rfl
    · rfl

/-- What a fold over the harts of a core leaves, where each step leaves it. -/
theorem dropTlb_kept (s : State) (core : Nat) (hit : TlbEntry → Bool) :
    (dropTlb s core hit).mem = s.mem ∧ (dropTlb s core hit).turn = s.turn ∧
      (dropTlb s core hit).cores = (s.setCoreAt core (dropEntries hit (s.coreAt core))).cores := by
  refine List.foldlRecOn (motive := fun t : State => t.mem = s.mem ∧ t.turn = s.turn ∧
    t.cores = (s.setCoreAt core (dropEntries hit (s.coreAt core))).cores) _ _ ⟨rfl, rfl, rfl⟩ fun t h n _ => ?_
  dsimp only
  split
  · split <;> exact h
  · exact h

theorem dropTlb_coreAt (s : State) (core : Nat) (hit : TlbEntry → Bool) (c : Nat) :
    (dropTlb s core hit).coreAt c = if c = core then dropEntries hit (s.coreAt c) else s.coreAt c := by
  obtain ⟨-, -, hc⟩ := dropTlb_kept s core hit
  rw [State.coreAt, hc]
  split
  · next h => subst h; exact State.coreAt_setCoreAt_self _ _ _
  · next h => exact State.coreAt_setCoreAt_of_ne _ _ h

/-- The machine after tlbinv has dropped the translations of the cores of its scope. -/
def dropAll (hit : TlbEntry → Bool) (cores : List Nat) (s : State) : State := cores.foldl (fun s c => dropTlb s c hit) s

theorem dropAll_kept (hit : TlbEntry → Bool) (cores : List Nat) (s : State) :
    (dropAll hit cores s).mem = s.mem ∧ (dropAll hit cores s).turn = s.turn := by
  refine List.foldlRecOn (motive := fun t : State => t.mem = s.mem ∧ t.turn = s.turn) _ _ ⟨rfl, rfl⟩ fun t h c _ => ?_
  obtain ⟨hm, ht, -⟩ := dropTlb_kept t c hit
  exact ⟨hm.trans h.1, ht.trans h.2⟩

theorem dropAll_hartAt (hit : TlbEntry → Bool) (cores : List Nat) (s : State) (k : Nat) :
    (dropAll hit cores s).hartAt k = if k / 8 ∈ cores ∧ k % 8 < 4 then dropUtr hit (s.hartAt k) else s.hartAt k := by
  induction cores generalizing s with
  | nil => simp [dropAll]
  | cons c cores ih =>
    refine (ih (dropTlb s c hit)).trans ?_
    rw [dropTlb_hartAt]
    have twice := dropUtr_twice hit (s.hartAt k)
    simp only [List.mem_cons]
    grind

theorem dropAll_coreAt (hit : TlbEntry → Bool) (cores : List Nat) (s : State) (c : Nat) :
    (dropAll hit cores s).coreAt c = if c ∈ cores then dropEntries hit (s.coreAt c) else s.coreAt c := by
  induction cores generalizing s with
  | nil => simp [dropAll]
  | cons d cores ih =>
    refine (ih (dropTlb s d hit)).trans ?_
    rw [dropTlb_coreAt]
    have twice := dropEntries_twice hit (s.coreAt c)
    simp only [List.mem_cons]
    grind

theorem dropAll_utr (hit : TlbEntry → Bool) (cores : List Nat) (s : State) (k : Nat) (e : TlbEntry) :
    ((dropAll hit cores s).hartAt k).utr = some e ↔
      (s.hartAt k).utr = some e ∧ ¬ (k / 8 ∈ cores ∧ k % 8 < 4 ∧ hit e = true) := by
  rw [dropAll_hartAt]
  split
  · rw [dropUtr_utr]; grind
  · grind

theorem dropAll_tlb (hit : TlbEntry → Bool) (cores : List Nat) (s : State) (c : Nat) (e : TlbEntry) :
    e ∈ ((dropAll hit cores s).coreAt c).tlb ↔ e ∈ (s.coreAt c).tlb ∧ ¬ (c ∈ cores ∧ hit e = true) := by
  rw [dropAll_coreAt]
  split
  · simp only [dropEntries, List.mem_filter]; grind
  · grind

theorem dropAll_hartAt_eq (hit : TlbEntry → Bool) (cores : List Nat) (s : State) (k : Nat) :
    ∃ u, (dropAll hit cores s).hartAt k = { s.hartAt k with utr := u } := by
  rw [dropAll_hartAt]
  split
  · exact dropUtr_eq _ _
  · exact ⟨_, rfl⟩

theorem dropAll_tlbInUse (hit : TlbEntry → Bool) (cores : List Nat) (s : State) (c : Nat) :
    tlbInUse (dropAll hit cores s) c hit = tlbInUse s c hit := by
  refine congrArg₂ List.any rfl (funext fun n => ?_)
  obtain ⟨u, hu⟩ := dropAll_hartAt_eq hit cores s (c * 8 + n)
  rw [hu]

/-! ### tlbinv -/

/-- tlbinv in supervisor privilege with an empty strip buffer: the drop, and then the end of the instruction or the wait. -/
theorem tlbinv_eq {s : State} (hp : s.hart.priv = .supervisor) (hs : s.hart.strip = []) (hit : TlbEntry → Bool) (scope : BitVec 2) :
    let cores := tlbScope s scope.toNat
    let named := fun (e : TlbEntry) => e.part == (s.partOf (coreOf s.turn)).getD 0 && hit e
    let t := dropAll named cores s
    tlbinv hit scope s = .next (if cores.any (tlbInUse s · named) then t else finish t t.hart) := by
  intro cores named t
  have used : cores.any (tlbInUse t · named) = cores.any (tlbInUse s · named) :=
    congrArg cores.any (funext fun c => dropAll_tlbInUse named cores s c)
  have hn : ¬ s.hart.priv = .user := by simp [hp]
  rw [← used]
  simp only [tlbinv, supervisor, hs, List.any_nil, Bool.false_eq_true, if_false, if_neg hn]
  rfl

/-- The forms of tlbinv and the translations that each names (R297). -/
theorem exec_tlbinv {s : State} {scope : BitVec 2} {a : Reg} {i : Instr} {hit : TlbEntry → Bool}
    (h : i = .tlbinvPage a scope ∧ hit = (fun e => e.asid == s.hart.ptbase.toNat / 2 ^ 52 &&
        (s.hart.reg a).toNat / 2 ^ e.lg * 2 ^ e.lg == e.vbase) ∨
      i = .tlbinvAsid a scope ∧ hit = (fun e => e.asid == (s.hart.reg a).toNat % 2 ^ 12) ∨
      i = .tlbinvAll scope ∧ hit = (fun _ => true)) : exec i s = tlbinv hit scope s := by
  rcases h with ⟨rfl, rfl⟩ | ⟨rfl, rfl⟩ | ⟨rfl, rfl⟩
  · have hb : bits s.hart.ptbase.toNat 63 52 = s.hart.ptbase.toNat / 2 ^ 52 := Nat.mod_eq_of_lt (by omega)
    rw [← hb]
    rfl
  · have hb : bits (s.hart.reg a).toNat 11 0 = (s.hart.reg a).toNat % 2 ^ 12 := by simp [bits]
    rw [← hb]
    rfl
  · rfl

/-- Whether a store that used a translation of the scope, or a vector entry with such a page, is still under way (R297). -/
theorem any_tlbInUse_iff (s : State) (cores : List Nat) (hit : TlbEntry → Bool) :
    cores.any (tlbInUse s · hit) = true ↔ ∃ c n, c ∈ cores ∧ n < 4 ∧
      ((∃ b e, b ∈ (s.hartAt (c * 8 + n)).strip ∧ b.page = some e ∧ hit e = true) ∨
        ∃ v e, v ∈ (s.hartAt (c * 8 + n)).viq ∧ e ∈ v.pages ∧ hit e = true) := by
  simp only [List.any_eq_true, tlbInUse, List.mem_range, Bool.or_eq_true, Option.any_eq_true]
  grind

/-- The end of an instruction that waits or goes on, by a condition. -/
theorem hartAt_ite_finish (c : Bool) (t : State) (k : Nat) :
    (if c then t else finish t t.hart).hartAt k = if c = false ∧ k = t.turn then (t.hartAt k).next else t.hartAt k := by
  cases c
  · change (finish t t.hart).hartAt k = _
    by_cases hk : k = t.turn
    · subst hk
      rw [if_pos ⟨rfl, rfl⟩]
      exact State.hartAt_setHartAt_self _ _ _
    · rw [if_neg fun h => hk h.2]
      exact State.hartAt_setHartAt_of_ne _ _ hk
  · change t.hartAt k = _
    rw [if_neg fun h => Bool.noConfusion h.1]

theorem ite_finish_kept (c : Bool) (t : State) :
    (if c then t else finish t t.hart).mem = t.mem ∧ (if c then t else finish t t.hart).turn = t.turn ∧
      (if c then t else finish t t.hart).cores = t.cores := by
  cases c <;> exact ⟨rfl, rfl, rfl⟩

theorem tlbinv_drops {s : State} (hp : s.hart.priv = .supervisor) (hs : s.hart.strip = []) (hit : TlbEntry → Bool) (scope : BitVec 2) :
    ∃ t, tlbinv hit scope s = .next t ∧
      (∀ c e, e ∈ (t.coreAt c).tlb ↔ e ∈ (s.coreAt c).tlb ∧
        ¬ (c ∈ tlbScope s scope.toNat ∧ e.part = (s.partOf (coreOf s.turn)).getD 0 ∧ hit e = true)) ∧
      (∀ c n e, n < 8 → ((t.hartAt (c * 8 + n)).utr = some e ↔ (s.hartAt (c * 8 + n)).utr = some e ∧
        ¬ (c ∈ tlbScope s scope.toNat ∧ n < 4 ∧ e.part = (s.partOf (coreOf s.turn)).getD 0 ∧ hit e = true))) ∧
      (∀ k, k ≠ s.turn → { t.hartAt k with utr := none } = { s.hartAt k with utr := none }) ∧
      t.hart.s = s.hart.s ∧ t.hart.priv = .supervisor ∧ t.mem = s.mem ∧
      ((∀ c n, c ∈ tlbScope s scope.toNat → n < 4 → (s.hartAt (c * 8 + n)).strip = [] ∧ (s.hartAt (c * 8 + n)).viq = []) →
        t.hart.pc = s.hart.pc + 4) ∧
      (∀ c n b e, c ∈ tlbScope s scope.toNat → n < 4 → b ∈ (s.hartAt (c * 8 + n)).strip → b.page = some e →
        e.part = (s.partOf (coreOf s.turn)).getD 0 → hit e = true → t.hart.pc = s.hart.pc) := by
  have he := tlbinv_eq hp hs hit scope
  extract_lets cores named t at he
  generalize hw : cores.any (tlbInUse s · named) = waits at he
  obtain ⟨hm, ht⟩ := dropAll_kept named cores s
  obtain ⟨hm', ht', hc'⟩ := ite_finish_kept waits t
  have hh := hartAt_ite_finish waits t
  generalize hu : (if waits then t else finish t t.hart) = u at he hm' ht' hc' hh
  have hname : ∀ e, named e = true ↔ e.part = (s.partOf (coreOf s.turn)).getD 0 ∧ hit e = true := fun e => by simp [named]
  obtain ⟨x, hx⟩ := dropAll_hartAt_eq named cores s s.turn
  have hart : u.hart = if waits = false then ({ s.hart with utr := x } : Hart).next else { s.hart with utr := x } := by
    have h := hh s.turn
    rw [hx] at h
    rw [State.hart, ht', ht, h]
    exact if_congr ⟨And.left, fun h => ⟨h, ht.symm⟩⟩ rfl rfl
  refine ⟨u, he, fun c e => ?_, fun c n e hn => ?_, fun k hk => ?_, ?_, ?_, hm'.trans hm, fun hidle => ?_,
    fun c n b e hc hn hb hpg hpt hhit => ?_⟩
  · rw [State.coreAt, hc', ← hname]
    exact dropAll_tlb named cores s c e
  · have hk : (c * 8 + n) / 8 = c ∧ (c * 8 + n) % 8 = n := by omega
    have h := dropAll_utr named cores s (c * 8 + n) e
    rw [hk.1, hk.2, hname] at h
    rw [hh]
    split <;> exact h
  · obtain ⟨x, hx⟩ := dropAll_hartAt_eq named cores s k
    rw [hh, if_neg (by rw [ht]; exact fun h => hk h.2), hx]
  · rw [hart]
    split <;> rfl
  · rw [hart]
    split <;> exact hp
  · have hf : waits = false := by
      rw [← hw, ← Bool.not_eq_true, any_tlbInUse_iff]
      rintro ⟨c, n, hc, hn, h⟩
      obtain ⟨hstrip, hviq⟩ := hidle c n hc hn
      simp [hstrip, hviq] at h
    rw [hart, if_pos hf]
    rfl
  · have hf : waits = true := by
      rw [← hw, any_tlbInUse_iff]
      exact ⟨c, n, hc, hn, .inl ⟨b, e, hb, hpg, (hname e).2 ⟨hpt, hhit⟩⟩⟩
    rw [hart, if_neg (by simp [hf])]

/-- halt with no ring of its partition set up. -/
theorem halt_stops {s : State} (hp : s.hart.priv = .supervisor) (h : noRings s ((s.partOf (coreOf s.turn)).getD 0)) :
    exec .halt s = .next (withTurn s { s.hart with
      slot := .stopped, wait := .held, pc := s.hart.pc + 4, done := s.hart.done + 1, masked := false }) := by
  have hn : ¬ s.hart.priv = .user := by simp [hp]
  refine congrArg Host.Outcome.next ((if_neg hn).trans ?_)
  exact send_of_noRings (s := s.setHart { s.hart.next with slot := .stopped, wait := .held }) h _ _

/-- Settles O26: idle and id by their equations, tlbinv by what its drop leaves of each core and hart, halt by its one write. -/
theorem systemInstructions : Obligations.SystemInstructions := by
  refine ⟨fun s d a => ⟨idle_over, idle_waits, fun v _ hv => ?_⟩, fun s scope a i hit hp _ hi hs => ?_, fun s hp hm hd => ?_⟩
  · have hv : v = idWord s s.turn := hv.trans (idWord_eq s).symm
    rw [hv]
    exact id_writes s d
  · rw [exec_tlbinv hi]
    exact tlbinv_drops hp hs hit scope
  · exact halt_stops hp ⟨hm, hd⟩

end Sys2Proof.Machine.Claim
end

section
/-! ## ld and st at a place that serves the hart (O19, O28) -/

namespace Sys2Proof.Machine.Claim
open Sys2Proof.Machine
set_option Elab.async false

/-! ### The bytes of a place -/

/-- An aligned range lies in one codeword. -/
theorem pieces_of_dvd {a n : Nat} (hn : n ∣ 64) (ha : n ∣ a) : pieces 64 a n = [(a, n)] := by
  obtain ⟨m, hm⟩ := hn
  obtain ⟨b, rfl⟩ := ha
  have h0 : n ≠ 0 := by rintro rfl; omega
  have hfit : n * b % 64 + n ≤ 64 := by
    have hmod : n * b % 64 = n * (b % m) := by rw [hm, Nat.mul_mod_mul_left]
    have hlt : b % m < m := Nat.mod_lt _ (Nat.pos_of_ne_zero (by rintro rfl; omega))
    rw [hmod, ← Nat.mul_succ, hm]
    exact Nat.mul_le_mul_left n hlt
  have hone : (n * b % 64 + n + 64 - 1) / 64 = 1 := by omega
  rw [pieces, if_neg h0, hone]
  simp only [List.range_one, List.map_cons, List.map_nil, List.cons.injEq, and_true, Prod.mk.injEq]
  omega

theorem readBytes_eq_map (m : Memory) (a n : Nat) : Memory.readBytes m a n = (List.range n).map fun i => Memory.read1 m (a + i) := by
  induction n generalizing a with
  | zero => rfl
  | succ n ih =>
    rw [Memory.readBytes, ih, List.range_succ_eq_map, List.map_cons, List.map_map]
    simp [Nat.add_comm, Nat.add_left_comm, Function.comp_def]

/-- The plinth of a place below memcap that the partition owns lets every access through. -/
theorem devStop_eq_none {s : State} {part a va : Nat} {evac : Bool} (hcap : s.mem.cap * 4096 > a) (how : s.owns part a = true) :
    devStop s part evac a va = none := by
  have hle : ¬ s.mem.cap * 4096 ≤ a := Nat.not_le.mpr hcap
  simp [devStop, capStop, State.closed, State.capped, State.inBand, hle, how]

/-- An aligned read of a place that serves the hart delivers its bytes. -/
theorem readPlace_of_serves {s : State} {k n va : Nat} {p : Place} {acc : Access} {home : Bool} (hs : serves s k p n)
    (hn : n ∣ 64) (ha : n ∣ p.loc.addr) :
    readPlace s k p acc home n va = .ok ((List.range n).map fun i => byteAt s (p.loc.plus i)) := by
  obtain ⟨loc, kind, enc⟩ := p
  cases loc with
  | dev a =>
    obtain ⟨rfl, rfl, hcap, how, hbad, hsec⟩ := hs
    have hword : readWord s ((s.partOf (coreOf k)).getD 0) false a n va = .ok (Memory.readBytes s.mem.dev a n) := by
      rcases hsec with hsec | hsec <;> simp [readWord, hbad, hsec]
    have hread : devRead s ((s.partOf (coreOf k)).getD 0) false a n va = .ok (Memory.readBytes s.mem.dev a n) := by
      simp [devRead, pieces_of_dvd hn (show n ∣ a from ha), readWords, hword]
    simp [readPlace, targetRead, devStop_eq_none hcap how, hread, readBytes_eq_map, byteAt, Loc.plus]
  | spad c o =>
    obtain ⟨hpiece, hbad⟩ := hs
    simp [readPlace, targetRead, hpiece, hbad, readBytes_eq_map, byteAt, Loc.plus]
  | sdm c o =>
    have hbad : badWord (s.coreAt c).badSdm o n = false := hs
    simp [readPlace, targetRead, hbad, readBytes_eq_map, byteAt, Loc.plus]
  | remote => exact hs.elim
  | host => exact hs.elim
  | regs => exact hs.elim

/-- With nothing in its strip buffer a hart sees what a place holds. -/
theorem viewPlace_of_strip_nil {s : State} {k n va : Nat} {p : Place} (h : (s.hartAt k).strip = []) :
    viewPlace s k p n va = readPlace s k p .load false n va := by
  rw [viewPlace]
  split
  · next he => rw [he]
  · next bytes he =>
    rw [he]
    simp [h, stripByte, List.zipIdx_map_fst 0 bytes]

/-! ### The value of a load -/

/-- The bits of a little-endian number are those of its bytes. -/
theorem testBit_leNat (bs : List Byte) (i j : Nat) (hj : j < 8) : (leNat bs).testBit (8 * i + j) = (bs.getD i 0).getLsbD j := by
  induction bs generalizing i with
  | nil => simp [leNat]
  | cons b bs ih =>
    have hsum : b.toNat + 256 * leNat bs = 2 ^ 8 * leNat bs + b.toNat := by omega
    rw [leNat, hsum, Nat.testBit_two_pow_mul_add _ b.isLt]
    cases i with
    | zero => simp [hj, BitVec.getLsbD]
    | succ i =>
      rw [if_neg (by omega), show 8 * (i + 1) + j - 8 = 8 * i + j by omega, ih]
      rfl

/-- The bits of a value of a type in a register: those of the pattern, then its sign or zeros (R271). -/
theorem getLsbD_ext (t : Ty) (v : Nat) {j : Nat} (hj : j < 64) :
    (ext t v).getLsbD j = if j < t.width then v.testBit j else t.isSigned && v.testBit (t.width - 1) := by
  have hw : t.width ≤ 64 := by cases t <;> decide
  have hpos : 0 < t.width := by cases t <;> decide
  cases hsg : t.isSigned with
  | false =>
    simp only [ext, hsg, Bool.false_eq_true, if_false, BitVec.getLsbD_ofNat, hj, decide_true, Bool.true_and, Nat.testBit_mod_two_pow,
      Bool.false_and]
    split <;> simp [*]
  | true =>
    have hext : ext t v = (BitVec.ofNat t.width v).signExtend 64 := by
      rw [ext, if_pos hsg, BitVec.signExtend, BitVec.toInt_eq_toNat_cond, BitVec.toNat_ofNat, toSigned]
      push_cast
      rfl
    rw [hext, BitVec.getLsbD_signExtend]
    have hlast : (BitVec.ofNat t.width v).getLsbD (t.width - 1) = v.testBit (t.width - 1) := by
      rw [BitVec.getLsbD_ofNat, decide_eq_true (by omega), Bool.true_and]
    rw [BitVec.getLsbD_ofNat, BitVec.msb_eq_getLsbD_last, hlast, decide_eq_true hj, Bool.true_and]
    split <;> simp [*]

/-- The scalar types are whole bytes (R275). -/
theorem width_of_ldTy {t : Ty} (h : ldTy t = true) : t.width = 8 * t.size ∧ t.size ∣ 64 := by
  cases t <;> revert h <;> decide

/-- The bytes of a loaded value. -/
theorem extractLsb'_ext_leNat {t : Ty} (ht : ldTy t = true) {bs : List Byte} {i : Nat} (hi : i < t.size) :
    (ext t (leNat bs)).extractLsb' (8 * i) 8 = bs.getD i 0 := by
  obtain ⟨hw, hsize⟩ := width_of_ldTy ht
  have h64 : t.width ≤ 64 := by cases t <;> decide
  refine BitVec.eq_of_getLsbD_eq fun j hj => ?_
  rw [BitVec.getLsbD_extractLsb', decide_eq_true hj, Bool.true_and, getLsbD_ext t _ (by omega), if_pos (by omega), testBit_leNat _ _ _ hj]

/-- Above its type's width a loaded value repeats its sign, or is zero. -/
theorem getLsbD_ext_of_width_le (t : Ty) (v : Nat) {j : Nat} (hw : t.width ≤ j) (hj : j < 64) :
    (ext t v).getLsbD j = (t.isSigned && (ext t v).getLsbD (t.width - 1)) := by
  have hpos : 0 < t.width := by cases t <;> decide
  rw [getLsbD_ext t v hj, if_neg (by omega), getLsbD_ext t v (by omega), if_pos (by omega)]

/-! ### ld -/

/-- The translation that an access is made with. -/
theorem translateBy_of_translate {s u : State} {k va : Nat} {acc : Access} {unit : Bool} {p : Place}
    (h : translate s k acc unit va = .ok (p, u)) : ∃ e, translateBy [] s k acc unit va = .ok (p, e, u) := by
  rw [translate] at h
  split at h
  · cases h
  · next e _ he =>
    cases h
    exact ⟨_, he⟩

/-- What O19 says, of every place at a multiple of the access's size; a page begins at a multiple of 2^16. -/
theorem ld_of_serves_aligned {s s1 : State} {p : Place} (d : Reg) {a : Reg} {t : Ty} {off : BitVec 12} (hty : ldTy t = true)
    (hva : (s.hart.reg a + BitVec.ofInt 64 off.toInt).toNat % t.size = 0)
    (htr : translate s s.turn .load false (s.hart.reg a + BitVec.ofInt 64 off.toInt).toNat = .ok (p, s1))
    (hs : serves s1 s.turn p t.size) (hstrip : s.hart.strip = []) (hal : t.size ∣ p.loc.addr) :
    ∃ v : Word, exec (.ld d a t off) s = .next (wrote s1 d v) ∧
      (∀ i, i < t.size → v.extractLsb' (8 * i) 8 = byteAt s1 (p.loc.plus i)) ∧
      (∀ j, t.width ≤ j → j < 64 → v.getLsbD j = (t.isSigned && v.getLsbD (t.width - 1))) := by
  obtain ⟨-, hsize⟩ := width_of_ldTy hty
  obtain ⟨e, hby⟩ := translateBy_of_translate htr
  obtain ⟨u, hu⟩ := (translate_same htr).harts s.turn
  have hnil : (s1.hartAt s.turn).strip = [] := by rw [hu]; exact hstrip
  have hload : load s s.turn false t.size (scalarEa s.hart a off).toNat =
      .ok (leNat ((List.range t.size).map fun i => byteAt s1 (p.loc.plus i)), s1) :=
    load_eq_ok.2 ⟨hva, p, e, _, hby, (viewPlace_of_strip_nil hnil).trans (readPlace_of_serves hs hsize hal), rfl⟩
  refine ⟨ext t (leNat ((List.range t.size).map fun i => byteAt s1 (p.loc.plus i))), ?_, fun i hi => ?_, fun j hw hj =>
    getLsbD_ext_of_width_le t _ hw hj⟩
  · simp only [exec, execLd, hload, writeReg_eq_wrote]
  · rw [extractLsb'_ext_leNat hty hi]
    simp [hi]

/-! ### A kept translation that splits an aligned access -/

/-- A machine whose core 0 keeps the translation of a page of eight bytes that begins at device address 60: the aligned access to
virtual address 0 takes bytes of codewords 0 and 1, and codeword 1 is unreadable. -/
def splitPage : State :=
  { State.reset with
    cores := [(0, { tlb := [{ part := 0, asid := 0, vbase := 0, lg := 3, pbase := 60, r := true, w := true, x := true, u := true,
                              kind := 0, enc := false, gen := 0 }] })]
    mem := { State.reset.mem with bad := [(1, .media)] } }

/-- The place that the kept translation gives. -/
def splitPlace : Place := { loc := .dev 60 }

theorem translate_splitPage : translate splitPage splitPage.turn .load false 0 = .ok (splitPlace, splitPage) := by
  rfl

theorem serves_splitPage : serves splitPage splitPage.turn splitPlace 8 := by
  refine ⟨rfl, rfl, ?_, ?_, ?_, ?_⟩ <;> decide

/-- An instruction that completes counts; one that traps does not. -/
def doneAfter (o : Out) : Nat :=
  match o with
  | .next s => s.hart.done
  | _ => 0

theorem ld_splitPage_stops : doneAfter (exec (.ld 1 0 .i64 0) splitPage) = 0 := by
  rfl

/-- Refutes O19: a kept translation whose page begins in the middle of a codeword, which no walk makes but which the statement
admits, splits an aligned ld over two codewords. `serves` asks for the first alone; the second is unreadable and the ld traps. What holds is
`ld_of_serves_aligned`. -/
theorem not_loadsDeliver : ¬ Obligations.LoadsDeliver := by
  unfold Obligations.LoadsDeliver
  intro h
  obtain ⟨v, hv, -⟩ := h splitPage splitPage splitPlace 1 0 .i64 0 rfl rfl translate_splitPage serves_splitPage rfl
  have hdone : doneAfter (exec (.ld 1 0 .i64 0) splitPage) = 1 := congrArg doneAfter hv
  rw [ld_splitPage_stops] at hdone
  exact absurd hdone (by decide)

/-! ### st -/

/-- A memory after some bytes were written at a location, and nothing else. -/
def putAt (s t : State) (l : Loc) (bytes : List Byte) : Prop :=
  (∀ i, i < bytes.length → byteAt t (l.plus i) = bytes.getD i 0) ∧
  ∀ x, isMem x = true → ¬ stored l bytes.length x → byteAt t x = byteAt s x

/-- One write of a plain codeword (R442). -/
theorem devWrite_of_plain {m : MemSys} {part a : Nat} {bytes : List Byte} (hn : bytes.length ∣ 64) (ha : bytes.length ∣ a)
    (hsec : Table.find? m.sectors (a / 512) = none ∨ Table.find? m.sectors (a / 512) = some .plain) :
    ∃ bad sectors past, devWrite m part false a bytes =
      .ok { m with dev := Memory.writeBytes m.dev a bytes, bad := bad, sectors := sectors, past := past } := by
  have hbytes : (bytes.drop (a - a)).take bytes.length = bytes := by simp
  rcases hsec with hsec | hsec <;>
    exact ⟨_, _, _, by
      simp only [devWrite, Bool.false_eq_true, if_false, pieces_of_dvd hn ha, writeUnits, hbytes, writeUnit, hsec]
      rfl⟩

/-- What a plain write of device memory leaves. -/
theorem putAt_dev {s : State} {m : MemSys} {a : Nat} {bytes : List Byte} (hdev : m.dev = Memory.writeBytes s.mem.dev a bytes)
    (hhost : m.host = s.mem.host) (hpeers : m.peers = s.mem.peers) : putAt s { s with mem := m } (.dev a) bytes := by
  refine ⟨fun i hi => ?_, fun x hx hout => ?_⟩
  · rw [Loc.plus, byteAt, hdev, Memory.read1_writeBytes_at _ _ _ _ hi]
  · cases x with
    | dev b =>
      rw [byteAt, hdev]
      refine Memory.read1_writeBytes_outside _ _ _ _ ?_
      by_contra hin
      exact hout ⟨b - a, by omega, by simp [Loc.plus]; omega⟩
    | remote p b => simp [byteAt, hpeers]
    | host b => simp [byteAt, hhost]
    | spad | sdm => rfl
    | regs => cases hx

/-- What a change of one core's scratchpad by consecutive bytes leaves. -/
theorem putAt_spad (s : State) (c o : Nat) (bytes : List Byte) :
    putAt s (s.setCoreAt c ((s.coreAt c).writeSpad o bytes)) (.spad c o) bytes := by
  refine ⟨fun i hi => ?_, fun x hx hout => ?_⟩
  · simp [Loc.plus, byteAt, Core.writeSpad, Memory.read1_writeBytes_at, hi]
  · cases x with
    | spad c' b =>
      by_cases hc : c' = c
      · subst hc
        simp only [byteAt, State.coreAt_setCoreAt_self, Core.writeSpad]
        refine Memory.read1_writeBytes_outside _ _ _ _ ?_
        by_contra hin
        exact hout ⟨b - o, by omega, by simp [Loc.plus]; omega⟩
      · simp [byteAt, State.coreAt_setCoreAt_of_ne _ _ hc]
    | sdm c' b =>
      by_cases hc : c' = c
      · subst hc
        simp [byteAt, Core.writeSpad]
      · simp [byteAt, State.coreAt_setCoreAt_of_ne _ _ hc]
    | dev | remote | host => rfl
    | regs => cases hx

/-- The same of its scalar data memory. -/
theorem putAt_sdm (s : State) (c o : Nat) (bytes : List Byte) :
    putAt s (s.setCoreAt c ((s.coreAt c).writeSdm o bytes)) (.sdm c o) bytes := by
  refine ⟨fun i hi => ?_, fun x hx hout => ?_⟩
  · simp [Loc.plus, byteAt, Core.writeSdm, Memory.read1_writeBytes_at, hi]
  · cases x with
    | sdm c' b =>
      by_cases hc : c' = c
      · subst hc
        simp only [byteAt, State.coreAt_setCoreAt_self, Core.writeSdm]
        refine Memory.read1_writeBytes_outside _ _ _ _ ?_
        by_contra hin
        exact hout ⟨b - o, by omega, by simp [Loc.plus]; omega⟩
      · simp [byteAt, State.coreAt_setCoreAt_of_ne _ _ hc]
    | spad c' b =>
      by_cases hc : c' = c
      · subst hc
        simp [byteAt, Core.writeSdm]
      · simp [byteAt, State.coreAt_setCoreAt_of_ne _ _ hc]
    | dev | remote | host => rfl
    | regs => cases hx

/-- A core that takes other memories, fill records and uncorrectable words leaves the rest of the machine (R66, R209). -/
theorem restSame_setCoreAt {s : State} {c : Nat} {x : Core} (h : Core.rest x = Core.rest (s.coreAt c)) :
    restSame s (s.setCoreAt c x) := by
  refine ⟨fun _ _ => rfl, fun j => ?_, rfl, rfl, rfl, rfl, rfl, rfl, rfl, rfl, rfl, rfl, rfl, rfl, rfl⟩
  by_cases hj : j = c
  · subst hj
    rw [State.coreAt_setCoreAt_self, h]
  · rw [State.coreAt_setCoreAt_of_ne _ _ hj]

/-- An aligned write of a place that serves the hart puts its bytes there and changes nothing else. -/
theorem writePlace_of_serves {s : State} {k n va : Nat} {p : Place} {bytes : List Byte} (hs : serves s k p n)
    (hn : bytes.length ∣ 64) (ha : bytes.length ∣ p.loc.addr) :
    ∃ u, writePlace s k p .store bytes va = .ok u ∧ putAt s u p.loc bytes ∧ u.harts = s.harts ∧ restSame s u ∧
      u.mem.repl = s.mem.repl := by
  obtain ⟨loc, kind, enc⟩ := p
  cases loc with
  | dev a =>
    obtain ⟨rfl, rfl, hcap, how, -, hsec⟩ := hs
    obtain ⟨bad, sectors, past, hw⟩ :=
      devWrite_of_plain (part := (s.partOf (coreOf k)).getD 0) hn (show bytes.length ∣ a from ha) hsec
    have hput : writePlace s k { loc := .dev a, kind := 0, enc := false } .store bytes va = .ok { s with mem := { s.mem with
        dev := Memory.writeBytes s.mem.dev a bytes, bad := bad, sectors := sectors, past := past } } := by
      simp [writePlace, targetWrite, targetWriteStop, devStop_eq_none hcap how, targetPut, hw]
    refine ⟨_, hput, putAt_dev rfl rfl rfl, rfl, ?_, rfl⟩
    exact ⟨fun _ _ => rfl, fun _ => rfl, rfl, rfl, rfl, rfl, rfl, rfl, rfl, rfl, rfl, rfl, rfl, rfl, rfl⟩
  | spad c o =>
    obtain ⟨hpiece, -⟩ := hs
    exact ⟨_, by simp [writePlace, targetWrite, targetWriteStop, hpiece, targetPut], putAt_spad s c o bytes, rfl,
      restSame_setCoreAt rfl, rfl⟩
  | sdm c o =>
    exact ⟨_, rfl, putAt_sdm s c o bytes, rfl, restSame_setCoreAt rfl, rfl⟩
  | remote => exact hs.elim
  | host => exact hs.elim
  | regs => exact hs.elim

theorem getD_leBytes {k i : Nat} (v : Nat) (hi : i < k) : (leBytes k v).getD i 0 = BitVec.ofNat 8 (v / 256 ^ i) := by
  induction k generalizing i v with
  | zero => omega
  | succ k ih =>
    cases i with
    | zero => simp [leBytes]
    | succ i =>
      rw [leBytes, List.getD_cons_succ, ih _ (by omega), Nat.div_div_eq_div_mul, pow_succ' 256 i]

/-- The bytes of a stored operand are the low bytes of its register. -/
theorem getD_leBytes_opnd {t : Ty} (ht : ldTy t = true) (x : Word) {i : Nat} (hi : i < t.size) :
    (leBytes t.size (opnd t x)).getD i 0 = BitVec.ofNat 8 (x.toNat / 256 ^ i) := by
  obtain ⟨hw, -⟩ := width_of_ldTy ht
  rw [getD_leBytes _ hi, show (256 : Nat) ^ i = 2 ^ (8 * i) from (pow_mul 2 8 i).symm]
  refine BitVec.eq_of_getLsbD_eq fun j hj => ?_
  rw [BitVec.getLsbD_ofNat, BitVec.getLsbD_ofNat, Nat.testBit_div_two_pow, Nat.testBit_div_two_pow, opnd, Nat.testBit_mod_two_pow,
    decide_eq_true (by omega : j + 8 * i < t.width), Bool.true_and]

/-- The bytes of a place that serves a hart lie in memory. -/
theorem isMem_plus_of_serves {s : State} {k n : Nat} {p : Place} (hs : serves s k p n) (i : Nat) : isMem (p.loc.plus i) = true := by
  obtain ⟨loc, kind, enc⟩ := p
  cases loc with
  | regs => exact hs.elim
  | _ => rfl

/-- The end of an instruction leaves memory. -/
theorem byteAt_finish (s : State) (h : Hart) {x : Loc} (hx : isMem x = true) : byteAt (finish s h) x = byteAt s x := by
  cases x with
  | regs => cases hx
  | _ => rfl

theorem next_eq_stepped (h : Hart) : h.next = stepped h 0 0 := rfl

theorem turn_of_restSame {s u : State} (h : restSame s u) : u.turn = s.turn := by
  obtain ⟨-, -, -, -, -, -, -, -, -, -, -, hturn, -⟩ := h
  exact hturn

/-- The end of an instruction leaves everything but the executing hart. -/
theorem restSame_finish {s u : State} (h : Hart) (hr : restSame s u) : restSame s (finish u h) := by
  obtain ⟨hharts, hcores, hmem, hparts, htasks, hgangs, hplace, hdies, hcl, hstew, harch, hturn, hnow, hpow, hin⟩ := hr
  exact ⟨fun k hk => (finish_hartAt_of_ne u h (hturn.symm ▸ hk)).trans (hharts k hk), hcores, hmem, hparts, htasks, hgangs, hplace,
    hdies, hcl, hstew, harch, hturn, hnow, hpow, hin⟩

/-- What O28 says, of every place at a multiple of the access's size; a page begins at a multiple of 2^16. -/
theorem st_of_serves_aligned {s s1 : State} {p : Place} {d a : Reg} {t : Ty} {off : BitVec 12} (hty : ldTy t = true)
    (hva : (s.hart.reg a + BitVec.ofInt 64 off.toInt).toNat % t.size = 0)
    (htr : translate s s.turn .store false (s.hart.reg a + BitVec.ofInt 64 off.toInt).toNat = .ok (p, s1))
    (hs : serves s1 s.turn p t.size) (hstrip : noStrip s) (hal : t.size ∣ p.loc.addr) :
    ∃ u, exec (.st d a t off) s = .next u ∧ memAfter s1 u p.loc t.size (s.hart.reg d).toNat ∧
      u.hart = stepped s1.hart 0 0 ∧ restSame s1 u ∧ u.mem.repl = s1.mem.repl := by
  obtain ⟨-, hsize⟩ := width_of_ldTy hty
  obtain ⟨e, hby⟩ := translateBy_of_translate htr
  have hsame := translate_same htr
  obtain ⟨x, hx⟩ := hsame.harts s.turn
  obtain ⟨hckpt, -, -⟩ := hstrip
  have hb : (s.hartAt s.turn).buffers = false := by
    rw [Hart.buffers, show (s.hartAt s.turn).ckpt = none from hckpt]
    rfl
  have hb1 : (s1.hartAt s.turn).buffers = false := by rw [hx]; exact hb
  have hlen : (leBytes t.size (opnd t (s.hart.reg d))).length = t.size := length_leBytes ..
  obtain ⟨u, hu, ⟨hin, hout⟩, hharts, hrest, hrepl⟩ :=
    writePlace_of_serves (va := (scalarEa s.hart a off).toNat) hs (hlen.symm ▸ hsize) (hlen.symm ▸ hal)
  rw [hlen] at hin hout
  have hstore : store (reserveStrip s s.turn t.size) s.turn false t.size (scalarEa s.hart a off).toNat (opnd t (s.hart.reg d)) = .ok u := by
    rw [reserveStrip, if_neg (by rw [hb]; decide)]
    exact store_eq_ok.2 ⟨hva, p, e, s1, hby, (storePlace_of_not_buffers hb1).trans hu⟩
  have hhart : u.hart = s1.hart := by
    rw [State.hart, State.hart, State.hartAt, State.hartAt, hharts, turn_of_restSame hrest]
  refine ⟨finish u u.hart, ?_, ⟨fun i hi => ?_, fun x hx hx' => ?_⟩, ?_, restSame_finish _ hrest, hrepl⟩
  · simp only [exec, execSt, hstore]
  · rw [byteAt_finish _ _ (isMem_plus_of_serves hs i), hin i hi, getD_leBytes_opnd hty _ hi]
  · rw [byteAt_finish _ _ hx, hout x hx hx']
  · rw [finish_hart, hhart, next_eq_stepped]

/-! ### A store that reaches into an encrypted sector -/

/-- A machine whose core 0 keeps the translation of a page of two bytes that begins at device address 511, the last of sector 0;
sector 1 holds the ciphertext of a partition. -/
def splitSector (q : Nat) (m : Memory) : State :=
  { State.reset with
    cores := [(0, { tlb := [{ part := 0, asid := 0, vbase := 0, lg := 1, pbase := 511, r := true, w := true, x := true, u := true,
                              kind := 0, enc := false, gen := 0 }] })]
    mem := { State.reset.mem with dev := m, sectors := [(1, .enc q)] } }

theorem translate_splitSector (q : Nat) (m : Memory) :
    translate (splitSector q m) (splitSector q m).turn .store false 0 = .ok ({ loc := .dev 511 }, splitSector q m) := by
  with_unfolding_all rfl

theorem owns_splitSector (q : Nat) (m : Memory) : (splitSector q m).owns 0 511 = true := by
  with_unfolding_all rfl

theorem partOf_splitSector (q : Nat) (m : Memory) : (splitSector q m).partOf 0 = some 0 := by
  with_unfolding_all rfl

theorem cap_splitSector (q : Nat) (m : Memory) : (splitSector q m).mem.cap * 4096 > 511 := by
  show 511 < State.reset.mem.cap * 4096
  decide

theorem serves_splitSector (q : Nat) (m : Memory) : serves (splitSector q m) (splitSector q m).turn { loc := .dev 511 } 2 := by
  have hcore : coreOf (splitSector q m).turn = 0 := by with_unfolding_all rfl
  refine ⟨rfl, rfl, cap_splitSector q m, ?_, rfl, .inl rfl⟩
  rw [hcore, partOf_splitSector]
  exact owns_splitSector q m

/-- A write to a sector that holds ciphertext makes it plain: its bytes are those that the plinth would deliver (R40, R220). -/
theorem writeUnit_of_enc {m : MemSys} {part a q : Nat} {bytes : List Byte} (h : Table.find? m.sectors (a / 512) = some (.enc q)) :
    ∃ n, writeUnit m part false a bytes = .ok n ∧
      n.dev = Memory.writeBytes (Memory.writeBytes m.dev (a / 512 * 512)
        ((List.range 512).map fun i => cipherByte m.dev q (a / 512 * 512 + i))) a bytes :=
  ⟨_, by simp only [writeUnit, h]; rfl, rfl⟩

theorem devWrite_splitSector (q : Nat) (m : Memory) : ∃ n, devWrite (splitSector q m).mem 0 false 511 [0, 0] = .ok n ∧
    n.dev = Memory.writeBytes (Memory.writeBytes (Memory.writeBytes m 511 [0]) 512
      ((List.range 512).map fun i => cipherByte (Memory.writeBytes m 511 [0]) q (512 + i))) 512 [0] := by
  obtain ⟨m', hm, hdev, hsec⟩ : ∃ m', writeUnit (splitSector q m).mem 0 false 511 [0] = .ok m' ∧
      m'.dev = Memory.writeBytes m 511 [0] ∧ Table.find? m'.sectors 1 = some (.enc q) := ⟨_, rfl, rfl, rfl⟩
  obtain ⟨n, hn, hn'⟩ := writeUnit_of_enc (part := 0) (a := 512) (bytes := [0]) hsec
  have hp : pieces (if false = true then 512 else 64) 511 ([0, 0] : List Byte).length = [(511, 1), (512, 1)] := by decide
  have hfst : (([0, 0] : List Byte).drop (511 - 511)).take 1 = [0] := rfl
  have hsnd : (([0, 0] : List Byte).drop (512 - 511)).take 1 = [0] := rfl
  exact ⟨n, by simp only [devWrite, hp, writeUnits, hfst, hsnd, hm, hn], by rw [hn', hdev]⟩

/-- The bytes of a sector alone give its ciphertext. -/
theorem cipherByte_writeBytes_before (m : Memory) (q : Nat) {i : Nat} (hi : i < 512) :
    cipherByte (Memory.writeBytes m 511 [0]) q (512 + i) = cipherByte m q (512 + i) := by
  rw [cipherByte, cipherByte, show (512 + i) / 512 = 1 by omega, Memory.readBytes_writeBytes_apart _ _ _ _ _ (.inr (by decide))]

/-- The device memory after the store of two bytes at the end of sector 0. -/
theorem st_splitSector (q : Nat) (m : Memory) : ∃ u, exec (.st 0 0 .i16 0) (splitSector q m) = .next u ∧
    ∀ i, 1 ≤ i → i < 512 → byteAt u (.dev (512 + i)) = cipherByte m q (512 + i) := by
  obtain ⟨n, hn, hdev⟩ := devWrite_splitSector q m
  obtain ⟨e, hby⟩ := translateBy_of_translate (translate_splitSector q m)
  have hput : writePlace (splitSector q m) 0 { loc := .dev 511 } .store [0, 0] 0 = .ok { splitSector q m with mem := n } := by
    have hpart : (splitSector q m).partOf (coreOf 0) = some 0 := partOf_splitSector q m
    simp only [writePlace, targetWrite, targetWriteStop, hpart, Option.getD_some,
      devStop_eq_none (cap_splitSector q m) (owns_splitSector q m), targetPut, hn]
    rfl
  have hstore : store (splitSector q m) 0 false 2 0 0 = .ok { splitSector q m with mem := n } :=
    store_eq_ok.2 ⟨rfl, _, e, _, hby, (storePlace_of_not_buffers rfl).trans hput⟩
  refine ⟨finish { splitSector q m with mem := n } (splitSector q m).hart, ?_, fun i h1 hi => ?_⟩
  · have hst : store (reserveStrip (splitSector q m) (splitSector q m).turn (Ty.size .i16)) (splitSector q m).turn false (Ty.size .i16)
        (scalarEa (splitSector q m).hart 0 0).toNat (opnd .i16 ((splitSector q m).hart.reg 0)) = _ := hstore
    simp only [exec, execSt, hst]
    rfl
  · rw [byteAt_finish _ _ rfl, byteAt, hdev, Memory.read1_writeBytes_outside _ _ _ _ (.inr (by simp; omega)),
      Memory.read1_writeBytes_at _ _ _ _ (by simpa using hi), ← cipherByte_writeBytes_before m q hi]
    simp [hi]

/-- Why O28 is left open: it takes a sector's ciphertext to be its plaintext from the second byte on, and `Config.cipher` is a free
value (log 15), of which nothing can be proved, either way. -/
theorem cipherByte_of_storesPerform (h : Obligations.StoresPerform) (q : Nat) (m : Memory) {i : Nat} (h1 : 1 ≤ i) (hi : i < 512) :
    cipherByte m q (512 + i) = Memory.read1 m (512 + i) := by
  unfold Obligations.StoresPerform at h
  obtain ⟨u, hu, ⟨-, hout⟩, -⟩ := h (splitSector q m) (splitSector q m) { loc := .dev 511 } 0 0 .i16 0 rfl rfl
    (translate_splitSector q m) (serves_splitSector q m) ⟨rfl, rfl, rfl⟩
  obtain ⟨v, hv, hbytes⟩ := st_splitSector q m
  obtain rfl : u = v := Host.Outcome.next.inj (hu.symm.trans hv)
  rw [← hbytes i h1 hi]
  refine hout (.dev (512 + i)) rfl ?_
  rintro ⟨j, hj, hloc⟩
  have hij : 512 + i = 511 + j := by simpa [Loc.plus] using hloc
  have hj : j < 2 := hj
  omega

end Sys2Proof.Machine.Claim
end

section
/-! ## Vector loads and stores (O49) -/

namespace Sys2Proof.Machine.Claim
open Sys2Proof.Machine
set_option Elab.async false

/-! ### Ordered vector stores and the die instants of earlier stores (O49) -/

/-- A vector hart whose earlier store to a REPL page has not reached every die, about to store one element at the start of its
scratchpad. -/
def replOwed : State :=
  { State.reset with
    harts := [(0, { ({ slot := .running, kind := .vector, priv := .supervisor, vl := 1 } : Hart) with
      s := ({} : Hart).s.set 1 (BitVec.ofNat 64 Config.localBase) })]
    mem := { State.reset.mem with repl := [{ die := 0, hart := 0, addr := 0, before := [0], after := [1], atomic := false }] } }

/-- vst.unit.i8 of v2 at s1. -/
def replOwedStore : MemI := ⟨.unit, .i8, 2, 1, 0⟩

/-- The REPL updates whose die instants have not come after an instruction. -/
def owedAfter (o : Out) : List ReplUpdate :=
  match o with
  | .next s => s.mem.repl
  | _ => []

theorem vstUnit_replOwed_drains : owedAfter (exec (.vstUnit 2 1 .i8) replOwed) = [] := by
  rfl

theorem idleQueue_replOwed : idleQueue replOwed := by
  refine ⟨?_, ?_, ?_, ?_, ?_, ?_, ?_⟩ <;> rfl

/-- Every vector register of the hart is as after reset. -/
theorem vreg_replOwed (n : Nat) : replOwed.hart.vreg n = {} :=
  Vector.getElem_replicate ..

theorem vecReady_replOwed : vecReady replOwed :=
  ⟨idleQueue_replOwed, rfl, fun n => by rw [vreg_replOwed]; exact ⟨rfl, rfl⟩⟩

theorem positions_replOwed : positions replOwed.hart = [(0, 0)] := by
  rfl

theorem addr_replOwedStore : (replOwedStore.addr replOwed.hart 0 0).toNat = Config.localBase := by
  rfl

theorem inSpad_replOwed : inSpad replOwed Config.localBase 1 := by
  refine ⟨by decide, by decide, rfl, fun i hi => ?_⟩
  obtain rfl : i = 0 := by omega
  rfl

theorem local_replOwedStore : replOwedStore.local' replOwed := by
  intro p hp
  rw [positions_replOwed, List.mem_singleton] at hp
  subst hp
  rw [addr_replOwedStore]
  exact ⟨rfl, inSpad_replOwed⟩

/-- Refutes O49: an ordered vst performs after the die instants of the hart's earlier stores (R107 row 2, R111, R127), so that after
one to a REPL page it clears the updates in flight; `vecStored` holds the memory system as it was, and no premise rules such updates
out. -/
theorem not_vectorLoadsAndStores : ¬ Obligations.VectorLoadsAndStores := by
  unfold Obligations.VectorLoadsAndStores
  rintro ⟨-, hstores⟩
  obtain ⟨t, ht, hstored, -⟩ := hstores (.vstUnit 2 1 .i8) replOwed replOwedStore rfl rfl vecReady_replOwed
    ⟨by decide, .inl rfl⟩ local_replOwedStore ⟨rfl, rfl, rfl⟩
  obtain ⟨-, -, hmem, -⟩ := hstored
  have howed : t.mem.repl = [] := (congrArg owedAfter ht).symm.trans vstUnit_replOwed_drains
  rw [hmem] at howed
  exact absurd howed (by decide)

end Sys2Proof.Machine.Claim
end

section
/-! ## Traps of the executing hart, and misaligned accesses (O30) -/

namespace Sys2Proof.Machine.Claim
open Sys2Proof.Machine
set_option Elab.async false

/-! ### Taking a trap, in the words of the claims -/

/-- An error that no plinth reports and that is no uncorrectable one tells the device nothing (R86, R413). -/
theorem seeError_of_no_media {s : State} {x : TrapInfo} (hm : x.media = none) (hc : x.cause ≠ .ue) : seeError s x = s := by
  simp [seeError, mediaSeen, hm, hc]

theorem quiet_of_trapReady {h : Hart} (hr : trapReady h) : Quiet h :=
  have ⟨hsb, _, _, hst, hsl, hse, _⟩ := hr
  ⟨hsb, hst, hsl, hse⟩

/-- The word that trap entry writes is the one of R194. -/
theorem tcauseWord_eq (h : Hart) (c : Cause) : tcauseWord (nests h c) false h.priv c = BitVec.ofNat 64 (causeWord h false c) := by
  refine congrArg (BitVec.ofNat 64) ?_
  unfold causeWord
  cases nests h c <;> cases h.priv <;> simp <;> omega

/-- A bank at trap entry. -/
theorem enter_eq_bankAt (b : TrapBank) (h : Hart) (tpc : Word) (x : TrapInfo) :
    b.enter h (nests h x.cause) tpc none x = bankAt b h tpc x := by
  simp only [TrapBank.enter, bankAt, Option.isSome_none, tcauseWord_eq]
  rfl

theorem causeUser_eq (c : Cause) :
    causeUser c = (c == .fpx || c == .decx || c == .poison || c == .fut2 || c == .pattern || c == .break_) := by
  cases c <;> rfl

theorem toUser_eq (h : Hart) (c : Cause) : toUser h c = (causeUser c && !h.ubank.intrap && h.ubank.ready) := by
  rw [causeUser_eq]
  rfl

theorem nests_eq (h : Hart) (c : Cause) : nests h c = (causeUser c && h.ubank.intrap) := by
  rw [causeUser_eq]
  rfl

/-- Trap entry changes the hart alone. -/
theorem enterBank_eq_setHartAt (s : State) (k : Nat) (toU nested : Bool) (tpc : Word) (vec : Option Nat) (t : TrapInfo) :
    enterBank s k toU nested tpc vec t = s.setHartAt k ((enterBank s k toU nested tpc vec t).hartAt k) := by
  unfold enterBank
  rw [State.hartAt_setHartAt_self]

theorem enterBank_eq_S (s : State) (tpc : Word) (x : TrapInfo) (hu : toUser s.hart x.cause = false) :
    enterBank s s.turn false (nests s.hart x.cause) tpc none x = trapped' s tpc x := by
  rw [enterBank_eq_setHartAt, enterBank_S]
  refine congrArg (s.setHartAt s.turn) ?_
  rw [trapHart, if_neg (by change ¬ toUser s.hart x.cause = true; rw [hu]; decide), ← enter_eq_bankAt]
  rfl

theorem enterBank_eq_U {s : State} (tpc : Word) (x : TrapInfo) (hu : toUser s.hart x.cause = true)
    (hs : s.hart.sbank.intrap = false) : enterBank s s.turn true (nests s.hart x.cause) tpc none x = trapped' s tpc x := by
  rw [enterBank_eq_setHartAt, enterBank_U _ _ _ _ _ _ hs]
  refine congrArg (s.setHartAt s.turn) ?_
  rw [trapHart, if_pos (by exact hu), ← enter_eq_bankAt]
  rfl

/-- A hart that is ready for a trap takes it as R192 and R198 say, whatever its cause. -/
theorem takeTrap_eq_trapped {s : State} {tpc : Word} {x : TrapInfo} (hr : trapReady s.hart) :
    takeTrap s s.turn tpc none x = trapped' s tpc x := by
  have hq : Quiet (s.hartAt s.turn) := quiet_of_trapReady hr
  obtain ⟨hsb, hsv, -, -, -, -, hhelp⟩ := hr
  have hready : (s.hartAt s.turn).sbank.ready = true := bne_iff_ne.2 hsv
  have toS := enterBank_eq_S s tpc x
  have toU := enterBank_eq_U (s := s) tpc x
  rw [toUser_eq, nests_eq] at toS toU
  cases hu : causeUser x.cause with
  | false =>
    rw [takeTrap_to_S hq (.inl hu) hready]
    simpa [hu] using toS
  | true =>
    cases hi : s.hart.ubank.intrap with
    | true =>
      rw [takeTrap_nested hq hu hi hready]
      simpa [hu, hi] using toS
    | false =>
      cases hv : s.hart.ubank.ready with
      | false =>
        have hkind : (s.hartAt s.turn).kind ≠ .helper := fun hk => hhelp hk (by simpa [TrapBank.ready, TrapBank.handler] using hv)
        rw [takeTrap_to_S hq (.inr ⟨hv, hi, hkind⟩) hready]
        simpa [hu, hi, hv] using toS
      | true =>
        rw [takeTrap_to_U hq hu hi hv]
        simpa [hu, hi, hv] using fun h => toU h hsb

/-- A stop at an instruction that tells the device nothing is the trap alone. -/
theorem raise_eq_trapped {s : State} {tpc : Word} {x : TrapInfo} (hr : trapReady s.hart) (hm : x.media = none) (hc : x.cause ≠ .ue) :
    raise s s.turn tpc none (.trap x) = trapped' s tpc x := by
  have hckpt : s.hart.ckpt = none := by obtain ⟨-, -, h, -⟩ := hr; exact h
  have hs := seeError_of_no_media (s := s) hm hc
  rw [raise_trap (by rw [hs]; exact hckpt), hs, takeTrap_eq_trapped hr]

theorem stop_eq_trapped {s : State} {x : TrapInfo} (hr : trapReady s.hart) (hm : x.media = none) (hc : x.cause ≠ .ue) :
    stop s (.trap x) = trapped' s s.hart.pc x :=
  raise_eq_trapped hr hm hc

/-! ### Misaligned accesses -/

/-- The trap of a misaligned access (R31, R275). -/
theorem stop_align {s : State} (hr : trapReady s.hart) (va : Nat) :
    stop s (memTrap .align 1 va) = trapped' s s.hart.pc { cause := .align, sub := 1, taddr := va } :=
  stop_eq_trapped hr rfl Cause.noConfusion

theorem reserveStrip_of_noStrip {s : State} (h : noStrip s) (n : Nat) : reserveStrip s s.turn n = s := by
  obtain ⟨hckpt, -, -⟩ := h
  have hb : (s.hartAt s.turn).buffers = false := by
    rw [Hart.buffers, show (s.hartAt s.turn).ckpt = none from hckpt]
    rfl
  rw [reserveStrip, if_neg (by rw [hb]; decide)]

theorem ld_misaligned {s : State} (d : Reg) {a : Reg} {t : Ty} {off : BitVec 12} (hr : trapReady s.hart)
    (hva : (s.hart.reg a + BitVec.ofInt 64 off.toInt).toNat % t.size ≠ 0) :
    exec (.ld d a t off) s = .next (trapped' s s.hart.pc
      { cause := .align, sub := 1, taddr := (s.hart.reg a + BitVec.ofInt 64 off.toInt).toNat }) := by
  have hload : load s s.turn false t.size (scalarEa s.hart a off).toNat = _ := load_misaligned hva
  simp only [exec, execLd, hload, stop_align hr]
  rfl

theorem st_misaligned {s : State} (d : Reg) {a : Reg} {t : Ty} {off : BitVec 12} (hr : trapReady s.hart) (hs : noStrip s)
    (hva : (s.hart.reg a + BitVec.ofInt 64 off.toInt).toNat % t.size ≠ 0) :
    exec (.st d a t off) s = .next (trapped' s s.hart.pc
      { cause := .align, sub := 1, taddr := (s.hart.reg a + BitVec.ofInt 64 off.toInt).toNat }) := by
  have hstore : store s s.turn false t.size (scalarEa s.hart a off).toNat (opnd t (s.hart.reg d)) = _ := store_misaligned hva
  simp only [exec, execSt, reserveStrip_of_noStrip hs, hstore, stop_align hr]
  rfl

/-! ### A step at a pc that is no multiple of four -/

theorem settleSync_of_nil {s : State} {k : Nat} (h : (s.hartAt k).sync = []) : settleSync s k = s := by
  simp [settleSync, h]

theorem fetchWord_misaligned {s : State} {k : Nat} {pc : Word} (h : pc.toNat % 4 ≠ 0) :
    fetchWord s k pc = .error (memTrap .align 1 pc.toNat) := by
  simp [fetchWord, aligned, h]

theorem settleNoted_of_nil {s : State} (h : s.noted = []) : settleNoted s = s := by
  rw [settleNoted, h]
  exact congrArg (fun l => { s with noted := l }) h.symm

/-- An act in which its hart retires nothing counts nothing. -/
theorem account_of_done {s u : State} (h : (u.hartAt s.turn).done = (s.hartAt s.turn).done) : account s u = u := by
  simp [account, h]

/-- Ports where nothing waits serve nothing. -/
theorem drainPorts_of_idle {s : State} (h : ∀ q, q ∈ s.mem.ports → q.2.waiting = []) : drainPorts s = s := by
  have hnone : s.mem.ports.filter (fun p => p.2.waiting != []) = [] := by
    rw [List.filter_eq_nil_iff]
    intro p hp
    simp [h p hp]
  rw [drainPorts, hnone, List.foldl_nil]

theorem turnOf_misaligned {s : State} (hx : s.hart.exited = false) (hrun : s.hart.slot = .running) (hp : s.hart.pending = none)
    (hb : s.hart.builtin = none) (hq : s.hart.viq = []) (hy : s.hart.sync = []) (hbp : breakpointBefore s s.turn s.hart.pc = false)
    (hpc : s.hart.pc.toNat % 4 ≠ 0) (hr : trapReady s.hart) :
    turnOf s = .act (trapped' s s.hart.pc { cause := .align, sub := 1, taddr := s.hart.pc.toNat }) := by
  have hacts : s.hart.acts = true := by simp [Hart.acts, hx, hrun]
  have hpc0 : (s.hart.pc == 0) = false := by
    rw [beq_eq_false_iff_ne]
    intro h0
    rw [h0] at hpc
    exact hpc rfl
  have hqueued : s.hart.queued = false := by simp [Hart.queued, hq]
  have hse : s.hart.stepElems = none := by obtain ⟨-, -, -, -, -, h, -⟩ := hr; exact h
  have hissue : issueTurn s = fetchTurn s := by simp [issueTurn, hq, hse, hbp]
  have hfetch : fetchTurn s = .act (stop s (memTrap .align 1 s.hart.pc.toNat)) := by
    rw [fetchTurn, fetchWord_misaligned hpc]
  simp only [turnOf, hacts, if_true, runningTurn, hp, hpc0, hb, hqueued, settleSync_of_nil (k := s.turn) hy, hissue, hfetch, stop_align hr]
  simp

theorem step_misaligned {s : State} (hpow : s.powered = true) (hboot : s.stew.booted = true) (hdiv : s.stew.diverged = none)
    (hin : s.inbox = []) (hnoted : s.noted = []) (hports : ∀ q, q ∈ s.mem.ports → q.2.waiting = []) {x : TrapInfo}
    (hturn : turnOf s = .act (trapped' s s.hart.pc x)) :
    step s = .next { trapped' s s.hart.pc x with now := s.now + s.pace, turn := (tick s (trapped' s s.hart.pc x)).turn } := by
  have hdone : ((trapped' s s.hart.pc x).hartAt s.turn).done = (s.hartAt s.turn).done := by
    rw [trapped', withTurn, State.hartAt, Table.get_set_self, trapHart]
    dsimp only
    split <;> rfl
  have htick : tick s (trapped' s s.hart.pc x) = pass1 (trapped' s s.hart.pc x) := by
    rw [tick, settleNoted_of_nil (s := trapped' s s.hart.pc x) hnoted, account_of_done hdone]
  have hstep : step s = .next (endTurn s (trapped' s s.hart.pc x)) := by
    simp [step, hpow, hboot, hdiv, hin, hturn]
  rw [hstep, endTurn, htick, drainPorts_of_idle (s := pass1 (trapped' s s.hart.pc x)) hports]
  rfl

/-- Settles O30: ld and st stop at their alignment check, and a fetch at its own. -/
theorem misalignedAccessesTrap : Obligations.MisalignedAccessesTrap :=
  ⟨fun _ d _ _ _ hva hr hs => ⟨ld_misaligned d hr hva, st_misaligned d hr hs hva⟩,
    fun _ hpow hboot hdiv hin hx hrun hp hb hq hy hbp hports hnoted hpc hr =>
      step_misaligned hpow hboot hdiv hin hnoted hports (turnOf_misaligned hx hrun hp hb hq hy hbp hpc hr)⟩

end Sys2Proof.Machine.Claim
end

section
/-! ## Completion of the events of power, links and retirement (O13) -/

namespace Sys2Proof.Machine.Claim
open Sys2Proof.Machine
set_option Elab.async false

/-! ### Folds that change nothing -/

/-- A fold whose steps leave what they start from. -/
theorem foldl_of_fixed {α β : Type} {f : β → α → β} {b : β} {l : List α} (h : ∀ a, a ∈ l → f b a = b) : l.foldl f b = b := by
  induction l with
  | nil => rfl
  | cons a l ih =>
    rw [List.foldl_cons, h a List.mem_cons_self]
    exact ih fun x hx => h x (List.mem_cons_of_mem _ hx)

theorem mem_liveParts {s : State} {p : Nat} : p ∈ liveParts s ↔ p < 4 ∧ (s.partAt p).live = true := by
  simp [liveParts]

/-! ### Messages without a device ring -/

/-- The two states agree but for the host's memory and the mailbox registers, and no partition's device ring moves. -/
def Mailed (s t : State) : Prop :=
  ∃ host parts, t = { s with mem := { s.mem with host := host }, parts := parts } ∧ ∀ p, (t.partAt p).dmbase = (s.partAt p).dmbase

theorem Mailed.refl (s : State) : Mailed s s := ⟨_, _, rfl, fun _ => rfl⟩

theorem Mailed.trans {s t u : State} : Mailed s t → Mailed t u → Mailed s u := by
  rintro ⟨h, p, rfl, hd⟩ ⟨h', p', rfl, hd'⟩
  exact ⟨h', p', rfl, fun q => (hd' q).trans (hd q)⟩

theorem Mailed.dmbase {s t : State} : Mailed s t → ∀ p, (t.partAt p).dmbase = (s.partAt p).dmbase
  | ⟨_, _, _, h⟩ => h

theorem mailed_setPartAt {s : State} {p : Nat} {x : Partition} (m : Memory) (h : x.dmbase = (s.partAt p).dmbase) :
    Mailed s ({ s with mem := { s.mem with host := m } }.setPartAt p x) := by
  refine ⟨m, _, rfl, fun q => ?_⟩
  by_cases hq : q = p
  · subst hq
    rw [State.partAt_setPartAt_self, h]
  · rw [State.partAt_setPartAt_of_ne _ _ hq]
    rfl

theorem sendHost_mailed (s : State) (part : Nat) (msg : List Byte) (isKill : Bool) : Mailed s (sendHost s part msg isKill) := by
  simp only [sendHost]
  split
  · exact .refl s
  · split
    · exact mailed_setPartAt _ rfl
    · split <;> exact mailed_setPartAt s.mem.host rfl

/-- Without a device ring a message goes to the host's at most (R417). -/
theorem send_mailed {s : State} {part : Nat} (msg : List Byte) (isKill : Bool) (h : (s.partAt part).dmbase = 0) :
    Mailed s (send s part msg isKill) := by
  have hm := sendHost_mailed s part msg isKill
  rwa [send, sendDevice, if_pos ((hm.dmbase part).trans h)]

theorem foldl_send_mailed (msg : List Byte) (isKill : Bool) (l : List Nat) {s : State} (h : ∀ p, p ∈ l → (s.partAt p).dmbase = 0) :
    Mailed s (l.foldl (fun s p => send s p msg isKill) s) := by
  induction l generalizing s with
  | nil => exact .refl s
  | cons p l ih =>
    have hm := send_mailed msg isKill (h p List.mem_cons_self)
    exact hm.trans (ih fun q hq => (hm.dmbase q).trans (h q (List.mem_cons_of_mem _ hq)))

/-! ### Starting a retirement -/

/-- A health message leaves the FAILING flags (R424). -/
theorem sendHealth_failing {s : State} (h : ∀ p, p < 4 → (s.partAt p).dmbase = 0) : (sendHealth s).mem.failing = s.mem.failing := by
  obtain ⟨_, _, hm, -⟩ := foldl_send_mailed
    (s := { s.draw with stew := { s.stew with corrected := s.stew.corrected + Config.correctedErrors s.free } })
    (message 5 ((List.range 56).map (Config.healthByte (s.stew.corrected + Config.correctedErrors s.free) s.mem.failing))) false
    (liveParts { s.draw with stew := { s.stew with corrected := s.stew.corrected + Config.correctedErrors s.free } })
    fun p hp => h p (mem_liveParts.1 hp).1
  exact congrArg (fun t => t.mem.failing) hm

theorem queueStack_failing (s : State) (x : Nat) : (queueStack s x).mem.failing = s.mem.failing := by
  unfold queueStack
  split <;> rfl

/-- A plinth's flag stands once it is raised (R86). -/
theorem raiseFailing_failing {s : State} (h : ∀ p, p < 4 → (s.partAt p).dmbase = 0) (x : Nat) :
    (raiseFailing s x).mem.failing = s.mem.failing ||| 2 ^ x := by
  have raised : ∀ t : State, (if 2 ≤ liveCount t then queueStack t x else t).mem.failing = t.mem.failing := fun t => by
    split
    · exact queueStack_failing t x
    · rfl
  simp only [raiseFailing, raised]
  split
  · rfl
  · exact sendHealth_failing h

/-- Registers of live stack retirement that the steward sets hold what it set. -/
theorem setRegs_mem (s : State) (m : MemSys) :
    ∃ version was, (s.setRegs m).mem = { m with version := version, was := was } := by
  simp only [State.setRegs]
  split
  · exact ⟨_, _, rfl⟩
  · exact ⟨_, _, rfl⟩

theorem setRegs_parts (s : State) (m : MemSys) : (s.setRegs m).parts = s.parts := by
  simp only [State.setRegs]
  split <;> rfl

theorem noRings_setRegs {s : State} {p : Nat} (m : MemSys) (h : noRings s p) : noRings (s.setRegs m) p := by
  have hp : (s.setRegs m).partAt p = s.partAt p := by
    rw [State.partAt, setRegs_parts]
    rfl
  rw [noRings, hp]
  exact h

/-- A drop without a ring to tell it to changes the registers alone (R87). -/
theorem retireDrop_eq {s : State} {x : Fin 8} (hd : mayDrop s x.val = true) (hn : ∀ p, p < 4 → noRings s p) :
    exec (.retireDrop x) s = .next (s.setRegs { s.mem with
      cap := (liveCount s - 1) * Config.granulesPerStack, queued := s.mem.queued.tail, leaving := some x.val, returned := 0
      front := (liveCount s - 1) * Config.granulesPerStack, dropAt := s.reftime }) := by
  refine (congrArg Host.Outcome.next (if_neg (by rw [hd]; decide))).trans (congrArg Host.Outcome.next ?_)
  exact foldl_of_fixed fun p hp =>
    foldl_of_fixed fun m _ => send_of_noRings (noRings_setRegs _ (hn p (mem_liveParts.1 hp).1)) m false

/-! ### Emptying the band -/

theorem giveBack_returned (s : State) (part : Nat) : (giveBack s part).mem.returned = s.mem.returned ||| 2 ^ part := rfl

theorem rangeReturn_returned {s : State} {part : Fin 4} (hl : s.mem.leaving.isSome = true) (hp : s.mem.phase % 2 = 0)
    (hv : (s.partAt part.val).live = true) :
    ∃ t, exec (.rangeReturn part) s = .next t ∧ t.mem.returned = s.mem.returned ||| 2 ^ part.val :=
  ⟨_, congrArg Host.Outcome.next (if_pos (by simp [hl, hp, hv])), giveBack_returned s part.val⟩

/-- The reset of a partition without tasks. -/
theorem resetPartition_of_no_tasks {s : State} {part : Nat} (h : ∀ p, p ∈ s.tasks → p.2.part ≠ part) : resetPartition s part = s := by
  have hnone : s.tasks.filter (fun p => p.2.part == part) = [] := by
    rw [List.filter_eq_nil_iff]
    intro p hp
    simpa using h p hp
  rw [resetPartition, hnone, List.foldl_nil]

theorem partitionDeadline_returned {s : State} {part : Fin 4} (hl : s.mem.leaving.isSome = true) (hp : s.mem.phase % 2 = 0)
    (hv : (s.partAt part.val).live = true) (hr : s.mem.returned.testBit part.val = false)
    (ht : s.mem.dropAt + s.mem.deadline ≤ s.reftime) (hn : ∀ p, p ∈ s.tasks → p.2.part ≠ part.val) :
    ∃ t, exec (.partitionDeadline part) s = .next t ∧ t.mem.returned = s.mem.returned ||| 2 ^ part.val := by
  refine ⟨_, congrArg Host.Outcome.next (if_pos (by simp [hl, hp, hv, hr, ht])), ?_⟩
  rw [resetPartition_of_no_tasks hn, giveBack_returned]

/-! ### The walk -/

theorem walkStart_starts {s : State} {x : Nat} (hl : s.mem.leaving = some x) (hp : s.mem.phase % 2 = 0)
    (hr : ∀ p, p ∈ liveParts s → s.mem.returned.testBit p = true) (hb : bandBusy s = false) :
    ∃ t, exec .walkStart s = .next t ∧ t.mem.phase = (s.mem.phase + 1) % 2 ^ 32 ∧ t.mem.step = 1 := by
  have hall : (liveParts s).all s.mem.returned.testBit = true := List.all_eq_true.2 hr
  obtain ⟨_, _, hm⟩ := setRegs_mem s { s.mem with
    phase := (s.mem.phase + 1) % 2 ^ 32, oldLive := s.mem.live, live := s.mem.live &&& (0xFF ^^^ 2 ^ x)
    step := 1, stage := 0, infl := 0, moved := [], front := (liveCount s - 1) * Config.granulesPerStack, replays := 0 }
  refine ⟨_, ?_, congrArg MemSys.phase hm, congrArg MemSys.step hm⟩
  simp [exec, execWalkStart, hl, hp, hall, hb]

/-- In step 1 a move ends the staging copy of the next granule (R90). -/
theorem granuleMove_stages {s : State} (hp : s.mem.phase % 2 = 1) (hs : s.mem.step = 1) :
    ∃ t, exec .granuleMove s = .next t ∧ t.mem.stage = s.mem.stage + 1 := by
  refine ⟨moveDone s s.mem.stage, by simp [exec, execGranuleMove, hp, hs], ?_⟩
  simp only [moveDone, hs, if_true]
  split <;>
    · obtain ⟨_, _, hm⟩ := setRegs_mem (noteCopied s (· == s.mem.stage)) _
      exact congrArg MemSys.stage hm

/-! ### The obligation -/

/-- Settles O13: each event by its own lemma, those of power and links by the lemmas of O57. -/
theorem powerLinkAndRetirementEventsComplete : Obligations.PowerLinkAndRetirementEventsComplete := by
  intro s
  refine ⟨fun die p hr ht hlo hhi => ?_, fun die cl hr hcl => ⟨?_, fun hot hs => ?_, fun cool hs hc => ?_⟩, fun die => ?_,
    fun die h0 hi hh => ?_, fun n ht => congrArg Host.Outcome.next (if_neg (by omega)), fun k hrun hx hh ht hring hc => ?_, rfl,
    fun port => ?_, fun n => rfl, fun x => ⟨⟨_, rfl, fun h => raiseFailing_failing h x.val⟩, fun hd hn => ?_⟩,
    fun part hl hp hv => ⟨rangeReturn_returned hl hp hv, partitionDeadline_returned hl hp hv⟩,
    fun x hl hp hr hb => walkStart_starts hl hp hr hb, granuleMove_stages⟩
  · refine ⟨_, governorSample_counts hr ht, ?_⟩
    rw [State.dieAt_setDieAt_self, grantStep_eq, if_neg (by omega), if_neg (by omega)]
    exact ⟨rfl, rfl⟩
  · obtain ⟨t, he, -, -, -, hm⟩ := thermalOver_moves hr die
    exact ⟨t, he, (hm cl).2.trans (if_pos hcl)⟩
  · obtain ⟨t, he, -, -, -, hm⟩ := thermalStepDown_moves hr hot hs
    exact ⟨t, he, (hm cl).2.trans (if_pos hcl)⟩
  · obtain ⟨t, he, -, -, -, hm⟩ := thermalStepUp_moves hr cool hs ⟨cl, hcl, hc⟩
    exact ⟨t, he, (hm cl).2.trans (if_pos hcl)⟩
  · exact ⟨_, rfl, by rw [thermal, State.dieAt_setDieAt_self]⟩
  · refine ⟨intervalEnd s die.val, congrArg Host.Outcome.next (if_pos ⟨h0, hi⟩), ?_⟩
    have hpermits := intervalEnd_permits s die.val
    simpa [hh] using hpermits
  · obtain ⟨t, he, -, -, -, hnum, hfields, hout, hparts⟩ := hangWatchdog_told ⟨hrun, hx, hh, ht⟩ hring hc
    exact ⟨t, he, hnum, fun f hf => hfields f (List.mem_cons_of_mem _ (List.mem_append_left [_] hf)), hout, hparts⟩
  · exact ⟨⟨_, rfl, (portChange_changes s port.val false).1⟩, ⟨_, rfl, (portChange_changes s port.val true).1⟩,
      ⟨_, rfl, (portChange_changes s port.val _).1⟩⟩
  · obtain ⟨_, _, hm⟩ := setRegs_mem s { s.mem with
      cap := (liveCount s - 1) * Config.granulesPerStack, queued := s.mem.queued.tail, leaving := some x.val, returned := 0
      front := (liveCount s - 1) * Config.granulesPerStack, dropAt := s.reftime }
    exact ⟨_, retireDrop_eq hd hn, congrArg MemSys.leaving hm, congrArg MemSys.cap hm⟩

end Sys2Proof.Machine.Claim
end

section
/-! ## Plain device memory, written whole (O55) -/

namespace Sys2Proof.Machine.Claim
open Sys2Proof.Machine
set_option Elab.async false

/-! ### The units of a request -/

/-- Units that follow each other without a gap, none empty, from one address to another. -/
def Tiles : Nat → Nat → List (Nat × Nat) → Prop
  | x, y, [] => x = y
  | x, y, p :: rest => p.1 = x ∧ 0 < p.2 ∧ Tiles (x + p.2) y rest

theorem tiles_map_range' {e : Nat → Nat} {f : Nat → Nat × Nat} (n : Nat) {k : Nat}
    (h : ∀ i, k ≤ i → i < k + n → f i = (e i, e (i + 1) - e i) ∧ e i < e (i + 1)) :
    Tiles (e k) (e (k + n)) ((List.range' k n).map f) := by
  induction n generalizing k with
  | zero => rfl
  | succ n ih =>
    obtain ⟨hf, hlt⟩ := h k (Nat.le_refl k) (by omega)
    have hrest := ih (k := k + 1) fun i h1 h2 => h i (by omega) (by omega)
    rw [List.range'_succ, List.map_cons, hf]
    refine ⟨rfl, by dsimp only; omega, ?_⟩
    have hnext : e k + (e (k + 1) - e k) = e (k + 1) := by omega
    have hend : k + (n + 1) = k + 1 + n := by omega
    rwa [hnext, hend]

/-- The codewords of a request. -/
theorem tiles_pieces_64 (a n : Nat) : Tiles a (a + n) (pieces 64 a n) := by
  by_cases h0 : n = 0
  · subst h0
    rfl
  have htiles := tiles_map_range' (e := fun i => max a (min (a + n) ((a / 64 + i) * 64)))
    (f := fun i => (max a ((a / 64 + i) * 64), min (a + n) ((a / 64 + i + 1) * 64) - max a ((a / 64 + i) * 64)))
    ((a % 64 + n + 64 - 1) / 64) (k := 0) fun i _ hi => by
      rw [Prod.mk.injEq]
      omega
  have hfirst : max a (min (a + n) ((a / 64 + 0) * 64)) = a := by omega
  have hlast : max a (min (a + n) ((a / 64 + (0 + (a % 64 + n + 64 - 1) / 64)) * 64)) = a + n := by omega
  rw [hfirst, hlast] at htiles
  rwa [pieces, if_neg h0, List.range_eq_range']

/-- Units lie in their range. -/
theorem Tiles.mem {x y : Nat} {l : List (Nat × Nat)} (h : Tiles x y l) {p : Nat × Nat} (hp : p ∈ l) : x ≤ p.1 ∧ p.1 + p.2 ≤ y ∧ 0 < p.2 := by
  have hle : ∀ {x y : Nat} {l : List (Nat × Nat)}, Tiles x y l → x ≤ y := fun {x y l} h => by
    induction l generalizing x with
    | nil => exact Nat.le_of_eq h
    | cons p l ih =>
      obtain ⟨-, -, hrest⟩ := h
      exact Nat.le_trans (Nat.le_add_right x p.2) (ih hrest)
  induction l generalizing x with
  | nil => cases hp
  | cons q l ih =>
    obtain ⟨hq, hpos, hrest⟩ := h
    rcases List.mem_cons.1 hp with rfl | hp
    · exact ⟨hq.ge, by have := hle hrest; omega, hpos⟩
    · obtain ⟨h1, h2⟩ := ih hrest hp
      exact ⟨by omega, h2⟩

/-! ### A plain write -/

/-- Device memory took the bytes of [x, y), of a request whose bytes begin at `base`; only what a plinth keeps about them changed. -/
def Filled (m m' : MemSys) (base x y : Nat) (bytes : List Byte) : Prop :=
  (∀ b, Memory.read1 m'.dev b = if x ≤ b ∧ b < y then bytes.getD (b - base) 0 else Memory.read1 m.dev b) ∧
  m' = { m with dev := m'.dev, bad := m'.bad, sectors := m'.sectors, past := m'.past }

/-- A sector without encryption (R220). -/
def plainSector (m : MemSys) (n : Nat) : Prop := Table.find? m.sectors n = none ∨ Table.find? m.sectors n = some .plain

theorem writeUnit_of_plain {m : MemSys} {part a : Nat} {bytes : List Byte} (h : plainSector m (a / 512)) :
    ∃ m', writeUnit m part false a bytes = .ok m' ∧ m'.dev = Memory.writeBytes m.dev a bytes ∧ plainSector m' (a / 512) ∧
      m' = { m with dev := m'.dev, bad := m'.bad, sectors := m'.sectors, past := m'.past } := by
  rcases h with h | h <;>
    · refine ⟨_, by simp only [writeUnit, h]; rfl, rfl, .inr (Table.find?_set_self _ _ _), rfl⟩

theorem read1_chunk (m : Memory) (base : Nat) (bytes : List Byte) {x n : Nat} (hx : base ≤ x) (hn : x + n ≤ base + bytes.length) (b : Nat) :
    Memory.read1 (Memory.writeBytes m x ((bytes.drop (x - base)).take n)) b =
      if x ≤ b ∧ b < x + n then bytes.getD (b - base) 0 else Memory.read1 m b := by
  have hlen : ((bytes.drop (x - base)).take n).length = n := by simp; omega
  by_cases hb : x ≤ b ∧ b < x + n
  · have hat := Memory.read1_writeBytes_at m x (b - x) ((bytes.drop (x - base)).take n) (by omega)
    rw [if_pos hb]
    rw [show x + (b - x) = b by omega] at hat
    rw [hat, List.getD_eq_getElem?_getD, List.getElem?_take, if_pos (by omega), List.getElem?_drop,
      show x - base + (b - x) = b - base by omega, List.getD_eq_getElem?_getD]
  · rw [if_neg hb]
    exact Memory.read1_writeBytes_outside _ _ _ _ (by omega)

theorem writeUnits_of_plain {part base sector : Nat} {bytes : List Byte} {l : List (Nat × Nat)} {m : MemSys} {x : Nat}
    (hl : Tiles x (base + bytes.length) l) (hx : base ≤ x) (hlo : sector * 512 ≤ base) (hhi : base + bytes.length ≤ sector * 512 + 512)
    (hs : plainSector m sector) :
    ∃ m', writeUnits part false base bytes l m = .ok m' ∧ Filled m m' base x (base + bytes.length) bytes := by
  induction l generalizing m x with
  | nil =>
    have hxy : x = base + bytes.length := hl
    exact ⟨m, rfl, fun b => (if_neg (by omega)).symm, rfl⟩
  | cons p l ih =>
    have hin := hl.mem List.mem_cons_self
    obtain ⟨hp, hpos, hrest⟩ := hl
    obtain ⟨p1, n⟩ := p
    dsimp only at hp hpos hin hrest
    subst hp
    have hsec : p1 / 512 = sector := by omega
    obtain ⟨m1, hw, hdev, hs1, hm1⟩ :=
      writeUnit_of_plain (part := part) (bytes := (bytes.drop (p1 - base)).take n) (hsec ▸ hs)
    obtain ⟨m2, hw2, hread, hm2⟩ := ih hrest (by omega) (hsec ▸ hs1)
    refine ⟨m2, by simp only [writeUnits, hw, hw2], fun b => ?_, by rw [hm2, hm1]⟩
    rw [hread b, hdev, read1_chunk m.dev base bytes hx hin.2.1]
    grind

/-- A write within one plain sector of device memory (R220, R442). -/
theorem devWrite_of_plainRange {s : State} {part a : Nat} {bytes : List Byte} (h : plainRange s a bytes.length) :
    ∃ m, devWrite s.mem part false a bytes = .ok m ∧ Filled s.mem m a a (a + bytes.length) bytes := by
  obtain ⟨hfit, -, hsec⟩ := h
  exact writeUnits_of_plain (sector := a / 512) (tiles_pieces_64 a bytes.length) (Nat.le_refl a) (by omega) (by omega) hsec

/-- What a plain write leaves, in the words of the claims. -/
theorem devWrote_of_filled {s : State} {m : MemSys} {a : Nat} {bytes : List Byte} (h : Filled s.mem m a a (a + bytes.length) bytes) :
    devWrote s { s with mem := m } a bytes := by
  obtain ⟨hread, hm⟩ := h
  refine ⟨fun i hi => ?_, fun x hx hout => ?_, congrArg (fun m => { s with mem := m }) hm⟩
  · rw [byteAt, hread, if_pos (by omega), Nat.add_sub_cancel_left]
  · cases x with
    | dev b =>
      rw [byteAt, hread, if_neg fun hin => hout _ (List.mem_singleton.2 rfl) ⟨b - a, by omega, by simp [Loc.plus]; omega⟩]
      rfl
    | remote | host => rw [byteAt, hm]; rfl
    | spad | sdm => rfl
    | regs => cases hx

/-- A write that enters from outside, where nothing is replicated (R128). -/
theorem inboundWrite_of_plainRange {s : State} {who part a : Nat} {bytes : List Byte} (hu : unreplicated s)
    (h : plainRange s a bytes.length) :
    ∃ t, inboundWrite s who part a bytes = .ok t ∧ devWrote s t a bytes := by
  obtain ⟨hrepl, hmapped⟩ := hu
  obtain ⟨m, hw, hf⟩ := devWrite_of_plainRange (part := part) h
  have hsettle : settleRepl s who = s := by simp [settleRepl, State.owes, hrepl]
  refine ⟨_, ?_, devWrote_of_filled hf⟩
  simp only [inboundWrite, hsettle, hw, hmapped a]
  rfl

/-- The targets of a range let in a request's codewords. -/
theorem pieces_open {s : State} {part a n va : Nat} (h : opens s part a n va) :
    ((pieces 64 a n).findSome? fun p => devStop s part false p.1 va) = none := by
  rw [List.findSome?_eq_none_iff]
  intro p hp
  have hin := (tiles_pieces_64 a n).mem hp
  have hopen := h (p.1 - a) (by omega)
  rwa [show a + (p.1 - a) = p.1 by omega] at hopen

end Sys2Proof.Machine.Claim
end

section
/-! ## Walks, accesses and late faults (O55) -/

namespace Sys2Proof.Machine.Claim
open Sys2Proof.Machine
set_option Elab.async false

/-! ### A walk -/

/-- A walk that no retirement meets keeps one more translation at most. -/
def Walked (s t : State) : Prop := t = s ∨ ∃ c l, t = (s.setCoreAt c { s.coreAt c with tlb := l }).draw

theorem Walked.hart {s t : State} : Walked s t → t.hart = s.hart
  | .inl h => by rw [h]
  | .inr ⟨_, _, h⟩ => by rw [h]; rfl

theorem Walked.restSame {s t : State} : Walked s t → restSame s t
  | .inl h => h ▸ ⟨fun _ _ => rfl, fun _ => rfl, rfl, rfl, rfl, rfl, rfl, rfl, rfl, rfl, rfl, rfl, rfl, rfl, rfl⟩
  | .inr ⟨c, _, h⟩ => h ▸ restSame_setCoreAt (c := c) rfl

/-- A core that changes but for its memories holds the bytes it held. -/
theorem byteAt_setCoreAt {s : State} {c : Nat} {y : Core} (hs : y.spad = (s.coreAt c).spad) (hd : y.sdm = (s.coreAt c).sdm) {x : Loc}
    (hx : isMem x = true) : byteAt (s.setCoreAt c y) x = byteAt s x := by
  cases x with
  | spad j o =>
    by_cases hj : j = c
    · subst hj
      rw [byteAt, State.coreAt_setCoreAt_self, hs, byteAt]
    · rw [byteAt, State.coreAt_setCoreAt_of_ne _ _ hj, byteAt]
  | sdm j o =>
    by_cases hj : j = c
    · subst hj
      rw [byteAt, State.coreAt_setCoreAt_self, hd, byteAt]
    · rw [byteAt, State.coreAt_setCoreAt_of_ne _ _ hj, byteAt]
  | regs => cases hx
  | _ => rfl

theorem byteAt_draw (s : State) {x : Loc} (hx : isMem x = true) : byteAt s.draw x = byteAt s x := by
  cases x with
  | regs => cases hx
  | _ => rfl

theorem Walked.memSame {s t : State} : Walked s t → memSame s t
  | .inl h => fun _ _ => by rw [h]
  | .inr ⟨c, l, h⟩ => fun _ hx => by
    rw [h, byteAt_draw _ hx]
    exact byteAt_setCoreAt (c := c) (y := { s.coreAt c with tlb := l }) rfl rfl hx

theorem lookup_walked {s t : State} {k va : Nat} {acc : Access} {e : TlbEntry} (hm : mapsAgree s)
    (h : lookup s k acc false va = .ok (e, t)) : Walked s t := by
  simp only [lookup, Bool.false_eq_true, if_false, reachTables_idle hm.1 hm.2] at h
  split at h
  · cases h
  · split at h
    · cases h
      exact .inl rfl
    · split at h
      · cases h
      · cases h
        exact .inr ⟨_, _, rfl⟩

theorem Walked.mapsAgree {s t : State} (hm : mapsAgree s) : Walked s t → mapsAgree t
  | .inl h => h ▸ hm
  | .inr ⟨_, _, h⟩ => h ▸ hm

theorem translate_walked {s t : State} {k va : Nat} {acc : Access} {p : Place} (hm : mapsAgree s)
    (h : translate s k acc false va = .ok (p, t)) : Walked s t := by
  obtain ⟨e, h⟩ := translateBy_of_translate h
  simp only [translateBy, translateAs, lookupBy, List.find?_nil] at h
  split at h
  · cases h
  · split at h
    · cases h
    · cases h
      exact .inl rfl
  · split at h
    · cases h
    · next hl =>
      have hw := lookup_walked hm hl
      have hm' := hw.mapsAgree hm
      simp only [reach_idle hm'.1 hm'.2] at h
      split at h
      · cases h
      · split at h
        · cases h
        · split at h <;>
            · cases h
              exact hw

theorem acts_of_running {h : Hart} (hr : h.slot = .running) (hx : h.exited = false) : h.acts = true := by
  simp [Hart.acts, hr, hx]

theorem tableWalk_walks {s : State} {va : Word} {acc : Access} (hr : s.hart.slot = .running) (hx : s.hart.exited = false) :
    exec (.tableWalk va acc) s =
      .next (match translate s s.turn acc false va.toNat with | .ok (_, s) => s | .error st => stop s st) := by
  simp only [exec, execTableWalk, acts_of_running hr hx]
  rfl

/-! ### An access at its target -/

/-- A request that no partition answers for does nothing (R37). -/
theorem accessPerform_of_unassigned {s : State} {r : Request} (h : masterPart s r.master = none) : exec (.accessPerform r) s = .next s := by
  simp only [exec, execAccessPerform, perform, h, afterRequest, memTrap]
  exact congrArg Host.Outcome.next (seeError_of_no_media rfl Cause.noConfusion)

theorem foldl_reach_idle {s : State} (hm : mapsAgree s) (requester : Nat) (l : List (Nat × Nat)) :
    l.foldl (fun s p => s.reach requester p.1) s = s :=
  foldl_of_fixed fun p _ => reach_idle hm.1 hm.2 requester p.1

theorem accessPerform_writes_dev {s : State} {r : Request} {part : Nat} {bytes : List Byte} (hp : masterPart s r.master = some part)
    (hs : r.spad = none) (ha : r.amo = none) (hw : r.write = some bytes) (hm : mapsAgree s) (hu : unreplicated s)
    (hr : plainRange s r.addr bytes.length) (ho : opens s part r.addr bytes.length r.addr) :
    ∃ t, exec (.accessPerform r) s = .next t ∧ devWrote s t r.addr bytes := by
  obtain ⟨t, ht, hd⟩ := inboundWrite_of_plainRange (who := storerOf r.master) (part := part) hu hr
  obtain ⟨-, hend, -⟩ := hr
  have hsize : requestSize r = bytes.length := by simp [requestSize, ha, hw]
  have hdev : performDev s r part = .ok ([], t) := by
    simp only [performDev, hsize, hw, Option.isNone_some, Bool.and_false, Bool.false_and, pieces_open ho, foldl_reach_idle hm, serve, ha, ht]
    rfl
  refine ⟨t, ?_, hd⟩
  simp only [exec, execAccessPerform, perform, hp, hs, hsize, if_pos hend, hdev, afterRequest]

/-- A core's own scratchpad takes what it writes outside every protected piece (R36, R55, R213). -/
theorem accessPerform_writes_spad {s : State} {r : Request} {c : Nat} {bytes : List Byte} (hm : r.master = c) (hc : c < 384)
    (hp : (s.partOf c).isSome = true) (hs : r.spad = some c) (ha : r.amo = none) (hw : r.write = some bytes)
    (hend : r.addr + bytes.length ≤ Config.spadBytes) (hfree : ∀ i, i < bytes.length → s.inPiece c (r.addr + i) = false) :
    exec (.accessPerform r) s = .next (s.setCoreAt c ((s.coreAt c).writeSpad r.addr bytes)) := by
  obtain ⟨part, hpart⟩ := Option.isSome_iff_exists.1 hp
  have hmaster : masterPart s r.master = some part := by rw [masterPart, hm, if_pos (by omega), hpart]
  have hsize : requestSize r = bytes.length := by simp [requestSize, ha, hw]
  have hadmits : spadAdmits s r.master c = true := by simp [spadAdmits, hm]
  have hpieces : (List.range bytes.length).any (fun i => s.inPiece c (r.addr + i)) = false := by
    rw [List.any_eq_false]
    intro i hi
    rw [hfree i (List.mem_range.1 hi)]
    decide
  have hspad : performSpad s r c = .ok ([], s.setCoreAt c ((s.coreAt c).writeSpad r.addr bytes)) := by
    simp only [performSpad, hsize, hadmits, hpieces, serve, ha, hw]
    rw [if_neg (by simp; omega)]
    rfl
  simp only [exec, execAccessPerform, perform, hmaster, hs, hc, if_true, hspad, afterRequest]

theorem memOutside_of_putAt {s t : State} {l : Loc} {bytes : List Byte} (h : putAt s t l bytes) : memOutside s t [(l, bytes.length)] := by
  obtain ⟨-, hout⟩ := h
  exact fun x hx hno => hout x hx (hno _ (List.mem_singleton.2 rfl))

/-! ### Late faults, waiting stores -/

theorem posBefore_iff (a b : Nat × Nat) : posBefore a b = true ↔ a.1 < b.1 ∨ (a.1 = b.1 ∧ a.2 < b.2) := by
  simp [posBefore]

/-- Whether no fault waits at a lower position (R29). -/
def isFirst (late : Option (Nat × Nat × TrapInfo)) (el q : Nat) : Bool :=
  match late with
  | some (f, r, _) => posBefore (el, q) (f, r)
  | none => true

theorem isFirst_iff (late : Option (Nat × Nat × TrapInfo)) (el q : Nat) :
    isFirst late el q = true ↔ ∀ f r y, late = some (f, r, y) → el < f ∨ (el = f ∧ q < r) := by
  cases late with
  | none => simp [isFirst]
  | some x =>
    obtain ⟨f, r, y⟩ := x
    refine (posBefore_iff (el, q) (f, r)).trans ⟨fun h f' r' y' he => ?_, fun h => h f r y rfl⟩
    cases he
    exact h

theorem targetFaultReport_eq {s : State} {k el q : Nat} {x : TrapInfo} {e : VEntry} {rest : List VEntry}
    (hv : (s.hartAt k).viq = e :: rest) (ht : (s.hartAt k).intrap = false) :
    exec (.targetFaultReport k el q x) s = .next (if e.mayReport el q = true ∧ isFirst e.late el q = true then
      hartSet s k { s.hartAt k with viq := { e with late := some (el, q, x) } :: rest } else s) := by
  simp only [exec, execTargetFaultReport, hv, ht, Bool.not_false, Bool.true_and, Bool.and_eq_true]
  rfl

/-- No earlier store of the die's list shares a byte with one that reaches it. -/
theorem meets_false {l : List ReplUpdate} {u : ReplUpdate}
    (h : ∀ v, v ∈ l → v.addr + v.after.length ≤ u.addr ∨ u.addr + u.after.length ≤ v.addr) : l.any (·.meets u) = false := by
  rw [List.any_eq_false]
  intro v hv
  have hno := h v hv
  simp only [ReplUpdate.meets, Bool.and_eq_true, decide_eq_true_eq]
  omega

theorem replCopyUpdate_eq {s : State} {die : Fin 4} {k : Nat} {u : ReplUpdate}
    (hk : (s.mem.repl.filter (·.die == die.val))[k]? = some u)
    (h : ∀ v, v ∈ (s.mem.repl.filter (·.die == die.val)).take k → v.addr + v.after.length ≤ u.addr ∨ u.addr + u.after.length ≤ v.addr) :
    exec (.replCopyUpdate die k) s = .next { s with mem := { s.mem with repl := s.mem.repl.erase u } } := by
  simp only [exec, execReplCopyUpdate, hk, meets_false h, List.erase_eq_eraseP']
  rfl

end Sys2Proof.Machine.Claim
end

section
/-! ## Stores into the own scratchpad, and completions (O55) -/

namespace Sys2Proof.Machine.Claim
open Sys2Proof.Machine
set_option Elab.async false

/-! ### The window of the core's own scratchpad -/

theorem window_of_spad {s : State} {k va : Nat} (h1 : Config.localBase ≤ va) (h2 : va < Config.localBase + Config.spadBytes) :
    window s k va = some (.ok { loc := .spad (coreOf k) (va - Config.localBase) }) := by
  simp only [Config.localBase, Config.spadBytes] at h1 h2
  have hoff : va - Config.localBase < Config.spadBytes := by
    simp only [Config.localBase, Config.spadBytes]
    omega
  have hbit : ¬ 2 ^ 56 ≤ va := by omega
  have hlow : ¬ va < Config.gangBase := by
    simp only [Config.gangBase]
    omega
  have hgang : ¬ va < Config.gangEnd := by
    simp only [Config.gangEnd]
    omega
  have hlocal : (decide (Config.localBase ≤ va) && decide (va < Config.localEnd)) = true := by
    rw [Bool.and_eq_true, decide_eq_true_eq, decide_eq_true_eq]
    simp only [Config.localBase, Config.localEnd]
    omega
  rw [window, windowIn, if_neg hbit, if_neg hlow, if_neg hgang, if_pos hlocal]
  exact if_pos hoff

theorem translateBy_of_spad {s : State} {k va : Nat} {acc : Access} {unit : Bool} (h1 : Config.localBase ≤ va)
    (h2 : va < Config.localBase + Config.spadBytes) (ha : acc ≠ .fetch) :
    translateBy [] s k acc unit va = .ok ({ loc := .spad (coreOf k) (va - Config.localBase) }, none, s) := by
  simp only [translateBy, translateAs, window_of_spad h1 h2]
  cases acc with
  | fetch => exact (ha rfl).elim
  | _ => rfl

theorem buffers_of_noStrip {s : State} (h : noStrip s) : (s.hartAt s.turn).buffers = false := by
  obtain ⟨hckpt, -, -⟩ := h
  rw [Hart.buffers, show (s.hartAt s.turn).ckpt = none from hckpt]
  rfl

/-- An aligned store to the own scratchpad, outside a strip. -/
theorem store_of_inSpad {s : State} {n va : Nat} (v : Nat) (hs : noStrip s) (h : inSpad s va n) (h0 : 0 < n) (ha : va % n = 0) :
    store s s.turn false n va v =
      .ok (s.setCoreAt (coreOf s.turn) (s.core.writeSpad (va - Config.localBase) (leBytes n v))) := by
  obtain ⟨hlo, hhi, -, hpiece⟩ := h
  have hfree : s.inPiece (coreOf s.turn) (va - Config.localBase) = false := hpiece 0 h0
  refine store_eq_ok.2 ⟨ha, _, _, _, translateBy_of_spad hlo (by omega) Access.noConfusion, ?_⟩
  rw [storePlace_of_not_buffers (buffers_of_noStrip hs)]
  simp only [writePlace, targetWrite, targetWriteStop, hfree, targetPut]
  rfl

/-- Part of a range that lies in the own scratchpad lies there too. -/
theorem inSpad_part {s : State} {va n x m : Nat} (h : inSpad s va n) (h1 : va ≤ x) (h2 : x + m ≤ va + n) (h0 : 0 < m) : inSpad s x m := by
  obtain ⟨hlo, hhi, hbad, hpiece⟩ := h
  refine ⟨by omega, by omega, ?_, fun i hi => ?_⟩
  · rw [badWord, List.any_eq_false] at hbad ⊢
    intro w hw
    have hno := hbad w hw
    simp only [Bool.and_eq_true, decide_eq_true_eq] at hno ⊢
    omega
  · have hfree := hpiece (x - va + i) (by omega)
    rwa [show va + (x - va + i) = x + i by omega] at hfree

/-! ### Numbers in memory -/

theorem leNat_append (a b : List Byte) : leNat (a ++ b) = leNat a + 256 ^ a.length * leNat b := by
  induction a with
  | nil => simp [leNat]
  | cons x a ih =>
    rw [List.cons_append, leNat, leNat, ih, List.length_cons, pow_succ']
    ring

theorem leNat_lt (b : List Byte) : leNat b < 256 ^ b.length := by
  induction b with
  | nil => exact Nat.one_pos
  | cons x b ih =>
    have hx : x.toNat < 256 := x.isLt
    rw [leNat, List.length_cons, pow_succ']
    omega

theorem map_getD_range (bytes : List Byte) : (List.range bytes.length).map (fun i => bytes.getD i 0) = bytes := by
  refine List.ext_getElem (by simp) fun i h1 h2 => ?_
  simp [List.getD_eq_getElem?_getD, h2]

/-- The number that a write leaves is the number of its bytes. -/
theorem numAt_of_putAt {s t : State} {l : Loc} {bytes : List Byte} (h : putAt s t l bytes) : numAt t l bytes.length = leNat bytes := by
  obtain ⟨hin, -⟩ := h
  have hbytes : ((List.range bytes.length).map fun i => byteAt t (l.plus i)) = bytes :=
    (List.map_congr_left fun i hi => hin i (List.mem_range.1 hi)).trans (map_getD_range bytes)
  rw [numAt, hbytes]

theorem numAt_of_putAt_leBytes {s t : State} {l : Loc} {n v : Nat} (h : putAt s t l (leBytes n v)) (hv : v < 256 ^ n) :
    numAt t l n = v := by
  have hnum := numAt_of_putAt h
  rwa [length_leBytes, leNat_leBytes, Nat.mod_eq_of_lt hv] at hnum

/-! ### Completion blocks -/

/-- A status goes to offset 16 of its block (R378). -/
theorem cplDone_status {s : State} {va status : Nat} (e : VEntry) (hs : noStrip s) (ha : va % 8 = 0) (h : inSpad s va 24) :
    cplDone s s.turn 3 e va status =
      s.setCoreAt (coreOf s.turn) (s.core.writeSpad (va + 16 - Config.localBase) (leBytes 8 status)) := by
  have hstore := store_of_inSpad status hs (inSpad_part (x := va + 16) (m := 8) h (by omega) (by omega) (by omega)) (by omega) (by omega)
  simp only [cplDone, hstore, State.attempt]
  rfl

/-- The fields of a future that a place holds. -/
theorem futBytes_at {s : State} {l : Loc} {bytes : List Byte} (hb : bytes = (List.range 16).map fun i => byteAt s (l.plus i)) :
    (Fut.ofBytes bytes).gen = numAt s (l.plus 8) 4 ∧ (Fut.ofBytes bytes).st = numAt s (l.plus 12) 1 := by
  have plus : ∀ a b, (l.plus a).plus b = l.plus (a + b) := fun a b => by cases l <;> simp [Loc.plus, Nat.add_assoc]
  simp only [Fut.ofBytes, numAt, plus, hb]
  exact ⟨rfl, rfl⟩

/-- The number of a future word's bytes. -/
theorem leNat_futBytes (f : Fut) (hc : f.cont < 2 ^ 64) (hg : f.gen < 2 ^ 32) (hs : f.st < 2 ^ 8) (hca : f.cause < 2 ^ 8)
    (hco : f.code < 2 ^ 16) : leNat f.bytes = futNat f.cont f.gen f.st f.cause f.code := by
  simp only [Fut.bytes, leNat_append, leNat_leBytes, length_leBytes, List.length_append, futNat]
  omega

theorem length_futBytes (f : Fut) : f.bytes.length = 16 := by simp [Fut.bytes]

/-- A future that is EMPTY at a place in plain device memory takes its resolution (R378, R396). -/
theorem completeFuture_of_empty {s : State} {part va : Nat} {ptbase : Word} {p : Place} {fail : Bool} {cause code : Nat}
    (hf : findLocal s.drainRepl part ptbase va = .ok (p, s.drainRepl)) (hp : plainPlace s p 16) (hst : numAt s (p.loc.plus 12) 1 = 0) :
    putAt s (completeFuture s part ptbase va fail cause code) p.loc ({ cont := 0, gen := numAt s (p.loc.plus 8) 4, st := if fail then 3 else 2, cause := cause, code := code } : Fut).bytes := by
  obtain ⟨loc, kind, enc⟩ := p
  obtain ⟨hserves, a, hloc, ha⟩ := hp
  dsimp only at hloc
  subst hloc
  obtain ⟨rfl, rfl, hcap, how, hbad, hsec⟩ := hserves
  have hdvd : 16 ∣ a := Nat.dvd_of_mod_eq_zero ha
  have hword : readWord s.drainRepl part false a 16 va = .ok (Memory.readBytes s.mem.dev a 16) := by
    have hb : Table.find? s.drainRepl.mem.bad (a / 64) = none := hbad
    have hsec' : Table.find? s.drainRepl.mem.sectors (a / 512) = none ∨ Table.find? s.drainRepl.mem.sectors (a / 512) = some .plain := hsec
    rcases hsec' with h | h <;> simp [readWord, hb, h] <;> rfl
  have hread : readAt s.drainRepl part { loc := .dev a } 0 16 va = .ok (Memory.readBytes s.mem.dev a 16) := by
    simp [readAt, Place.devAddr, devRead, pieces_of_dvd (show 16 ∣ 64 by decide) hdvd, readWords, hword]
  have hbytes : Memory.readBytes s.mem.dev a 16 = (List.range 16).map fun i => byteAt s ((Loc.dev a).plus i) := readBytes_eq_map _ _ _
  obtain ⟨hgen, hst'⟩ := futBytes_at hbytes
  rw [hst] at hst'
  set w : Fut := { cont := 0, gen := numAt s ((Loc.dev a).plus 8) 4, st := if fail then 3 else 2, cause := cause, code := code } with hw
  obtain ⟨bad, sectors, past, hput⟩ := devWrite_of_plain (m := s.drainRepl.mem) (part := part) (a := a) (bytes := w.bytes)
    (by rw [length_futBytes]; decide) (by rw [length_futBytes]; exact hdvd) hsec
  have hsettle : settleFuture s.drainRepl part ptbase { loc := .dev a } (Fut.ofBytes (Memory.readBytes s.mem.dev a 16)) fail cause code =
      writeAt s.drainRepl part { loc := .dev a } 0 w.bytes := by
    simp only [settleFuture, hst', hw, hgen]
    rfl
  have hgo : completeFuture s part ptbase va fail cause code =
      { s.drainRepl with mem := { s.drainRepl.mem with
        dev := Memory.writeBytes s.drainRepl.mem.dev a w.bytes, bad := bad, sectors := sectors, past := past } } := by
    simp only [completeFuture, hf, bind, Except.bind, hread, hst', hsettle, writeAt, Place.devAddr, Nat.add_zero, hput]
    rfl
  rw [hgo]
  exact putAt_dev (s := s) rfl rfl rfl

end Sys2Proof.Machine.Claim
end

section
/-! ## A collective whose time is over (O55) -/

namespace Sys2Proof.Machine.Claim
open Sys2Proof.Machine
set_option Elab.async false

/-! ### A core whose debug unit is clear -/

theorem dbgReg_of_nil {s : State} {core : Nat} (h : (s.coreAt core).dbg = []) (off : Nat) : dbgReg s core off = 0 := by
  rw [dbgReg, h]
  rfl

theorem tracing_of_nil {s : State} {k : Nat} (h : (s.coreAt (coreOf k)).dbg = []) (pipe : Nat) : tracing s k pipe = false := by
  simp [tracing, dbgReg_of_nil h]

theorem trace_of_nil {s : State} {k : Nat} (h : (s.coreAt (coreOf k)).dbg = []) (pipe : Nat) (fin : Bool) (seq elem flags row : Nat)
    (pc : Word) : trace s k pipe fin seq elem flags row pc = s := by
  rw [trace, if_neg (by rw [tracing_of_nil h]; decide)]

theorem closeTrace_of_nil {s : State} {k : Nat} (h : (s.coreAt (coreOf k)).dbg = []) (e : VEntry) (flags : Nat) :
    (closeTrace s k e flags).1 = s := by
  rw [closeTrace]
  split
  · exact trace_of_nil h ..
  · rfl

/-- No breakpoint and no step cuts an entry (R408, R410). -/
theorem debugCut_of_nil {s : State} {k : Nat} (h : (s.coreAt (coreOf k)).dbg = []) (hs : (s.hartAt k).stepElems = none) (e : VEntry) :
    debugCut s k e = none := by
  have hat : ∀ i, breakpointAt s k e.pc true i = false := fun i => by simp [breakpointAt, dbgReg_of_nil h]
  have hbp : ∀ now past, breakpointElem s k e.pc now past = none := fun now past => by
    have hno : (List.range 4).filter (breakpointAt s k e.pc true) = [] := List.filter_eq_nil_iff.2 fun i _ => by
      rw [hat]
      decide
    rw [breakpointElem, hno]
    rfl
  simp only [debugCut, hbp, hs]
  split <;> rfl

/-! ### What the engine reads of the own scratchpad -/

theorem engPlace_of_spad {s : State} {k va : Nat} (h1 : Config.localBase ≤ va) (h2 : va < Config.localBase + Config.spadBytes) :
    engPlace s k .load va = .ok ({ loc := .spad (coreOf k) (va - Config.localBase) }, s) := by
  have hva : va % 2 ^ 64 = va := by
    simp only [Config.localBase, Config.spadBytes] at h1 h2
    omega
  simp only [engPlace, translateAs, hva, window_of_spad h1 h2]
  rfl

theorem engRead_of_inSpad {s : State} {va n : Nat} (h : inSpad s va n) :
    engRead s s.turn va n = .ok ((List.range n).map fun i => byteAt s (spadLoc s (va + i)), s) := by
  induction n generalizing va with
  | zero => rfl
  | succ n ih =>
    have hfirst := inSpad_part (x := va) (m := 1) h (Nat.le_refl va) (by omega) Nat.one_pos
    obtain ⟨hlo, hhi, hbad, hpiece⟩ := hfirst
    have hfree : s.inPiece (coreOf s.turn) (va - Config.localBase) = false := hpiece 0 Nat.one_pos
    have hrest : engRead s s.turn (va + 1) n = .ok ((List.range n).map fun i => byteAt s (spadLoc s (va + 1 + i)), s) := by
      cases n with
      | zero => rfl
      | succ m => exact ih (inSpad_part h (by omega) (by omega) (by omega))
    have hread : readPlace s s.turn { loc := .spad (coreOf s.turn) (va - Config.localBase) } .load true 1 (va % 2 ^ 64) =
        .ok [byteAt s (spadLoc s va)] := by
      have hbad' : badWord (s.coreAt (coreOf s.turn)).badSpad (va - Config.localBase) 1 = false := hbad
      simp only [readPlace, targetRead, hfree, hbad']
      rfl
    simp only [engRead, engPlace_of_spad hlo (by omega), hread, hrest, List.range_succ_eq_map, List.map_cons, List.map_map]
    simp [Function.comp_def, Nat.add_comm, Nat.add_left_comm]

theorem spadLoc_plus {s : State} {va : Nat} (h : Config.localBase ≤ va) (i : Nat) : (spadLoc s va).plus i = spadLoc s (va + i) := by
  simp only [spadLoc, Loc.plus, Loc.spad.injEq, true_and]
  omega

theorem engNat_of_inSpad {s : State} {va n : Nat} (h : inSpad s va n) : engNat s s.turn va n = .ok (numAt s (spadLoc s va) n, s) := by
  obtain ⟨hlo, -⟩ := id h
  simp only [engNat, engRead_of_inSpad h, numAt, spadLoc_plus hlo]

/-! ### The flags of a collective -/

theorem collReady_of_inSpad {s : State} {x : Coll} (h : inSpad s x.group (16 * x.nrank)) {l : List Nat} (hl : ∀ r, r ∈ l → r < x.nrank) :
    collReady s s.turn x l = .ok (l.all fun r => x.seq ≤ numAt s (spadLoc s (x.group + 16 * r + 8)) 8) := by
  induction l with
  | nil => rfl
  | cons r l ih =>
    have hr := hl r List.mem_cons_self
    have hnat := engNat_of_inSpad (inSpad_part (x := x.group + 16 * r + 8) (m := 8) h (by omega) (by omega) (by omega))
    rw [List.all_cons]
    simp only [collReady, hnat, bind, Except.bind]
    by_cases hseq : x.seq ≤ numAt s (spadLoc s (x.group + 16 * r + 8)) 8
    · simp only [hseq, if_true, decide_true, Bool.true_and]
      exact ih fun q hq => hl q (List.mem_cons_of_mem _ hq)
    · simp [hseq]

/-- The status of a collective that did not end in time (R377, R385). -/
def lateStatus : Nat := causeCode .remote * 2 ^ 40 + 3 * 2 ^ 32

theorem word_memTrap (c : Cause) {sub : Nat} (h : sub < 16) (va : Nat) :
    ({ st := memTrap c sub va } : EngFail).word 0 0 0 = causeCode c * 2 ^ 40 + sub * 2 ^ 32 := by
  simp only [EngFail.word, memTrap, Nat.mod_eq_of_lt h]
  omega

theorem engDone_of_untracked {s : State} (h : untracked s) (k : Nat) (e : VEntry) (kind cva status : Nat) :
    Machine.engDone s k e kind cva status = .done s { e.to 0 0 with signal := some (kind, cva, status) } := by
  refine if_neg ?_
  rw [Bool.not_eq_true, List.any_eq_false]
  intro p hp
  rw [h p hp]
  exact Bool.false_ne_true

/-- A collective fails where a flag is missing and its time is over (R385). -/
theorem collGo_late {s : State} {e : VEntry} {x : Coll} (hu : untracked s) (hg : inSpad s x.group (16 * x.nrank))
    (hw : ∃ r, r < x.nrank ∧ numAt s (spadLoc s (x.group + 16 * r + 8)) 8 < x.seq) (ht : e.aux + 2 ^ 27 ≤ s.reftime) :
    collGo s s.turn e x 3 = .done (s.note (memTrap .remote 3 (x.group % 2 ^ 64)))
      { e.to 0 0 with signal := some (3, x.cpl, lateStatus) } := by
  obtain ⟨r, hr, hlow⟩ := hw
  have hready : collReady s s.turn x (List.range x.nrank) = .ok false := by
    rw [collReady_of_inSpad hg fun q hq => List.mem_range.1 hq]
    refine congrArg Except.ok (List.all_eq_false.2 ⟨r, List.mem_range.2 hr, ?_⟩)
    simp only [decide_eq_true_eq]
    omega
  have hword := word_memTrap .remote (sub := 3) (by omega) (x.group % 2 ^ 64)
  have hover : e.aux + collLimit ≤ s.reftime := ht
  simp only [collGo, hready, if_pos hover, engEnd, writeRegs, List.foldl_nil]
  rw [memTrap] at hword ⊢
  simp only [hword]
  exact engDone_of_untracked (s := s.note (memTrap .remote 3 (x.group % 2 ^ 64))) hu s.turn e 3 x.cpl lateStatus

/-- An engine entry that is done writes no register and no stream. -/
theorem goOn_eng {s t : State} {k : Nat} {e e' : VEntry} {d a b : Reg} {x : Coll} (hop : e.op = .eng 4 d a b 3) (hop' : e'.op = .eng 4 d a b 3)
    (hph : e.phase = 1) (hst : e.status = none) (hb : e.block ≠ []) (hx : collOf 3 e.block = some x) (hcut : debugCut s k e = none)
    (hgo : collGo s k e x 3 = .done t e') : goOn s k e = .done t e' := by
  have hrun : runOp s k e = .done t e' := by
    simp only [runOp, hop, runEng, hst, runColl, if_neg hb, hx, hgo, runWhole, hcut]
    rfl
  have hafter : afterOp t k e' = .done t e' := by
    simp only [afterOp, outStreams, hop', destsOf, List.filterMap_nil]
  have hmark : markRegs t k e' false = t := by
    simp only [markRegs, hop', destsOf, VEntry.maskDest]
    rfl
  have hphase : ¬ 2 ≤ e.phase := by omega
  simp only [goOn, if_neg hphase, hrun, hafter, hmark]

theorem traced_eng {s t : State} {k : Nat} {e e' : VEntry} {d a b : Reg} (hop : e.op = .eng 4 d a b 3)
    (hd : (s.coreAt (coreOf k)).dbg = []) (hgo : goOn s k { e with opened := true } = .done t e') : traced s k e = .done t e' := by
  have hquiet : quiet s k e = false := by simp [quiet, hop, counted, pipeOf]
  rw [traced]
  by_cases ho : e.opened = true
  · rw [if_pos (by simp [ho])]
    rwa [show { e with opened := true } = e by cases e; simp_all] at hgo
  · rw [if_neg (by simp [ho, hquiet])]
    simp only [hgo, tracing_of_nil hd]
    rfl

/-- The hart once its oldest entry has left the queue; nothing stands in its read queue. -/
def leftQueue (h : Hart) : Hart := { h with viq := h.viq.tail, sync := [], done := h.done + 1 }

theorem retire_of_plain {s : State} {k : Nat} (hy : (s.hartAt k).sync = []) (hh : (s.coreAt (coreOf k)).holes = [])
    (hs : (s.hartAt k).stepElems = none) : retire s k = s.setHartAt k (leftQueue (s.hartAt k)) := by
  have hleft : (s.setHartAt k { s.hartAt k with
      viq := (s.hartAt k).viq.tail, sync := (s.hartAt k).sync.map fun r => { r with ahead := r.ahead - 1 }
      done := (s.hartAt k).done + 1 }) = s.setHartAt k (leftQueue (s.hartAt k)) := by rw [hy]; rfl
  have hreap : reapHoles (s.setHartAt k (leftQueue (s.hartAt k))) k = s.setHartAt k (leftQueue (s.hartAt k)) := by
    have hholes : ((s.setHartAt k (leftQueue (s.hartAt k))).coreAt (coreOf k)).holes = [] := hh
    simp only [reapHoles, freeFailed, hholes]
    rfl
  have hsettle : settleSync (s.setHartAt k (leftQueue (s.hartAt k))) k = s.setHartAt k (leftQueue (s.hartAt k)) :=
    settleSync_of_nil (by rw [State.hartAt_setHartAt_self]; rfl)
  have hstep : (s.hartAt k).stepElems.isSome = false := by rw [hs]; rfl
  rw [retire]
  simp only [hleft, hreap, hsettle, hstep]
  rfl

/-- What a range of the own scratchpad is rests on few things. -/
theorem inSpad_congr {s t : State} {va n : Nat} (ht : t.turn = s.turn) (hb : t.core.badSpad = s.core.badSpad)
    (hp : ∀ k, (t.hartAt k).pmode = (s.hartAt k).pmode) (h : inSpad s va n) : inSpad t va n := by
  obtain ⟨hlo, hhi, hbad, hpiece⟩ := h
  refine ⟨hlo, hhi, hb ▸ hbad, fun i hi => ?_⟩
  rw [← hpiece i hi, ht]
  simp only [State.inPiece, hp]

/-- The machine once the collective that heads the queue has failed for want of time. -/
def collFailed (s : State) (x : Coll) : State :=
  let t := (s.note (memTrap .remote 3 (x.group % 2 ^ 64))).setHartAt s.turn (leftQueue s.hart)
  t.setCoreAt (coreOf s.turn) (s.core.writeSpad (x.cpl + 16 - Config.localBase) (leBytes 8 lateStatus))

theorem runHead_late {s : State} {d a b : Reg} {e : VEntry} {x : Coll} (hv : s.hart.viq = [e]) (hop : e.op = .eng 4 d a b 3)
    (hb : e.block ≠ []) (hst : e.status = none) (ht : e.aux + 2 ^ 27 ≤ s.reftime) (hw : collWaits s e x) :
    runHead s s.turn = collFailed s x := by
  obtain ⟨hx, hph, hstrip, hu, -, hy, hse, hh, hd, hg, -, hlow, hcpl, hspad⟩ := hw
  let f : State := s.note (memTrap .remote 3 (x.group % 2 ^ 64))
  let e' : VEntry := { ({ e with opened := true } : VEntry).to 0 0 with signal := some (3, x.cpl, lateStatus) }
  have hgo : goOn s s.turn { e with opened := true } = .done f e' :=
    goOn_eng hop (by exact hop) hph hst hb hx (debugCut_of_nil hd hse _) (collGo_late hu hg hlow ht)
  have hadv : advance s s.turn e = .done f e' := by
    rw [advance, if_pos (by omega), traced_eng hop hd hgo]
  have hretire : retire f s.turn = f.setHartAt s.turn (leftQueue s.hart) := retire_of_plain hy hh hse
  have hflags : s.hart.flagsRead = false := by simp [Hart.flagsRead, hy]
  have hhead : (s.hartAt s.turn).viq = [e] := hv
  have hclose : ∀ e0, (closeTrace f s.turn e0 0).1 = f := fun e0 => closeTrace_of_nil (s := f) hd e0 0
  have hkept : ∀ k, ((f.setHartAt s.turn (leftQueue s.hart)).hartAt k).pmode = (s.hartAt k).pmode := fun k => by
    by_cases hk : k = s.turn
    · subst hk
      rw [State.hartAt_setHartAt_self]
      rfl
    · rw [State.hartAt_setHartAt_of_ne _ _ hk]
      rfl
  have hturn : (f.setHartAt s.turn (leftQueue s.hart)).hart = leftQueue s.hart := State.hartAt_setHartAt_self ..
  have hblock : inSpad (f.setHartAt s.turn (leftQueue s.hart)) x.cpl 24 :=
    inSpad_congr (s := s) rfl rfl hkept (inSpad_part hspad (Nat.le_refl _) (by omega) (by omega))
  have hdone := cplDone_status (s := f.setHartAt s.turn (leftQueue s.hart)) (va := x.cpl) (status := lateStatus) e'
    (by rw [noStrip, hturn]; exact hstrip) (by omega) hblock
  have hflags' : (s.hartAt s.turn).flagsRead = false := hflags
  simp only [runHead, headTurn, settleSync_of_nil hy, hhead, hflags', hadv, settle, hclose, hretire]
  exact hdone

theorem collTimeout_late {s : State} {d a b : Reg} {e : VEntry} {x : Coll} (hv : s.hart.viq = [e]) (hop : e.op = .eng 4 d a b 3)
    (hb : e.block ≠ []) (hst : e.status = none) (hrun : s.hart.slot = .running) (hi : s.hart.intrap = false)
    (ht : e.aux + 2 ^ 27 ≤ s.reftime) (hw : collWaits s e x) : exec (.collTimeout s.turn) s = .next (collFailed s x) := by
  have hviq : (s.hartAt s.turn).viq = [e] := hv
  have hslot : (s.hartAt s.turn).slot ≠ .empty := by rw [show (s.hartAt s.turn).slot = .running from hrun]; decide
  have hfree : (s.hartAt s.turn).intrap = false := hi
  rw [← runHead_late hv hop hb hst ht hw]
  have hover : e.aux + collLimit ≤ s.reftime := ht
  simp [exec, execCollTimeout, hviq, hb, hover, hslot, hfree]

theorem byteAt_note_setHartAt (s : State) (st : Stop) (k : Nat) (h : Hart) {x : Loc} (hx : isMem x = true) :
    byteAt ((s.note st).setHartAt k h) x = byteAt s x := by
  cases x with
  | regs => cases hx
  | _ => rfl

theorem collFailed_shows (s : State) (x : Coll) : (collFailed s x).hart = leftQueue s.hart ∧
    numAt (collFailed s x) (spadLoc s (x.cpl + 16)) 8 = lateStatus ∧ memOutside s (collFailed s x) [(spadLoc s (x.cpl + 16), 8)] := by
  have hput := putAt_spad ((s.note (memTrap .remote 3 (x.group % 2 ^ 64))).setHartAt s.turn (leftQueue s.hart)) (coreOf s.turn)
    (x.cpl + 16 - Config.localBase) (leBytes 8 lateStatus)
  refine ⟨State.hartAt_setHartAt_self .., numAt_of_putAt_leBytes hput (by decide), fun y hy ho => ?_⟩
  have hout := memOutside_of_putAt hput y hy (by rw [length_leBytes]; exact ho)
  exact hout.trans (byteAt_note_setHartAt _ _ _ _ hy)

end Sys2Proof.Machine.Claim
end

section
/-! ## The events of harts and accesses (O55) -/

namespace Sys2Proof.Machine.Claim
open Sys2Proof.Machine
set_option Elab.async false

/-! ### Dispatch of a helper -/

/-- The machine once a helper without a routine of its own has taken an entry: its built-in one starts (R344, R347). -/
def entryTaken (s : State) (k : Nat) (e : HoleEntry) : State :=
  let c := (s.coreAt (coreOf k)).writeSdm (recordOff (slotOf k)) (recordBytes e)
  let h := (((s.hartAt k).setReg 10 (BitVec.ofNat 64 (sdmVa (recordOff (slotOf k))))).setReg 11 (BitVec.ofNat 64 (handleOf e))).setReg 2
    (BitVec.ofNat 64 (sdmVa (stackEnd (slotOf k))))
  (s.setCoreAt (coreOf k) { c with holes := Table.set c.holes e.id { e with st := .taken } }).setHartAt k { h with
    fpctl := e.fpctl, fpflags := 0, taken := some e.id, slot := .running, done := h.done + 1, masked := false
    pc := Config.builtinPc, builtin := some .compute }

theorem takeEntry_of_builtin {s : State} {k : Nat} (hf : (s.hartAt k).filltab = 0) (hd : (s.coreAt (coreOf k)).dbg = []) (e : HoleEntry) :
    takeEntry s k e = entryTaken s k e := by
  have hroutine : routineFor s k e = .ok (none, s) := by
    simp only [routineFor, hf]
    rfl
  have hdbg : ((entryTaken s k e).coreAt (coreOf k)).dbg = [] := by
    simp only [entryTaken, State.coreAt_setHartAt, State.coreAt_setCoreAt_self, Core.writeSdm, hd]
  simp only [takeEntry, hroutine]
  exact trace_of_nil (s := entryTaken s k e) hdbg ..

theorem hqTakeDispatch_idle {s : State} {k : Nat}
    (h : ¬ ((s.hartAt k).kind = .helper ∧ (s.hartAt k).slot = .waiting ∧ (s.hartAt k).wait = .hole) ∨ nextReady (s.coreAt (coreOf k)) = none) :
    exec (.hqTakeDispatch k) s = .next s := by
  refine congrArg Host.Outcome.next (ite_eq_right_iff.2 fun hw => ?_)
  simp only [Bool.and_eq_true, beq_iff_eq, and_assoc] at hw
  rcases h with h | h
  · exact (h hw).elim
  · rw [dispatchHelper, h]

theorem hqTakeDispatch_takes {s : State} {k : Nat} {e : HoleEntry} (hk : (s.hartAt k).kind = .helper) (hs : (s.hartAt k).slot = .waiting)
    (hw : (s.hartAt k).wait = .hole) (hn : nextReady (s.coreAt (coreOf k)) = some e) (hf : (s.hartAt k).filltab = 0)
    (hd : (s.coreAt (coreOf k)).dbg = []) : exec (.hqTakeDispatch k) s = .next (entryTaken s k e) := by
  rw [← takeEntry_of_builtin hf hd e]
  refine congrArg Host.Outcome.next ((if_pos (by simp [hk, hs, hw])).trans ?_)
  rw [dispatchHelper, hn]

/-- hq.take of the same hart at its turn. -/
theorem hqTake_takes {s : State} {k : Nat} {e : HoleEntry} (hk : (s.hartAt k).kind = .helper) (ht : (s.hartAt k).taken = none)
    (hn : nextReady (s.coreAt (coreOf k)) = some e) (hf : (s.hartAt k).filltab = 0) (hd : (s.coreAt (coreOf k)).dbg = []) :
    exec .hqTake { s with turn := k } = .next { entryTaken s k e with turn := k } := by
  have htake : takeEntry { s with turn := k } k e = { entryTaken s k e with turn := k } :=
    takeEntry_of_builtin (s := { s with turn := k }) hf hd e
  rw [← htake]
  have hkind : ({ s with turn := k } : State).hart.kind = .helper := hk
  have htaken : ({ s with turn := k } : State).hart.taken = none := ht
  have hnext : nextReady ({ s with turn := k } : State).core = some e := hn
  simp [exec, execHqTake, hkind, htaken, hnext]

/-! ### The end of an idle -/

theorem run_eq_goesOn (h : Hart) : h.run = goesOn h := by
  cases hi : h.sbank.intrap <;> simp [Hart.run, goesOn, hi]

theorem idleWake_eq {s : State} {k d : Nat} (hs : (s.hartAt k).slot = .waiting) (hw : (s.hartAt k).wait = .clock d) :
    exec (.idleWake k) s = .next (if d ≤ s.reftime then hartSet s k (wakes s (s.hartAt k)) else s) := by
  simp only [exec, execIdleWake, hs, hw, run_eq_goesOn]
  rfl

/-! ### Accesses that stay open too long -/

theorem find?_map_snd {α : Type} (f : α → α) (l : Table α) (i : Nat) :
    Table.find? (l.map fun p => (p.1, f p.2)) i = (Table.find? l i).map f := by
  induction l with
  | nil => rfl
  | cons p l ih =>
    simp only [List.map_cons, Table.find?]
    split
    · rfl
    · exact ih

/-- A task after the time of its open accesses may have passed. -/
def timedOut (s : State) (k kind : Nat) (y : TrapInfo) (t : Task) : Task :=
  if t.stopAt + openLimit ≤ s.reftime then { t with saved := t.saved.map (SavedCore.stopOpen s k kind y) } else t

theorem stopTimeout_task? (s : State) (k kind : Nat) (y : TrapInfo) (id : Nat) :
    (stopTimeout s k kind y).task? id = (s.task? id).map (timedOut s k kind y) :=
  find?_map_snd (timedOut s k kind y) s.tasks id

theorem timedOut_of_early {s : State} {k kind : Nat} {y : TrapInfo} {t : Task} (h : s.reftime < t.stopAt + 1500 ∨ t.saved = []) :
    timedOut s k kind y t = t := by
  rw [timedOut]
  split
  · next hle =>
    rcases h with h | h
    · exact absurd hle (Nat.not_le.2 h)
    · rw [h, List.map_nil, ← h]
  · rfl

theorem timedOut_of_one {s : State} {k kind : Nat} {y : TrapInfo} {t : Task} {c : SavedCore} {h : Hart}
    (ht : t.stopAt + 1500 ≤ s.reftime) (hs : t.saved = [c]) (hc : c.at_ = coreOf k) (hh : c.harts = [(slotOf k, h)]) :
    timedOut s k kind y t = { t with saved := [{ c with harts := [(slotOf k, lateStop s k kind y h)] }] } := by
  have hle : t.stopAt + openLimit ≤ s.reftime := ht
  simp [timedOut, hle, hs, SavedCore.stopOpen, hc, hh]

theorem stopTimeout_stops {s : State} {k id : Nat} {t : Task} (ht : s.task? id = some t) (kind : Nat) (y : TrapInfo) :
    ∃ u, stopTimeout s k kind y = u ∧ u.harts = s.harts ∧ u.mem = s.mem ∧ u.gangs = s.gangs ∧
      (s.reftime < t.stopAt + 1500 ∨ t.saved = [] → u.task? id = some t) ∧
      ∀ (c : SavedCore) (h : Hart) (e : VEntry) (rest : List VEntry), t.stopAt + 1500 ≤ s.reftime → t.saved = [c] → c.at_ = coreOf k →
        c.harts = [(slotOf k, h)] → h.viq = e :: rest →
        (openPos (s.setHartAt k h) k kind e = none → u.task? id = some t) ∧
        ∀ el q, openPos (s.setHartAt k h) k kind e = some (el, q) → u.task? id = some { t with
          saved := [{ c with harts := [(slotOf k, { h with viq := { e with late := some (el, q, y) } :: rest })] }] } := by
  have htask : (stopTimeout s k kind y).task? id = some (timedOut s k kind y t) := by rw [stopTimeout_task?, ht]; rfl
  refine ⟨_, rfl, rfl, rfl, rfl, fun h => htask.trans (congrArg some (timedOut_of_early h)), fun c h e rest hle hs hc hh hv => ?_⟩
  rw [htask, timedOut_of_one hle hs hc hh]
  refine ⟨fun hno => ?_, fun el q hopen => ?_⟩
  · have hlate : lateStop s k kind y h = h := by simp only [lateStop, hv, hno]
    rw [hlate, ← hh, ← hs]
  · have hlate : lateStop s k kind y h = { h with viq := { e with late := some (el, q, y) } :: rest } := by
      simp only [lateStop, hv, hopen]
    rw [hlate]

/-! ### The obligation -/

theorem engCompletion_future {s w : State} {block status : Word} {p : Place}
    (hst : store s s.turn false 8 (block.toNat + 16) status.toNat = .ok w) (hp : plainPlace w p 16)
    (hf : findLocal w.drainRepl ((w.partOf (coreOf s.turn)).getD 0) (w.hartAt s.turn).ptbase block.toNat = .ok (p, w.drainRepl))
    (h0 : numAt w (p.loc.plus 12) 1 = 0) :
    ∃ t, exec (.engCompletion s.turn 1 block status) s = .next t ∧ memOutside w t [(p.loc, 16)] ∧
      numAt t p.loc 16 = futNat 0 (numAt w (p.loc.plus 8) 4) (if status = 0 then 2 else 3) (status.toNat / 2 ^ 40 % 2 ^ 8)
        (status.toNat / 2 ^ 48 % 2 ^ 12) := by
  have hput := completeFuture_of_empty (fail := status.toNat != 0) (cause := bits status.toNat 47 40) (code := bits status.toNat 59 48)
    hf hp h0
  have hgen : numAt w (p.loc.plus 8) 4 < 2 ^ 32 := by
    have hlt := leNat_lt ((List.range 4).map fun i => byteAt w ((p.loc.plus 8).plus i))
    rwa [List.length_map, List.length_range] at hlt
  have hfail : (if (status.toNat != 0) = true then 3 else 2) = if status = 0 then 2 else 3 := by
    by_cases h : status = 0
    · simp [h]
    · have hne : status.toNat ≠ 0 := fun h' => h (BitVec.eq_of_toNat_eq h')
      rw [if_pos (bne_iff_ne.2 hne), if_neg h]
  have hexec : exec (.engCompletion s.turn 1 block status) s = .next (completeFuture w ((w.partOf (coreOf s.turn)).getD 0)
      (w.hartAt s.turn).ptbase block.toNat (status.toNat != 0) (bits status.toNat 47 40) (bits status.toNat 59 48)) := by
    simp only [exec, execEngCompletion, cplDone, hst, State.attempt]
    rfl
  refine ⟨_, hexec, ?_, ?_⟩
  · have hout := memOutside_of_putAt hput
    rwa [length_futBytes] at hout
  · have hnum := numAt_of_putAt hput
    rw [length_futBytes, leNat_futBytes _ (Nat.two_pow_pos 64) hgen (by dsimp only; split <;> decide)
      (Nat.mod_lt _ (by decide)) (Nat.lt_trans (Nat.mod_lt _ (by decide)) (by decide))] at hnum
    rw [hnum, ← hfail]
    rfl

/-- Settles O55: each event by its own lemma. -/
theorem hartEvents : Obligations.HartEvents := by
  refine ⟨fun s va acc hr hx => ⟨fun p s1 h => ⟨?_, fun hm => ?_⟩, fun x h ht hmedia hc => ?_⟩, fun s r => ⟨accessPerform_of_unassigned, ?_, ?_⟩,
    fun s k el q x e rest hv hi => ⟨fun hmeets => ?_, fun hno => ?_⟩, fun s die k u hk hno => replCopyUpdate_eq hk hno, fun _ _ _ => rfl,
    fun s block status => ⟨rfl, fun hs ha hb => ?_, fun w p hst hp hf h0 => engCompletion_future hst hp hf h0⟩,
    fun s d a b e x hv hop hb hst hr hi => ⟨fun ht => ?_, fun ht hw => ?_⟩,
    fun s k => ⟨hqTakeDispatch_idle, fun hk hs hw ht hn hf hd => ?_⟩, fun s k d => idleWake_eq, fun s k id x t ht => ⟨?_, ?_⟩⟩
  · rw [tableWalk_walks hr hx, h]
  · have hw := translate_walked hm h
    exact ⟨by rw [hw.hart], hw.restSame, hw.memSame⟩
  · rw [tableWalk_walks hr hx, h]
    exact congrArg Host.Outcome.next (stop_eq_trapped ht hmedia hc)
  · exact fun part bytes hp hs ha hw hm hu hrange ho => accessPerform_writes_dev hp hs ha hw hm hu hrange ho
  · intro c bytes hm hc hp hs ha hw hend hfree
    have hput := putAt_spad s c r.addr bytes
    exact ⟨_, accessPerform_writes_spad hm hc hp hs ha hw hend hfree, rfl, rfl, hput.1, memOutside_of_putAt hput⟩
  · rw [targetFaultReport_eq hv hi, if_pos (by rw [isFirst_iff]; exact hmeets)]
  · rw [targetFaultReport_eq hv hi, if_neg (by rw [isFirst_iff]; exact hno)]
  · have hput := putAt_spad s (coreOf s.turn) (block.toNat + 16 - Config.localBase) (leBytes 8 status.toNat)
    have hout := memOutside_of_putAt hput
    rw [length_leBytes] at hout
    exact ⟨_, congrArg Host.Outcome.next (cplDone_status _ hs ha hb), numAt_of_putAt_leBytes hput status.isLt, hout, restSame_setCoreAt rfl⟩
  · have hviq : (s.hartAt s.turn).viq = [e] := hv
    have hearly : ¬ e.aux + collLimit ≤ s.reftime := Nat.not_le.2 ht
    simp only [exec, execCollTimeout, hviq, hearly, false_and, and_false, if_false]
  · obtain ⟨hhart, hnum, hout⟩ := collFailed_shows s x
    exact ⟨_, collTimeout_late hv hop hb hst hr hi ht hw, by rw [hhart, leftQueue, hv]; rfl, by rw [hhart]; rfl, by rw [hhart]; rfl, hnum, hout⟩
  · obtain ⟨e, hn⟩ := Option.isSome_iff_exists.1 hn
    have hhart : (entryTaken s k e).hartAt k = _ := State.hartAt_setHartAt_self ..
    exact ⟨_, hqTakeDispatch_takes hk hs hw hn hf hd, hqTake_takes hk ht hn hf hd, by rw [hhart], by rw [hhart]; rfl⟩
  · obtain ⟨u, hu, hrest⟩ := stopTimeout_stops (k := k) ht 2 { x with cause := .remote, sub := 2, level := 0 }
    exact ⟨u, congrArg Host.Outcome.next hu, hrest⟩
  · obtain ⟨u, hu, hrest⟩ := stopTimeout_stops (k := k) ht 3 { x with cause := .access, sub := 2, level := 0 }
    exact ⟨u, congrArg Host.Outcome.next hu, hrest⟩

end Sys2Proof.Machine.Claim
end

section
/-! ## What the operations of the scheduler leave (O12) -/

namespace Sys2Proof.Machine.Claim
open Sys2Proof.Machine
set_option Elab.async false

/-! ### Writes of the steward -/

/-- The two states agree but for the memory system, the errors met and the steward's registers. -/
def MemOnly (s t : State) : Prop := ∃ m l w, t = { s with mem := m, noted := l, stew := w }

theorem MemOnly.refl (s : State) : MemOnly s s := ⟨_, _, _, rfl⟩

theorem MemOnly.trans {s t u : State} : MemOnly s t → MemOnly t u → MemOnly s u := by
  rintro ⟨_, _, _, rfl⟩ ⟨_, _, _, rfl⟩
  exact ⟨_, _, _, rfl⟩

theorem setRegs_memOnly (s : State) (m : MemSys) : MemOnly s (s.setRegs m) := by
  simp only [State.setRegs]
  split <;> exact ⟨_, _, _, rfl⟩

theorem noteCopied_memOnly (s : State) (f : Nat → Bool) : MemOnly s (noteCopied s f) :=
  let ⟨_, h⟩ := noteCopied_eq s f
  ⟨_, _, _, h⟩

theorem walkEnd_memOnly (s : State) : MemOnly s (walkEnd s) := (setRegs_memOnly s _).trans ⟨_, _, _, rfl⟩

theorem moveDone_memOnly (s : State) (g : Nat) : MemOnly s (moveDone s g) := by
  simp only [moveDone]
  split
  · split <;> exact (noteCopied_memOnly _ _).trans (setRegs_memOnly _ _)
  · split
    · exact ((noteCopied_memOnly _ _).trans (setRegs_memOnly _ _)).trans (walkEnd_memOnly _)
    · exact (noteCopied_memOnly _ _).trans (setRegs_memOnly _ _)

theorem finishMoves_memOnly (g n : Nat) (s : State) : MemOnly s (finishMoves g n s) := by
  induction n generalizing s with
  | zero => exact .refl s
  | succ n ih =>
    rw [finishMoves]
    split
    · exact (moveDone_memOnly s _).trans (ih _)
    · exact .refl s

theorem reach_memOnly (s : State) (requester a : Nat) : MemOnly s (s.reach requester a) := by
  simp only [State.reach]
  split
  · exact .refl s
  · split
    · exact finishMoves_memOnly _ _ _
    · exact (finishMoves_memOnly _ _ _).trans ⟨_, _, _, rfl⟩

theorem writeAt'_memOnly (s : State) (part : Nat) (p : Place) (off : Nat) (bytes : List Byte) : MemOnly s (writeAt' s part p off bytes) := by
  unfold writeAt' writeAt
  split
  · exact ⟨_, _, _, rfl⟩
  · split
    · exact ⟨_, _, _, rfl⟩
    · exact (reach_memOnly s _ _).trans ⟨_, _, _, rfl⟩

theorem setQnext_memOnly (s : State) (id : Nat) (next : Word) : MemOnly s (setQnext s id next) := by
  unfold setQnext
  split
  · exact .refl s
  · split
    · exact .refl s
    · exact writeAt'_memOnly ..

/-! ### Class queues -/

theorem queueOf_setQueue (s : State) (die cls : Nat) (q : List Nat) (c : Nat) :
    queueOf (setQueue s die cls q) die c = if c = cls then q else queueOf s die c := by
  rw [queueOf, setQueue, State.dieAt_setDieAt_self]
  split
  · next h => rw [h, Table.get_set_self]
  · next h => rw [Table.get_set_of_ne _ _ _ h, queueOf]

theorem MemOnly.dieAt {s t : State} : MemOnly s t → ∀ d, t.dieAt d = s.dieAt d
  | ⟨_, _, _, h⟩, _ => h ▸ rfl

theorem MemOnly.queueOf {s t : State} (h : MemOnly s t) (die cls : Nat) : Machine.queueOf t die cls = Machine.queueOf s die cls :=
  congrArg (fun d : Die => Table.get [] d.queues cls) (h.dieAt die)

/-- A task that joins a queue changes the queue, and QNEXT of descriptors in memory (R172). -/
theorem enqueue_memOnly (s : State) (die cls id : Nat) (front : Bool) : ∃ q, MemOnly (setQueue s die cls q) (enqueue s die cls id front) := by
  unfold enqueue
  split
  · exact ⟨_, setQnext_memOnly ..⟩
  · refine ⟨queueOf s die cls ++ [id], MemOnly.trans (s := setQueue s die cls (queueOf s die cls ++ [id])) ?_ (setQnext_memOnly ..)⟩
    split
    · exact setQnext_memOnly ..
    · exact .refl _

theorem unqueue_of_empty {s : State} {die cls : Nat} (h : queueOf s die cls = []) (id : Nat) : unqueue s die cls id = s := by
  rw [unqueue, h]
  rfl

/-- The head that leaves a queue leaves the rest in it (R172). -/
theorem dequeue_head {s : State} {die cls id : Nat} {rest : List Nat} (h : queueOf s die cls = id :: rest) :
    ∃ t x, MemOnly (setQueue s die cls rest) t ∧ dequeue s die cls = t.setDieAt die x ∧ x.queues = (t.dieAt die).queues ∧
      x.fenced = (t.dieAt die).fenced := by
  let t := setQnext (setQueue s die cls rest) id 0
  refine ⟨t, { t.dieAt die with heads := Table.erase (t.dieAt die).heads cls }, setQnext_memOnly .., ?_, rfl, rfl⟩
  rw [dequeue, h]

/-! ### A pass over empty queues -/

theorem passClass_of_empty {s : State} {die cls : Nat} (h : queueOf s die cls = []) (n : Nat) : passClass die cls n s = s := by
  cases n with
  | zero => rfl
  | succ n =>
    have hplace : tryPlace s die cls = none := by rw [tryPlace, h]; rfl
    have hnote : noteHead s die cls = s := by simp only [noteHead, h, List.head?_nil]
    have hpre : preemptFor s die cls = none := by simp only [preemptFor, h, List.head?_nil, Option.bind_none]
    simp only [passClass, hplace, hnote, hpre, Option.bind_none, ite_self]

/-- Where no task waits a pass places none (R173). -/
theorem pass_of_queuesEmpty {s : State} {die : Nat} (h : queuesEmpty s die) : pass s die = s := by
  rw [pass]
  split
  · rfl
  · exact foldl_of_fixed fun cls _ => passClass_of_empty (h cls) _

theorem queuesEmpty_congr {s t : State} {die : Nat} (hd : (t.dieAt die).queues = (s.dieAt die).queues) (h : queuesEmpty s die) :
    queuesEmpty t die := fun cls => by
  rw [← h cls, queueOf, queueOf, hd]

/-- A die that changes but for its queues. -/
theorem queues_setDieAt {s : State} {d : Nat} {x : Die} (h : x.queues = (s.dieAt d).queues) (e : Nat) :
    ((s.setDieAt d x).dieAt e).queues = (s.dieAt e).queues := by
  by_cases he : e = d
  · rw [he, State.dieAt_setDieAt_self, h]
  · rw [State.dieAt_setDieAt_of_ne _ _ he]

/-! ### Harts and cores -/

/-- The two states agree but for the harts and the cores. -/
def Rehosted (s t : State) : Prop := ∃ hs cs, t = { s with harts := hs, cores := cs }

theorem Rehosted.refl (s : State) : Rehosted s s := ⟨_, _, rfl⟩

theorem Rehosted.trans {s t u : State} : Rehosted s t → Rehosted t u → Rehosted s u := by
  rintro ⟨_, _, rfl⟩ ⟨_, _, rfl⟩
  exact ⟨_, _, rfl⟩

theorem foldl_rehosted {α : Type} {f : State → α → State} {l : List α} (hf : ∀ s a, a ∈ l → Rehosted s (f s a)) (s : State) :
    Rehosted s (l.foldl f s) :=
  List.foldlRecOn l f (.refl s) fun _ h a ha => h.trans (hf _ a ha)

theorem setHarts_rehosted (s : State) (core gang : Nat) (hs : List (Nat × Hart)) : Rehosted s (setHarts s core gang hs) :=
  foldl_rehosted (fun _ _ _ => ⟨_, _, rfl⟩) s

/-- A task that has not run is placed on a core without an image (R146). -/
theorem placeCore_rehosted (s : State) {t : Task} (h : t.saved = []) (id k core : Nat) : Rehosted s (placeCore s t id k core) := by
  rw [placeCore, h]
  exact .trans ⟨_, _, rfl⟩ (setHarts_rehosted _ core id _)

theorem freeCore_rehosted (s : State) (core : Nat) : Rehosted s (freeCore s core) :=
  Rehosted.trans ⟨_, _, rfl⟩ (foldl_rehosted (fun _ _ _ => ⟨_, _, rfl⟩) _)

theorem failTracks_rehosted (s : State) (core : Nat) : Rehosted s (failTracks s core) := ⟨_, _, rfl⟩

/-! ### Cores that are released (R352, R399) -/

/-- A core without a gang, an array, a hole entry and a hart. -/
def Freed (t : State) (c : Nat) : Prop :=
  (t.coreAt c).gang = none ∧ (t.coreAt c).mode = 0 ∧ (t.coreAt c).mvl = 0 ∧ (t.coreAt c).holes = [] ∧
    ∀ n, n < 8 → t.hartAt (c * 8 + n) = {}

theorem freeCore_hartAt (s : State) (core k : Nat) : (freeCore s core).hartAt k = if k / 8 = core then {} else s.hartAt k := by
  refine (foldl_range_hartAt (g := fun _ => {}) (base := core * 8) (fun s n k => ?_) 8 _ k).trans (if_congr (by omega) rfl rfl)
  by_cases hk : k = core * 8 + n
  · subst hk
    rw [if_pos rfl, State.hartAt_setHartAt_self]
  · rw [if_neg hk, State.hartAt_setHartAt_of_ne _ _ hk]

theorem freeCore_coreAt (s : State) (core c : Nat) :
    (freeCore s core).coreAt c = if c = core then { s.coreAt core with gang := none, mode := 0, mvl := 0, holes := [] } else s.coreAt c := by
  have hharts : ∀ (l : List Nat) (t : State), (l.foldl (fun s n => s.setHartAt (core * 8 + n) {}) t).coreAt c = t.coreAt c :=
    fun l t => List.foldlRecOn (motive := fun u : State => u.coreAt c = t.coreAt c) l _ rfl fun _ h _ _ => h
  refine (hharts _ _).trans ?_
  by_cases hc : c = core
  · rw [if_pos hc, hc, State.coreAt_setCoreAt_self]
  · rw [if_neg hc, State.coreAt_setCoreAt_of_ne _ _ hc]

theorem freeCore_freed (s : State) (core : Nat) : Freed (freeCore s core) core := by
  rw [Freed, freeCore_coreAt, if_pos rfl]
  refine ⟨rfl, rfl, rfl, rfl, fun n hn => ?_⟩
  rw [freeCore_hartAt, if_pos (by omega)]

theorem freeCore_keeps_freed {s : State} {c : Nat} (core : Nat) (h : Freed s c) : Freed (freeCore s core) c := by
  by_cases hc : c = core
  · subst hc
    exact freeCore_freed s c
  · obtain ⟨hg, hm, hv, hh, hk⟩ := h
    rw [Freed, freeCore_coreAt, if_neg hc]
    refine ⟨hg, hm, hv, hh, fun n hn => ?_⟩
    rw [freeCore_hartAt, if_neg (by omega), hk n hn]

theorem failTracks_keeps_freed {s : State} {c : Nat} (core : Nat) (h : Freed s c) : Freed (failTracks s core) c := by
  obtain ⟨hg, hm, hv, hh, hk⟩ := h
  by_cases hc : c = core
  · subst hc
    rw [Freed, failTracks, State.coreAt_setCoreAt_self]
    exact ⟨hg, hm, hv, hh, hk⟩
  · rw [Freed, failTracks, State.coreAt_setCoreAt_of_ne _ _ hc]
    exact ⟨hg, hm, hv, hh, hk⟩

theorem foldl_released {f : State → Nat → State} (hf : ∀ s c, Freed (f s c) c) (hk : ∀ s c d, Freed s d → Freed (f s c) d)
    (l : List Nat) (s : State) : released (l.foldl f s) l := by
  have keeps : ∀ (l : List Nat) (s : State) (d : Nat), Freed s d → Freed (l.foldl f s) d := fun l s d h =>
    List.foldlRecOn (motive := fun t => Freed t d) l f h fun t h c _ => hk t c d h
  induction l generalizing s with
  | nil => exact fun c hc => absurd hc List.not_mem_nil
  | cons a l ih =>
    intro c hc
    rcases List.mem_cons.1 hc with rfl | hc
    · exact keeps l _ c (hf s c)
    · exact ih (f s a) c hc

theorem released_congr {s t : State} {cores : List Nat} (hc : t.cores = s.cores) (hh : t.harts = s.harts) (h : released s cores) :
    released t cores := by
  have hcore : ∀ c, t.coreAt c = s.coreAt c := fun c => by rw [State.coreAt, hc, State.coreAt]
  have hhart : ∀ k, t.hartAt k = s.hartAt k := fun k => by rw [State.hartAt, hh, State.hartAt]
  simp only [released, hcore, hhart]
  exact h

end Sys2Proof.Machine.Claim
end

section
/-! ## Completion of the events of harts and of scheduling (O12) -/

namespace Sys2Proof.Machine.Claim
open Sys2Proof.Machine
set_option Elab.async false

/-! ### Placement -/

/-- A fold that one element of its list changes, and nothing after it. -/
theorem foldl_of_once {α β : Type} {f : β → α → β} {b b' : β} {l : List α} {a : α} (ha : a ∈ l) (hl : l.Nodup)
    (h0 : ∀ x, x ∈ l → x ≠ a → f b x = b) (h1 : f b a = b') (h2 : ∀ x, x ∈ l → f b' x = b') : l.foldl f b = b' := by
  induction l with
  | nil => cases ha
  | cons x l ih =>
    obtain ⟨hx, hl⟩ := List.nodup_cons.1 hl
    rw [List.foldl_cons]
    by_cases hxa : x = a
    · rw [hxa, h1]
      exact foldl_of_fixed fun y hy => h2 y (List.mem_cons_of_mem _ hy)
    · rw [h0 x List.mem_cons_self hxa]
      exact ih ((List.mem_cons.1 ha).resolve_left (Ne.symm hxa)) hl (fun y hy => h0 y (List.mem_cons_of_mem _ hy))
        fun y hy => h2 y (List.mem_cons_of_mem _ hy)

/-- What a placement leaves of the machine's tables. -/
theorem placeTask_leaves (s : State) (id : Nat) {t : Task} (h : t.saved = []) (cores : List Nat) :
    (placeTask s id t cores).dies = s.dies ∧ (placeTask s id t cores).task? id = some { t with st := .running } ∧
      ∃ g, (placeTask s id t cores).gang? id = some g ∧ g.cores = cores := by
  have hplace : ∀ s0 : State, Rehosted s0 (cores.zipIdx.foldl (fun s p => placeCore s t id p.2 p.1) s0) :=
    foldl_rehosted fun s p _ => placeCore_rehosted s h id p.2 p.1
  let g : Gang := { task := id, cores := cores, part := t.part, cls := t.cls, nv := t.nv, nh := t.nh, np := t.np, array := t.start.array
                    bars := match s.gang? id with | some g => g.bars | none => [], placed := s.placements }
  obtain ⟨hs, cs, heq⟩ := hplace { s.setGang id g with placements := s.placements + 1 }
  have hall : placeTask s id t cores =
      ({ s.setGang id g with placements := s.placements + 1, harts := hs, cores := cs } : State).setTask id
        { t with st := .running, saved := [] } := congrArg (fun u : State => u.setTask id { t with st := .running, saved := [] }) heq
  rw [hall]
  refine ⟨rfl, ?_, g, Table.find?_set_self _ _ _, rfl⟩
  refine (Table.find?_set_self _ _ _).trans (congrArg some ?_)
  rw [← h]

/-- A head that some cluster of the die has room for (R173): the first such cluster takes it. -/
theorem tryPlace_of_placeable {s : State} {die cls id cl : Nat} {t : Task} (hq : queueOf s die cls = [id])
    (ht : s.readTask id = some t) (hst : t.st = .ready) (hcl : cl / 8 = die) (hroom : t.cores ≤ (freeCores s t cl).length)
    (hfirst : ∀ c, c < cl → c / 8 = die → (freeCores s t c).length < t.cores) :
    tryPlace s die cls = some (placeTask (dequeue s die cls) id t ((freeCores s t cl).take t.cores)) := by
  have hfind : (((List.range 8).map (die * 8 + ·)).find? fun c => t.cores ≤ (freeCores s t c).length) = some cl := by
    rw [List.find?_eq_some_iff_append]
    refine ⟨by simpa using hroom, (List.range (cl % 8)).map (die * 8 + ·), ((List.range' (cl % 8 + 1) (7 - cl % 8)).map (die * 8 + ·)), ?_, ?_⟩
    · have hcl' : cl = die * 8 + cl % 8 := by omega
      have hsplit : List.range 8 = List.range (cl % 8) ++ cl % 8 :: List.range' (cl % 8 + 1) (7 - cl % 8) := by
        have hlt : cl % 8 < 8 := Nat.mod_lt _ (by decide)
        generalize cl % 8 = n at hlt
        interval_cases n <;> rfl
      rw [hsplit, List.map_append, List.map_cons, ← hcl']
    · intro c hc
      obtain ⟨n, hn, rfl⟩ := List.mem_map.1 hc
      have hlow := hfirst (die * 8 + n) (by have := List.mem_range.1 hn; omega) (by have := List.mem_range.1 hn; omega)
      simpa using hlow
  have hready : (t.st != .ready && t.st != .saved) = false := by rw [hst]; rfl
  simp only [tryPlace, hq, List.head?_cons, ht, hready, hfind]
  rfl

theorem placementPass_places {s : State} {die : Fin 4} {id cl : Nat} {t : Task} (h : placeable s die.val id cl t) :
    ∃ u g, exec (.placementPass die) s = .next u ∧ u.task? id = some { t with st := .running } ∧ u.gang? id = some g ∧
      g.cores = (freeCores s t cl).take t.cores := by
  obtain ⟨hf, ⟨cls, hcls, hq, hothers⟩, ht, hst, hsaved, -, -, hcl, hroom, hfirst⟩ := h
  have htry := tryPlace_of_placeable hq ht hst hcl hroom hfirst
  obtain ⟨w, x, hmem, hdeq, hx, -⟩ := dequeue_head hq
  set u := placeTask (dequeue s die.val cls) id t ((freeCores s t cl).take t.cores) with hu
  obtain ⟨hdies, htask, g, hgang, hcores⟩ := placeTask_leaves (dequeue s die.val cls) id hsaved ((freeCores s t cl).take t.cores)
  rw [← hu] at hdies htask hgang
  have hempty : queuesEmpty u die.val := fun c => by
    have hdie : u.dieAt die.val = x := by
      rw [State.dieAt, hdies, hdeq]
      exact State.dieAt_setDieAt_self w die.val x
    have hqueue : queueOf u die.val c = queueOf (setQueue s die.val cls []) die.val c := by
      rw [← hmem.queueOf, queueOf, hdie, hx, queueOf]
    rw [hqueue, queueOf_setQueue]
    split
    · rfl
    · next hne => exact hothers c hne
  refine ⟨u, g, congrArg Host.Outcome.next ?_, htask, hgang, hcores⟩
  rw [pass, if_neg (by rw [hf]; decide)]
  refine foldl_of_once (List.mem_range.2 hcls) List.nodup_range (fun c _ hc => passClass_of_empty (hothers c hc) _) ?_
    fun c _ => passClass_of_empty (hempty c) _
  have hfuel : [id].length + 8 = 8 + 1 := rfl
  rw [hq, hfuel, passClass, htry]
  exact passClass_of_empty (hempty cls) 8

/-! ### Pre-emption -/

/-- The two states agree, hart by hart; only how the table of the harts is written differs. -/
def Rewritten (s t : State) : Prop := ∃ hs, t = { s with harts := hs } ∧ ∀ k, t.hartAt k = s.hartAt k

theorem Rewritten.refl (s : State) : Rewritten s s := ⟨_, rfl, fun _ => rfl⟩

theorem Rewritten.trans {s t u : State} : Rewritten s t → Rewritten t u → Rewritten s u := by
  rintro ⟨_, rfl, h⟩ ⟨_, rfl, h'⟩
  exact ⟨_, rfl, fun k => (h' k).trans (h k)⟩

theorem foldl_rewritten {α : Type} {f : State → α → State} {l : List α} {s : State}
    (hf : ∀ t a, a ∈ l → Rewritten s t → Rewritten t (f t a)) : Rewritten s (l.foldl f s) :=
  List.foldlRecOn (motive := Rewritten s) l f (.refl s) fun t h a ha => h.trans (hf t a ha h)

/-- A hart that holds nothing back stops without a trace (R63, R114, R116). -/
theorem stopHart_rewritten {s : State} {k : Nat} (hs : (s.hartAt k).strip = []) (hu : (s.hartAt k).used = 0)
    (hst : (s.hartAt k).streams = []) (hr : s.mem.repl = []) : Rewritten s (stopHart s k) := by
  have hsame : ({ s.hartAt k with strip := [], used := 0 } : Hart) = s.hartAt k := by rw [← hs, ← hu]
  have hcommit : commitStrip s k = s.setHartAt k (s.hartAt k) := by
    simp only [commitStrip, hsame, hs, List.foldl_nil]
  have hharts : ∀ j, (s.setHartAt k (s.hartAt k)).hartAt j = s.hartAt j := fun j => by
    by_cases hj : j = k
    · rw [hj, State.hartAt_setHartAt_self]
    · rw [State.hartAt_setHartAt_of_ne _ _ hj]
  have howes : (s.setHartAt k (s.hartAt k)).owes k = false := by
    have hrepl : (s.setHartAt k (s.hartAt k)).mem.repl = [] := hr
    rw [State.owes, hrepl, List.any_nil]
  have hstop : stopHart s k = s.setHartAt k (s.hartAt k) := by
    rw [stopHart, hcommit, settleRepl, if_neg (by rw [howes]; decide), writeBackStreams_of_none (by rw [hharts, hst])]
  exact ⟨_, hstop, fun j => by rw [hstop, hharts]⟩

theorem stopCores_rewritten {s : State} {cores : List Nat} (h : noStrips s cores) (hr : s.mem.repl = []) :
    Rewritten s (cores.foldl (fun s c => (List.range 8).foldl (fun s n => stopHart s (c * 8 + n)) s) s) := by
  refine foldl_rewritten fun t c hc ht => foldl_rewritten fun u n hn hu => ?_
  obtain ⟨_, heq, hk⟩ := ht.trans hu
  obtain ⟨hs, hused, hst⟩ := h c hc n (List.mem_range.1 hn)
  refine stopHart_rewritten ?_ ?_ ?_ ?_
  · rw [hk, hs]
  · rw [hk, hused]
  · rw [hk, hst]
  · rw [heq]
    exact hr

theorem Rewritten.saveCore {s t : State} (h : Rewritten s t) (c : Nat) : Machine.saveCore t c = Machine.saveCore s c := by
  obtain ⟨_, heq, hk⟩ := h
  have hcore : t.coreAt c = s.coreAt c := by rw [heq]; rfl
  simp only [Machine.saveCore, liveSlots, hk, hcore]

theorem preemptGang_saves {s : State} {id : Nat} {g : Gang} {t : Task} (hg : s.gang? id = some g) (ht : s.task? id = some t)
    (hs : noStrips s g.cores) (hr : s.mem.repl = []) :
    released (preemptGang s id) g.cores ∧
      (preemptGang s id).task? id = some { t with st := .ready, saved := g.cores.map (saveCore s), stopAt := s.reftime } := by
  have hstop := stopCores_rewritten hs hr
  set s1 := g.cores.foldl (fun s c => (List.range 8).foldl (fun s n => stopHart s (c * 8 + n)) s) s with hs1
  have hsaved : g.cores.map (saveCore s1) = g.cores.map (saveCore s) := List.map_congr_left fun c _ => hstop.saveCore c
  obtain ⟨_, heq1, -⟩ := hstop
  have hfree := foldl_released freeCore_freed (fun _ c _ => freeCore_keeps_freed c) g.cores s1
  obtain ⟨_, _, heq2⟩ := foldl_rehosted (fun s c _ => freeCore_rehosted s c) (l := g.cores) s1
  set s2 := g.cores.foldl freeCore s1 with hs2
  have htime : s2.reftime = s.reftime := by rw [heq2, heq1]; rfl
  let t' : Task := { t with st := .ready, saved := g.cores.map (saveCore s), stopAt := s.reftime }
  let s3 := (s2.setGang id { g with cores := [] }).setTask id t'
  have hpre : preemptGang s id = enqueue s3 t.die t.cls id true := by
    simp only [preemptGang, hg, ht, ← hs1, ← hs2, hsaved]
    rw [show (s2.setGang id { g with cores := [] }).reftime = s.reftime from htime]
  obtain ⟨q, _, _, _, heq⟩ := enqueue_memOnly s3 t.die t.cls id true
  rw [hpre]
  exact ⟨released_congr (by rw [heq]; rfl) (by rw [heq]; rfl) hfree, (by rw [heq]; exact Table.find?_set_self s2.tasks id t')⟩

/-! ### The killing of a gang -/

theorem killGang_kills {s : State} {id : Nat} {g : Gang} {t : Task} (reason : KillReason) (hg : s.gang? id = some g)
    (ht : s.task? id = some t) (hfut : t.future = 0) (hq : queuesEmpty s t.die) (hn : noRings s t.part) :
    released (killGang s id reason none) g.cores ∧ (killGang s id reason none).gang? id = none ∧
      (killGang s id reason none).task? id = some { t with st := .killed, saved := [] } := by
  have hq1 : queuesEmpty (breakBars s id g t).drainRepl t.die := by
    refine queuesEmpty_congr ?_ hq
    unfold breakBars
    exact queues_setDieAt (by exact rfl) _
  have hfree := foldl_released (f := fun s c => freeCore (failTracks s c) c) (fun s c => freeCore_freed _ c)
    (fun s c d h => freeCore_keeps_freed c (failTracks_keeps_freed c h)) g.cores (breakBars s id g t).drainRepl
  obtain ⟨_, _, heq⟩ := foldl_rehosted (f := fun s c => freeCore (failTracks s c) c) (l := g.cores)
    (fun s c _ => (failTracks_rehosted s c).trans (freeCore_rehosted _ c)) (breakBars s id g t).drainRepl
  set s1 := g.cores.foldl (fun s c => freeCore (failTracks s c) c) (breakBars s id g t).drainRepl with hs1
  have hq2 : queuesEmpty s1 t.die := queuesEmpty_congr (by rw [heq]; rfl) hq1
  let s2 : State := ({ s1 with gangs := Table.erase s1.gangs id }).setTask id { t with st := .killed, saved := [] }
  have hn2 : noRings s2 t.part := by
    have hpart : s1.partAt t.part = s.partAt t.part := (congrArg (fun u : State => u.partAt t.part) heq).trans rfl
    have hn1 : noRings s1 t.part := by rwa [noRings, hpart]
    exact hn1
  have hq3 : queuesEmpty s2 t.die := queuesEmpty_congr rfl hq2
  have hkill : killGang s id reason none = s2 := by
    unfold killGang
    rw [hg, ht]
    dsimp only
    rw [← hs1, unqueue_of_empty (hq2 t.cls), if_pos hfut]
    exact (congrArg (fun u => pass u t.die) (send_of_noRings (s := s2) hn2 _ true)).trans (pass_of_queuesEmpty hq3)
  rw [hkill]
  exact ⟨released_congr rfl rfl hfree, (Table.find?_erase _ _ _).trans (if_pos rfl), Table.find?_set_self _ _ _⟩

/-! ### A die that is fenced, lanes and array groups that retire -/

/-- The machine once a die is fenced that runs nothing (R37, R219). -/
def fencedDie (s : State) (die : Nat) : State :=
  let t := s.setDieAt die { s.dieAt die with fenced := true }
  { t with mem := { t.mem with repl := t.mem.repl.filter (·.die != die) } }

/-- The rest of a fence: the tasks of the die move, and every die has a placement pass (R219). -/
def tasksMoved (t : State) (die : Nat) : State :=
  (List.range 4).foldl pass ((movingTasks t die).foldl (fun s id => moveTask s die id) t)

theorem dieFence_without_gangs {s : State} {die : Fin 4} (hr : s.stew.replay = false) (hg : s.gangs = []) :
    exec (.dieFence die) s = .next (tasksMoved (fencedDie s die.val) die.val) := by
  have hon : (List.filter (fun (p : Nat × Gang) => p.2.cores.any (dieOf · == die.val))
      (s.setDieAt die.val { s.dieAt die.val with fenced := true }).gangs).map (·.1) = [] := by
    have hgangs : (s.setDieAt die.val { s.dieAt die.val with fenced := true }).gangs = [] := hg
    rw [hgangs]
    rfl
  rw [exec, execDieFence, if_neg (by rw [hr]; decide)]
  dsimp only
  rw [hon]
  rfl

theorem fencedDie_dieAt (s : State) (die d : Nat) :
    (fencedDie s die).dieAt d = (s.setDieAt die { s.dieAt die with fenced := true }).dieAt d := rfl

theorem dieFence_empty {s : State} {die : Fin 4} (hr : s.stew.replay = false) (hq : ∀ d, d < 4 → queuesEmpty s d) (hg : s.gangs = [])
    (ht : s.tasks = []) : exec (.dieFence die) s = .next (fencedDie s die.val) := by
  have hqueues : ∀ d, d < 4 → queuesEmpty (fencedDie s die.val) d := fun d hd => by
    refine queuesEmpty_congr ?_ (hq d hd)
    rw [fencedDie_dieAt]
    exact queues_setDieAt (x := { s.dieAt die.val with fenced := true }) rfl d
  have hmoving : movingTasks (fencedDie s die.val) die.val = [] := by
    have hqs : (List.range 4).flatMap (queueOf (fencedDie s die.val) die.val) = [] :=
      List.flatMap_eq_nil_iff.2 fun c _ => hqueues die.val die.isLt c
    have htasks : (fencedDie s die.val).tasks = [] := ht
    simp only [movingTasks, hqs, htasks]
    rfl
  have hpass : (List.range 4).foldl pass (fencedDie s die.val) = fencedDie s die.val :=
    foldl_of_fixed fun d hd => pass_of_queuesEmpty (hqueues d (List.mem_range.1 hd))
  rw [dieFence_without_gangs hr hg, tasksMoved, hmoving, List.foldl_nil, hpass]

theorem clearCore_of_none {s : State} {core : Nat} (h : (s.coreAt core).gang = none) : clearCore s core = s := by
  rw [clearCore, h]

theorem laneGroupRetire_marks {s : State} {core : Nat} {group : Fin 8} (hr : s.stew.replay = false) (hg : (s.coreAt core).gang = none)
    (hq : queuesEmpty s (dieOf core)) : exec (.laneGroupRetire core group) s =
      .next (s.setCoreAt core { s.coreAt core with lanesFailed := (s.coreAt core).lanesFailed ||| 2 ^ group.val }) := by
  simp only [exec, execLaneGroupRetire, hr, Bool.false_eq_true, if_false, clearCore_of_none hg]
  exact congrArg Host.Outcome.next (pass_of_queuesEmpty (queuesEmpty_congr rfl hq))

theorem arrayRowGroupRetirement_marks {s : State} {core : Nat} {part : Fin 4} (col : Bool) (hr : s.stew.replay = false)
    (hg : (s.coreAt core).gang = none) (hq : queuesEmpty s (dieOf core)) : exec (.arrayRowGroupRetirement core col part) s =
      .next (s.setCoreAt core (if col then { s.coreAt core with colsFailed := (s.coreAt core).colsFailed ||| 2 ^ part.val }
        else { s.coreAt core with rowsFailed := (s.coreAt core).rowsFailed ||| 2 ^ part.val })) := by
  simp only [exec, execArrayRowGroupRetirement, hr, Bool.false_eq_true, if_false, clearCore_of_none hg, ite_self]
  refine congrArg Host.Outcome.next (ite_eq_right_iff.2 fun _ => ?_)
  exact pass_of_queuesEmpty (queuesEmpty_congr rfl hq)

/-! ### Debug -/

theorem haltHart_eq {s : State} {k : Nat} (h : (s.hartAt k).slot ≠ .empty) : haltHart s k = hartSet s k (haltedHart (s.hartAt k)) :=
  if_neg h

theorem resumeHart_eq {s : State} {k : Nat} (hs : (s.hartAt k).slot = .stopped) (hw : (s.hartAt k).wait = .held)
    (hk : (s.hartAt k).kind ≠ .helper) (insns elems : Option Nat) : resumeHart s k insns elems =
      hartSet s k { wakes s (s.hartAt k) with halted := false, stepsLeft := insns, stepElems := elems } := by
  have hgo : (s.hartAt k).goOn = goesOn (s.hartAt k) := by
    rw [Hart.goOn, if_neg (by simp [hk]), run_eq_goesOn]
  have hstands : (s.hartAt k).stands = true := by simp [Hart.stands, hs, hw]
  rw [resumeHart, if_pos hstands, hgo]
  rfl

theorem debugEvent_unlocked {s : State} (h : s.stew.unlocked = true) (f : State) : debugEvent s f = .next f :=
  congrArg Host.Outcome.next (if_pos h)

theorem traceSample_without_slots {s : State} {core : Nat} (h0 : dbgReg s core 0 / 2 ^ 24 % 2 ^ 24 ≠ 0)
    (hdue : (s.coreAt core).sampled + dbgReg s core 0 / 2 ^ 24 % 2 ^ 24 ≤ s.reftime)
    (hslots : ∀ n, n < 8 → (dbgReg s core 0).testBit (16 + n) = false) :
    exec (.traceSample core) s = .next (s.setCoreAt core { s.coreAt core with sampled := s.reftime }) := by
  have hno : (List.range 8).filter (fun n => (dbgReg s core 0).testBit (16 + n)) = [] :=
    List.filter_eq_nil_iff.2 fun n hn => by rw [hslots n (List.mem_range.1 hn)]; decide
  have hwait : ¬ (bits (dbgReg s core 0) 47 24 = 0 ∨ s.reftime < (s.coreAt core).sampled + bits (dbgReg s core 0) 47 24) := by
    simp only [bits]
    omega
  simp only [exec, execTraceSample, if_neg hwait, hno, List.foldl_nil]

/-! ### The obligation -/

/-- Settles O12: the events of harts by the lemmas of O55, those of scheduling by their own. -/
theorem hartAndSchedulingEventsComplete : Obligations.HartAndSchedulingEventsComplete := by
  refine ⟨fun s s1 p va acc hr hx h => by rw [tableWalk_walks hr hx, h], fun s r part bytes => accessPerform_writes_dev,
    fun s k el q x e rest hv hi hm hl => ?_, fun s die u hu => ?_, fun _ _ _ => rfl, fun s block status hs ha hb => ?_,
    fun s d a b e x hv hop hst hr hi ht hb hw => ?_, fun s k hk hs hw _ hn hf hd => ?_, fun s k d hs hw hd => ?_,
    fun s k id x t ht hle => ⟨?_, ?_⟩, fun s die id cl t => placementPass_places, fun s id g t hg ht h0 _ hs hr => ?_,
    fun s die cls id since hcls hh ht => ?_, fun s id reason g t hg ht hf hq hn _ => ?_, fun s die hr hq hg ht => ?_,
    fun s core group part hr hg hq => ⟨?_, ?_⟩, fun s k n hu he => ⟨?_, fun hs hw hk h1 h2 => ?_⟩, fun s k i ha hb => ?_,
    fun s core h0 hdue hslots => ?_⟩
  · rw [targetFaultReport_eq hv hi, hm, hl, if_pos ⟨rfl, rfl⟩]
  · exact replCopyUpdate_eq (by rwa [← List.head?_eq_getElem?]) fun v hv => absurd hv List.not_mem_nil
  · exact ⟨_, congrArg Host.Outcome.next (cplDone_status _ hs ha hb), numAt_of_putAt_leBytes (putAt_spad ..) status.isLt⟩
  · obtain ⟨hhart, -⟩ := collFailed_shows s x
    exact ⟨_, collTimeout_late hv hop hb hst hr hi ht hw, by rw [hhart, leftQueue, hv]; rfl⟩
  · obtain ⟨e, hn⟩ := Option.isSome_iff_exists.1 hn
    have hhart : (entryTaken s k e).hartAt k = _ := State.hartAt_setHartAt_self ..
    exact ⟨_, hqTakeDispatch_takes hk hs hw hn hf hd, by rw [hhart]⟩
  · rw [idleWake_eq hs hw, if_pos hd]
  · exact ⟨_, rfl, by rw [stopTimeout_task?, ht]; exact congrArg some (if_pos hle)⟩
  · exact ⟨_, rfl, by rw [stopTimeout_task?, ht]; exact congrArg some (if_pos hle)⟩
  · obtain ⟨hfree, htask⟩ := preemptGang_saves hg ht hs hr
    exact ⟨_, by simp only [exec, execPreempt, hg, ht, if_neg h0], hfree, htask⟩
  · refine congrArg Host.Outcome.next (if_pos ⟨fun h => ?_, ?_⟩)
    · rcases hcls with hcls | hcls <;> rw [h] at hcls <;> exact absurd hcls (by decide)
    · have hany : (Table.find? (s.dieAt die.val).heads cls.val).any (fun w => decide (w.2 + exitWait ≤ s.reftime)) = true := by
        rw [hh, Option.any_some, decide_eq_true_eq]
        exact ht
      rcases hcls with hcls | hcls <;>
        · rw [hcls] at hany
          simp [mayPreempt, hany, hcls]
  · obtain ⟨hfree, hgang, htask⟩ := killGang_kills reason hg ht hf hq hn
    exact ⟨_, rfl, hfree, hgang, htask⟩
  · exact ⟨_, dieFence_empty hr hq hg ht, State.dieAt_setDieAt_self s _ _⟩
  · exact ⟨_, laneGroupRetire_marks hr hg hq, State.coreAt_setCoreAt_self ..⟩
  · exact ⟨_, arrayRowGroupRetirement_marks false hr hg hq, State.coreAt_setCoreAt_self ..⟩
  · exact (debugEvent_unlocked hu _).trans (congrArg Host.Outcome.next (haltHart_eq he))
  · have hcount : ¬ (n = 0 ∨ 65535 < n) := by omega
    refine ⟨(debugEvent_unlocked hu _).trans ?_, (debugEvent_unlocked hu _).trans ?_, (debugEvent_unlocked hu _).trans ?_⟩
    · rw [resumeHart_eq hs hw hk]
    · rw [if_neg hcount, resumeHart_eq hs hw hk]
    · rw [if_neg hcount, resumeHart_eq hs hw hk]
  · have hslot : (s.hartAt k).slot ≠ .empty := fun h => by simp [Hart.acts, h] at ha
    exact congrArg Host.Outcome.next ((if_pos (by rw [ha, hb]; rfl)).trans (haltHart_eq hslot))
  · exact ⟨_, traceSample_without_slots h0 hdue hslots, by rw [State.coreAt_setCoreAt_self]⟩

end Sys2Proof.Machine.Claim
end

section
/-! ## Requests through the window (O59) -/

namespace Sys2Proof.Machine.Claim
open Sys2Proof.Machine
set_option Elab.async false

/-! ### Plain reads of device memory -/

theorem readBytes_append (m : Memory) (a n k : Nat) :
    Memory.readBytes m a (n + k) = Memory.readBytes m a n ++ Memory.readBytes m (a + n) k := by
  induction n generalizing a with
  | zero => simp [Memory.readBytes]
  | succ n ih => rw [Nat.succ_add, Memory.readBytes, ih, Memory.readBytes, List.cons_append, Nat.add_right_comm, Nat.add_assoc]

theorem readWord_of_plain {s : State} {part a n va : Nat} (hs : plainSector s.mem (a / 512)) (hb : Table.find? s.mem.bad (a / 64) = none) :
    readWord s part false a n va = .ok (Memory.readBytes s.mem.dev a n) := by
  rcases hs with hs | hs <;> simp [readWord, hb, hs]

theorem readWords_of_plain {s : State} {part va sector y : Nat} {l : List (Nat × Nat)} {x : Nat} (hl : Tiles x y l) (hlo : sector * 512 ≤ x)
    (hhi : y ≤ sector * 512 + 512) (hs : plainSector s.mem sector) (hb : ∀ a, x ≤ a → a < y → Table.find? s.mem.bad (a / 64) = none) :
    readWords s part false va l = .ok (Memory.readBytes s.mem.dev x (y - x)) := by
  induction l generalizing x with
  | nil =>
    have hxy : x = y := hl
    rw [hxy, Nat.sub_self]
    rfl
  | cons p l ih =>
    have hin := hl.mem List.mem_cons_self
    obtain ⟨hp, hpos, hrest⟩ := hl
    obtain ⟨p1, n⟩ := p
    dsimp only at hp hpos hrest hin
    subst hp
    have hsec : p1 / 512 = sector := by omega
    have hsplit : y - p1 = n + (y - (p1 + n)) := by omega
    simp only [readWords, readWord_of_plain (n := n) (part := part) (va := va) (hsec ▸ hs) (hb p1 (Nat.le_refl p1) (by omega)),
      ih hrest (by omega) fun a h1 h2 => hb a (by omega) h2]
    rw [hsplit, readBytes_append]

/-- A read within one plain sector whose codewords are all readable (R220). -/
theorem devRead_of_plainRange {s : State} {part a n va : Nat} (h : plainRange s a n)
    (hb : ∀ i, i < n → Table.find? s.mem.bad ((a + i) / 64) = none) :
    devRead s part false a n va = .ok ((List.range n).map fun i => byteAt s (.dev (a + i))) := by
  obtain ⟨hfit, -, hsec⟩ := h
  have hread := readWords_of_plain (s := s) (part := part) (va := va) (sector := a / 512) (tiles_pieces_64 a n) (by omega) (by omega) hsec
    fun b h1 h2 => by
      have hbad := hb (b - a) (by omega)
      rwa [show a + (b - a) = b by omega] at hbad
  rw [devRead, hread, Nat.add_sub_cancel_left, readBytes_eq_map]
  rfl

/-! ### A function's registers -/

theorem table_set_set {α : Type} (m : Table α) (i : Nat) (v w : α) : Table.set (Table.set m i v) i w = Table.set m i w := by
  induction m with
  | nil => simp [Table.set]
  | cons c rest ih =>
    simp only [Table.set]
    split_ifs with h1 h2
    · simp [Table.set]
    · simp [Table.set]
    · simp [Table.set, h1, h2, ih]

theorem setPartAt_setPartAt (s : State) (p : Nat) (x y : Partition) : (s.setPartAt p x).setPartAt p y = s.setPartAt p y :=
  congrArg (fun l => { s with parts := l }) (table_set_set s.parts p x y)

theorem arrives_of_quiet {s : State} (h : s.stew.recording = false) (a : Arrived) : s.arrives a = s := by
  rw [State.arrives, if_neg (by rw [h]; decide)]

theorem answerHost_setPartAt (s : State) (fn : Nat) (b : Option (List Byte)) (x : Partition) :
    answerHost fn (b, s.setPartAt fn x) = s.setPartAt fn { x with lastRead := b } := by
  rw [answerHost, State.partAt_setPartAt_self, setPartAt_setPartAt]

/-! ### Where a request goes -/

/-- A request within one granule is one piece (R94). -/
theorem pieces_4096_of_fit {off n : Nat} (h0 : 0 < n) (h : off % 4096 + n ≤ 4096) : pieces 4096 off n = [(off, n)] := by
  have hone : (off % 4096 + n + 4096 - 1) / 4096 = 1 := by omega
  rw [pieces, if_neg (by omega), hone]
  simp only [List.range_one, List.map_cons, List.map_nil, List.cons.injEq, and_true, Prod.mk.injEq]
  omega

/-- A request of n bytes at an offset of the window that reaches a plain range of device memory. -/
structure Reaches (s : State) (fn off n d : Nat) (l : Leaf) : Prop where
  window : off + n ≤ 2 ^ 36
  space : (s.partAt fn).winbase + off + n ≤ 2 ^ 52
  nonempty : 0 < n
  granule : off % 4096 + n ≤ 4096
  walk : walk2 s fn ((s.partAt fn).winbase + off) ((s.partAt fn).winbase + off) = .ok (l, d)
  kind : l.kind = 0
  range : plainRange s d n
  first : devStop s fn false d ((s.partAt fn).winbase + off) = none
  last : devStop s fn false (d + n - 1) ((s.partAt fn).winbase + off) = none

theorem windowPlace_of_reaches {s : State} {fn off n d : Nat} {l : Leaf} {acc : Access} (h : Reaches s fn off n d l)
    (hl : l.lets acc = true) : windowPlace s fn off n acc = .ok d := by
  have hend : ¬ Config.devEnd < d + n := by
    obtain ⟨-, hend, -⟩ := h.range
    omega
  simp only [windowPlace, h.walk, h.kind, h.first, h.last, hl, hend]
  exact if_neg (by simpa using ⟨h.window, h.space⟩)

theorem windowPlace_outside {s : State} {fn off n : Nat} (acc : Access) (h : 2 ^ 36 < off + n ∨ 2 ^ 52 < (s.partAt fn).winbase + off + n) :
    windowPlace s fn off n acc = .error (memTrap .access 2 ((s.partAt fn).winbase + off)) :=
  if_pos (by simpa using h)

/-- What a request that its plinth answers returns. -/
def windowAnswer (r : Except Stop (List Byte × State)) (s : State) : Option (List Byte) × State :=
  match r with
  | .ok (b, s) => (some b, s)
  | .error st => (none, plinthStopped s st)

theorem windowDo_of_ok {s : State} {fn off n d : Nat} {acc : Access} (hm : mapsAgree s) (h : windowPlace s fn off n acc = .ok d)
    (run : State → Nat → Except Stop (List Byte × State)) :
    windowDo s fn off n acc run = windowAnswer (run s d) s := by
  simp only [windowDo, reachTables2_idle hm.1 hm.2, h, reach_idle hm.1 hm.2]
  rfl

/-- A request that may not be performed: its function's error is logged and a health message goes out (R416, R417). -/
theorem windowDo_refused {s : State} {fn off n : Nat} {acc : Access} {x : TrapInfo} (hm : mapsAgree s)
    (h : windowPlace s fn off n acc = .error (.trap x)) (hx : x.media = none) (hc : x.cause ≠ .ue)
    (run : State → Nat → Except Stop (List Byte × State)) :
    windowDo s fn off n acc run = (none, send (s.setPartAt fn { s.partAt fn with aer := true }) fn
      (message 5 (leBytes 8 ((s.partAt fn).winbase + off))) false) := by
  simp only [windowDo, reachTables2_idle hm.1 hm.2, h, windowRefused, seeError_of_no_media hx hc]

/-! ### Writes, reads and AtomicOps -/

theorem hostWrite_single {s : State} {fn off : Nat} {data : List Byte} (h0 : 0 < data.length) (h : off % 4096 + data.length ≤ 4096) :
    hostWrite s fn off data = hostPut s fn off data := by
  simp [hostWrite, pieces_4096_of_fit h0 h]

theorem hostWrite_of_reaches {s : State} {fn off d : Nat} {data : List Byte} {l : Leaf} (hm : mapsAgree s) (hu : unreplicated s)
    (h : Reaches s fn off data.length d l) (hw : l.w = true) :
    ∃ t, hostWrite s fn off data = t ∧ devWrote s t d data := by
  have hlets : l.lets .store = true := by simp [Leaf.lets, hw]
  obtain ⟨t, ht, hd⟩ := inboundWrite_of_plainRange (who := storerOf (hostMaster fn)) (part := fn) hu h.range
  refine ⟨t, ?_, hd⟩
  rw [hostWrite_single h.nonempty h.granule, hostPut, windowDo_of_ok hm (windowPlace_of_reaches h hlets), ht]
  rfl

/-- The bytes at an address. -/
def bytesAt (s : State) (d n : Nat) : List Byte := (List.range n).map fun i => byteAt s (.dev (d + i))

theorem hostRead_single (s : State) (fn off n : Nat) : hostRead fn [(off, n)] s = hostGet s fn off n := by
  simp only [hostRead]
  obtain ⟨b, t⟩ := hostGet s fn off n
  cases b <;> simp

theorem hostRead_of_reaches {s : State} {fn off n d : Nat} {l : Leaf} (hm : mapsAgree s) (h : Reaches s fn off n d l) (hr : l.r = true)
    (hb : ∀ i, i < n → Table.find? s.mem.bad ((d + i) / 64) = none) :
    hostRead fn (pieces 4096 off n) s = (some (bytesAt s d n), s) := by
  have hlets : l.lets .load = true := by simp [Leaf.lets, hr]
  rw [pieces_4096_of_fit h.nonempty h.granule, hostRead_single, hostGet, windowDo_of_ok hm (windowPlace_of_reaches h hlets),
    devRead_of_plainRange h.range hb]
  rfl

/-- The value that an AtomicOp leaves (R414). -/
def atomicResult (q : AmoReq) (old : Nat) : Nat :=
  if q.fn = .swap then q.y else if q.fn = .add then old + q.y else if old = q.cmp then q.y else old

theorem intBin_add_unsigned {t : Ty} (h : t = .n32 ∨ t = .n64) (a b : Nat) : intBin .add t a b = (a + b) % 2 ^ t.width := by
  rcases h with rfl | rfl <;> simp [intBin, intVal, wrapT, wrapNat, Ty.isSigned, Ty.code, Ty.width] <;> omega

end Sys2Proof.Machine.Claim
end

section
/-! ## AtomicOps of the host, and the requests of a function (O59) -/

namespace Sys2Proof.Machine.Claim
open Sys2Proof.Machine
set_option Elab.async false

/-! ### AtomicOps (R414) -/

theorem putAt_of_devWrote {s t : State} {a : Nat} {bytes : List Byte} (h : devWrote s t a bytes) : putAt s t (.dev a) bytes := by
  obtain ⟨hin, hout, -⟩ := h
  refine ⟨hin, fun x hx hno => hout x hx fun r hr => ?_⟩
  rw [List.mem_singleton.1 hr]
  exact hno

theorem devWrote_systemSame {s t : State} {a : Nat} {bytes : List Byte} (h : devWrote s t a bytes) : systemSame s t := by
  obtain ⟨-, -, ht⟩ := h
  rw [ht]
  exact ⟨rfl, rfl, rfl, rfl, rfl, rfl, fun _ => rfl⟩

/-- What an AtomicOp of the host leaves: the value at its location, and the rest as it was. -/
structure Updated (s t : State) (d n v : Nat) : Prop where
  outside : memOutside s t [(.dev d, n)]
  same : systemSame s t
  value : numAt t (.dev d) n = v % 2 ^ (8 * n)

theorem pow_256 (n : Nat) : 256 ^ n = 2 ^ (8 * n) := (pow_mul 2 8 n).symm

theorem updated_of_devWrote {s t : State} {d n v : Nat} (h : devWrote s t d (leBytes n v)) : Updated s t d n v := by
  have hput := putAt_of_devWrote h
  have hout := memOutside_of_putAt hput
  have hnum := numAt_of_putAt hput
  rw [length_leBytes] at hout hnum
  rw [leNat_leBytes, pow_256] at hnum
  exact ⟨hout, devWrote_systemSame h, hnum⟩

theorem Updated.congr {s t : State} {d n v w : Nat} (h : Updated s t d n v) (hv : v % 2 ^ (8 * n) = w % 2 ^ (8 * n)) : Updated s t d n w :=
  ⟨h.outside, h.same, h.value.trans hv⟩

theorem leNat_bytesAt (s : State) (d n : Nat) : leNat (bytesAt s d n) = numAt s (.dev d) n := rfl

theorem length_bytesAt (s : State) (d n : Nat) : (bytesAt s d n).length = n := by simp [bytesAt]

theorem updated_refl (s : State) (d n : Nat) : Updated s s d n (numAt s (.dev d) n) := by
  refine ⟨fun _ _ _ => rfl, ⟨rfl, rfl, rfl, rfl, rfl, rfl, fun _ => rfl⟩, (Nat.mod_eq_of_lt ?_).symm⟩
  have hlt := leNat_lt (bytesAt s d n)
  rwa [length_bytesAt, pow_256] at hlt

/-- FetchAdd wraps at the width of the operation. -/
theorem amoAdd_mod {n : Nat} {t : Ty} (hn : n = 4 ∨ n = 8) (ht : t = if n = 4 then .n32 else .n64) (old y : Nat) :
    amoVal .add t old y % 2 ^ (8 * n) = (old + y) % 2 ^ (8 * n) := by
  rcases hn with rfl | rfl
  · have h32 : t = .n32 := ht
    subst h32
    exact (congrArg (· % 2 ^ (8 * 4)) (intBin_add_unsigned (.inl rfl) old y)).trans (Nat.mod_mod _ _)
  · have h64 : t = .n64 := ht
    subst h64
    exact (congrArg (· % 2 ^ (8 * 8)) (intBin_add_unsigned (.inr rfl) old y)).trans (Nat.mod_mod _ _)

/-- What an AtomicOp that the endpoint completes does at its target. -/
theorem serve_atomic {s : State} {m d n : Nat} {q : AmoReq} {read : Nat → Except Stop (List Byte)} {write : List Byte → Except Stop State}
    (hc : completes q.fn n = true) (hd : d % n = 0) (hread : read n = .ok (bytesAt s d n))
    (hwrite : ∀ v, ∃ t, write (leBytes n v) = .ok t ∧ devWrote s t d (leBytes n v)) (hty : q.ty = if n = 4 then .n32 else .n64) :
    ∃ t, serve s { master := m, addr := d, write := none, len := n, amo := some q } read write = .ok (bytesAt s d n, t) ∧
      Updated s t d n (atomicResult q (numAt s (.dev d) n)) := by
  obtain ⟨fn, ty, cmp, y⟩ := q
  dsimp only at hc hty
  simp only [serve, aligned_eq_ok.2 hd, hread, leNat_bytesAt]
  cases fn with
  | swap =>
    obtain ⟨t, ht, hw⟩ := hwrite y
    exact ⟨t, by simp only [amoVal, ht]; rfl, updated_of_devWrote hw⟩
  | add =>
    have hn : n = 4 ∨ n = 8 := by simpa [completes] using hc
    obtain ⟨t, ht, hw⟩ := hwrite (amoVal .add ty (numAt s (.dev d) n) y)
    exact ⟨t, by simp only [ht]; rfl, (updated_of_devWrote hw).congr (amoAdd_mod hn hty _ _)⟩
  | cas =>
    by_cases he : numAt s (.dev d) n = cmp
    · obtain ⟨t, ht, hw⟩ := hwrite y
      exact ⟨t, by simp only [if_pos he, ht]; rfl, by simpa [atomicResult, he] using updated_of_devWrote hw⟩
    · exact ⟨s, if_neg he, by simpa [atomicResult, he] using updated_refl s d n⟩
  | _ => cases hc

theorem hostAtomic_of_reaches {s : State} {fn off n d : Nat} {l : Leaf} {q : AmoReq} (hm : mapsAgree s) (hu : unreplicated s)
    (hc : completes q.fn n = true) (ho : off % n = 0) (hd : d % n = 0) (h : Reaches s fn off n d l) (hr : l.r = true) (hw : l.w = true)
    (hb : ∀ i, i < n → Table.find? s.mem.bad ((d + i) / 64) = none) (hty : q.ty = if n = 4 then .n32 else .n64) :
    ∃ t, hostAtomic s fn off q n = t.setPartAt fn { t.partAt fn with lastRead := some (bytesAt s d n) } ∧
      Updated s t d n (atomicResult q (numAt s (.dev d) n)) := by
  have hlets : l.lets .atomic = true := by simp [Leaf.lets, hr, hw]
  have hwrite : ∀ v, ∃ t, inboundWrite s (storerOf (hostMaster fn)) fn d (leBytes n v) = .ok t ∧ devWrote s t d (leBytes n v) := fun v =>
    inboundWrite_of_plainRange hu (by rw [length_leBytes]; exact h.range)
  obtain ⟨t, ht, hup⟩ := serve_atomic (m := hostMaster fn) hc hd
    (read := fun n => devRead s fn false d n ((s.partAt fn).winbase + off)) (devRead_of_plainRange h.range hb) hwrite hty
  refine ⟨t, ?_, hup⟩
  rw [hostAtomic, if_pos (by simp [hc, ho]), windowDo_of_ok hm (windowPlace_of_reaches h hlets), ht]
  rfl

/-- The registers of a function do not show in memory. -/
theorem Updated.setPartAt {s t : State} {d n v : Nat} (h : Updated s t d n v) (fn : Nat) (x : Partition) :
    Updated s (t.setPartAt fn x) d n v := by
  refine ⟨fun y hy ho => Eq.trans ?_ (h.outside y hy ho), h.same, h.value⟩
  cases y with
  | regs => cases hy
  | _ => rfl

/-- An Unsupported Request (R414). -/
theorem hostAtomic_unsupported {s : State} {fn off n : Nat} {q : AmoReq} (h : completes q.fn n = false ∨ off % n ≠ 0) :
    hostAtomic s fn off q n = s.setPartAt fn { s.partAt fn with aer := true, lastRead := none } := by
  have hno : (completes q.fn n && off % n == 0) = false := by
    rcases h with h | h <;> simp [h]
  rw [hostAtomic, if_neg (by rw [hno]; decide), answerHost_setPartAt]

/-! ### Requests that may not be performed -/

theorem hostWrite_refused {s : State} {fn off : Nat} {data : List Byte} {x : TrapInfo} (hm : mapsAgree s) (h0 : 0 < data.length)
    (hg : off % 4096 + data.length ≤ 4096) (h : windowPlace s fn off data.length .store = .error (.trap x)) (hx : x.media = none)
    (hc : x.cause ≠ .ue) : hostWrite s fn off data = send (s.setPartAt fn { s.partAt fn with aer := true }) fn
      (message 5 (leBytes 8 ((s.partAt fn).winbase + off))) false := by
  rw [hostWrite_single h0 hg, hostPut, windowDo_refused hm h hx hc]

theorem noRings_erred {s : State} {fn : Nat} (h : noRings s fn) : noRings (s.setPartAt fn { s.partAt fn with aer := true }) fn := by
  rw [noRings, State.partAt_setPartAt_self]
  exact h

theorem ringReady_erred {s : State} {fn : Nat} (h : ringReady s fn) : ringReady (s.setPartAt fn { s.partAt fn with aer := true }) fn := by
  rw [ringReady, State.partAt_setPartAt_self]
  exact h

theorem hostRead_refused {s : State} {fn off n : Nat} {x : TrapInfo} (hm : mapsAgree s) (h0 : 0 < n) (hg : off % 4096 + n ≤ 4096)
    (h : windowPlace s fn off n .load = .error (.trap x)) (hx : x.media = none) (hc : x.cause ≠ .ue) (hn : noRings s fn) :
    hostRead fn (pieces 4096 off n) s = (none, s.setPartAt fn { s.partAt fn with aer := true }) := by
  rw [pieces_4096_of_fit h0 hg, hostRead_single, hostGet, windowDo_refused hm h hx hc, send_of_noRings (noRings_erred hn)]

theorem putHost_systemSame (s : State) (part : Nat) (msg : List Byte) : systemSame s (putHost s part msg) :=
  ⟨rfl, rfl, rfl, rfl, rfl, rfl, fun _ => rfl⟩

theorem told_notice {s : State} {fn : Nat} {pa : Nat} (h : ringReady s fn) (hpa : pa < 2 ^ 64) :
    told s (send s fn (message 5 (leBytes 8 pa)) false) fn 5 [(0, 8, pa)] := by
  rw [send_of_ringReady h]
  refine told_putHost (by decide) (by rw [length_leBytes]; decide) fun f hf => ?_
  rw [List.mem_singleton.1 hf]
  refine ⟨by simp, ?_⟩
  have hfield := field_head 8 pa []
  rw [List.append_nil] at hfield
  rw [hfield, Nat.mod_eq_of_lt (by omega)]

/-! ### The events of the window -/

theorem hostInboundWrite_bytes {s : State} {fn : Fin 4} (hrec : s.stew.recording = false) (hl : (s.partAt fn.val).live = true) (off : Nat)
    (data : List Byte) : exec (.hostInboundWrite fn off (.bytes data)) s = .next (hostWrite s fn.val off data) := by
  simp only [exec, execHostInboundWrite, arrives_of_quiet hrec, hostData, hl]
  rfl

theorem hostInboundWrite_atomic {s : State} {fn : Fin 4} (hrec : s.stew.recording = false) (hl : (s.partAt fn.val).live = true) (off : Nat)
    (q : AmoReq) (n : Nat) : exec (.hostInboundWrite fn off (.atomic q n)) s = .next (hostAtomic s fn.val off q n) := by
  simp only [exec, execHostInboundWrite, arrives_of_quiet hrec, hostData, hl]
  rfl

theorem hostInboundRead_window {s : State} {fn : Fin 4} (hrec : s.stew.recording = false) (hl : (s.partAt fn.val).live = true)
    (off n : Nat) : exec (.hostInboundRead fn (.window off) n) s = .next (answerHost fn.val (hostRead fn.val (pieces 4096 off n) s)) := by
  simp only [exec, execHostInboundRead, arrives_of_quiet hrec, hostReadAt, hl]
  rfl

theorem hostInboundRead_register {s : State} {fn : Fin 4} (hrec : s.stew.recording = false) (hl : (s.partAt fn.val).live = true)
    (off n : Nat) : exec (.hostInboundRead fn (.register off) n) s = .next (answerHost fn.val (barRead s fn.val off n)) := by
  simp only [exec, execHostInboundRead, arrives_of_quiet hrec, hostReadAt, hl]
  rfl

/-- A function whose partition does not exist is hidden (R414). -/
theorem hostInbound_hidden {s : State} {fn : Fin 4} (hrec : s.stew.recording = false) (hl : (s.partAt fn.val).live = false) :
    (∀ off data, exec (.hostInboundWrite fn off data) s = .next s) ∧ ∀ a n, exec (.hostInboundRead fn a n) s = .next s := by
  refine ⟨fun off data => ?_, fun a n => ?_⟩
  · simp only [exec, execHostInboundWrite, arrives_of_quiet hrec, hostData, hl]
    rfl
  · simp only [exec, execHostInboundRead, arrives_of_quiet hrec, hostReadAt, hl]
    rfl

end Sys2Proof.Machine.Claim
end

section
/-! ## Registers of the host link, fabric ports and replay (O59) -/

namespace Sys2Proof.Machine.Claim
open Sys2Proof.Machine
set_option Elab.async false

/-! ### BAR 0 (R415) -/

theorem hostRegister_hidden {s : State} {fn : Nat} (hrec : s.stew.recording = false) (hl : (s.partAt fn).live = false) (off v : Nat) :
    hostRegister s fn off v = s := by
  rw [hostRegister, arrives_of_quiet hrec]
  unfold barWrite
  exact if_pos (by rw [hl]; rfl)

theorem hostRegister_live {s : State} {fn : Nat} (hrec : s.stew.recording = false) (hl : (s.partAt fn).live = true) (v : Nat) :
    hostRegister s fn 0x008 v = writeMbtail s fn v ∧ hostRegister s fn 0x010 v = writeMbbase s fn v ∧
      hostRegister s fn 0x020 v = writeWinbase s fn v ∧ hostRegister s fn 0x040 v = submit s fn v ∧
      hostRegister s fn 0x050 v = writeHspawn s fn v := by
  have hw : ∀ off, hostRegister s fn off v = barWrite s fn off v := fun off => by rw [hostRegister, arrives_of_quiet hrec]
  have hlive : (!(s.partAt fn).live) = false := by rw [hl]; rfl
  simp only [hw, barWrite, hlive]
  exact ⟨rfl, rfl, rfl, rfl, rfl⟩

/-- The host link's address is a BAR 0 offset. -/
theorem registerWrite_host (fn : Fin 4) (off : Nat) (v : Word) (s : State) :
    exec (.registerWrite (0x300 + fn.val) off v) s = .next (hostRegister s fn.val off v.toNat) := by
  refine congrArg Host.Outcome.next ((if_pos (by omega)).trans ?_)
  rw [Nat.add_sub_cancel_left]

theorem energyLoRead_hidden {s : State} {fn : Fin 4} (hrec : s.stew.recording = false) (hl : (s.partAt fn.val).live = false) :
    exec (.energyLoRead fn) s = .next s := by
  simp only [exec, execEnergyLoRead, arrives_of_quiet hrec, hostReadAt, hl]
  rfl

/-- The latch takes the upper half of the energy that is read (R430). -/
theorem energyLoRead_latches {s : State} {fn : Fin 4} (hrec : s.stew.recording = false) (hl : (s.partAt fn.val).live = true) :
    exec (.energyLoRead fn) s = .next (s.setPartAt fn.val { s.partAt fn.val with
      energyHi := s.stew.energy / 2 ^ 32, lastRead := some (leBytes 4 s.stew.energy) }) := by
  have hread : barRead s fn.val 0x100 4 = (some (leBytes 4 s.stew.energy), latchEnergy s fn.val) := rfl
  simp only [exec, execEnergyLoRead, arrives_of_quiet hrec, hostReadAt, hl, hread, latchEnergy, answerHost_setPartAt]
  rfl

theorem hostInboundRead_answers {s : State} {fn : Fin 4} {off n : Nat} {b : Option (List Byte)} (hrec : s.stew.recording = false)
    (hl : (s.partAt fn.val).live = true) (h : barRead s fn.val off n = (b, s)) :
    exec (.hostInboundRead fn (.register off) n) s = .next (s.setPartAt fn.val { s.partAt fn.val with lastRead := b }) := by
  rw [hostInboundRead_register hrec hl, h, answerHost]

theorem mbheadOf_eq (s : State) (fn : Fin 4) : mbheadOf s fn.val = (s.partAt fn.val).mbhead +
    (if fn = 0 ∧ s.stew.cmdBusy = true then 2 ^ 62 else 0) + if (s.partAt fn.val).mbdrop = true then 2 ^ 63 else 0 := by
  have hfn : fn.val = 0 ↔ fn = 0 := Fin.val_eq_zero_iff
  simp only [mbheadOf, hfn]

theorem flushHost_stays {s : State} {fn : Nat} (h : (s.partAt fn).mbheld = [] ∨ (s.partAt fn).mbbase = 0) (n : Nat) :
    flushHost fn n s = s := by
  cases n with
  | zero => rfl
  | succ n =>
    rw [flushHost]
    rcases h with h | h
    · rw [h]
    · cases hm : (s.partAt fn).mbheld with
      | nil => rfl
      | cons m rest => exact if_pos (by rw [h]; rfl)

theorem writeMbtail_stays {s : State} {fn : Nat} (h : (s.partAt fn).mbheld = [] ∨ (s.partAt fn).mbbase = 0) (v : Nat) :
    writeMbtail s fn v = s.setPartAt fn { s.partAt fn with mbtail := v % 256, mbdrop := false } :=
  flushHost_stays (by rw [State.partAt_setPartAt_self]; exact h) _

theorem flushHost_one {s : State} {fn : Nat} {m : List Byte} (hm : (s.partAt fn).mbheld = [m]) (hb : (s.partAt fn).mbbase ≠ 0)
    (hr : ((s.partAt fn).mbhead + 1) % 256 ≠ (s.partAt fn).mbtail % 256) :
    flushHost fn 1 s = putHost (s.setPartAt fn { s.partAt fn with mbheld := [] }) fn m := by
  have hroom : ¬ ((s.partAt fn).mbbase = 0 || ((s.partAt fn).mbhead + 1) % 256 == (s.partAt fn).mbtail % 256) = true := by
    simp [hb, hr]
  rw [flushHost, hm]
  exact if_neg hroom

/-- A held kill record goes out when its ring has room again (R417). -/
theorem writeMbtail_flushes {s : State} {fn v : Nat} {m : List Byte} (hm : (s.partAt fn).mbheld = [m]) (hb : (s.partAt fn).mbbase ≠ 0)
    (hr : ((s.partAt fn).mbhead + 1) % 256 ≠ v % 256) :
    writeMbtail s fn v = putHost (s.setPartAt fn { s.partAt fn with mbtail := v % 256, mbdrop := false, mbheld := [] }) fn m := by
  have hlen : (s.partAt fn).mbheld.length = 1 := by rw [hm]; rfl
  have hpart : (s.setPartAt fn { s.partAt fn with mbtail := v % 256, mbdrop := false }).partAt fn =
      { s.partAt fn with mbtail := v % 256, mbdrop := false } := State.partAt_setPartAt_self ..
  have hone := flushHost_one (s := s.setPartAt fn { s.partAt fn with mbtail := v % 256, mbdrop := false }) (fn := fn) (m := m)
    (by rw [hpart, ← hm]) (by rw [hpart]; exact hb) (by rw [hpart]; dsimp only; omega)
  rw [hpart, setPartAt_setPartAt] at hone
  rw [writeMbtail, hlen]
  exact hone

theorem byteAt_setPartAt (s : State) (p : Nat) (x : Partition) {l : Loc} (hl : isMem l = true) :
    byteAt (s.setPartAt p x) l = byteAt s l := by
  cases l with
  | regs => cases hl
  | _ => rfl

theorem putHost_at (s : State) (part : Nat) (msg : List Byte) {i : Nat} (hi : i < msg.length) :
    byteAt (putHost s part msg) (.host (ringSlot s part + i)) = msg.getD i 0 :=
  Memory.read1_writeBytes_at _ _ _ _ hi

theorem mbtail_shows {s : State} {fn v : Nat} {m : List Byte} (hm : (s.partAt fn).mbheld = [m]) (hb : (s.partAt fn).mbbase ≠ 0)
    (hr : ((s.partAt fn).mbhead + 1) % 256 ≠ v % 256) (hl : m.length = 64) :
    systemSame s (writeMbtail s fn v) ∧ (writeMbtail s fn v).partAt fn = { s.partAt fn with
        mbtail := v % 256, mbdrop := false, mbheld := [], mbhead := ((s.partAt fn).mbhead + 1) % 256 } ∧
      (∀ i, i < 64 → byteAt (writeMbtail s fn v) (.host (ringSlot s fn + i)) = m.getD i 0) ∧
      memOutside s (writeMbtail s fn v) [(.host (ringSlot s fn), 64)] := by
  rw [writeMbtail_flushes hm hb hr]
  set w := s.setPartAt fn { s.partAt fn with mbtail := v % 256, mbdrop := false, mbheld := [] } with hw
  have hpart : w.partAt fn = { s.partAt fn with mbtail := v % 256, mbdrop := false, mbheld := [] } := State.partAt_setPartAt_self ..
  have hslot : ringSlot w fn = ringSlot s fn := by rw [ringSlot, hpart, ringSlot]
  refine ⟨⟨rfl, rfl, rfl, rfl, rfl, rfl, fun _ => rfl⟩, ?_, fun i hi => ?_, fun x hx ho => ?_⟩
  · rw [putHost, State.partAt_setPartAt_self, hpart]
  · rw [← hslot]
    exact putHost_at w fn m (by omega)
  · exact (putHost_outside w fn hl x hx (by rwa [hslot])).trans (byteAt_setPartAt s fn _ hx)

theorem submit_eq (s : State) (fn : Fin 4) (v : Nat) : submit s fn.val v =
    if fn = 0 ∧ s.stew.cmdBusy = false ∧ v % 2 ^ 12 = 0 then { s with stew := { s.stew with cmdBusy := true, cmd := v } } else s := by
  have hfn : fn.val = 0 ↔ fn = 0 := Fin.val_eq_zero_iff
  simp only [submit, hfn, Bool.not_eq_true']

/-! ### The service block (R418) -/

theorem flushDevice_stays {s : State} {fn : Nat} (h : (s.partAt fn).dmheld = [] ∨ (s.partAt fn).dmbase = 0) (n : Nat) :
    flushDevice fn n s = s := by
  cases n with
  | zero => rfl
  | succ n =>
    rw [flushDevice]
    rcases h with h | h
    · rw [h]
    · cases hm : (s.partAt fn).dmheld with
      | nil => rfl
      | cons m rest => exact if_pos (by rw [h]; rfl)

theorem writeDmtail_stays {s : State} {fn : Nat} (h : (s.partAt fn).dmheld = [] ∨ (s.partAt fn).dmbase = 0) (v : Nat) :
    writeDmtail s fn v = s.setPartAt fn { s.partAt fn with dmtail := v % 256, dmdrop := false } :=
  flushDevice_stays (by rw [State.partAt_setPartAt_self]; exact h) _

/-- A core writes the service registers of its own partition (R418). -/
theorem registerWrite_service {s : State} {m : Nat} {fn : Fin 4} {off : Nat} (v : Word) (hm : m < 384) (hp : s.partOf m = some fn.val)
    (h8 : off % 8 = 0) (ho : off < 0x10000) :
    exec (.registerWrite m (Config.serviceBase + fn.val * 0x10000 + off) v) s = .next (writeService s fn.val off v.toNat) := by
  have hfn := fn.isLt
  have hblock : (Config.serviceBase + fn.val * 0x10000 + off - Config.serviceBase) / 0x10000 = fn.val := by omega
  have hoff : (Config.serviceBase + fn.val * 0x10000 + off - Config.serviceBase) % 0x10000 = off := by omega
  have hlow : Config.serviceBase ≤ Config.serviceBase + fn.val * 0x10000 + off ∧
      Config.serviceBase + fn.val * 0x10000 + off < Config.serviceBase + 4 * 0x10000 := by omega
  have haccepts : regAccepts s m true (Config.serviceBase + fn.val * 0x10000 + off) = true := by
    have hin : (decide (Config.serviceBase ≤ Config.serviceBase + fn.val * 0x10000 + off) &&
        decide (Config.serviceBase + fn.val * 0x10000 + off < Config.serviceBase + 4 * 0x10000)) = true := by
      rw [decide_eq_true hlow.1, decide_eq_true hlow.2]
      rfl
    simp only [regAccepts, blockBits, hin, if_true, hblock, hp, decide_eq_true hm]
    simp
  have halign : (Config.serviceBase + fn.val * 0x10000 + off) / 8 * 8 = Config.serviceBase + fn.val * 0x10000 + off := by
    simp only [Config.serviceBase]
    omega
  have hdebug : ¬ Config.debugBase ≤ Config.serviceBase + fn.val * 0x10000 + off := by
    simp only [Config.serviceBase, Config.debugBase]
    omega
  have hhost : ¬ (0x300 ≤ m ∧ m < 0x304) := by omega
  have hstew : ¬ (0x200 ≤ m ∧ m < 0x208) := by omega
  simp only [exec, execRegisterWrite, if_neg hhost, if_neg hstew, haccepts, if_true, halign, regWrite, if_neg hdebug, hblock, hoff]

/-! ### The steward's own registers -/

theorem registerWrite_steward {s : State} {m : Nat} (a : Nat) (v : Word) (h1 : 0x200 ≤ m) (h2 : m < 0x208) :
    exec (.registerWrite m a v) s = .next ((writeSteward s a v.toNat).getD
      (if regAccepts s m true a then regWrite s (a / 8 * 8) v.toNat else s)) := by
  have hhost : ¬ (0x300 ≤ m ∧ m < 0x304) := by omega
  have hstew : 0x200 ≤ m ∧ m < 0x208 := ⟨h1, h2⟩
  simp only [exec, execRegisterWrite, if_neg hhost, if_pos hstew]
  cases writeSteward s a v.toNat <;> rfl

/-- What a write of the steward's firmware to its own registers may change (R84, R88, R420, R422). -/
def StewardBounds (s t : State) (v : Nat) : Prop :=
  t.harts = s.harts ∧ t.parts = s.parts ∧ t.tasks = s.tasks ∧ memSame s t ∧ t.stew.fused = s.stew.fused ∧
    (∀ n, (t.portAt n).loaded = (s.portAt n).loaded ∧ (t.portAt n).depth = (s.portAt n).depth ∧
      ((t.portAt n).rate = (s.portAt n).rate ∨ ((t.portAt n).rate = v ∧ v ≤ (s.portAt n).loaded))) ∧
    ∀ i, t.stew.targets.get i = s.stew.targets.get i ∨ (t.stew.targets.get i = v ∧ v ≤ s.stew.fused.get i)

theorem stewardBounds_refl (s : State) (v : Nat) : StewardBounds s s v :=
  ⟨rfl, rfl, rfl, fun _ _ => rfl, rfl, fun _ => ⟨rfl, rfl, .inl rfl⟩, fun _ => .inl rfl⟩

theorem byteAt_of_contents {s : State} {m : MemSys} (hd : m.dev = s.mem.dev) (hh : m.host = s.mem.host) (hp : m.peers = s.mem.peers) :
    memSame s { s with mem := m } := fun x hx => by
  cases x with
  | dev a => rw [byteAt, hd, byteAt]
  | host a => rw [byteAt, hh, byteAt]
  | remote p a => rw [byteAt, hp, byteAt]
  | spad | sdm => rfl
  | regs => cases hx

theorem stewardBounds_registers {s : State} {m : MemSys} {v : Nat} (hd : m.dev = s.mem.dev) (hh : m.host = s.mem.host)
    (hp : m.peers = s.mem.peers) (hport : m.ports = s.mem.ports) : StewardBounds s { s with mem := m } v := by
  have hports : ∀ n, ({ s with mem := m } : State).portAt n = s.portAt n := fun n => by rw [State.portAt, hport, State.portAt]
  exact ⟨rfl, rfl, rfl, byteAt_of_contents hd hh hp, rfl, fun n => by rw [hports]; exact ⟨rfl, rfl, .inl rfl⟩, fun _ => .inl rfl⟩

/-- A policer's rate stays within the loaded one (R420). -/
theorem stewardBounds_policer {s : State} {port v : Nat} (h : v ≤ (s.portAt port).loaded) :
    StewardBounds s (s.setPortAt port { (s.portAt port).refill s.reftime with rate := v }) v := by
  refine ⟨rfl, rfl, rfl, byteAt_of_contents rfl rfl rfl, rfl, fun n => ?_, fun _ => .inl rfl⟩
  by_cases hn : n = port
  · subst hn
    rw [State.portAt_setPortAt_self]
    exact ⟨rfl, rfl, .inr ⟨rfl, h⟩⟩
  · rw [State.portAt_setPortAt_of_ne _ _ hn]
    exact ⟨rfl, rfl, .inl rfl⟩

/-- A target stays within the fused ceiling (R422). -/
theorem stewardBounds_target {s : State} {i : Fin 3} {v : Nat} (h : v ≤ s.stew.fused.get i) :
    StewardBounds s { s with stew := { s.stew with targets := s.stew.targets.put i v } } v := by
  have hput : ∀ (c : Ceilings) (j : Fin 3), (c.put i v).get j = if j = i then v else c.get j := fun c j => by
    fin_cases i <;> fin_cases j <;> rfl
  refine ⟨rfl, rfl, rfl, fun x hx => ?_, rfl, fun _ => ⟨rfl, rfl, .inl rfl⟩, fun j => ?_⟩
  · cases x with
    | regs => cases hx
    | _ => rfl
  · dsimp only
    rw [hput]
    by_cases hj : j = i
    · exact .inr ⟨if_pos hj, hj ▸ h⟩
    · exact .inl (if_neg hj)

theorem stewardBounds_ite {s t : State} {v : Nat} {c : Prop} [Decidable c] (h : c → StewardBounds s t v) :
    StewardBounds s (if c then t else s) v := by
  split
  · next hc => exact h hc
  · exact stewardBounds_refl s v

theorem writeSteward_bounds {s t : State} {a v : Nat} (h : writeSteward s a v = some t) : StewardBounds s t v := by
  rw [writeSteward] at h
  split at h
  · cases h
    exact stewardBounds_ite fun _ => stewardBounds_registers rfl rfl rfl rfl
  · split at h
    · cases h
      exact stewardBounds_registers rfl rfl rfl rfl
    · split at h
      · cases h
        exact stewardBounds_ite stewardBounds_policer
      · cases h
        exact stewardBounds_ite stewardBounds_target
      · cases h

theorem registerWrite_steward_bounds {s : State} {m a : Nat} {v : Word} (h1 : 0x200 ≤ m) (h2 : m < 0x208)
    (ha : regAccepts s m true a = false) : ∃ t, exec (.registerWrite m a v) s = .next t ∧ StewardBounds s t v.toNat := by
  rw [registerWrite_steward a v h1 h2]
  cases hw : writeSteward s a v.toNat with
  | some t => exact ⟨t, rfl, writeSteward_bounds hw⟩
  | none => exact ⟨s, congrArg Host.Outcome.next (if_neg (by rw [ha]; decide)), stewardBounds_refl s _⟩

theorem mem_rates (v : Nat) : v ∈ List.range' 256 11745 ↔ 256 ≤ v ∧ v ≤ 12000 := by
  rw [List.mem_range'_1]
  omega

theorem registerWrite_rate {s : State} {m : Nat} (v : Word) (h1 : 0x200 ≤ m) (h2 : m < 0x208) :
    exec (.registerWrite m Config.plinthRate v) s = .next (if v.toNat % 2 ^ 16 ∈ List.range' 256 11745 then
      { s with mem := { s.mem with rate := v.toNat % 2 ^ 16 } } else s) := by
  have hw : writeSteward s Config.plinthRate v.toNat = _ := if_pos rfl
  simp only [registerWrite_steward _ v h1 h2, hw, mem_rates, Option.getD_some]

/-- No register block lets a fabric port in (R36). -/
theorem registerWrite_fabric {s : State} {m : Nat} (a : Nat) (v : Word) (h : 0x400 ≤ m) : exec (.registerWrite m a v) s = .next s := by
  have hhost : ¬ (0x300 ≤ m ∧ m < 0x304) := by omega
  have hstew : ¬ (0x200 ≤ m ∧ m < 0x208) := by omega
  have hrefused : regAccepts s m true a = false := by
    have h1 : decide (m < 520) = false := decide_eq_false (by omega)
    have h2 : decide (m < 384) = false := decide_eq_false (by omega)
    simp [regAccepts, blockBits, h1, h2]
  simp only [exec, execRegisterWrite, if_neg hhost, if_neg hstew, hrefused]
  rfl

/-! ### Fabric ports (R420) -/

theorem setPortAt_setPortAt (s : State) (p : Nat) (x y : Port) : (s.setPortAt p x).setPortAt p y = s.setPortAt p y :=
  congrArg (fun l => { s with mem := { s.mem with ports := l } }) (table_set_set s.mem.ports p x y)

theorem fabricInboundRequest_eq {s : State} {port : Fin 64} (hrec : s.stew.recording = false) (r : Request) :
    exec (.fabricInboundRequest port r) s = .next (fabricRequest s port.val r) := by
  simp only [exec, execFabricInboundRequest, arrives_of_quiet hrec]

theorem fabricRequest_down {s : State} {port : Nat} (h : (s.portAt port).up = false) (r : Request) : fabricRequest s port r = s :=
  if_neg (by rw [h]; decide)

theorem fabricRequest_waits {s : State} {port : Nat} (hu : (s.portAt port).up = true)
    (ht : min (s.portAt port).depth ((s.portAt port).tokens + (s.reftime - (s.portAt port).since) * (s.portAt port).rate) = 0)
    (r : Request) : fabricRequest s port r = s.setPortAt port { s.portAt port with
      tokens := 0, since := s.reftime, waiting := (s.portAt port).waiting ++ [r] } := by
  have hp : (s.setPortAt port { s.portAt port with waiting := (s.portAt port).waiting ++ [r] }).portAt port =
      { s.portAt port with waiting := (s.portAt port).waiting ++ [r] } := State.portAt_setPortAt_self ..
  have htime : (s.setPortAt port { s.portAt port with waiting := (s.portAt port).waiting ++ [r] }).reftime = s.reftime := rfl
  rw [fabricRequest, if_pos hu, drainPort]
  simp only [hp, htime, Port.refill, ht, setPortAt_setPortAt]
  cases (s.portAt port).waiting <;> rfl

theorem fabricRequest_policed {s : State} {port : Nat} (h : policed s port) (r : Request) :
    fabricRequest s port r = serveFabric (spent s port) port r := by
  obtain ⟨-, hu, hw, ht⟩ := h
  have hp : (s.setPortAt port { s.portAt port with waiting := [r] }).portAt port = { s.portAt port with waiting := [r] } :=
    State.portAt_setPortAt_self ..
  have htime : (s.setPortAt port { s.portAt port with waiting := [r] }).reftime = s.reftime := rfl
  have ht' : ¬ min (s.portAt port).depth ((s.portAt port).tokens + (s.reftime - (s.portAt port).since) * (s.portAt port).rate) = 0 := ht
  have hone : (s.portAt port).waiting.length + 1 = 1 := by rw [hw]; rfl
  rw [fabricRequest, if_pos hu, hone, hw, List.nil_append, drainPort]
  simp only [hp, htime, Port.refill, if_neg ht', setPortAt_setPortAt, drainPort, spent]
  rw [hw]

theorem windowHolds_iff (p : Port) (r : Request) : windowHolds p r = true ↔ ∃ w, w ∈ p.windows ∧ w.base ≤ r.addr ∧
    r.addr + requestSize r ≤ w.base + w.len ∧ (r.write = none ∨ r.amo.isSome = true → w.r = true) ∧
    (r.write.isSome = true ∨ r.amo.any (·.fn != .ld) = true → w.w = true) := by
  simp only [windowHolds, List.any_eq_true, Bool.and_eq_true, decide_eq_true_eq, Bool.or_eq_true, Bool.not_eq_true', Bool.or_eq_false_iff,
    and_assoc]
  refine exists_congr fun w => and_congr_right fun _ => and_congr_right fun _ => and_congr_right fun _ => and_congr ?_ ?_
  · cases r.write <;> cases r.amo <;> simp
  · cases r.write <;> cases h : r.amo.any (·.fn != .ld) <;> simp

/-- The windows of a port stay when it spends a token. -/
theorem windows_spent (s : State) (port : Nat) : ((spent s port).portAt port).windows = (s.portAt port).windows := by
  rw [spent, State.portAt_setPortAt_self]
  rfl

theorem windowHolds_spent (s : State) (port : Nat) (r : Request) :
    windowHolds ((spent s port).portAt port) r = windowHolds (s.portAt port) r := by
  rw [windowHolds, windows_spent, windowHolds]

/-! ### Replay (R412, R413) -/

/-- The replay once it has ended at this tick. -/
theorem diverge_of_replay {s : State} (h : s.stew.replay = true) (d : Divergence) :
    s.diverge d = { s with stew := { s.stew with diverged := s.stew.diverged.or (some (s.reftime, d)) } } := by
  rw [State.diverge, h]
  cases hd : s.stew.diverged with
  | none => rfl
  | some x =>
    change s = { s with stew := { s.stew with diverged := some x } }
    rw [← hd]

theorem replayInject_eq {s : State} {a b : Arrival} {rest : List Arrival} (hr : s.stew.replay = true) (hs : s.stew.script = a :: rest) :
    exec (.replayInject b) s = .next (if b ≠ a ∨ s.reftime < b.tick then s
      else if b.tick < s.reftime then s.diverge .arrival
      else (inject { s with stew := { s.stew with script := rest } } b.what).getD (s.diverge .arrival)) := by
  have hnot : (!s.stew.replay) = false := by rw [hr]; rfl
  have hcond : ((!s.stew.replay || decide (b ≠ a) || decide (s.reftime < b.tick)) = true) = (b ≠ a ∨ s.reftime < b.tick) := by
    rw [hnot, Bool.false_or, Bool.or_eq_true, decide_eq_true_eq, decide_eq_true_eq]
  simp only [exec, execReplayInject, hs, hcond]
  cases inject { s with stew := { s.stew with script := rest } } b.what <;> simp only [Option.getD_none, Option.getD_some]

theorem replayInject_idle {s : State} (a : Arrival) (h : s.stew.replay = false ∨ s.stew.script = []) : exec (.replayInject a) s = .next s := by
  cases hs : s.stew.script with
  | nil => simp only [exec, execReplayInject, hs]
  | cons b rest =>
    have hr : s.stew.replay = false := h.resolve_right (by rw [hs]; exact List.cons_ne_nil _ _)
    simp [exec, execReplayInject, hs, hr]

theorem replayInject_at_tick {s : State} {a : Arrival} {rest : List Arrival} (hr : s.stew.replay = true) (hs : s.stew.script = a :: rest)
    (ht : a.tick = s.reftime) : exec (.replayInject a) s =
      .next ((inject { s with stew := { s.stew with script := rest } } a.what).getD (s.diverge .arrival)) := by
  rw [replayInject_eq hr hs, if_neg (by simp [ht]), if_neg (by omega)]

/-- A command through the management port reads the same block in every state. -/
theorem parseCommand_of_port (b : List Byte) (signed : Bool) (s t : State) :
    parseCommand { port := some b, signed := signed } s = parseCommand { port := some b, signed := signed } t := rfl

theorem takeCommand_of_port {s : State} {b : List Byte} {signed vendor : Bool} {op : CmdOp} (hrec : s.stew.recording = false)
    (h : parseCommand { port := some b, signed := signed } s = some op) :
    takeCommand s { port := some b, signed := signed } op vendor = runCommand s { port := some b, signed := signed } vendor := by
  have hlog : takeCommand.logged { port := some b, signed := signed } vendor s = s := arrives_of_quiet hrec _
  simp only [takeCommand, h, if_true, hlog]
  rfl

/-- An event that names a command of the management port runs it. -/
theorem exec_command_of_port {s : State} {i : Instr} {b : List Byte} {signed : Bool} {op : CmdOp} (hrec : s.stew.recording = false)
    (hc : commandOf i = some { port := some b, signed := signed }) (ha : asksFor i = some op)
    (hp : parseCommand { port := some b, signed := signed } s = some op) (hv : ∀ l, i ≠ .unlock { port := some b, signed := signed } l true) :
    exec i s = .next (runCommand s { port := some b, signed := signed } false) := by
  have htake := takeCommand_of_port (vendor := false) hrec hp
  cases i with
  | unlock c ch vendor =>
    cases hc
    cases ha
    have hno : vendor = false := by
      cases vendor with
      | false => rfl
      | true => exact (hv ch rfl).elim
    subst hno
    exact congrArg Host.Outcome.next htake
  | retire | partCreate | partDestroy | reset | quote | unlockChallenge | record =>
    cases hc
    cases ha
    exact congrArg Host.Outcome.next htake
  | _ => cases hc

end Sys2Proof.Machine.Claim
end

section
/-! ## Refusals of HSPAWN, and a head that waits (O59) -/

namespace Sys2Proof.Machine.Claim
open Sys2Proof.Machine
set_option Elab.async false

/-! ### Refusals (R417, R444) -/

/-- The body of the message that tells a refused spawn (R417). -/
def spawnNotice (v : Nat) (x : TrapInfo) : List Byte :=
  leBytes 8 v ++ leBytes 1 (causeCode x.cause) ++ leBytes 1 0 ++ leBytes 2 (tsubOf x)

theorem causeCode_lt (c : Cause) : causeCode c < 256 := by
  cases c <;> simp [causeCode]

theorem tsubOf_lt (x : TrapInfo) : tsubOf x < 2 ^ 16 := by
  unfold tsubOf
  omega

theorem length_spawnNotice (v : Nat) (x : TrapInfo) : (spawnNotice v x).length = 12 := by simp [spawnNotice]

theorem spawnNotice_fields {v : Nat} (hv : v < 2 ^ 64) (x : TrapInfo) :
    ∀ f, f ∈ [(0, 8, v), (8, 1, causeCode x.cause), (9, 1, 0), (10, 2, tsubOf x)] →
      f.1 + f.2.1 ≤ (spawnNotice v x).length ∧ field (spawnNotice v x) f.1 f.2.1 = f.2.2 := by
  have hc := causeCode_lt x.cause
  have ht := tsubOf_lt x
  have hlast : field (leBytes 2 (tsubOf x)) 0 2 = tsubOf x % 256 ^ 2 := by
    have hfield := field_head 2 (tsubOf x) []
    rwa [List.append_nil] at hfield
  simp only [List.forall_mem_cons, length_spawnNotice]
  simp only [spawnNotice, List.append_assoc]
  generalize causeCode x.cause = c at hc
  generalize tsubOf x = d at ht hlast
  simp [hlast]
  omega

theorem writeHspawn_refused {s : State} {fn v : Nat} {x : TrapInfo} (h : hostSpawn s fn v = .error (.trap x)) (hx : x.media = none)
    (hc : x.cause ≠ .ue) : writeHspawn s fn v = send s fn (message 6 (spawnNotice v x)) false := by
  rw [writeHspawn, h]
  simp only [seeError_of_no_media hx hc]
  rfl

theorem writeHspawn_tells {s : State} {fn v : Nat} {x : TrapInfo} (h : hostSpawn s fn v = .error (.trap x)) (hx : x.media = none)
    (hc : x.cause ≠ .ue) (hr : ringReady s fn) (hv : v < 2 ^ 64) : systemSame s (writeHspawn s fn v) ∧
      told s (writeHspawn s fn v) fn 6 [(0, 8, v), (8, 1, causeCode x.cause), (9, 1, 0), (10, 2, tsubOf x)] := by
  rw [writeHspawn_refused h hx hc, send_of_ringReady hr]
  exact ⟨putHost_systemSame .., told_putHost (by decide) (by rw [length_spawnNotice]; decide) (spawnNotice_fields hv x)⟩

/-- A message that tells fewer fields. -/
theorem told_mono {s t : State} {p kind : Nat} {l l' : List (Nat × Nat × Nat)} (h : told s t p kind l) (hl : ∀ f, f ∈ l' → f ∈ l) :
    told s t p kind l' := by
  obtain ⟨hkind, hfields, hout, hparts⟩ := h
  exact ⟨hkind, fun f hf => hfields f (hl f hf), hout, hparts⟩

/-- What HSPAWN refuses before it looks at the descriptor (R444). -/
def spawnIll (s : State) (fn v : Nat) : Prop :=
  v / 2 ^ 56 ≠ 0 ∨ v / 2 ^ 3 % 8 ≠ 0 ∨ (s.partAt fn).clusters / 2 ^ (8 * (v % 4)) % 2 ^ 8 = 0 ∨ (s.partAt fn).hsctx = 0

theorem spawnIll_iff {s : State} {fn v : Nat} (hv : v < 2 ^ 64) :
    (bits v 63 56 != 0 || bits v 5 3 != 0 || bits (s.partAt fn).clusters (8 * bits v 1 0 + 7) (8 * bits v 1 0) == 0 ||
      (s.partAt fn).hsctx == 0) = true ↔ spawnIll s fn v := by
  have hres : bits v 63 56 = v / 2 ^ 56 := Nat.mod_eq_of_lt (by omega)
  have hlow : bits v 5 3 = v / 2 ^ 3 % 8 := rfl
  have hdie : bits v 1 0 = v % 4 := congrArg (· % 2 ^ 2) (Nat.div_one v)
  have hclus : bits (s.partAt fn).clusters (8 * (v % 4) + 7) (8 * (v % 4)) = (s.partAt fn).clusters / 2 ^ (8 * (v % 4)) % 2 ^ 8 := by
    rw [bits, show 8 * (v % 4) + 7 + 1 - 8 * (v % 4) = 8 by omega]
  simp only [spawnIll, hres, hlow, hdie, hclus, Bool.or_eq_true, bne_iff_ne, beq_iff_eq, or_assoc]

theorem hostSpawn_ill {s : State} {fn v : Nat} (hv : v < 2 ^ 64) (h : spawnIll s fn v) : hostSpawn s fn v = .error (plainTrap .ill 1) :=
  if_pos ((spawnIll_iff hv).2 h)

/-- The descriptor's address that HSPAWN names. -/
theorem spawnVa_eq (v : Nat) : bits v 55 6 * 64 = v / 2 ^ 6 % 2 ^ 50 * 64 := rfl

/-- An address in the windows of a core or a gang names nothing for the steward (R9 to R12). -/
theorem hostPlace_window {s : State} {fn va : Nat} {ctx : Word} {acc : Access} (hva : va / 2 ^ 40 ∈ [0xFFFE, 0xFFFF]) :
    ∃ x : TrapInfo, hostPlace s fn ctx acc va = .error (.trap x) ∧ x.media = none ∧ x.cause ∈ [Cause.page, Cause.access] := by
  have hmem : va / 2 ^ 40 = 0xFFFE ∨ va / 2 ^ 40 = 0xFFFF := by simpa using hva
  have hlo : ¬ va < Config.gangBase := by
    simp only [Config.gangBase]
    omega
  have hwin : (windowIn none 0 va).isSome = true ∧
      ∀ st, windowIn none 0 va = some (.error st) → st = memTrap .page 3 va ∨ st = memTrap .page 4 va := by
    simp only [windowIn, if_neg hlo, Option.bind_none]
    split_ifs <;> simp +contextual [eq_comm]
  obtain ⟨hsome, herr⟩ := hwin
  simp only [hostPlace]
  cases hw : windowIn none 0 va with
  | none => rw [hw] at hsome; cases hsome
  | some r =>
    cases r with
    | ok p => exact ⟨_, rfl, rfl, by simp⟩
    | error st =>
      rcases herr st hw with rfl | rfl <;> exact ⟨_, rfl, rfl, by simp⟩

theorem hostSpawn_noPlace {s : State} {fn v : Nat} {st : Stop} (hv : v < 2 ^ 64) (h : ¬ spawnIll s fn v)
    (hp : hostPlace s fn (s.partAt fn).hsctx .atomic (v / 2 ^ 6 % 2 ^ 50 * 64) = .error st) : hostSpawn s fn v = .error st := by
  refine (if_neg fun hill => h ((spawnIll_iff hv).1 hill)).trans ?_
  rw [spawnVa_eq, hp]
  rfl

/-! ### A head that cannot be placed (R173, R175) -/

theorem descFits_cores {b : List Byte} (h : descFits b = true) : 1 ≤ field b 28 1 ∧ field b 30 1 < 4 := by
  simp only [descFits, Bool.and_eq_true, decide_eq_true_eq] at h
  tauto

/-- A task that is READY keeps a core to wait for when its descriptor is read again. -/
theorem readTask_of_ready {s : State} {id : Nat} {t : Task} (h : s.task? id = some t) (hst : t.st = .ready) (hc : 1 ≤ t.cores) :
    ∃ u, s.readTask id = some u ∧ u.st = .ready ∧ 1 ≤ u.cores := by
  rw [State.readTask, h]
  refine ⟨_, rfl, ?_⟩
  dsimp only
  split_ifs with hsup
  · exact ⟨hst, hc⟩
  · split
    · split_ifs with hfit
      · exact ⟨hst, (descFits_cores hfit).1⟩
      · exact ⟨hst, hc⟩
    · exact ⟨hst, hc⟩

/-- Every core of a die belongs to a gang. -/
def Taken (s : State) (die : Nat) : Prop := ∀ c, dieOf c = die → (s.coreAt c).gang ≠ none

theorem freeCores_of_taken {s : State} {die : Nat} (h : Taken s die) (t : Task) {cl : Nat} (hcl : cl / 8 = die) : freeCores s t cl = [] := by
  rw [freeCores, List.filter_eq_nil_iff]
  intro c hc
  obtain ⟨n, hn, rfl⟩ := List.mem_map.1 hc
  have hn12 := List.mem_range.1 hn
  have hgang := h (cl * 12 + n) (by simp only [dieOf]; omega)
  have hno : (s.coreAt (cl * 12 + n)).gang.isNone = false := Option.isNone_eq_false_iff.2 (Option.isSome_iff_ne_none.2 hgang)
  simp [usable, hno]

theorem victims_of_smaller {s : State} {cls : Nat} (h : ∀ p, p ∈ s.gangs → p.2.cls ≤ cls) (cl : Nat) : victims s cl cls = [] := by
  have hnone : List.filter (fun (p : Nat × Gang) => p.2.cores.any (clusterOf · == cl) && cls < p.2.cls) s.gangs = [] := by
    rw [List.filter_eq_nil_iff]
    intro p hp
    have hle := h p hp
    simp only [Bool.and_eq_true, decide_eq_true_eq, not_and]
    omega
  rw [victims, hnone, List.mergeSort_nil]

theorem clusters_of_die {die cl : Nat} (h : cl ∈ (List.range 8).map (die * 8 + ·)) : cl / 8 = die := by
  obtain ⟨n, hn, rfl⟩ := List.mem_map.1 h
  have := List.mem_range.1 hn
  omega

theorem tryPlace_of_taken {s : State} {die cls id : Nat} {t : Task} (hq : queueOf s die cls = [id]) (ht : s.readTask id = some t)
    (hst : t.st = .ready) (hc : 1 ≤ t.cores) (h : Taken s die) : tryPlace s die cls = none := by
  have hfind : (((List.range 8).map (die * 8 + ·)).find? fun cl => t.cores ≤ (freeCores s t cl).length) = none := by
    rw [List.find?_eq_none]
    intro cl hcl
    rw [freeCores_of_taken h t (clusters_of_die hcl), List.length_nil, decide_eq_true_eq]
    omega
  have hready : (t.st != .ready && t.st != .saved) = false := by rw [hst]; rfl
  simp only [tryPlace, hq, List.head?_cons, ht, hready, hfind]
  rfl

theorem preemptFor_of_taken {s : State} {die cls id : Nat} {t : Task} (hq : queueOf s die cls = [id]) (ht : s.readTask id = some t)
    (hc : 1 ≤ t.cores) (h : Taken s die) (hg : ∀ p, p ∈ s.gangs → p.2.cls ≤ cls) : preemptFor s die cls = none := by
  simp only [preemptFor, hq, List.head?_cons, Option.bind_some, ht]
  rw [List.filterMap_eq_nil_iff.2]
  · rfl
  · intro cl hcl
    rw [freeCores_of_taken h t (clusters_of_die hcl), victims_of_smaller hg]
    exact if_neg (by simp only [List.length_nil, List.map_nil, List.foldl_nil]; omega)

/-- What a pass over a head that waits leaves: at most the time since which it waits (R175). -/
structure Waits (s t : State) (die : Nat) : Prop where
  dies : ∃ l, t = { s with dies := l }
  queues : ∀ c, queueOf t die c = queueOf s die c

theorem Waits.refl (s : State) (die : Nat) : Waits s s die := ⟨⟨_, rfl⟩, fun _ => rfl⟩

theorem noteHead_waits (s : State) (die cls : Nat) : Waits s (noteHead s die cls) die := by
  have hset : ∀ heads, Waits s (s.setDieAt die { s.dieAt die with heads := heads }) die := fun heads =>
    ⟨⟨_, rfl⟩, fun c => by rw [queueOf, State.dieAt_setDieAt_self, queueOf]⟩
  unfold noteHead
  split
  · exact .refl s die
  · dsimp only
    split_ifs
    · exact .refl s die
    · exact hset _

/-- The one task that waits on a die whose cores are all taken (R173, R175). -/
structure Waiting (s : State) (die cls id : Nat) : Prop where
  head : queueOf s die cls = [id]
  others : ∀ c, c ≠ cls → queueOf s die c = []
  task : ∃ t, s.task? id = some t ∧ t.st = .ready ∧ 1 ≤ t.cores
  taken : Taken s die
  gangs : ∀ p, p ∈ s.gangs → p.2.cls ≤ cls

theorem Waiting.of_waits {s t : State} {die cls id : Nat} (h : Waiting s die cls id) (hw : Waits s t die) : Waiting t die cls id := by
  obtain ⟨⟨l, rfl⟩, hq⟩ := hw
  exact ⟨(hq cls).trans h.head, fun c hc => (hq c).trans (h.others c hc), h.task, h.taken, h.gangs⟩

theorem passClass_of_waiting {s : State} {die cls id : Nat} (h : Waiting s die cls id) (n : Nat) :
    passClass die cls (n + 1) s = noteHead s die cls := by
  obtain ⟨x, hx, hst, hc⟩ := h.task
  obtain ⟨u, hu, hust, huc⟩ := readTask_of_ready hx hst hc
  have hnoted := h.of_waits (noteHead_waits s die cls)
  obtain ⟨y, hy, hyst, hyc⟩ := hnoted.task
  obtain ⟨w, hw, -, hwc⟩ := readTask_of_ready hy hyst hyc
  rw [passClass, tryPlace_of_taken h.head hu hust huc h.taken]
  simp only [preemptFor_of_taken hnoted.head hw hwc hnoted.taken hnoted.gangs, Option.bind_none, ite_self]

theorem Waits.trans {s t u : State} {die : Nat} (h : Waits s t die) (h' : Waits t u die) : Waits s u die := by
  obtain ⟨⟨l, rfl⟩, hq⟩ := h
  obtain ⟨⟨l', rfl⟩, hq'⟩ := h'
  exact ⟨⟨l', rfl⟩, fun c => (hq' c).trans (hq c)⟩

theorem pass_of_waiting {s : State} {die cls id : Nat} (h : Waiting s die cls id) : Waits s (pass s die) die := by
  rw [pass]
  split
  · exact .refl s die
  · refine List.foldlRecOn (motive := fun t => Waits s t die) _ _ (.refl s die) fun t ht c _ => ?_
    have hwait := h.of_waits ht
    by_cases hc : c = cls
    · subst hc
      rw [passClass_of_waiting hwait]
      exact ht.trans (noteHead_waits t die c)
    · rw [passClass_of_empty (hwait.others c hc)]
      exact ht

end Sys2Proof.Machine.Claim
end

section
/-! ## What a spawn of the host leaves (O59) -/

namespace Sys2Proof.Machine.Claim
open Sys2Proof.Machine
set_option Elab.async false

/-! ### Numbers at places -/

theorem memOutside_trans {s t u : State} {l l' : List (Loc × Nat)} (h : memOutside s t l) (h' : memOutside t u l') :
    memOutside s u (l ++ l') := fun x hx hno =>
  (h' x hx fun r hr => hno r (List.mem_append_right l hr)).trans (h x hx fun r hr => hno r (List.mem_append_left l' hr))

/-- A number in device memory away from the ranges that changed. -/
theorem numAt_of_memOutside {s t : State} {l : List (Loc × Nat)} (h : memOutside s t l) {a n : Nat}
    (hl : ∀ r, r ∈ l → ∃ b, r.1 = .dev b ∧ (a + n ≤ b ∨ b + r.2 ≤ a)) : numAt t (.dev a) n = numAt s (.dev a) n := by
  refine congrArg leNat (List.map_congr_left fun i hi => h _ rfl fun r hr hst => ?_)
  obtain ⟨b, hb, hapart⟩ := hl r hr
  obtain ⟨j, hj, he⟩ := hst
  rw [hb] at he
  have hin := List.mem_range.1 hi
  have heq : a + i = b + j := Loc.dev.inj he
  omega

/-- The fields of a descriptor are the numbers that lie there. -/
theorem field_bytes64 (s : State) (a : Nat) {off n : Nat} (h : off + n ≤ 64) : field (bytes64 s (.dev a)) off n = numAt s (.dev (a + off)) n := by
  refine congrArg leNat (List.ext_getElem ?_ fun i h1 h2 => ?_)
  · simp only [bytes64, List.length_take, List.length_drop, List.length_map, List.length_range]
    omega
  · simp [bytes64, Loc.plus, Nat.add_assoc]

theorem field_lt (b : List Byte) (off n : Nat) : field b off n < 256 ^ n :=
  (leNat_lt _).trans_le (Nat.pow_le_pow_right (by decide) (by simp))

/-! ### Plain places -/

/-- A place of 64 bytes that the steward reads and writes plainly. -/
structure PlainDesc (s : State) (q : Place) (a : Nat) : Prop where
  loc : q.loc = .dev a
  aligned : a % 64 = 0
  enc : q.enc = false
  range : plainRange s a 64
  good : Table.find? s.mem.bad (a / 64) = none

theorem PlainDesc.devAddr {s : State} {q : Place} {a : Nat} (h : PlainDesc s q a) : q.devAddr = a := by
  rw [Place.devAddr, h.loc]

theorem readAt_of_plainDesc {s : State} {q : Place} {a : Nat} (h : PlainDesc s q a) (part va : Nat) :
    readAt s part q 0 64 va = .ok (bytes64 s q.loc) := by
  have hal := h.aligned
  have hread := devRead_of_plainRange (s := s) (part := part) (va := va) h.range fun i hi => by
    rw [show (a + i) / 64 = a / 64 by omega]
    exact h.good
  rw [readAt, h.devAddr, h.enc, h.loc, Nat.add_zero, hread]
  rfl

/-- A write of an aligned item of a plain place. -/
theorem writeAt_of_plain {s : State} {q : Place} {a off : Nat} {bytes : List Byte} (hq : q.loc = .dev a) (he : q.enc = false)
    (hn : bytes.length ∣ 64) (ho : bytes.length ∣ a + off) (hs : plainSector s.mem ((a + off) / 512)) (part : Nat) :
    ∃ m, writeAt s part q off bytes = .ok { s with mem := m } ∧ putAt s { s with mem := m } (.dev (a + off)) bytes ∧
      plainSector m ((a + off) / 512) ∧ m.phase = s.mem.phase ∧ m.was = s.mem.was := by
  obtain ⟨m, hw, hdev, hsec, hm⟩ := writeUnit_of_plain (part := part) (bytes := bytes) hs
  have haddr : q.devAddr = a := by rw [Place.devAddr, hq]
  have hall : (bytes.drop (a + off - (a + off))).take bytes.length = bytes := by simp
  refine ⟨m, ?_, putAt_dev hdev (by rw [hm]) (by rw [hm]), hsec, by rw [hm], by rw [hm]⟩
  simp only [writeAt, haddr, he, devWrite, Bool.false_eq_true, if_false, pieces_of_dvd hn ho, writeUnits, hall, hw]

/-! ### The descriptor (R398) -/

/-- What a spawn leaves of the descriptor's fields, and of memory. -/
structure Described (s t : State) (a pend die : Nat) (l : List (Loc × Nat)) : Prop where
  mem : ∃ m, t = { s with mem := m }
  maps : mapsAgree t
  plain : plainSector t.mem (a / 512)
  pending : numAt t (.dev (a + 24)) 4 = pend
  link : numAt t (.dev (a + 40)) 8 = 1 + 2 * die
  outside : memOutside s t l

/-- The hold of a task whose spawner keeps it: PENDING without the hold itself (R398). -/
theorem spawnHold {s : State} {q : Place} {a : Nat} (hm : mapsAgree s) (hq : PlainDesc s q a) (part : Nat) (hold : Bool) :
    ∃ m, (if hold then writeAt s part q 24 (leBytes 4 (newPending (bytes64 s q.loc) hold)) else .ok s) = .ok { s with mem := m } ∧
      mapsAgree { s with mem := m } ∧ plainSector m (a / 512) ∧
      numAt { s with mem := m } (.dev (a + 24)) 4 = newPending (bytes64 s q.loc) hold ∧
      memOutside s { s with mem := m } [(.dev (a + 24), 4)] := by
  have hal := hq.aligned
  have hsec : (a + 24) / 512 = a / 512 := by omega
  obtain ⟨-, -, hplain⟩ := hq.range
  have hfield : field (bytes64 s q.loc) 24 4 = numAt s (.dev (a + 24)) 4 := by rw [hq.loc, field_bytes64 s a (by decide)]
  cases hold with
  | false =>
    exact ⟨s.mem, rfl, hm, hplain, hfield.symm, fun _ _ _ => rfl⟩
  | true =>
    have hlt : newPending (bytes64 s q.loc) true < 256 ^ 4 := (Nat.sub_le _ _).trans_lt (field_lt _ 24 4)
    obtain ⟨m, hw, hput, hs, hphase, hwas⟩ := writeAt_of_plain (s := s) (bytes := leBytes 4 (newPending (bytes64 s q.loc) true)) (off := 24)
      hq.loc hq.enc (by rw [length_leBytes]; decide) (by rw [length_leBytes]; omega) (hsec ▸ hplain) part
    refine ⟨m, hw, ⟨by rw [← hm.1, ← hphase], hwas.trans hm.2⟩, hsec ▸ hs, numAt_of_putAt_leBytes hput hlt, ?_⟩
    have hout := memOutside_of_putAt hput
    rwa [length_leBytes] at hout

theorem spawnLink {s t : State} {q : Place} {a pend die : Nat} (ht : mapsAgree t) (hq : q.loc = .dev a) (he : q.enc = false) (hal : a % 64 = 0)
    (hplain : plainSector t.mem (a / 512)) (hpend : numAt t (.dev (a + 24)) 4 = pend) (hst : ∃ m, t = { s with mem := m })
    (hout : memOutside s t [(.dev (a + 24), 4)]) (part : Nat) (hdie : die < 4) :
    ∃ u, writeAt t part q 40 (leBytes 8 (1 + 2 * die)) = .ok u ∧ Described s u a pend die [(.dev (a + 24), 4), (.dev (a + 40), 8)] := by
  have hsec : (a + 40) / 512 = a / 512 := by omega
  obtain ⟨m, hw, hput, hs, hphase, hwas⟩ := writeAt_of_plain (s := t) (bytes := leBytes 8 (1 + 2 * die)) (off := 40)
    hq he (by rw [length_leBytes]; decide) (by rw [length_leBytes]; omega) (hsec ▸ hplain) part
  have hlink := memOutside_of_putAt hput
  rw [length_leBytes] at hlink
  obtain ⟨m0, rfl⟩ := hst
  refine ⟨_, hw, ⟨⟨m, rfl⟩, ⟨by rw [← ht.1, ← hphase], hwas.trans ht.2⟩, hsec ▸ hs, ?_, numAt_of_putAt_leBytes hput (by omega),
    memOutside_trans hout hlink⟩⟩
  rw [numAt_of_memOutside hlink fun r hr => ⟨a + 40, by rw [List.mem_singleton.1 hr], .inl (by omega)⟩, hpend]

/-- QNEXT is written, or the error is noted: memory elsewhere is as it was (R172, log 68). -/
theorem setQnext_outside {s : State} {id : Nat} {x : Task} (ht : s.task? id = some x) (hm : mapsAgree s) (he : x.enc = false)
    (hal : x.phys % 64 = 0) (hs : plainSector s.mem (x.phys / 512)) (next : Word) :
    memOutside s (setQnext s id next) [(.dev (x.phys + 48), 8)] := by
  have hsec : (x.phys + 48) / 512 = x.phys / 512 := by omega
  simp only [setQnext, ht]
  split_ifs
  · exact fun _ _ _ => rfl
  · unfold writeAt'
    cases capStop s x.part false x.place.devAddr x.place.devAddr with
    | some st =>
      intro y hy _
      cases y with
      | regs => cases hy
      | _ => rfl
    | none =>
      obtain ⟨m, hw, hput, -⟩ := writeAt_of_plain (s := s) (q := x.place) (bytes := leBytes 8 next.toNat) (off := 48) rfl he
        (by rw [length_leBytes]; decide) (by rw [length_leBytes]; omega) (hsec ▸ hs) x.part
      have hout := memOutside_of_putAt hput
      rw [length_leBytes] at hout
      simp only [reach_idle hm.1 hm.2, hw]
      exact hout

/-! ### The task (R168, R398) -/

/-- The task that a spawn makes. -/
def spawnedTask (part : Nat) (q : Place) (desc : Word) (b : List Byte) (start : Start) (hold : Bool) (die : Nat) : Task :=
  Task.fromDesc { desc := desc, phys := q.devAddr, enc := q.enc, part := part, die := die, cls := field b 30 1, cores := 0, nv := 0, nh := 0
                  np := 0, entry := 0, arg := 0, future := 0, start := start, st := if newPending b hold = 0 then .ready else .pending } b

/-- The machine with a task that a spawn makes, in its queue if it waits for nothing. -/
def withTask (s : State) (die id : Nat) (b : List Byte) (hold : Bool) (x : Task) : State :=
  if newPending b hold = 0 then pass (enqueue (s.setTask id x) die (field b 30 1) id false) die else s.setTask id x

theorem spawnAt_eq {s : State} {part : Nat} {q : Place} {desc : Word} {b : List Byte} {start : Start} {hold : Bool} {die : Nat}
    (h : hold = true → field b 24 4 ≠ 0) : spawnAt s part q desc b start hold die =
      ((if hold then writeAt s part q 24 (leBytes 4 (newPending b hold)) else .ok s) >>= fun t =>
        writeAt t part q 40 (leBytes 8 (1 + 2 * die)) >>= fun u =>
          .ok (withTask u die (u.tasks.length + 1) b hold (spawnedTask part q desc b start hold die))) := by
  cases hold with
  | false => rfl
  | true =>
    have hno : (true && decide (field b 24 4 = 0)) = false := decide_eq_false (h rfl)
    simp only [spawnAt, hno]
    rfl

/-- What a host spawn leaves. -/
structure Spawned (s t : State) (a die cls id pend : Nat) (x : Task) : Prop where
  harts : t.harts = s.harts
  gangs : t.gangs = s.gangs
  task : t.task? id = some x
  queue : queueOf t die cls = if pend = 0 then queueOf s die cls ++ [id] else queueOf s die cls
  pending : numAt t (.dev (a + 24)) 4 = pend
  link : numAt t (.dev (a + 40)) 8 = 1 + 2 * die
  outside : memOutside s t [(.dev (a + 24), 4), (.dev (a + 40), 8), (.dev (a + 48), 8)]

theorem memOutside_of_mem {s t : State} (hm : t.mem = s.mem) (hc : t.cores = s.cores) : memOutside s t [] := fun x hx _ => by
  cases x with
  | regs => cases hx
  | spad c o => simp only [byteAt, State.coreAt, hc]
  | sdm c o => simp only [byteAt, State.coreAt, hc]
  | dev a => simp only [byteAt, hm]
  | host a => simp only [byteAt, hm]
  | remote p a => simp only [byteAt, hm]

theorem numAt_of_mem {s t : State} (hm : t.mem = s.mem) (hc : t.cores = s.cores) (a n : Nat) : numAt t (.dev a) n = numAt s (.dev a) n :=
  numAt_of_memOutside (memOutside_of_mem hm hc) fun _ hr => absurd hr List.not_mem_nil

theorem memOutside_mono {s t : State} {l l' : List (Loc × Nat)} (h : memOutside s t l) (hl : ∀ r, r ∈ l → r ∈ l') : memOutside s t l' :=
  fun x hx hno => h x hx fun r hr => hno r (hl r hr)

theorem spawned_of_pending {s t : State} {a die cls id pend : Nat} {x : Task}
    (h : Described s t a pend die [(.dev (a + 24), 4), (.dev (a + 40), 8)]) (hp : pend ≠ 0) : Spawned s (t.setTask id x) a die cls id pend x := by
  obtain ⟨⟨m, rfl⟩, -, -, hpend, hlink, hout⟩ := h
  have hset : memOutside { s with mem := m } (({ s with mem := m } : State).setTask id x) [] := memOutside_of_mem rfl rfl
  exact ⟨rfl, rfl, State.task?_setTask_self .., (if_neg hp).symm, (numAt_of_mem rfl rfl _ _).trans hpend,
    (numAt_of_mem rfl rfl _ _).trans hlink, memOutside_mono (memOutside_trans hout hset) (by simp +contextual)⟩

/-- A task with no event to wait for that joins an empty queue of a crowded die. -/
theorem spawned_of_ready {s t : State} {a die cls id : Nat} {x : Task}
    (h : Described s t a 0 die [(.dev (a + 24), 4), (.dev (a + 40), 8)]) (hc : crowded s die cls) (hal : a % 64 = 0)
    (hphys : x.phys = a) (henc : x.enc = false) (hst : x.st = .ready) (hcores : 1 ≤ x.cores) :
    Spawned s (pass (enqueue (t.setTask id x) die cls id false) die) a die cls id 0 x := by
  obtain ⟨⟨m, rfl⟩, hmaps, hplain, hpend, hlink, hout⟩ := h
  obtain ⟨hempty, htaken, hgangs⟩ := hc
  set w := ({ s with mem := m } : State).setTask id x with hw
  have hqueue : queueOf w die cls = [] := hempty cls
  have htask : (setQueue w die cls [id]).task? id = some x := State.task?_setTask_self _ id x
  have hnext := setQnext_outside htask hmaps henc (hphys ▸ hal) (hphys ▸ hplain) 0
  have hmem := setQnext_memOnly (setQueue w die cls [id]) id 0
  have henq : enqueue w die cls id false = setQnext (setQueue w die cls [id]) id 0 := by
    simp only [enqueue, hqueue, Bool.false_eq_true, if_false, List.nil_append, List.getLast?_nil]
  rw [henq]
  set u := setQnext (setQueue w die cls [id]) id 0 with hu
  have hq : ∀ c, queueOf u die c = if c = cls then [id] else [] := fun c => by
    rw [hmem.queueOf, queueOf_setQueue]
    exact if_congr Iff.rfl rfl (hempty c)
  have hsame : u.harts = s.harts ∧ u.gangs = s.gangs ∧ u.cores = s.cores ∧ u.task? id = some x := by
    obtain ⟨m', l', w', hall⟩ := hmem
    rw [hall]
    exact ⟨rfl, rfl, rfl, htask⟩
  obtain ⟨hharts, hgang, hcore, hx⟩ := hsame
  have hwait : Waiting u die cls id :=
    ⟨(hq cls).trans (if_pos rfl), fun c hne => (hq c).trans (if_neg hne), ⟨x, hx, hst, hcores⟩,
      fun c hc => by rw [State.coreAt, hcore]; exact htaken c hc, hgang ▸ hgangs⟩
  obtain ⟨⟨dies, hpass⟩, hqueues⟩ := pass_of_waiting hwait
  have hset : memOutside { s with mem := m } (setQueue w die cls [id]) [] := memOutside_of_mem rfl rfl
  have hend : memOutside u (pass u die) [] := memOutside_of_mem (by rw [hpass]) (by rw [hpass])
  have hafter : memOutside { s with mem := m } (pass u die) [(.dev (a + 48), 8)] :=
    hphys ▸ memOutside_mono (memOutside_trans (memOutside_trans hset hnext) hend) (by simp)
  have hnum : ∀ b n, b + n ≤ a + 48 → numAt (pass u die) (.dev b) n = numAt { s with mem := m } (.dev b) n := fun b n hb =>
    numAt_of_memOutside hafter fun r hr => ⟨a + 48, by rw [List.mem_singleton.1 hr], .inl hb⟩
  refine ⟨?_, ?_, ?_, ?_, (hnum _ _ (by omega)).trans hpend, (hnum _ _ (by omega)).trans hlink,
    memOutside_mono (memOutside_trans hout hafter) (by simp)⟩
  · rw [hpass]; exact hharts
  · rw [hpass]; exact hgang
  · rw [hpass]; exact hx
  · rw [hqueues, hq, if_pos rfl, if_pos rfl, hempty cls, List.nil_append]

/-! ### The spawn (R444) -/

theorem spawnAt_spawns {s : State} {q : Place} {a part die : Nat} {desc : Word} {start : Start} {hold : Bool} (hm : mapsAgree s)
    (hq : PlainDesc s q a) (hdie : die < 4) (hfit : descFits (bytes64 s q.loc) = true)
    (hhold : hold = true → field (bytes64 s q.loc) 24 4 ≠ 0)
    (hcrowd : crowded s die (field (bytes64 s q.loc) 30 1) ∨ newPending (bytes64 s q.loc) hold ≠ 0) :
    ∃ t, spawnAt s part q desc (bytes64 s q.loc) start hold die = .ok t ∧
      Spawned s t a die (field (bytes64 s q.loc) 30 1) (s.tasks.length + 1) (newPending (bytes64 s q.loc) hold)
        (spawnedTask part q desc (bytes64 s q.loc) start hold die) := by
  obtain ⟨m, hwhold, hmaps, hplain, hpend, hout⟩ := spawnHold hm hq part hold
  obtain ⟨u, hwlink, hdesc⟩ := spawnLink hmaps hq.loc hq.enc hq.aligned hplain hpend ⟨m, rfl⟩ hout part hdie
  have hlen : u.tasks.length = s.tasks.length := by
    obtain ⟨m', rfl⟩ := hdesc.mem
    rfl
  refine ⟨withTask u die (s.tasks.length + 1) (bytes64 s q.loc) hold (spawnedTask part q desc (bytes64 s q.loc) start hold die), ?_, ?_⟩
  · rw [spawnAt_eq hhold]
    exact bind_eq_ok.2 ⟨_, hwhold, bind_eq_ok.2 ⟨u, hwlink, by rw [hlen]⟩⟩
  unfold withTask
  split_ifs with hz
  · rw [hz] at hdesc ⊢
    exact spawned_of_ready hdesc (hcrowd.resolve_right (absurd hz)) hq.aligned hq.devAddr hq.enc (if_pos hz) (descFits_cores hfit).1
  · exact spawned_of_pending hdesc hz

/-- The launch record of a host spawn (R262, R444). -/
def launchRecord (s : State) (fn launch : Nat) (l : List Byte) : Prop :=
  (launch = 0 ∧ l = List.replicate 64 0) ∨ (launch % 64 = 0 ∧ launch ≠ 0 ∧
    ∃ r a, hostPlace s fn (s.partAt fn).hsctx .load launch = .ok (r, s) ∧ PlainDesc s r a ∧ l = bytes64 s r.loc)

/-- The spawn of a descriptor and a launch record that lie plainly (R444). -/
theorem hostSpawn_spawns {s t : State} {fn v a : Nat} {q : Place} {l : List Byte} (hv : v < 2 ^ 64) (hill : ¬ spawnIll s fn v)
    (hp : hostPlace s fn (s.partAt fn).hsctx .atomic (v / 2 ^ 6 % 2 ^ 50 * 64) = .ok (q, s)) (hq : PlainDesc s q a)
    (hl : launchRecord s fn (field (bytes64 s q.loc) 32 8) l) (hd : descOk (bytes64 s q.loc) (hsprioOf (s.partAt fn)) = true)
    (hlk : launchOk l = true) (ht : spawnAt s fn q (BitVec.ofNat 64 (v / 2 ^ 6 % 2 ^ 50 * 64)) (bytes64 s q.loc)
      (startOf l (s.partAt fn).hsctx (s.partAt fn).hstvec (hsprioOf (s.partAt fn)) (BitVec.ofNat 64 (field (bytes64 s q.loc) 32 8)))
      (v.testBit 2) (v % 4) = .ok t) : hostSpawn s fn v = .ok t := by
  have hdie : bits v 1 0 = v % 4 := congrArg (· % 2 ^ 2) (Nat.div_one v)
  have hok : (!descOk (bytes64 s q.loc) (hsprioOf (s.partAt fn)) || !launchOk l) = false := by rw [hd, hlk]; rfl
  refine (if_neg fun h => hill ((spawnIll_iff hv).1 h)).trans ?_
  refine bind_eq_ok.2 ⟨(q, s), hp, bind_eq_ok.2 ⟨bytes64 s q.loc, readAt_of_plainDesc hq fn _, ?_⟩⟩
  rw [hdie]
  rcases hl with ⟨h0, rfl⟩ | ⟨hal, h0, r, ra, hpr, hr, rfl⟩
  · refine (if_pos h0).trans (bind_eq_ok.2 ⟨(List.replicate 64 0, s), rfl, ?_⟩)
    exact (if_neg (by rw [hok]; decide)).trans ht
  · refine (if_neg h0).trans (bind_eq_ok.2 ⟨(), aligned_eq_ok.2 hal, bind_eq_ok.2 ⟨(r, s), hpr, ?_⟩⟩)
    refine bind_eq_ok.2 ⟨(bytes64 s r.loc, s), map_eq_ok.2 ⟨_, readAt_of_plainDesc hr fn _, rfl⟩, ?_⟩
    exact (if_neg (by rw [hok]; decide)).trans ht

end Sys2Proof.Machine.Claim
end

section
/-! ## Events of the host link and the fabric (O59) -/

namespace Sys2Proof.Machine.Claim
open Sys2Proof.Machine
set_option Elab.async false

/-! ### Writes of BAR 0 (R414, R415) -/

/-- A function whose partition does not exist takes no write (R414). -/
theorem barWrites_hidden {s : State} {fn : Fin 4} (hrec : s.stew.recording = false) (hl : (s.partAt fn.val).live = false) (v : Word) :
    exec (.mbtailWrite fn v) s = .next s ∧ exec (.winbaseWrite fn v) s = .next s ∧ exec (.hostSpawn fn v) s = .next s ∧
      ∀ off, exec (.registerWrite (0x300 + fn.val) off v) s = .next s := by
  have hnone : ∀ off, hostRegister s fn.val off v.toNat = s := fun off => hostRegister_hidden hrec hl off v.toNat
  exact ⟨congrArg _ (hnone 0x008), congrArg _ (hnone 0x020), congrArg _ (hnone 0x050),
    fun off => by rw [registerWrite_host, hnone]⟩

theorem barWrites_live {s : State} {fn : Fin 4} (hrec : s.stew.recording = false) (hl : (s.partAt fn.val).live = true) (v : Word) :
    exec (.mbtailWrite fn v) s = .next (writeMbtail s fn.val v.toNat) ∧ exec (.winbaseWrite fn v) s = .next (writeWinbase s fn.val v.toNat) ∧
      exec (.hostSpawn fn v) s = .next (writeHspawn s fn.val v.toNat) ∧
      exec (.registerWrite (0x300 + fn.val) 0x10 v) s = .next (writeMbbase s fn.val v.toNat) ∧
      exec (.registerWrite (0x300 + fn.val) 0x40 v) s = .next (submit s fn.val v.toNat) := by
  obtain ⟨htail, hbase, hwin, hcmd, hspawn⟩ := hostRegister_live hrec hl v.toNat
  refine ⟨congrArg _ htail, congrArg _ hwin, congrArg _ hspawn, ?_, ?_⟩
  · rw [registerWrite_host, hbase]
  · rw [registerWrite_host, hcmd]

/-! ### HSPAWN (R444) -/

theorem exec_hostSpawn {s : State} {fn : Fin 4} (hrec : s.stew.recording = false) (hl : (s.partAt fn.val).live = true) (v : Word) :
    exec (.hostSpawn fn v) s = .next (writeHspawn s fn.val v.toNat) := by
  obtain ⟨-, -, hspawn, -⟩ := barWrites_live hrec hl v
  exact hspawn

/-- A refused spawn of a partition that has named no ring changes nothing. -/
theorem hostSpawn_silent {s : State} {fn : Fin 4} {v : Word} (hrec : s.stew.recording = false) (hill : spawnIll s fn.val v.toNat)
    (hn : noRings s fn.val) : exec (.hostSpawn fn v) s = .next s := by
  cases hl : (s.partAt fn.val).live with
  | false =>
    obtain ⟨-, -, hnone, -⟩ := barWrites_hidden hrec hl v
    exact hnone
  | true =>
    rw [exec_hostSpawn hrec hl, writeHspawn_refused (hostSpawn_ill v.isLt hill) rfl Cause.noConfusion, send_of_noRings hn]

theorem hostSpawn_told_ill {s : State} {fn : Fin 4} {v : Word} (hrec : s.stew.recording = false) (hl : (s.partAt fn.val).live = true)
    (hill : spawnIll s fn.val v.toNat) (hr : ringReady s fn.val) : ∃ t, exec (.hostSpawn fn v) s = .next t ∧ systemSame s t ∧
      told s t fn.val 6 [(0, 8, v.toNat), (8, 1, causeCode .ill), (9, 1, 0), (10, 2, 1)] :=
  ⟨_, exec_hostSpawn hrec hl v, writeHspawn_tells (hostSpawn_ill v.isLt hill) rfl Cause.noConfusion hr v.isLt⟩

theorem hostSpawn_told_window {s : State} {fn : Fin 4} {v : Word} (hrec : s.stew.recording = false) (hl : (s.partAt fn.val).live = true)
    (hill : ¬ spawnIll s fn.val v.toNat) (hva : v.toNat / 2 ^ 6 % 2 ^ 50 * 64 / 2 ^ 40 ∈ [0xFFFE, 0xFFFF]) (hr : ringReady s fn.val) :
    ∃ t, exec (.hostSpawn fn v) s = .next t ∧ systemSame s t ∧ told s t fn.val 6 [(0, 8, v.toNat)] ∧
      numAt t (.host (ringSlot s fn.val + 16)) 1 ∈ [causeCode .page, causeCode .access] := by
  obtain ⟨x, hplace, hmedia, hcause⟩ := hostPlace_window (s := s) (fn := fn.val) (ctx := (s.partAt fn.val).hsctx) (acc := .atomic) hva
  have hne : x.cause ≠ .ue := by
    intro h
    rw [h] at hcause
    simp at hcause
  obtain ⟨hsame, htold⟩ := writeHspawn_tells (hostSpawn_noPlace v.isLt hill hplace) hmedia hne hr v.isLt
  refine ⟨_, exec_hostSpawn hrec hl v, hsame, told_mono htold (by simp), ?_⟩
  obtain ⟨-, hfields, -⟩ := htold
  have hnum := hfields (8, 1, causeCode x.cause) (by simp)
  rw [show ringSlot s fn.val + 16 = ringSlot s fn.val + 8 + 8 from rfl, hnum]
  exact List.mem_map_of_mem (f := causeCode) hcause

/-- What a task holds of its descriptor. -/
theorem spawnedTask_fields (part : Nat) (q : Place) (desc : Word) (b : List Byte) (start : Start) (hold : Bool) (die : Nat) :
    (spawnedTask part q desc b start hold die).entry.toNat = field b 0 8 ∧ (spawnedTask part q desc b start hold die).arg.toNat = field b 8 8 ∧
      (spawnedTask part q desc b start hold die).future.toNat = field b 16 8 :=
  ⟨Nat.mod_eq_of_lt (field_lt b 0 8), Nat.mod_eq_of_lt (field_lt b 8 8), Nat.mod_eq_of_lt (field_lt b 16 8)⟩

theorem hostSpawn_makes {s : State} {fn : Fin 4} {v : Word} {q : Place} {a : Nat} {l : List Byte} (hrec : s.stew.recording = false)
    (hm : mapsAgree s) (hl : (s.partAt fn.val).live = true) (hill : ¬ spawnIll s fn.val v.toNat)
    (hp : hostPlace s fn.val (s.partAt fn.val).hsctx .atomic (v.toNat / 2 ^ 6 % 2 ^ 50 * 64) = .ok (q, s)) (hq : PlainDesc s q a)
    (hlaunch : launchRecord s fn.val (field (bytes64 s q.loc) 32 8) l) (hd : descOk (bytes64 s q.loc) (hsprioOf (s.partAt fn.val)) = true)
    (hlk : launchOk l = true) (hhold : v.toNat.testBit 2 = true → field (bytes64 s q.loc) 24 4 ≠ 0)
    (hcrowd : crowded s (v.toNat % 4) (field (bytes64 s q.loc) 30 1) ∨ newPending (bytes64 s q.loc) (v.toNat.testBit 2) ≠ 0) :
    ∃ t, exec (.hostSpawn fn v) s = .next t ∧
      Spawned s t a (v.toNat % 4) (field (bytes64 s q.loc) 30 1) (s.tasks.length + 1) (newPending (bytes64 s q.loc) (v.toNat.testBit 2))
        (spawnedTask fn.val q (BitVec.ofNat 64 (v.toNat / 2 ^ 6 % 2 ^ 50 * 64)) (bytes64 s q.loc)
          (startOf l (s.partAt fn.val).hsctx (s.partAt fn.val).hstvec (hsprioOf (s.partAt fn.val))
            (BitVec.ofNat 64 (field (bytes64 s q.loc) 32 8))) (v.toNat.testBit 2) (v.toNat % 4)) := by
  have hfit : descFits (bytes64 s q.loc) = true := by
    simp only [descOk, Bool.and_eq_true] at hd
    exact hd.1
  obtain ⟨t, ht, hsp⟩ := spawnAt_spawns (part := fn.val) (desc := BitVec.ofNat 64 (v.toNat / 2 ^ 6 % 2 ^ 50 * 64))
    (start := startOf l (s.partAt fn.val).hsctx (s.partAt fn.val).hstvec (hsprioOf (s.partAt fn.val))
      (BitVec.ofNat 64 (field (bytes64 s q.loc) 32 8))) (hold := v.toNat.testBit 2) hm hq (Nat.mod_lt _ (by decide)) hfit hhold hcrowd
  refine ⟨t, ?_, hsp⟩
  rw [exec_hostSpawn hrec hl, writeHspawn, hostSpawn_spawns v.isLt hill hp hq hlaunch hd hlk ht]

/-! ### Requests of a port, and the log's next entry -/

theorem fabricInboundRequest_served {s : State} {port : Fin 64} {r : Request} (h : policed s port.val) :
    exec (.fabricInboundRequest port r) s = .next (serveFabric (spent s port.val) port.val r) := by
  rw [fabricInboundRequest_eq h.1, fabricRequest_policed h]

/-- A request that no window holds goes nowhere (R420). -/
theorem serveFabric_outside {s : State} {port : Nat} {r : Request} (h : ¬ windowHolds (s.portAt port) r = true) :
    serveFabric s port r = s := if_neg h

theorem serveFabric_performs {s : State} {port : Nat} {r : Request} (h : windowHolds (s.portAt port) r = true) :
    serveFabric s port r = afterRequest s (perform s { r with master := 0x400 + port, spad := none }) := if_pos h

/-- The machine once the next entry of the log has been taken. -/
def withScript (s : State) (rest : List Arrival) : State := { s with stew := { s.stew with script := rest } }

theorem replayInject_delivers {s t : State} {a : Arrival} {rest : List Arrival} (hr : s.stew.replay = true) (hs : s.stew.script = a :: rest)
    (ht : a.tick = s.reftime) (h : inject (withScript s rest) a.what = some t) : exec (.replayInject a) s = .next t := by
  rw [replayInject_at_tick hr hs ht]
  exact congrArg (fun o : Option State => Host.Outcome.next (o.getD (s.diverge .arrival))) h

theorem exec_hostInboundWrite {s : State} (hrec : s.stew.recording = false) (fn : Fin 4) (off : Nat) (d : HostData) :
    exec (.hostInboundWrite fn off d) s = .next (hostData s fn.val off d) := by
  simp only [exec, execHostInboundWrite, arrives_of_quiet hrec]

theorem exec_hostInboundRead {s : State} (hrec : s.stew.recording = false) (fn : Fin 4) (x : HostAddr) (n : Nat) :
    exec (.hostInboundRead fn x n) s = .next (hostReadAt s fn.val x n) := by
  simp only [exec, execHostInboundRead, arrives_of_quiet hrec]

theorem exec_barWrite {s : State} (hrec : s.stew.recording = false) (fn : Fin 4) (off : Nat) {v : Nat} (hv : v < 2 ^ 64) :
    exec (.registerWrite (0x300 + fn.val) off (BitVec.ofNat 64 v)) s = .next (barWrite s fn.val off v) := by
  rw [registerWrite_host, hostRegister, arrives_of_quiet hrec, BitVec.toNat_ofNat, Nat.mod_eq_of_lt hv]

theorem replayInject_port {s : State} {a : Arrival} {rest : List Arrival} {port : Fin 64} {r : Request} (hrec : s.stew.recording = false)
    (hr : s.stew.replay = true) (hs : s.stew.script = a :: rest) (ht : a.tick = s.reftime) (ha : a.what = .port port.val r) :
    exec (.replayInject a) s = if (s.portAt port.val).up = true then exec (.fabricInboundRequest port r) (withScript s rest)
      else .next { s with stew := { s.stew with diverged := s.stew.diverged.or (some (s.reftime, .arrival)) } } := by
  have hport : inject (withScript s rest) a.what =
      if (s.portAt port.val).up = true then some (fabricRequest (withScript s rest) port.val r) else none := by
    rw [ha]
    rfl
  by_cases hu : (s.portAt port.val).up = true
  · rw [if_pos hu, fabricInboundRequest_eq (s := withScript s rest) hrec]
    exact replayInject_delivers hr hs ht (hport.trans (if_pos hu))
  · rw [if_neg hu, ← diverge_of_replay hr .arrival, replayInject_at_tick hr hs ht]
    exact congrArg (fun o : Option State => Host.Outcome.next (o.getD (s.diverge .arrival))) (hport.trans (if_neg hu))

/-! ### Requests that the window refuses -/

theorem systemSame_of_setPartAt {s t : State} {p : Nat} {x : Partition} (h : systemSame (s.setPartAt p x) t) : systemSame s t := h

theorem hostInboundWrite_tells {s : State} {fn : Fin 4} {off : Nat} {data : List Byte} {x : TrapInfo} (hrec : s.stew.recording = false)
    (hl : (s.partAt fn.val).live = true) (hm : mapsAgree s) (h0 : 0 < data.length) (hg : off % 4096 + data.length ≤ 4096)
    (hx : windowPlace s fn.val off data.length .store = .error (.trap x)) (hmed : x.media = none) (hue : x.cause ≠ .ue)
    (hr : ringReady s fn.val) (hpa : (s.partAt fn.val).winbase + off < 2 ^ 64) :
    ∃ t, exec (.hostInboundWrite fn off (.bytes data)) s = .next t ∧ systemSame s t ∧
      told (s.setPartAt fn.val { s.partAt fn.val with aer := true }) t fn.val 5 [(0, 8, (s.partAt fn.val).winbase + off)] := by
  have hready := ringReady_erred hr
  have htold := told_notice hready hpa
  have hsame := putHost_systemSame (s.setPartAt fn.val { s.partAt fn.val with aer := true }) fn.val
    (message 5 (leBytes 8 ((s.partAt fn.val).winbase + off)))
  rw [hostInboundWrite_bytes hrec hl, hostWrite_refused hm h0 hg hx hmed hue]
  rw [send_of_ringReady hready] at htold ⊢
  exact ⟨_, rfl, systemSame_of_setPartAt hsame, htold⟩

/-! ### The obligation -/

/-- Settles O59: a request through the window by the walk that finds its bytes, a register by its write or read alone, a spawn by the
fields that it leaves and the head that waits, a port's request by the token it takes, and a replay by what it injects. -/
theorem hostLinkEvents : Obligations.HostLinkEvents := by
  unfold Obligations.HostLinkEvents
  refine ⟨fun s fn off hm hrec => ?_, fun s fn v hrec => ?_, fun s fn v hrec => ?_, fun s port r hrec => ?_, fun s a rest hrec => ?_⟩
  · -- Requests through the window.
    intro p part erred refused reached bytesAt readable
    have reaches : ∀ n d l, reached n d l → Reaches s fn.val off n d l := fun n d l ⟨h1, h2, ⟨h3, h4⟩, h5, h6, h7, h8, h9⟩ =>
      ⟨h1, h2, h3, h4, h5, h6, h7, h8, h9⟩
    refine ⟨fun hl => (hostInbound_hidden hrec hl).imp_left fun h => h off, fun hl => ⟨?_, fun data d l h hw hu => ?_,
      fun n d l h hr hb => ?_, fun q n d l hc ho hd h hr hw hu hb hty => ?_, fun q n h => ?_, fun n acc h => ?_,
      fun data ⟨h0, hg⟩ ⟨x, hx, hmed, hue⟩ => ⟨fun hn => ?_, fun hr hpa => ?_⟩,
      fun n ⟨h0, hg⟩ ⟨x, hx, hmed, hue⟩ hn => ?_, ?_⟩⟩
    · exact hostInboundWrite_bytes hrec hl off []
    · rw [hostInboundWrite_bytes hrec hl]
      obtain ⟨t, ht, hd⟩ := hostWrite_of_reaches hm hu (reaches _ _ _ h) hw
      exact ⟨t, congrArg Host.Outcome.next ht, hd⟩
    · rw [hostInboundRead_window hrec hl, hostRead_of_reaches hm (reaches _ _ _ h) hr hb]
      rfl
    · obtain ⟨t, ht, hup⟩ := hostAtomic_of_reaches hm hu hc ho hd (reaches _ _ _ h) hr hw hb hty
      have hshown := hup.setPartAt fn.val { t.partAt fn.val with lastRead := some (Claim.bytesAt s d n) }
      refine ⟨_, (hostInboundWrite_atomic hrec hl off q n).trans (congrArg Host.Outcome.next ht), ?_, hshown.outside, hshown.same, hshown.value⟩
      rw [State.partAt_setPartAt_self]
      rfl
    · rw [hostInboundWrite_atomic hrec hl, hostAtomic_unsupported h]
    · exact ⟨_, windowPlace_outside acc h, rfl, Cause.noConfusion⟩
    · rw [hostInboundWrite_bytes hrec hl, hostWrite_refused hm h0 hg hx hmed hue, send_of_noRings (noRings_erred hn)]
    · exact hostInboundWrite_tells hrec hl hm h0 hg hx hmed hue hr hpa
    · rw [hostInboundRead_window hrec hl, hostRead_refused hm h0 hg hx hmed hue hn, answerHost_setPartAt]
    · refine ⟨?_, ?_, ?_, ?_, ?_, ?_, ?_⟩
      · rw [← mbheadOf_eq]
        exact hostInboundRead_answers hrec hl rfl
      all_goals exact hostInboundRead_answers hrec hl rfl
  · -- The registers of BAR 0, of the service block and of the steward.
    intro p bar
    refine ⟨fun hl => ⟨energyLoRead_hidden hrec hl, barWrites_hidden hrec hl v⟩, fun hl => ?_, rfl, fun h => ?_,
      fun m hm hp => ⟨?_, ?_, ?_, ?_⟩,
      fun m h1 h2 => registerWrite_rate v h1 h2, fun m a h1 h2 ha => registerWrite_steward_bounds h1 h2 ha,
      fun m a h => registerWrite_fabric a v h⟩
    · obtain ⟨htail, hwin, -, hbase, hcmd⟩ := barWrites_live hrec hl v
      refine ⟨energyLoRead_latches hrec hl, fun h => ?_, fun m hheld hb hroom hlen => ?_, hwin, registerWrite_host fn 0x08 v s,
        registerWrite_host fn 0x20 v s, registerWrite_host fn 0x50 v s, hbase, ?_⟩
      · rw [htail, writeMbtail_stays h]
      · exact ⟨_, htail, mbtail_shows hheld hb hroom hlen⟩
      · rw [hcmd, submit_eq]
    · exact congrArg Host.Outcome.next (writeDmtail_stays h v.toNat)
    all_goals exact registerWrite_service v hm hp (by decide) (by decide)
  · -- Spawns of the host.
    intro p die hold va ill plain
    have plainDesc : ∀ q a, plain q a → PlainDesc s q a := fun q a ⟨h1, h2, _, h4, h5, h6⟩ => ⟨h1, h2, h4, h5, h6⟩
    refine ⟨fun ⟨hill, hn⟩ => hostSpawn_silent hrec hill hn, fun hl hill hr => hostSpawn_told_ill hrec hl hill hr,
      fun hl hill hva hr => hostSpawn_told_window hrec hl hill hva hr, ?_⟩
    intro q a l hm b launch pend id hl hill hp hq hlaunch hd hlk hhold hcrowd
    have hrecord : launchRecord s fn.val launch l := hlaunch.imp_right fun ⟨h1, h2, r, ra, h3, h4, h5⟩ =>
      ⟨h1, h2, r, ra, h3, plainDesc r ra h4, h5⟩
    obtain ⟨t, ht, hsp⟩ := hostSpawn_makes hrec hm hl hill hp (plainDesc q a hq) hrecord hd hlk hhold hcrowd
    obtain ⟨hentry, harg, hfut⟩ := spawnedTask_fields fn.val q (BitVec.ofNat 64 va) b
      (startOf l p.hsctx p.hstvec (hsprioOf p) (BitVec.ofNat 64 launch)) hold die
    exact ⟨t, _, ht, hsp.harts, hsp.gangs, hsp.task, rfl, rfl, rfl, rfl, rfl, rfl, hentry, harg, hfut, rfl, hsp.queue, hsp.pending, hsp.link,
      hsp.outside⟩
  · -- Requests of a port.
    intro p holds tokens
    refine ⟨fun hu => ?_, fun hu ht => ?_, fun hp hno => ?_, fun hp hin => ?_⟩
    · rw [fabricInboundRequest_eq hrec, fabricRequest_down hu]
    · rw [fabricInboundRequest_eq hrec, fabricRequest_waits hu ht]
    · rw [fabricInboundRequest_served hp, serveFabric_outside]
      rw [windowHolds_spent, windowHolds_iff]
      exact hno
    · have hw : windowHolds ((spent s port.val).portAt port.val) r = true := by
        rw [windowHolds_spent, windowHolds_iff]
        exact hin
      exact ⟨_, fabricInboundRequest_served hp, congrArg Host.Outcome.next (serveFabric_performs hw).symm⟩
  · -- The entries of a replay.
    intro ended next
    refine ⟨fun h => replayInject_idle a h, fun hr hs b hb => ?_, fun hr hs ht => ?_, fun hr hs ht => ⟨fun fn off d ha => ?_,
      fun fn x n ha => ?_, fun fn off v ha hv => ?_, fun port r ha => replayInject_port hrec hr hs ht ha, fun b ha => ?_,
      fun i c op b signed ha hc hi hop hparse hlock => ?_⟩⟩
    · rw [replayInject_eq hr hs, if_pos hb]
    · rw [replayInject_eq hr hs, if_neg (not_or.2 ⟨not_not.2 rfl, by omega⟩), if_pos ht, diverge_of_replay hr]
    · rw [exec_hostInboundWrite (s := next) hrec]
      exact replayInject_delivers hr hs ht (by rw [ha]; rfl)
    · rw [exec_hostInboundRead (s := next) hrec]
      exact replayInject_delivers hr hs ht (by rw [ha]; rfl)
    · rw [exec_barWrite (s := next) hrec fn off hv]
      exact replayInject_delivers hr hs ht (by rw [ha]; rfl)
    · exact replayInject_delivers hr hs ht (by rw [ha]; rfl)
    · subst hc
      rw [exec_command_of_port (s := next) hrec hi hop ((parseCommand_of_port b signed next s).trans hparse) hlock]
      exact replayInject_delivers hr hs ht (by rw [ha]; rfl)

end Sys2Proof.Machine.Claim
end

section
/-! ## The memories at reset (O6) -/

namespace Sys2Proof.Machine.Claim
open Sys2Proof.Machine
set_option Elab.async false

theorem memOk_reset : memOk State.reset := ⟨rfl, rfl, fun _ _ h => absurd h List.not_mem_nil⟩

/-- No hart runs after reset, so that a word is placed with tables and a hart of its own (log 1). -/
theorem fetchPlace_reset : fetchPlace State.reset = none := rfl

theorem memOk_withHart {s : State} (h : memOk s) : memOk (withHart s) := by
  simp only [memOk, withHart, State.setHartAt_mem, State.setPartAt_mem]
  obtain ⟨hdev, hhost, hpeers⟩ := h
  exact ⟨Memory.wf_writeNat (Memory.wf_writeNat (Memory.wf_writeNat (Memory.wf_writeNat hdev _ _ _) _ _ _) _ _ _) _ _ _, hhost, hpeers⟩

/-- Settles O6: reset lists no byte, and every word that is placed is written by a memory operation. -/
theorem memoryCanonicalAtReset : Obligations.MemoryCanonicalAtReset := by
  unfold Obligations.MemoryCanonicalAtReset
  refine ⟨memOk_reset, fun nbits w => ?_⟩
  obtain ⟨hdev, hhost, hpeers⟩ := memOk_withHart memOk_reset
  rw [State.withFetchWord, fetchPlace_reset]
  exact ⟨Memory.wf_writeNat hdev .., hhost, hpeers⟩

end Sys2Proof.Machine.Claim
end

section
/-! ## Atomics at a place that serves the hart (O29) -/

namespace Sys2Proof.Machine.Claim
open Sys2Proof.Machine
set_option Elab.async false

theorem translate_splitPage_atomic : translate splitPage splitPage.turn .atomic false 0 = .ok (splitPlace, splitPage) := by
  rfl

theorem amoLd_splitPage_stops : doneAfter (exec (.amoLd 1 0 .i64 false 0) splitPage) = 0 := by
  rfl

/-- amo.ld.i64 as the statement takes it apart. -/
def splitPageAmo : Amo := { d := 1, a := 0, t := .i64, acquire := false, release := false, new := fun _ => none }

/-- Refutes O29: as for O19, a kept translation whose page begins in the middle of a codeword splits an aligned amo.ld over two
codewords; `serves` asks for the first alone, the second is unreadable, and the amo.ld traps. -/
theorem not_atomics : ¬ Obligations.Atomics := by
  unfold Obligations.Atomics
  rintro ⟨hone, -⟩
  obtain ⟨t, ht, hhart, -⟩ := hone (.amoLd 1 0 .i64 false 0) splitPage splitPage splitPlace splitPageAmo rfl rfl ⟨rfl, rfl, rfl⟩ rfl
    translate_splitPage_atomic serves_splitPage
  have hdone : doneAfter (exec (.amoLd 1 0 .i64 false 0) splitPage) = 1 := by
    rw [ht]
    exact congrArg Hart.done hhart
  rw [amoLd_splitPage_stops] at hdone
  exact absurd hdone (by decide)

end Sys2Proof.Machine.Claim
end

section
/-! ## Frames of vector registers (O50) -/

namespace Sys2Proof.Machine.Claim
open Sys2Proof.Machine
set_option Elab.async false

/-- The frame of no register is its header alone. -/
theorem length_frameOf_none (v : Nat → VReg) (len : Nat) : (frameOf v len 0).length = 64 := by
  have hregs : maskRegs 0 = [] := rfl
  simp only [frameOf, hregs, pad64, List.flatMap_nil, List.length_append, length_leBytes, List.length_replicate, List.length_nil]
  rfl

theorem inSpad_replOwed_frame : inSpad replOwed Config.localBase 64 := by
  refine ⟨by decide, by decide, rfl, fun i hi => ?_⟩
  rfl

theorem vstmSpill_replOwed_drains : owedAfter (exec (.vstmSpill 0 1 0) replOwed) = [] := by
  rfl

/-- Refutes O50: as for O49, a frame is stored as an ordered vector store of its bytes (R48), which performs after the die instants of
the hart's earlier stores (R107 row 2, R127) and so clears the updates in flight; `vecStored` holds the memory system as it was. -/
theorem not_streamsFramesAndVectorAtomics : ¬ Obligations.StreamsFramesAndVectorAtomics := by
  unfold Obligations.StreamsFramesAndVectorAtomics
  rintro ⟨⟨-, -, hspill, -⟩, -⟩
  have hframe : inSpad replOwed Config.localBase (frameOf replOwed.hart.vreg (replOwed.lenOf replOwed.turn) 0).length := by
    rw [length_frameOf_none]
    exact inSpad_replOwed_frame
  obtain ⟨t, ht, hstored, -⟩ := hspill replOwed 0 1 0 vecReady_replOwed ⟨rfl, rfl, rfl⟩ rfl hframe
  obtain ⟨-, -, hmem, -⟩ := hstored
  have howed : t.mem.repl = [] := (congrArg owedAfter ht).symm.trans vstmSpill_replOwed_drains
  rw [hmem] at howed
  exact absurd howed (by decide)

end Sys2Proof.Machine.Claim
end

section
/-! ## A vector instruction that commits to an empty queue -/

namespace Sys2Proof.Machine.Claim
open Sys2Proof.Machine
set_option Elab.async false

/-! ### The queue of one entry -/

/-- Operations whose commit captures nothing but the control values: they count a tag, and no stochastic rounding. -/
def plainOp (op : VOp) : Bool :=
  match op with
  | .setvl .. | .setrows .. | .vwhile .. | .eng .. => true
  | _ => false

/-- The machine in which an entry that has just joined an empty queue runs (R149). -/
def pushed (s : State) (e : VEntry) : State :=
  vecNext s { s.hart with
    viq := [committed s e], pc := s.hart.pc + 4, seq := (s.hart.seq + 1) % 2 ^ 32
    sync := (e.op.owes.map fun d => ({ reg := d } : SyncRead)).toList }

theorem rounds_of_plain {e : VEntry} (h : plainOp e.op = true) : e.rounds = false := by
  unfold plainOp at h
  unfold VEntry.rounds
  cases hop : e.op <;> simp [hop] at h ⊢

theorem committed_of_plain (s : State) {e : VEntry} (h : plainOp e.op = true) :
    committed s e = { e with
      seq := s.hart.seq, pc := s.hart.pc, rows := s.hart.vrows, vmk := s.hart.vmk, fpctl := s.hart.fpctl, age := s.core.age
      stride := match e.op with | .eng .. => e.stride | _ => s.hart.vstride } :=
  if_neg (by
    have hr : (VEntry.rounds _) = false := rounds_of_plain (e := { e with
      seq := s.hart.seq, pc := s.hart.pc, rows := s.hart.vrows, vmk := s.hart.vmk, fpctl := s.hart.fpctl, age := s.core.age
      stride := match e.op with | .eng .. => e.stride | _ => s.hart.vstride }) h
    exact ne_of_eq_of_ne hr Bool.false_ne_true)

theorem op_committed (s : State) {e : VEntry} (h : plainOp e.op = true) : (committed s e).op = e.op := by
  rw [committed_of_plain s h]

theorem signal_committed (s : State) {e : VEntry} (h : plainOp e.op = true) : (committed s e).signal = e.signal := by
  rw [committed_of_plain s h]

theorem hartAt_pushed (s : State) (e : VEntry) : (pushed s e).hartAt s.turn = { s.hart with
    viq := [committed s e], pc := s.hart.pc + 4, seq := (s.hart.seq + 1) % 2 ^ 32
    sync := (e.op.owes.map fun d => ({ reg := d } : SyncRead)).toList } :=
  Table.get_set_self ..

theorem hartAt_pushed_of_ne (s : State) (e : VEntry) {k : Nat} (h : k ≠ s.turn) : (pushed s e).hartAt k = s.hartAt k :=
  Table.get_set_of_ne _ _ _ h

theorem coreAt_pushed (s : State) (e : VEntry) : (pushed s e).coreAt (coreOf s.turn) = { s.core with age := s.core.age + 1 } :=
  Table.get_set_self ..

theorem coreAt_pushed_of_ne (s : State) (e : VEntry) {c : Nat} (h : c ≠ coreOf s.turn) : (pushed s e).coreAt c = s.coreAt c :=
  Table.get_set_of_ne _ _ _ h

/-- An entry that joins an empty queue runs at once (log 3). -/
theorem push_of_idle {s : State} {e : VEntry} (hv : s.hart.viq = []) (hy : s.hart.sync = []) (h : plainOp e.op = true) :
    push s e = runHead (pushed s e) s.turn := by
  have hop := op_committed s h
  have hrounds : (committed s e).rounds = false := rounds_of_plain (hop.symm ▸ h)
  rw [push]
  simp only [hv, hy, hrounds, hop, if_true, List.nil_append]
  cases hop' : e.op <;> simp only [hop', plainOp, Bool.false_eq_true] at h
  all_goals
    simp only [pushed, hop']
    rfl

theorem commit_of_idle {s : State} {e : VEntry} (hi : idleQueue s) : commit s e = push s e := by
  obtain ⟨hk, ht, hv, hy, -⟩ := hi
  have hcommits : s.hart.commits = true := by simp [Hart.commits, hk, ht]
  have hfull : s.hart.full e.op = false := by simp [Hart.full, hv, hy, Config.viqSlots, Config.syncSlots]
  rw [commit, hcommits, hfull]
  rfl

/-! ### The oldest entry is done -/

/-- Nothing follows the end of a hart's entry: no read waits behind it, no debug unit traces it, no hole comes from it. -/
structure Ended (t : State) (k : Nat) : Prop where
  sync : (t.hartAt k).sync = []
  step : (t.hartAt k).stepElems = none
  holes : (t.coreAt (coreOf k)).holes = []
  dbg : (t.coreAt (coreOf k)).dbg = []

/-- The machine with the completion that an entry of the engine has asked for (R378). -/
def signalled (s : State) (k : Nat) (e : VEntry) : State :=
  match e.signal with
  | some (kind, va, status) => cplDone s k kind e va status
  | none => s

/-- Reads that wait for a vector result deliver nothing themselves. -/
theorem settleSync_of_owed {s : State} {k : Nat} (h : ∀ r, r ∈ (s.hartAt k).sync → r.num = none) : settleSync s k = s := by
  refine if_neg ?_
  rw [List.any_eq_true]
  rintro ⟨r, hr, hdue⟩
  rw [h r hr] at hdue
  exact Bool.false_ne_true hdue

theorem flagsRead_of_owed {h : Hart} (hs : ∀ r, r ∈ h.sync → r.num = none) : h.flagsRead = false := by
  rw [Hart.flagsRead, List.any_eq_false]
  intro r hr
  simp [hs r hr]

theorem runHead_done {p t : State} {k : Nat} {e e' : VEntry} (hv : (p.hartAt k).viq = [e])
    (hy : ∀ r, r ∈ (p.hartAt k).sync → r.num = none) (hadv : advance p k e = .done t e') (he : Ended t k) :
    runHead p k = signalled (t.setHartAt k (leftQueue (t.hartAt k))) k e' := by
  obtain ⟨hsync, hstep, hholes, hdbg⟩ := he
  simp only [runHead, headTurn, settleSync_of_owed hy, hv, flagsRead_of_owed hy, hadv, settle, closeTrace_of_nil hdbg,
    retire_of_plain hsync hholes hstep, signalled]
  cases e'.signal <;> rfl

theorem runWhole_of_nil {s : State} {k : Nat} (h : (s.coreAt (coreOf k)).dbg = []) (hs : (s.hartAt k).stepElems = none) (e : VEntry)
    (act : Run) : runWhole s k e act = act :=
  if_neg (by rw [debugCut_of_nil h hs]; exact nofun)

/-- An entry that needs no begin record goes on whether or not one stands open (R404). -/
theorem traced_done {s t : State} {k : Nat} {e : VEntry} {P : VEntry → Prop} (hd : (s.coreAt (coreOf k)).dbg = [])
    (hgo : ∀ o, ∃ e', goOn s k { e with opened := o } = .done t e' ∧ P e') : ∃ e', traced s k e = .done t e' ∧ P e' := by
  obtain ⟨e₀, hsame, hP⟩ := hgo e.opened
  obtain ⟨e₁, hopen, hP'⟩ := hgo true
  rw [traced]
  split
  · exact ⟨e₀, hsame, hP⟩
  · simp only [hopen, tracing_of_nil hd]
    exact ⟨e₁, rfl, hP'⟩

/-- An entry whose registers are bound to no stream for writing is done with its operation (R65). -/
theorem goOn_done {s t : State} {k : Nat} {e e' : VEntry} (hph : e.phase = 1) (hrun : runOp s k e = .done t e')
    (hout : outStreams (t.hartAt k) e' = []) : goOn s k e = .done (markRegs t k e' false) e' := by
  simp only [goOn, hph, hrun, afterOp, hout]
  rfl

/-! ### Entries without vector registers -/

/-- Operations on no vector register. -/
def bareOp (op : VOp) : Bool :=
  match op with
  | .setvl .. | .setrows .. | .eng .. => true
  | _ => false

theorem plain_of_bare {op : VOp} (h : bareOp op = true) : plainOp op = true := by
  cases op <;> simp [bareOp, plainOp] at h ⊢

theorem dests_of_bare {e : VEntry} (h : bareOp e.op = true) : destsOf e.op = [] ∧ sourcesOf e.op = [] ∧ tileRegs e.op = [] ∧
    counted e.op = false ∧ e.maskDest = [] ∧ ∀ s k, arrayGate s k e = .go := by
  unfold VEntry.maskDest arrayGate
  cases hop : e.op <;> simp [hop, bareOp, destsOf, sourcesOf, tileRegs, counted] at h ⊢

theorem markRegs_of_bare {s : State} {k : Nat} {e : VEntry} (h : bareOp e.op = true) (busy : Bool) : markRegs s k e busy = s := by
  obtain ⟨hdest, -, -, -, hmask, -⟩ := dests_of_bare h
  rw [markRegs, hdest, hmask]
  rfl

/-- The entry that has begun, without or with a begin record. -/
def begun (s : State) (e : VEntry) (o : Bool) : VEntry :=
  { committed s e with count := s.hart.vl, phase := 1, old := [], opened := o }

theorem beginEntry_bare {s : State} {k : Nat} {e : VEntry} (h : bareOp e.op = true) :
    beginEntry s k e = .done s { e with count := (s.hartAt k).vl, phase := 1, old := [] } := by
  obtain ⟨hdest, hsrc, htile, hcount, hmask, -⟩ := dests_of_bare h
  have hcheck : checkEntry s k { e with count := (s.hartAt k).vl } = none := by
    simp [checkEntry, hdest, hsrc, htile, hcount]
  have hwrites : ({ e with count := (s.hartAt k).vl } : VEntry).writes = [] := by
    have hmask' : ({ e with count := (s.hartAt k).vl } : VEntry).maskDest = [] := hmask
    simp [VEntry.writes, hdest, hmask']
  simp only [beginEntry, hcheck, hsrc, List.drop_nil, readStreams, hwrites]
  rfl

/-- An instruction on no vector register that joins an empty queue: its entry acts and leaves (log 3). -/
theorem push_bare {s t : State} {e : VEntry} {P : VEntry → Prop} (hi : idleQueue s) (hb : bareOp e.op = true) (hph : e.phase = 0)
    (hrun : ∀ o, ∃ e', runOp (pushed s e) s.turn (begun s e o) = .done t e' ∧ e'.op = e.op ∧ P e') (he : Ended t s.turn) :
    ∃ e', P e' ∧ push s e = signalled (t.setHartAt s.turn (leftQueue (t.hartAt s.turn))) s.turn e' := by
  have hplain := plain_of_bare hb
  have hop : bareOp (committed s e).op = true := by rw [op_committed s hplain]; exact hb
  obtain ⟨-, -, -, -, -, hgate⟩ := dests_of_bare hop
  obtain ⟨-, -, hv, hy, hs, -, hd⟩ := id hi
  have hdbg : ((pushed s e).coreAt (coreOf s.turn)).dbg = [] := by rw [coreAt_pushed]; exact hd
  have hgo : ∀ o, ∃ e', goOn (pushed s e) s.turn (begun s e o) = .done t e' ∧ P e' := fun o => by
    obtain ⟨e', hdone, hop', hP⟩ := hrun o
    rw [← hop'] at hb
    obtain ⟨hdest, -⟩ := dests_of_bare hb
    have hout : outStreams (t.hartAt s.turn) e' = [] := by simp [outStreams, hdest]
    exact ⟨e', by rw [goOn_done rfl hdone hout, markRegs_of_bare hb], hP⟩
  obtain ⟨e', htraced, hP⟩ := traced_done (e := begun s e (committed s e).opened) hdbg hgo
  have hphase : (committed s e).phase = 0 := by rw [committed_of_plain s hplain]; exact hph
  have hvl : ((pushed s e).hartAt s.turn).vl = s.hart.vl := by rw [hartAt_pushed]
  have hadv : advance (pushed s e) s.turn (committed s e) = .done t e' := by
    rw [← htraced, advance, if_neg (by rw [hphase]; exact fun h => h rfl), hgate, beginEntry_bare hop, hvl]
    rfl
  refine ⟨e', hP, ?_⟩
  rw [push_of_idle hv hy hplain, runHead_done (by rw [hartAt_pushed]) ?_ hadv he]
  intro r hr
  rw [hartAt_pushed, Option.mem_toList, Option.map_eq_some_iff] at hr
  obtain ⟨d, -, rfl⟩ := hr
  rfl

end Sys2Proof.Machine.Claim
end

section
/-! ## Vector lengths and loops (O42) -/

namespace Sys2Proof.Machine.Claim
open Sys2Proof.Machine
set_option Elab.async false

/-! ### setvl and setrows (R213, R307, R308) -/

/-- Of the machine that an entry joined, only the executing hart is left to change. -/
theorem setHartAt_vecNext (s : State) (x y : Hart) : (vecNext s x).setHartAt s.turn y = vecNext s y :=
  congrArg (fun l => { s with harts := l, cores := Table.set s.cores (coreOf s.turn) { s.core with age := s.core.age + 1 } })
    (table_set_set s.harts s.turn x y)

theorem setHartAt_pushed (s : State) (e : VEntry) (x : Hart) : (pushed s e).setHartAt s.turn x = vecNext s x := setHartAt_vecNext ..

theorem setHartAt_setHartAt (s : State) (k : Nat) (x y : Hart) : (s.setHartAt k x).setHartAt k y = s.setHartAt k y :=
  congrArg (fun l => { s with harts := l }) (table_set_set s.harts k x y)

theorem setReg_setReg (h : Hart) (d : Reg) (v : Word) : (h.setReg d v).setReg d v = h.setReg d v := by
  by_cases hd : d = 0
  · subst hd
    rfl
  · simp [Hart.setReg, hd, Vector.set_set]

/-- The hart with the strips of a setvl, where no strip is open (R213). -/
def stripped (h : Hart) (e : VEntry) : Hart :=
  if h.pmode.testBit 1 then { h with ckpt := some (checkpointOf h e), unprot := false, used := 0, again := false }
  else { h with ckpt := none, unprot := false, used := 0, again := false }

theorem newStrip_of_noStrip {s : State} {k : Nat} {e : VEntry} (hc : (s.hartAt k).ckpt = none) (hs : (s.hartAt k).strip = [])
    (hu : (s.hartAt k).used = 0) : newStrip s k e = s.setHartAt k (stripped (s.hartAt k) e) := by
  have hkept : ({ s.hartAt k with strip := [], used := 0 } : Hart) = s.hartAt k := by rw [← hs, ← hu]
  have hcommit : commitStrip s k = s.setHartAt k (s.hartAt k) := by
    rw [commitStrip, hs]
    exact congrArg (s.setHartAt k) hkept
  simp only [newStrip, hcommit, State.hartAt_setHartAt_self, setHartAt_setHartAt, hc, Option.any_none, Bool.and_false]
  rfl

theorem widOf_eq (wid : BitVec 2) : widOf wid = if wid = 0 then 32 else if wid = 1 then 64 else if wid = 2 then 16 else 8 := by
  revert wid
  decide

/-- The grant does not depend on the entry that has joined (R307). -/
theorem grantOf_pushed (s : State) (e : VEntry) (w n : Nat) : grantOf (pushed s e) s.turn w n = grantOf s s.turn w n := by
  simp only [grantOf, vlBytes, State.lenOf, hartAt_pushed, coreAt_pushed]
  rfl

theorem hartAt_vecNext (s : State) (x : Hart) : (vecNext s x).hartAt s.turn = x := Table.get_set_self ..

theorem hart_vecNext (s : State) (x : Hart) : (vecNext s x).hart = x := hartAt_vecNext s x

theorem coreAt_vecNext (s : State) (x : Hart) : (vecNext s x).coreAt (coreOf s.turn) = { s.core with age := s.core.age + 1 } :=
  Table.get_set_self ..

/-- Where nothing of the executing hart is under way, the end of its entry brings nothing with it. -/
theorem ended_vecNext {s : State} {x : Hart} (hi : idleQueue s) (hy : x.sync = []) (hs : x.stepElems = none) :
    Ended (vecNext s x) s.turn := by
  obtain ⟨-, -, -, -, -, hh, hd⟩ := hi
  exact ⟨by rw [hartAt_vecNext]; exact hy, by rw [hartAt_vecNext]; exact hs, by rw [coreAt_vecNext]; exact hh,
    by rw [coreAt_vecNext]; exact hd⟩

/-- An instruction that changes nothing but the executing hart. -/
theorem push_bare_hart {s : State} {e : VEntry} {x : Hart} (hi : idleQueue s) (hb : bareOp e.op = true) (hph : e.phase = 0)
    (hrun : ∀ o, ∃ e', runOp (pushed s e) s.turn (begun s e o) = .done (vecNext s x) e' ∧ e'.op = e.op ∧ e'.signal = none)
    (hy : x.sync = []) (hs : x.stepElems = none) : push s e = vecNext s (leftQueue x) := by
  obtain ⟨e', hsignal, hpush⟩ := push_bare hi hb hph hrun (ended_vecNext hi hy hs)
  rw [hpush, signalled, hsignal, hartAt_vecNext, setHartAt_vecNext]

/-- The hart of a setvl with its strip and its vl. -/
def setvlHart (s : State) (e : VEntry) (d : Reg) (g : Nat) : Hart :=
  stripped ({ (pushed s e).hartAt s.turn with vl := g }.setReg d (BitVec.ofNat 64 g)) (committed s e)

theorem runOp_setvl {s : State} {e : VEntry} {d : Reg} {w : Nat} (hi : idleQueue s) (hs : noStrip s) (hop : e.op = .setvl d w)
    (o : Bool) : let g := grantOf s s.turn w e.x.toNat
    runOp (pushed s e) s.turn (begun s e o) =
      .done (vecNext s ((setvlHart s e d g).setReg d (BitVec.ofNat 64 g)).synced') ((begun s e o).to s.hart.vl 0) := by
  intro g
  obtain ⟨-, -, -, -, hstep, -, hd⟩ := hi
  obtain ⟨hckpt, hstrip, hused⟩ := hs
  have hplain : plainOp e.op = true := by rw [hop]; rfl
  have hop' : (begun s e o).op = .setvl d w := by rw [← hop, ← op_committed s hplain]; rfl
  have hx : (begun s e o).x = e.x := by simp only [begun, committed_of_plain s hplain]
  have hwhole : ∀ act, runWhole (pushed s e) s.turn (begun s e o) act = act := fun act =>
    runWhole_of_nil (by rw [coreAt_pushed]; exact hd) (by rw [hartAt_pushed]; exact hstep) _ act
  have hopen : ∀ v, ((({ (pushed s e).hartAt s.turn with vl := g } : Hart).setReg d v).ckpt = none) ∧
      ((({ (pushed s e).hartAt s.turn with vl := g } : Hart).setReg d v).strip = []) ∧
      ((({ (pushed s e).hartAt s.turn with vl := g } : Hart).setReg d v).used = 0) := fun v => by
    rw [hartAt_pushed]
    simp [hckpt, hstrip, hused]
  obtain ⟨h1, h2, h3⟩ := hopen (BitVec.ofNat 64 g)
  have hstrips := newStrip_of_noStrip (s := vecNext s (({ (pushed s e).hartAt s.turn with vl := g } : Hart).setReg d (BitVec.ofNat 64 g)))
    (k := s.turn) (e := begun s e o) (by rw [hartAt_vecNext]; exact h1) (by rw [hartAt_vecNext]; exact h2) (by rw [hartAt_vecNext]; exact h3)
  simp only [runOp, hop', hwhole, runSetvl, hx, grantOf_pushed, setHartAt_pushed]
  rw [hstrips]
  simp only [deliver, hartAt_vecNext, setHartAt_vecNext]
  rfl

theorem leftQueue_setvl {s : State} {e : VEntry} {d : Reg} {g : Nat} (hv : s.hart.viq = []) (hy : s.hart.sync = []) (hs : noStrip s) :
    leftQueue ((setvlHart s e d g).setReg d (BitVec.ofNat 64 g)).synced' = delivers
      { s.hart with
        vl := g, unprot := false, again := false
        ckpt := if s.hart.pmode.testBit 1 then (setvlHart s e d g).ckpt else none } d (BitVec.ofNat 64 g) := by
  obtain ⟨-, hstrip, hused⟩ := hs
  cases hp : s.hart.pmode.testBit 1 <;> by_cases hd : d = 0 <;>
    simp [leftQueue, setvlHart, stripped, Hart.synced', Hart.setReg, delivers, hartAt_pushed, hd, hp, hv, hy, hused,
      Vector.set_set]

theorem exec_setvl {s : State} (d a : Reg) (wid : BitVec 2) (hi : idleQueue s) (hs : noStrip s) :
    let e : VEntry := { op := .setvl d (widOf wid), maj := 0x18, fn := 0, x := s.hart.reg a }
    let g := grantOf s s.turn (widOf wid) (s.hart.reg a).toNat
    exec (.setvl d a wid) s = .next (vecNext s (delivers
      { s.hart with
        vl := g, unprot := false, again := false
        ckpt := if s.hart.pmode.testBit 1 then (setvlHart s e d g).ckpt else none } d (BitVec.ofNat 64 g))) := by
  intro e g
  obtain ⟨-, -, hv, hy, hstep, -⟩ := id hi
  have hready : (s.hart.commits && s.hart.checkpoints && (s.hart.viq != [] || s.hart.sync != [])) = false := by simp [hv, hy]
  have hkept : ((setvlHart s e d g).setReg d (BitVec.ofNat 64 g)).synced'.sync = [] ∧
      ((setvlHart s e d g).setReg d (BitVec.ofNat 64 g)).synced'.stepElems = none := by
    unfold setvlHart stripped Hart.synced'
    rw [hartAt_pushed]
    constructor <;> split <;> simp [hstep, e, VOp.owes]
  have hpush := push_bare_hart hi rfl rfl
    (fun o => ⟨_, runOp_setvl (e := e) hi hs rfl o, op_committed s (e := e) rfl, signal_committed s (e := e) rfl⟩) hkept.1 hkept.2
  rw [leftQueue_setvl hv hy hs] at hpush
  simp only [exec, execSetvl, hready, commit_of_idle hi]
  exact congrArg Host.Outcome.next hpush

/-- The scalar registers of a checkpoint: those that CKMASK names, as the setvl has left them (R212). -/
theorem mem_sregs {h : Hart} {e : VEntry} {r : Reg} {v : Word} :
    (r, v) ∈ (checkpointOf h e).sregs ↔ h.ckmask.testBit r.val = true ∧ r ≠ 0 ∧ v = h.reg r := by
  simp only [checkpointOf, List.mem_filterMap, List.mem_finRange, true_and]
  constructor
  · rintro ⟨q, hq⟩
    split_ifs at hq with hc
    cases hq
    simpa using hc
  · rintro ⟨hbit, hr, rfl⟩
    exact ⟨r, by simp [hbit, hr]⟩

/-- The checkpoint of a setvl with STRIPS set (R212, R213). -/
theorem setvlHart_ckpt {s : State} {e : VEntry} {d : Reg} {g : Nat} (he : plainOp e.op = true) (hp : s.hart.pmode.testBit 1 = true) :
    ∃ ck, (setvlHart s e d g).ckpt = some ck ∧ ck.pc = s.hart.pc ∧ ck.count = s.hart.srcount ∧ ck.streams = s.hart.streams ∧
      ∀ r v, (r, v) ∈ ck.sregs ↔ s.hart.ckmask.testBit r.val = true ∧ r ≠ 0 ∧ v = (if r = d then BitVec.ofNat 64 g else s.hart.reg r) := by
  let x : Hart := { (pushed s e).hartAt s.turn with vl := g }
  have hx : x = { s.hart with
      vl := g, viq := [committed s e], pc := s.hart.pc + 4, seq := (s.hart.seq + 1) % 2 ^ 32
      sync := (e.op.owes.map fun d => ({ reg := d } : SyncRead)).toList } := by simp only [x, hartAt_pushed]
  have hpmode : (x.setReg d (BitVec.ofNat 64 g)).pmode.testBit 1 = true := by rw [Hart.setReg_pmode, hx]; exact hp
  refine ⟨checkpointOf (x.setReg d (BitVec.ofNat 64 g)) (committed s e), ?_, ?_, ?_, ?_, fun r v => ?_⟩
  · exact congrArg Hart.ckpt (if_pos hpmode)
  · exact congrArg VEntry.pc (committed_of_plain s he)
  · rw [checkpointOf, Hart.setReg_srcount, hx]
  · rw [checkpointOf, Hart.setReg_streams, hx]
  · have hreg : r ≠ 0 → (x.setReg d (BitVec.ofNat 64 g)).reg r = if r = d then BitVec.ofNat 64 g else s.hart.reg r := fun hr => by
      split
      case isTrue h =>
        subst h
        exact Hart.reg_setReg_self x _ hr
      case isFalse h => rw [Hart.reg_setReg_of_ne x _ h, hx]; rfl
    have hmask : (x.setReg d (BitVec.ofNat 64 g)).ckmask = s.hart.ckmask := by rw [Hart.setReg_ckmask, hx]
    rw [mem_sregs, hmask]
    exact and_congr_right fun _ => and_congr_right fun hr => by rw [hreg hr]

/-! ### setrows -/

theorem runOp_setrows {s : State} {e : VEntry} {d : Reg} (hi : idleQueue s) (hop : e.op = .setrows d) (o : Bool) :
    runOp (pushed s e) s.turn (begun s e o) =
      .done (vecNext s (((pushed s e).hartAt s.turn).setReg d (BitVec.ofNat 64 (rowsOf e.x.toNat))).synced')
        ((begun s e o).to s.hart.vl 0) := by
  obtain ⟨-, -, -, -, hstep, -, hd⟩ := hi
  have hplain : plainOp e.op = true := by rw [hop]; rfl
  have hop' : (begun s e o).op = .setrows d := by rw [← hop, ← op_committed s hplain]; rfl
  have hx : (begun s e o).x = e.x := by simp only [begun, committed_of_plain s hplain]
  have hwhole : ∀ act, runWhole (pushed s e) s.turn (begun s e o) act = act := fun act =>
    runWhole_of_nil (by rw [coreAt_pushed]; exact hd) (by rw [hartAt_pushed]; exact hstep) _ act
  simp only [runOp, hop', hwhole, deliver, hx, setHartAt_pushed]
  rfl

theorem leftQueue_delivered {s : State} {e : VEntry} {d : Reg} {v : Word} (hv : s.hart.viq = []) (hy : s.hart.sync = []) :
    leftQueue (((pushed s e).hartAt s.turn).setReg d v).synced' = delivers s.hart d v := by
  by_cases hd : d = 0 <;> simp [leftQueue, Hart.synced', Hart.setReg, delivers, hartAt_pushed, hd, hv, hy]

theorem exec_setrows {s : State} (d a : Reg) (hi : idleQueue s) :
    let rows := rowsOf (s.hart.reg a).toNat
    exec (.setrows d a) s = .next (vecNext s (delivers { s.hart with vrows := rows } d (BitVec.ofNat 64 rows))) := by
  intro rows
  let e : VEntry := { op := .setrows d, maj := 0x18, fn := 1, x := s.hart.reg a }
  let u : State := s.setHart { s.hart with vrows := rows }
  have hu : u.hart = { s.hart with vrows := rows } := State.hartAt_setHartAt_self ..
  obtain ⟨hk, ht, hv, hy, hstep, hh, hd⟩ := id hi
  have hidle : idleQueue u := by
    rw [idleQueue, hu]
    exact ⟨hk, ht, hv, hy, hstep, hh, hd⟩
  have hcommits : (s.hart.commits && !s.hart.full (.setrows d)) = true := by
    simp [Hart.commits, Hart.full, hk, ht, hv, hy, Config.viqSlots, Config.syncSlots]
  have hx : (((pushed u e).hartAt u.turn).setReg d (BitVec.ofNat 64 rows)).synced'.stepElems = none := by
    have hstep' : u.hart.stepElems = none := by rw [hu]; exact hstep
    rw [hartAt_pushed]
    exact (Hart.setReg_stepElems ..).trans hstep'
  have hpush : push u e = vecNext u (delivers u.hart d (BitVec.ofNat 64 rows)) := by
    rw [← leftQueue_delivered (e := e) (by rw [hu]; exact hv) (by rw [hu]; exact hy)]
    refine push_bare_hart hidle rfl rfl
      (fun o => ⟨_, runOp_setrows hidle rfl o, op_committed u (e := e) rfl, signal_committed u (e := e) rfl⟩) ?_ hx
    rw [hartAt_pushed, Hart.synced', Hart.setReg_sync]
    rfl
  have hnext : vecNext u (delivers u.hart d (BitVec.ofNat 64 rows)) = vecNext s (delivers u.hart d (BitVec.ofNat 64 rows)) :=
    congrArg (fun l => { s with harts := l, cores := Table.set s.cores (coreOf s.turn) { s.core with age := s.core.age + 1 } })
      (table_set_set s.harts s.turn _ _)
  simp only [exec, execSetrows, hcommits, if_true]
  exact congrArg Host.Outcome.next (hpush.trans (hnext.trans (by rw [hu])))

end Sys2Proof.Machine.Claim
end

section
/-! ## vwhile (O42): bits and compares -/

namespace Sys2Proof.Machine.Claim
open Sys2Proof.Machine
set_option Elab.async false

/-! ### One bit of a register (R41) -/

theorem setBits_one (n i v : Nat) : setBits n i i v = 2 ^ i * (2 * (n / 2 ^ (i + 1)) + v % 2) + n % 2 ^ i := by
  have h1 := Nat.div_add_mod n (2 ^ i)
  have h2 := Nat.div_add_mod (n / 2 ^ i) 2
  have h3 : n / 2 ^ i / 2 = n / 2 ^ (i + 1) := by rw [Nat.div_div_eq_div_mul, pow_succ]
  rw [h3] at h2
  have hbits : bits n i i = n / 2 ^ i % 2 := by simp [bits]
  have hn : n = 2 ^ i * (2 * (n / 2 ^ (i + 1))) + 2 ^ i * (n / 2 ^ i % 2) + n % 2 ^ i := by
    rw [← Nat.mul_add, h2, h1]
  have hcomm : n / 2 ^ i % 2 * 2 ^ i = 2 ^ i * (n / 2 ^ i % 2) := Nat.mul_comm ..
  rw [setBits, hbits, Nat.add_sub_cancel_left, pow_one, hcomm, Nat.mul_add, Nat.mul_comm (v % 2)]
  omega

theorem testBit_setBits_one (n i v j : Nat) : (setBits n i i v).testBit j = if j = i then v.testBit 0 else n.testBit j := by
  rw [setBits_one, Nat.testBit_two_pow_mul_add _ (Nat.mod_lt _ (Nat.two_pow_pos i))]
  rcases Nat.lt_trichotomy j i with h | rfl | h
  · simp [h, h.ne]
  · simp [Nat.testBit_zero]
  · obtain ⟨k, rfl⟩ : ∃ k, j = i + (k + 1) := ⟨j - i - 1, by omega⟩
    have hhigh : (2 * (n / 2 ^ (i + 1)) + v % 2) / 2 = n / 2 ^ (i + 1) := by omega
    rw [if_neg (by omega), if_neg (by omega), Nat.add_sub_cancel_left, Nat.testBit_succ, hhigh, Nat.testBit_div_two_pow]
    congr 1
    omega

theorem get_one (v : VReg) (b : Nat) : v.get b 1 = ((Memory.read1 v.bytes (b / 8)).toNat.testBit (b % 8)).toNat := by
  have hn : (b % 8 + 1 + 7) / 8 = 1 := by omega
  rw [VReg.get, hn, Nat.toNat_testBit]
  simp [Memory.readNat, Memory.readBytes, leNat]

theorem get_put_one (v : VReg) (b c x : Nat) : (v.put b 1 x).get c 1 = if c = b then x % 2 else v.get c 1 := by
  have hn : (b % 8 + 1 + 7) / 8 = 1 := by omega
  have hput : (v.put b 1 x).bytes = Memory.write1 v.bytes (b / 8)
      (BitVec.ofNat 8 (setBits (Memory.read1 v.bytes (b / 8)).toNat (b % 8) (b % 8) x)) := by
    simp [VReg.put, putBits, hn, Memory.readNat, Memory.readBytes, leNat, Memory.writeNat, leBytes, Memory.writeBytes]
  rw [get_one, get_one, hput, Memory.read1_write1]
  by_cases hbyte : c / 8 = b / 8
  · have hlow : c % 8 < 8 := Nat.mod_lt _ (by decide)
    rw [if_pos hbyte, BitVec.toNat_ofNat, Nat.testBit_mod_two_pow, testBit_setBits_one, hbyte]
    by_cases hbit : c % 8 = b % 8
    · rw [if_pos hbit, if_pos (by omega), decide_eq_true hlow, Bool.true_and, Nat.toNat_testBit]
      simp
    · rw [if_neg hbit, if_neg (by omega)]
      simp [hlow]
  · rw [if_neg hbyte, if_neg (by omega)]

/-! ### The compare of one element (R285, R309) -/

theorem intVal_eq_val (t : Ty) (x : Nat) : intVal t x = val t.isSigned (BitVec.ofNat t.width x) := by
  cases h : t.isSigned <;> simp [intVal, val, h, toSigned, BitVec.toInt]

/-- The order of two numbers, read the other way. -/
theorem numCmp_swap (b : Nat) (x y : Num) : numCmp b y x = (numCmp b x y).swap := by
  cases x with
  | nan s => cases y with
    | inf n => cases n <;> rfl
    | _ => rfl
  | inf n => cases y with
    | inf k => cases n <;> cases k <;> rfl
    | _ => cases n <;> rfl
  | fin n m e => cases y with
    | nan s => rfl
    | inf k => cases k <;> rfl
    | fin k l f =>
      simp only [numCmp, min_comm f e]
      exact Std.OrientedCmp.eq_swap

theorem isNan_of_isSnan {x : Num} (h : x.isSnan = true) : x.isNan = true := by
  cases x with
  | nan s => rfl
  | inf n => exact h
  | fin n m e => exact h

/-- The lane of an integer compare agrees with the compare of a vwhile. -/
theorem laneCmp_int {cond : Nat} (hc : cond < 6) {t : Ty} (ht : t.isInt = true) (x y : Nat) :
    laneCmp false cond t x y = (if (passes cond t x y).1 then 1 else 0, (passes cond t x y).2, false) := by
  simp only [laneCmp, passes, ht, intVal_eq_val]
  interval_cases cond <;> simp [intCmp]

/-- The lane of a floating-point or decimal compare agrees with the compare of a vwhile. -/
theorem laneCmp_float {cond : Nat} (hc : cond < 6) {t : Ty} (ht : t.isInt = false) (x y : Nat) :
    laneCmp false cond t x y = (if (passes cond t x y).1 then 1 else 0, (passes cond t x y).2, false) := by
  have hswap := numCmp_swap (baseOf t) (unpack t x) (unpack t y)
  have hcomm : ((unpack t y).isNan || (unpack t x).isNan) = ((unpack t x).isNan || (unpack t y).isNan) := Bool.or_comm ..
  simp only [laneCmp, passes, ht, cmpEq, cmpLt, cmpLe, laneEnd, hswap, hcomm]
  cases hn : (unpack t x).isNan || (unpack t y).isNan with
  | true => interval_cases cond <;> simp
  | false =>
    obtain ⟨hx, hy⟩ := Bool.or_eq_false_iff.1 hn
    have hsx : (unpack t x).isSnan = false := Bool.eq_false_iff.2 fun h => by simp [isNan_of_isSnan h] at hx
    have hsy : (unpack t y).isSnan = false := Bool.eq_false_iff.2 fun h => by simp [isNan_of_isSnan h] at hy
    interval_cases cond <;> cases numCmp (baseOf t) (unpack t x) (unpack t y) <;> simp [hsx, hsy]

/-- The lane of a compare agrees with the compare of a vwhile. -/
theorem laneCmp_eq_passes {cond : Nat} (hc : cond < 6) (t : Ty) (x y : Nat) :
    laneCmp false cond t x y = (if (passes cond t x y).1 then 1 else 0, (passes cond t x y).2, false) := by
  cases ht : t.isInt with
  | true => exact laneCmp_int hc ht x y
  | false => exact laneCmp_float hc ht x y

end Sys2Proof.Machine.Claim
end

section
/-! ## vwhile (O42): the run -/

namespace Sys2Proof.Machine.Claim
open Sys2Proof.Machine
set_option Elab.async false

/-! ### The elements of a register that misses none (R160) -/

theorem look_of_present {v : VReg} (ha : v.absent = []) (hb : v.bad = []) (b w : Nat) : v.look b w = .val (v.get b w) := by
  have hp : v.presence b w = .present := by simp [VReg.presence, ha]
  simp [VReg.look, hb, hp]

/-- The vwhile of a hart, once it has begun: it reads the copy of the mask that it began with (R163). -/
structure WhileEntry (h : Hart) (e : VEntry) (x : Word) : Prop where
  old : e.old = [(0, h.vreg 0)]
  vmk : e.vmk = h.vmk
  fpctl : e.fpctl = h.fpctl
  pc : e.pc = h.pc
  count : e.count = h.vl
  z : e.z = x
  elem : e.elem = 0

section
variable {h x : Hart} {e : VEntry} {v : Word} (he : WhileEntry h e v) (hx : ∀ n, x.vreg n = h.vreg n)
  (hp : ∀ n, (h.vreg n).absent = [] ∧ (h.vreg n).bad = [])
include he hx hp

theorem mustSee_while (n el w : Nat) : mustSee x e n el w = .val (elemAt h n el w) := by
  have hreg : entryReg x e n = h.vreg n := by
    by_cases hn : n = 0
    · simp [entryReg, he.old, hn]
    · simp [entryReg, he.old, hx, Ne.symm hn]
  obtain ⟨ha, hb⟩ := hp n
  rw [mustSee, hreg, look_of_present ha hb]
  rfl

theorem gate_while (el : Nat) : gate x e el = .val (if active h el then 1 else 0) := by
  rw [gate, active, he.vmk]
  by_cases hm : h.vmk = 0
  · simp [hm]
  · simp [hm, mustSee_while he hx hp]

/-- An active element that raises no enabled exception (R236). -/
theorem whilePos_active {s : State} {a : Reg} {cond : Nat} {t : Ty} {el : Nat} (hc : cond < 6) (hact : active h el = true)
    (htrap : trapped h.fpctl (t == .d64) (passes cond t (elemAt h a.val el t.width) (opnd t v)).2 = 0) :
    whilePos s.turn e a cond t (vecNext s x) el =
      (.done (vecNext s { x with fpflags := x.fpflags ||| flagBits (t == .d64) (passes cond t (elemAt h a.val el t.width) (opnd t v)).2 }),
        (passes cond t (elemAt h a.val el t.width) (opnd t v)).1) := by
  have hen : enabled e.fpctl (t == .d64) (passes cond t (elemAt h a.val el t.width) (opnd t v)).2 = 0 := by
    rw [he.fpctl]
    exact htrap
  simp only [whilePos, hartAt_vecNext, gate_while he hx hp, mustSee_while he hx hp, hact, laneCmp_eq_passes hc, he.z, if_true, hen,
    setHartAt_vecNext]
  cases (passes cond t (elemAt h a.val el t.width) (opnd t v)).1 <;> rfl

theorem whilePos_inactive {s : State} {a : Reg} {cond : Nat} {t : Ty} {el : Nat} (hact : active h el = false) :
    whilePos s.turn e a cond t (vecNext s x) el = (.done (vecNext s x), true) := by
  simp only [whilePos, hartAt_vecNext, gate_while he hx hp, hact]
  rfl

/-- The flags of a hart once some elements have been compared (R237). -/
def whileFlags (h : Hart) (dec : Bool) (pass : Nat → Bool × Nat) (l : List Nat) (f : Nat) : Nat :=
  l.foldl (fun f el => if active h el then f ||| flagBits dec (pass el).2 else f) f

/-- Elements that pass are gone through (R309). -/
theorem whileFrom_append {s : State} {a : Reg} {cond lim : Nat} {t : Ty} (hc : cond < 6) {pass : Nat → Bool × Nat}
    (hpass : pass = fun el => passes cond t (elemAt h a.val el t.width) (opnd t v)) {l : List Nat} (rest : List Nat)
    (hl : ∀ el, el ∈ l → active h el = true → (pass el).1 = true ∧ trapped h.fpctl (t == .d64) (pass el).2 = 0) :
    whileFrom s.turn e a cond t lim (l ++ rest) (vecNext s x) =
      whileFrom s.turn e a cond t lim rest (vecNext s { x with fpflags := whileFlags h (t == .d64) pass l x.fpflags }) := by
  induction l generalizing x with
  | nil => rfl
  | cons el l ih =>
    have hrest := fun q hq => hl q (List.mem_cons_of_mem el hq)
    rw [List.cons_append, whileFrom]
    cases hact : active h el with
    | false =>
      rw [whilePos_inactive he hx hp hact]
      simp only [ih hx hrest, whileFlags, List.foldl_cons, hact]
      rfl
    | true =>
      obtain ⟨hok, htrap⟩ := hl el List.mem_cons_self hact
      subst hpass
      rw [whilePos_active he hx hp hc hact htrap]
      simp only [hok]
      rw [ih (by exact hx) hrest]
      simp only [whileFlags, List.foldl_cons, hact, if_true]

/-- The compare ends at the first active element that does not pass, or at the end. -/
theorem whileFrom_range {s : State} {a : Reg} {cond n vl : Nat} {t : Ty} (hc : cond < 6) {pass : Nat → Bool × Nat}
    (hpass : pass = fun el => passes cond t (elemAt h a.val el t.width) (opnd t v)) (hn : n ≤ vl)
    (hok : ∀ el, el < n → active h el = true → (pass el).1 = true) (hend : n < vl → active h n = true ∧ (pass n).1 = false)
    (htrap : ∀ el, el ≤ n → el < vl → active h el = true → trapped h.fpctl (t == .d64) (pass el).2 = 0) :
    whileFrom s.turn e a cond t vl (List.range vl) (vecNext s x) =
      .done (vecNext s { x with fpflags := whileFlags h (t == .d64) pass (List.range (min (n + 1) vl)) x.fpflags }) (e.to n 0) := by
  have hbelow : ∀ el, el ∈ List.range n → active h el = true → (pass el).1 = true ∧ trapped h.fpctl (t == .d64) (pass el).2 = 0 :=
    fun el hel hact => by
      have hlt := List.mem_range.1 hel
      exact ⟨hok el hlt hact, htrap el (by omega) (by omega) hact⟩
  rcases Nat.eq_or_lt_of_le hn with rfl | hlt
  · have hall := whileFrom_append (s := s) (lim := n) he hx hp hc hpass [] hbelow
    rw [List.append_nil] at hall
    rw [hall, whileFrom, Nat.min_eq_right (Nat.le_succ n)]
  · obtain ⟨hact, hfail⟩ := hend hlt
    obtain ⟨r, rfl⟩ : ∃ r, vl = n + (r + 1) := ⟨vl - n - 1, by omega⟩
    have hrange : List.range (n + (r + 1)) = List.range n ++ n :: (List.range r).map (n + 1 + ·) := by
      simp [List.range_add, List.range_succ_eq_map, Function.comp_def, Nat.add_assoc, Nat.add_comm 1]
    have htrap' := htrap n (Nat.le_refl n) hlt hact
    have hflags : whileFlags h (t == .d64) pass (List.range (n + 1)) x.fpflags =
        whileFlags h (t == .d64) pass (List.range n) x.fpflags ||| flagBits (t == .d64) (pass n).2 := by
      simp [whileFlags, List.range_succ, hact]
    rw [hrange, whileFrom_append he hx hp hc hpass _ hbelow, whileFrom, Nat.min_eq_left (by omega), hflags]
    subst hpass
    rw [whilePos_active he (by exact hx) hp hc hact htrap']
    simp only [hfail]

end

theorem testBit_whileFlags (h : Hart) (dec : Bool) (pass : Nat → Bool × Nat) (l : List Nat) (f b : Nat) :
    (whileFlags h dec pass l f).testBit b = true ↔
      f.testBit b = true ∨ ∃ el, el ∈ l ∧ active h el = true ∧ (flagBits dec (pass el).2).testBit b = true := by
  induction l generalizing f with
  | nil => simp [whileFlags]
  | cons el l ih =>
    have hstep : whileFlags h dec pass (el :: l) f =
        whileFlags h dec pass l (if active h el then f ||| flagBits dec (pass el).2 else f) := rfl
    rw [hstep, ih]
    cases hact : active h el <;> simp [hact, or_assoc]

/-! ### The mask -/

/-- The mask register once its first m elements are set: 1 below the first failing one. -/
def maskOf (v : VReg) (first : Nat) : Nat → VReg
  | 0 => v
  | m + 1 => { (maskOf v first m).put (m * 1) 1 (if m < first then 1 else 0) with tag := max 1 8 }

theorem get_maskOf (v : VReg) (first m el : Nat) :
    (maskOf v first m).get el 1 = if el < m then (if el < first then 1 else 0) else v.get el 1 := by
  induction m with
  | zero => rfl
  | succ m ih =>
    have hput : (maskOf v first (m + 1)).get el 1 = ((maskOf v first m).put m 1 (if m < first then 1 else 0)).get el 1 := by
      simp [maskOf, get_one]
    rw [hput, get_put_one, ih]
    by_cases hel : el = m
    · subst hel
      rw [if_pos rfl, if_pos (Nat.lt_succ_self el)]
      split <;> rfl
    · rw [if_neg hel]
      exact if_congr (by omega) rfl rfl

theorem setVreg_setVreg (h : Hart) (r : Nat) (v w : VReg) : (h.setVreg r v).setVreg r w = h.setVreg r w := by
  simp [Hart.setVreg, Vector.set_set]

theorem setVreg_vreg (h : Hart) (r : Nat) : h.setVreg r (h.vreg r) = h := by
  simp [Hart.setVreg, Hart.vreg]

theorem putElem_mask (s : State) (x : Hart) (first m : Nat) :
    (List.range m).foldl (fun s' i => putElem s' s.turn 0 i 1 (if i < first then 1 else 0)) (vecNext s x) =
      vecNext s (x.setVreg 0 (maskOf (x.vreg 0) first m)) := by
  induction m with
  | zero => rw [maskOf, setVreg_vreg]; rfl
  | succ m ih =>
    rw [List.range_succ, List.foldl_append, ih]
    simp only [List.foldl_cons, List.foldl_nil, putElem, hartAt_vecNext, Hart.vreg_setVreg_self, setVreg_setVreg, setHartAt_vecNext]
    rfl

/-- The mask of a vwhile, and the pc where its branch is taken (R309, log 22). -/
def splitHart (x : Hart) (e : VEntry) (first off : Nat) : Hart :=
  { x.setVreg 0 (maskOf (x.vreg 0) first e.count) with
    pc := if first = e.count then e.pc - BitVec.ofNat 64 (4 * off) else x.pc }

theorem splitMask_eq (s : State) (x : Hart) (e : VEntry) (first off : Nat) :
    splitMask (vecNext s x) s.turn e first off = .done (vecNext s (splitHart x e first off)) (e.to e.count 0) := by
  have hmask := putElem_mask s x first e.count
  by_cases hf : first = e.count
  · simp only [splitMask, hmask, if_pos hf, hartAt_vecNext, setHartAt_vecNext, splitHart]
  · simp only [splitMask, hmask, if_neg hf, splitHart]
    rfl

end Sys2Proof.Machine.Claim
end

section
/-! ## vwhile (O42): the entry -/

namespace Sys2Proof.Machine.Claim
open Sys2Proof.Machine
set_option Elab.async false

/-- A vwhile reads and writes the mask register (R309). -/
theorem both_while {e : VEntry} {d a : Reg} {cond off : Nat} {t : Ty} (hop : e.op = .vwhile d a cond off t) :
    (e.writes.filter fun n => e.reads'.contains n).eraseDups = [0] := by
  have hwrites : e.writes = [0] := by simp [VEntry.writes, VEntry.maskDest, hop, destsOf, VEntry.height, tiledOp, tileOf]
  have hreads : e.reads'.contains 0 = true := by simp [VEntry.reads', hop]
  rw [hwrites, List.filter_cons_of_pos hreads]
  rfl

theorem beginEntry_while {s : State} {k : Nat} {e : VEntry} {d a : Reg} {cond off : Nat} {t : Ty} (hop : e.op = .vwhile d a cond off t)
    (hr : e.reads = 0) (hs : (s.hartAt k).streams = []) (hlen : (s.hartAt k).vl * t.width ≤ 8 * s.lenOf k) :
    beginEntry s k e = .done s
      { e with count := (s.hartAt k).vl, phase := 1, reads := 1, old := [(0, (s.hartAt k).vreg 0)] } := by
  have hstream : ∀ n, (s.hartAt k).stream? n = none := fun n => by rw [Hart.stream?, hs]; rfl
  have hshort : ¬ s.lenOf k * 8 < (s.hartAt k).vl * t.width := by omega
  have hcheck : checkEntry s k { e with count := (s.hartAt k).vl } = none := by
    simp [checkEntry, hop, tileRegs, VEntry.height, tiledOp, counted, opWidth, hshort, outStreams, destsOf, hstream]
  have hread : readStreams k ((sourcesOf e.op).drop e.reads) s { e with count := (s.hartAt k).vl } =
      .done s { e with count := (s.hartAt k).vl, reads := 1 } := by
    simp [hop, sourcesOf, hr, readStreams, hstream]
  have hboth := both_while (e := { e with count := (s.hartAt k).vl, reads := 1 }) hop
  simp only [beginEntry]
  rw [hcheck]
  simp only [hread, hboth]
  rfl

/-- The vwhile of a hart that has begun, without or with a begin record. -/
def whileBegun (s : State) (e : VEntry) (o : Bool) : VEntry :=
  { committed s e with count := s.hart.vl, phase := 1, reads := 1, old := [(0, s.hart.vreg 0)], opened := o }

theorem whileBegun_entry {s : State} {e : VEntry} (o : Bool) (hp : plainOp e.op = true) (hel : e.elem = 0) :
    WhileEntry s.hart (whileBegun s e o) e.z := by
  constructor <;> simp only [whileBegun, committed_of_plain s hp, hel]

/-- The hart once a vwhile has split the mask at an element, with its flags (R309). -/
def whileHart (x : Hart) (e : VEntry) (first off f : Nat) : Hart :=
  { x.setVreg 0 (maskOf (x.vreg 0) first e.count) with
    fpflags := f, pc := if first = e.count ∧ 0 < first then e.pc - BitVec.ofNat 64 (4 * off) else x.pc }

theorem splitHart_flags (x : Hart) {e : VEntry} (first off f : Nat) (hc : 0 < e.count) :
    splitHart { x with fpflags := f } e first off = whileHart x e first off f := by
  have hbranch : (first = e.count ∧ 0 < first) ↔ first = e.count := by omega
  simp only [whileHart, hbranch]
  rfl

theorem runWhile_eq {s : State} {x : Hart} {e : VEntry} {a : Reg} {cond off n : Nat} {t : Ty} {v : Word}
    (he : WhileEntry s.hart e v) (hx : ∀ n, x.vreg n = s.hart.vreg n) (hp : ∀ n, (s.hart.vreg n).absent = [] ∧ (s.hart.vreg n).bad = [])
    (hd : s.core.dbg = []) (hs : x.stepElems = none) (hc : cond < 6) {pass : Nat → Bool × Nat}
    (hpass : pass = fun el => passes cond t (elemAt s.hart a.val el t.width) (opnd t v)) (hn : n ≤ s.hart.vl)
    (hok : ∀ el, el < n → active s.hart el = true → (pass el).1 = true)
    (hend : n < s.hart.vl → active s.hart n = true ∧ (pass n).1 = false)
    (htrap : ∀ el, el ≤ n → el < s.hart.vl → active s.hart el = true → trapped s.hart.fpctl (t == .d64) (pass el).2 = 0) :
    ∃ e', runWhile (vecNext s x) s.turn e a cond off t = .done (vecNext s (whileHart x e n off
      (whileFlags s.hart (t == .d64) pass (List.range (min (n + 1) s.hart.vl)) x.fpflags))) e' ∧ e'.op = e.op ∧ e'.signal = e.signal ∧
        e'.elem = s.hart.vl := by
  have hcut : debugCut (vecNext s x) s.turn e = none :=
    debugCut_of_nil (by rw [coreAt_vecNext]; exact hd) (by rw [hartAt_vecNext]; exact hs) e
  have hcount := he.count
  by_cases hvl : s.hart.vl = 0
  · have hn0 : n = 0 := by omega
    refine ⟨e, ?_, rfl, rfl, he.elem.trans hvl.symm⟩
    have hkept : whileHart x e n off (whileFlags s.hart (t == .d64) pass (List.range (min (n + 1) s.hart.vl)) x.fpflags) = x := by
      simp [whileHart, hcount, hvl, hn0, maskOf, setVreg_vreg, whileFlags]
    rw [hkept, runWhile, hcount, if_pos hvl]
  · have hrange : (List.range (e.count - e.elem)).map (e.elem + ·) = List.range s.hart.vl := by
      simp [he.elem, hcount]
    have hrun := whileFrom_range he hx hp hc hpass hn hok hend htrap (s := s)
    refine ⟨e.to e.count 0, ?_, rfl, rfl, hcount⟩
    simp only [runWhile, hcut, Option.filter_none, Option.map_none, Option.getD_none, hrange]
    rw [hcount, if_neg hvl, hrun]
    rw [← splitHart_flags x n off _ (by omega), ← hcount]
    exact splitMask_eq ..

/-- The hart of a vwhile that is done: the mask register is no longer BUSY (R154). -/
def whileDone (x : Hart) (e : VEntry) (first off f el : Nat) : Hart :=
  (whileHart x e first off f).setVreg 0 { (whileHart x e first off f).vreg 0 with busy := false, elem := el, row := 0 }

theorem markRegs_while {s : State} {x : Hart} {e : VEntry} {d a : Reg} {cond off : Nat} {t : Ty} (hop : e.op = .vwhile d a cond off t) :
    markRegs (vecNext s x) s.turn e false =
      vecNext s (x.setVreg 0 { x.vreg 0 with busy := false, elem := e.elem, row := 0 }) := by
  have hmask : e.maskDest = [] := by simp [VEntry.maskDest, hop]
  have hheight : e.height = 1 := by simp [VEntry.height, tiledOp, hop]
  simp [markRegs, hop, destsOf, hmask, hheight, hartAt_vecNext, setHartAt_vecNext]

/-- A vwhile as an entry of the queue. -/
def whileEntry (s : State) (d a : Reg) (cond : BitVec 3) (off : BitVec 9) (t3 : BitVec 3) : VEntry :=
  { op := .vwhile d a cond.toNat off.toNat (whileTy t3), maj := 0x18, fn := 8 + t3.toNat, z := s.hart.reg d }

/-- The hart in which it runs. -/
def whileStart (s : State) (e : VEntry) : Hart :=
  { s.hart with viq := [committed s e], pc := s.hart.pc + 4, seq := (s.hart.seq + 1) % 2 ^ 32, sync := [] }

theorem pushed_while {s : State} {e : VEntry} (h : e.op.owes = none) : pushed s e = vecNext s (whileStart s e) := by
  rw [pushed, h]
  rfl

section
variable {s : State} {d a : Reg} {cond : BitVec 3} {off : BitVec 9} {t3 : BitVec 3} {n : Nat} (hi : vecReady s)
  (hc : cond.toNat < 6) {pass : Nat → Bool × Nat}
  (hpass : pass = fun el => passes cond.toNat (whileTy t3) (elemAt s.hart a.val el (whileTy t3).width) (opnd (whileTy t3) (s.hart.reg d)))
  (hn : n ≤ s.hart.vl) (hok : ∀ el, el < n → active s.hart el = true → (pass el).1 = true)
  (hend : n < s.hart.vl → active s.hart n = true ∧ (pass n).1 = false)
  (htrap : ∀ el, el ≤ n → el < s.hart.vl → active s.hart el = true → trapped s.hart.fpctl (whileTy t3 == .d64) (pass el).2 = 0)
include hi hc hpass hn hok hend htrap

theorem goOn_while (o : Bool) : let e := whileEntry s d a cond off t3
    ∃ e', goOn (vecNext s (whileStart s e)) s.turn (whileBegun s e o) =
      .done (vecNext s (whileDone (whileStart s e) (whileBegun s e false) n off.toNat
        (whileFlags s.hart (whileTy t3 == .d64) pass (List.range (min (n + 1) s.hart.vl)) s.hart.fpflags) s.hart.vl)) e' ∧
      e'.signal = none := by
  intro e
  obtain ⟨⟨-, -, -, -, hstep, -, hd⟩, hstreams, hpresent⟩ := hi
  have hop : (whileBegun s e o).op = .vwhile d a cond.toNat off.toNat (whileTy t3) := op_committed s (e := e) rfl
  obtain ⟨e', hrun, hop', hsignal, hel⟩ := runWhile_eq (x := whileStart s e) (off := off.toNat) (whileBegun_entry o (e := e) rfl rfl)
    (fun n => rfl) hpresent hd hstep hc hpass hn hok hend htrap
  rw [hop] at hop'
  have hrun' := (show runOp (vecNext s (whileStart s e)) s.turn (whileBegun s e o) = _ by simp only [runOp, hop]).trans hrun
  refine ⟨e', ?_, hsignal.trans (signal_committed s (e := e) rfl)⟩
  have hout : ∀ f, outStreams ((vecNext s (whileHart (whileStart s e) (whileBegun s e o) n off.toNat f)).hartAt s.turn) e' = [] := fun f => by
    have hnone : (whileHart (whileStart s e) (whileBegun s e o) n off.toNat f).streams = [] := hstreams
    simp [outStreams, hartAt_vecNext, Hart.stream?, hnone]
  rw [goOn_done rfl hrun' (hout _), markRegs_while hop', hel]
  rfl

/-- A vwhile that commits to an empty queue (R309, log 22). -/
theorem exec_vwhile (hlen : s.hart.vl * (whileTy t3).width ≤ 8 * s.lenOf s.turn) : let e := whileEntry s d a cond off t3
    exec (.vwhile d a cond off t3) s = .next (vecNext s (leftQueue (whileDone (whileStart s e) (whileBegun s e false) n off.toNat
      (whileFlags s.hart (whileTy t3 == .d64) pass (List.range (min (n + 1) s.hart.vl)) s.hart.fpflags) s.hart.vl))) := by
  intro e
  obtain ⟨hidle, hstreams, hpresent⟩ := id hi
  obtain ⟨-, -, hv, hy, hstep, hh, hd⟩ := id hidle
  have hop : (committed s e).op = .vwhile d a cond.toNat off.toNat (whileTy t3) := op_committed s (e := e) rfl
  have hbegin := beginEntry_while (s := vecNext s (whileStart s e)) (k := s.turn) (e := committed s e) hop
    (by rw [committed_of_plain s (e := e) rfl]; rfl) (by rw [hartAt_vecNext]; exact hstreams)
    (by rw [hartAt_vecNext, State.lenOf, coreAt_vecNext, hartAt_vecNext]; exact hlen)
  obtain ⟨e', htraced, hsignal⟩ := traced_done (e := whileBegun s e (committed s e).opened)
    (by rw [coreAt_vecNext]; exact hd) (goOn_while hi hc hpass hn hok hend htrap)
  have hphase : (committed s e).phase = 0 := by rw [committed_of_plain s (e := e) rfl]; rfl
  have hgate : arrayGate (vecNext s (whileStart s e)) s.turn (committed s e) = .go := by simp only [arrayGate, hop]
  have hadv : advance (vecNext s (whileStart s e)) s.turn (committed s e) =
      traced (vecNext s (whileStart s e)) s.turn (whileBegun s e (committed s e).opened) := by
    rw [advance, if_neg (by rw [hphase]; exact fun h => h rfl), hgate, hbegin, hartAt_vecNext]
    rfl
  have hrun := runHead_done (p := vecNext s (whileStart s e)) (k := s.turn) (by rw [hartAt_vecNext]; rfl)
    (by rw [hartAt_vecNext]; exact nofun) (hadv.trans htraced) (ended_vecNext hidle rfl hstep)
  rw [hartAt_vecNext, setHartAt_vecNext, signalled, hsignal] at hrun
  have hpush : push s e = runHead (vecNext s (whileStart s e)) s.turn := by rw [push_of_idle hv hy rfl, pushed_while rfl]
  simp only [exec, execVwhile, commit_of_idle hidle]
  exact congrArg Host.Outcome.next (hpush.trans hrun)

end

/-- What a vwhile leaves of its hart. -/
theorem leftQueue_while {s : State} {e e' : VEntry} {n off f el : Nat} (hv : s.hart.viq = []) (hy : s.hart.sync = [])
    (hpc : e'.pc = s.hart.pc) (hcount : e'.count = s.hart.vl) : ∃ v, let y : Hart := { s.hart with
        v := v, fpflags := f, seq := (s.hart.seq + 1) % 2 ^ 32, done := s.hart.done + 1
        pc := if n = s.hart.vl ∧ 0 < n then s.hart.pc - BitVec.ofNat 64 (4 * off) else s.hart.pc + 4 }
      leftQueue (whileDone (whileStart s e) e' n off f el) = y ∧
      (∀ i, elemAt y 0 i 1 = if i < s.hart.vl then (if i < n then 1 else 0) else elemAt s.hart 0 i 1) ∧
      ∀ m, m < 32 → m ≠ 0 → y.vreg m = s.hart.vreg m := by
  let x : Hart := whileHart (whileStart s e) e' n off f
  let w : VReg := { x.vreg 0 with busy := false, elem := el, row := 0 }
  refine ⟨(x.setVreg 0 w).v, ?_, fun i => ?_, fun m hm h0 => ?_⟩
  · rw [← hcount, ← hpc]
    simp only [leftQueue, whileDone, whileHart, whileStart, Hart.setVreg, List.tail_cons, hv, hy, hpc]
    rfl
  · have hget : ((x.setVreg 0 w).vreg 0).get (i * 1) 1 = (maskOf (s.hart.vreg 0) n s.hart.vl).get (i * 1) 1 := by
      have hmask : x.vreg 0 = maskOf (s.hart.vreg 0) n e'.count := Hart.vreg_setVreg_self ..
      rw [Hart.vreg_setVreg_self, ← hcount, ← hmask]
      rfl
    refine hget.trans ?_
    rw [Nat.mul_one, get_maskOf, elemAt, Nat.mul_one]
  · have hm' : m % 32 ≠ 0 % 32 := by omega
    exact (Hart.vreg_setVreg_of_ne x w hm').trans (Hart.vreg_setVreg_of_ne (whileStart s e) _ hm')

/-- Settles O42: a setvl and a setrows deliver their grant into vl or vrows and s[d], a setvl with STRIPS keeps a checkpoint, and a
vwhile splits the mask at the first active element that its compare does not pass. -/
theorem vectorLengthsAndLoops : Obligations.VectorLengthsAndLoops := by
  unfold Obligations.VectorLengthsAndLoops
  refine ⟨fun s d a wid hi hs => ?_, fun s d a cond off t3 hwf hi => ?_⟩
  · intro h w cap grant n rows
    have hset := exec_setvl d a wid hi hs
    rw [show widOf wid = w from widOf_eq wid] at hset
    refine ⟨fun hp => ?_, fun hp => ?_, exec_setrows d a hi⟩
    · have hopen : s.hart.ckpt = none := hs.1
      rw [hset, if_neg (by rw [hp]; exact Bool.false_ne_true), ← hopen]
      rfl
    · obtain ⟨ck, hck, hpc, hcount, hstreams, hsregs⟩ := setvlHart_ckpt (s := s)
        (e := { op := .setvl d w, maj := 0x18, fn := 0, x := s.hart.reg a }) (d := d) (g := grant) rfl hp
      refine ⟨ck, ?_, hpc, hcount, hstreams, hsregs⟩
      rw [hset, if_pos hp, ← hck]
      rfl
  · intro t pass hlen n hn hok hend htrap
    have hc : cond.toNat < 6 := by
      simp only [Instr.wf, Bool.and_eq_true, decide_eq_true_eq] at hwf
      exact hwf.1
    have hpass : pass = fun el => passes cond.toNat t (elemAt s.hart a.val el t.width) (opnd t (s.hart.reg d)) := by
      simp only [pass, cut, opnd, BitVec.toNat_setWidth]
    have hexec := exec_vwhile (off := off) hi hc hpass hn hok hend htrap hlen
    obtain ⟨⟨-, -, hv, hy, -⟩, -⟩ := hi
    have hleft := leftQueue_while (e := whileEntry s d a cond off t3) (e' := whileBegun s (whileEntry s d a cond off t3) false)
      (n := n) (off := off.toNat) (f := whileFlags s.hart (t == .d64) pass (List.range (min (n + 1) s.hart.vl)) s.hart.fpflags)
      (el := s.hart.vl) hv hy (congrArg VEntry.pc (committed_of_plain s (e := whileEntry s d a cond off t3) rfl)) rfl
    obtain ⟨v, hhart, hbits, hregs⟩ := hleft
    refine ⟨_, hexec.trans (congrArg (fun y => Host.Outcome.next (vecNext s y)) hhart), ⟨?_, ?_⟩, ?_⟩
    · rw [vecHart, hart_vecNext]
    · rw [hart_vecNext]
    rw [raisedBy, hart_vecNext]
    refine ⟨rfl, rfl, rfl, rfl, rfl, rfl, rfl, hbits, hregs, fun b => (testBit_whileFlags ..).trans (or_congr_right (exists_congr fun el => ?_))⟩
    rw [List.mem_range, show el < min (n + 1) s.hart.vl ↔ el ≤ n ∧ el < s.hart.vl by omega, and_assoc]

end Sys2Proof.Machine.Claim
end

section
/-! ## Engine transfers (O54): what a transfer carries along -/

namespace Sys2Proof.Machine.Claim
open Sys2Proof.Machine
set_option Elab.async false

/-! ### What stays -/

/-- The machine but for the memories, scalar registers of the executing hart, and what no claim about transfers reads. -/
structure Rested (s t : State) : Prop where
  turn : t.turn = s.turn
  parts : t.parts = s.parts
  tasks : t.tasks = s.tasks
  hart : t.hart = { s.hart with s := t.hart.s }
  harts : hartsSame s t
  cores : ∀ c, Core.rest (t.coreAt c) = Core.rest (s.coreAt c)

/-- What a step of a transfer keeps: no byte turns bad, no copy is tracked, the memory system serves what it served. -/
structure Carried (s t : State) : Prop extends Rested s t where
  sameHarts : t.harts = s.harts
  badSpad : ∀ w, w ∈ t.core.badSpad → w ∈ s.core.badSpad
  tracks : untracked s → untracked t
  cap : t.mem.cap = s.mem.cap
  sectors : t.mem.sectors = s.mem.sectors
  patts : t.mem.patts = s.mem.patts
  badDev : ∀ n, Table.find? s.mem.bad n = none → Table.find? t.mem.bad n = none

theorem Rested.refl (s : State) : Rested s s := ⟨rfl, rfl, rfl, rfl, fun _ _ => rfl, fun _ => rfl⟩

theorem Rested.trans {s t u : State} (a : Rested s t) (b : Rested t u) : Rested s u where
  turn := b.turn.trans a.turn
  parts := b.parts.trans a.parts
  tasks := b.tasks.trans a.tasks
  hart := b.hart.trans (by rw [a.hart])
  harts := fun k hk => (b.harts k (a.turn ▸ hk)).trans (a.harts k hk)
  cores := fun c => (b.cores c).trans (a.cores c)

theorem Carried.refl (s : State) : Carried s s :=
  { Rested.refl s with
    sameHarts := rfl, badSpad := fun _ h => h, tracks := id, cap := rfl, sectors := rfl, patts := rfl, badDev := fun _ h => h }

theorem Carried.trans {s t u : State} (a : Carried s t) (b : Carried t u) : Carried s u :=
  { a.toRested.trans b.toRested with
    sameHarts := b.sameHarts.trans a.sameHarts
    badSpad := fun w h => a.badSpad w (b.badSpad w h), tracks := fun h => b.tracks (a.tracks h)
    cap := b.cap.trans a.cap, sectors := b.sectors.trans a.sectors, patts := b.patts.trans a.patts
    badDev := fun n h => b.badDev n (a.badDev n h) }

section
variable {s t : State} (h : Rested s t)
include h

theorem Rested.pmode (k : Nat) : (t.hartAt k).pmode = (s.hartAt k).pmode := by
  by_cases hk : k = s.turn
  · subst hk
    have hhart : t.hartAt s.turn = { s.hart with s := t.hart.s } := by rw [← h.turn]; exact h.hart
    rw [hhart]
    rfl
  · rw [h.harts k hk]

theorem Rested.spadLoc (va : Nat) : spadLoc t va = spadLoc s va := by rw [Claim.spadLoc, h.turn]; rfl

theorem Rested.noStrip (hs : noStrip s) : noStrip t := by
  rw [Claim.noStrip, h.hart]
  exact hs

end

theorem Carried.inSpad {s t : State} (h : Carried s t) {va n : Nat} (hs : inSpad s va n) : inSpad t va n := by
  obtain ⟨hlo, hhi, hbad, hpiece⟩ := hs
  refine ⟨hlo, hhi, ?_, fun i hi => ?_⟩
  · rw [badWord, List.any_eq_false] at hbad ⊢
    exact fun w hw => hbad w (h.badSpad w hw)
  · rw [← hpiece i hi, h.turn]
    simp only [State.inPiece, h.pmode]

theorem tracks_of_untracked {s : State} (h : untracked s) (c : Nat) : (s.coreAt c).tracks = [] := by
  rcases Table.get_mem {} s.cores c with hc | hc
  · exact congrArg Core.tracks hc
  · exact h _ hc

/-! ### Steps that keep it -/

theorem carried_setCoreAt {s : State} {x : Core} (hx : Core.rest x = Core.rest s.core) (hb : ∀ w, w ∈ x.badSpad → w ∈ s.core.badSpad) :
    Carried s (s.setCoreAt (coreOf s.turn) x) := by
  have hcore : (s.setCoreAt (coreOf s.turn) x).core = x := State.coreAt_setCoreAt_self ..
  refine { turn := rfl, parts := rfl, tasks := rfl, hart := rfl, harts := fun _ _ => rfl, cores := fun c => ?_, sameHarts := rfl,
           badSpad := fun w hw => hb w (hcore ▸ hw), tracks := fun hu p hp => ?_, cap := rfl, sectors := rfl,
           patts := rfl, badDev := fun _ h => h }
  · by_cases hc : c = coreOf s.turn
    · subst hc
      rw [State.coreAt_setCoreAt_self, hx]
      rfl
    · rw [State.coreAt_setCoreAt_of_ne _ _ hc]
  · rcases Table.mem_set hp with rfl | hp
    · have htracks : (Core.rest x).tracks = (Core.rest s.core).tracks := congrArg Core.tracks hx
      exact htracks.trans (tracks_of_untracked hu _)
    · exact hu p hp

theorem rested_setHartAt {s : State} {x : Hart} (hx : x = { s.hart with s := x.s }) : Rested s (s.setHartAt s.turn x) := by
  have hhart : (s.setHartAt s.turn x).hart = x := State.hartAt_setHartAt_self ..
  exact { turn := rfl, parts := rfl, tasks := rfl, hart := by rw [hhart]; exact hx, harts := fun k hk => State.hartAt_setHartAt_of_ne _ _ hk
          cores := fun _ => rfl }

/-! ### What a step of a transfer writes -/

/-- A step that changes bytes of some ranges of the own scratchpad, given by virtual address. -/
structure Wrote (s t : State) (l : List (Nat × Nat)) : Prop extends Carried s t where
  dies : t.dies = s.dies
  gangs : t.gangs = s.gangs
  low : ∀ p, p ∈ l → Config.localBase ≤ p.1
  outside : memOutside s t (l.map fun p => (spadLoc s p.1, p.2))

theorem Wrote.refl (s : State) : Wrote s s [] := { Carried.refl s with dies := rfl, gangs := rfl, low := nofun, outside := fun _ _ _ => rfl }

theorem Wrote.trans {s t u : State} {l l' : List (Nat × Nat)} (a : Wrote s t l) (b : Wrote t u l') : Wrote s u (l ++ l') :=
  { a.toCarried.trans b.toCarried with
    dies := b.dies.trans a.dies, gangs := b.gangs.trans a.gangs
    low := fun p hp => (List.mem_append.1 hp).elim (a.low p) (b.low p)
    outside := by
      have hb := b.outside
      simp only [a.spadLoc] at hb
      rw [List.map_append]
      exact memOutside_trans a.outside hb }

/-- The ranges may be larger. -/
theorem Wrote.grow {s t : State} {l l' : List (Nat × Nat)} (a : Wrote s t l) (hlow : ∀ q, q ∈ l' → Config.localBase ≤ q.1)
    (h : ∀ p, p ∈ l → ∃ q, q ∈ l' ∧ (p.2 = 0 ∨ q.1 ≤ p.1 ∧ p.1 + p.2 ≤ q.1 + q.2)) : Wrote s t l' := by
  refine { a with low := hlow, outside := fun x hx hno => a.outside x hx fun r hr hst => ?_ }
  obtain ⟨p, hp, rfl⟩ := List.mem_map.1 hr
  obtain ⟨q, hq, hcase⟩ := h p hp
  obtain ⟨i, hi, rfl⟩ := hst
  have hpl := a.low p hp
  have hql := hlow q hq
  dsimp only at hi
  refine hno _ (List.mem_map.2 ⟨q, hq, rfl⟩) ⟨p.1 - q.1 + i, by dsimp only; omega, ?_⟩
  rw [spadLoc_plus hpl, spadLoc_plus hql]
  congr 1
  omega

/-- A byte of the own scratchpad away from the ranges. -/
theorem Wrote.byte {s t : State} {l : List (Nat × Nat)} (a : Wrote s t l) {va : Nat} (hva : Config.localBase ≤ va)
    (h : ∀ p, p ∈ l → va < p.1 ∨ p.1 + p.2 ≤ va) : byteAt t (spadLoc s va) = byteAt s (spadLoc s va) := by
  refine a.outside _ rfl fun r hr hst => ?_
  obtain ⟨p, hp, rfl⟩ := List.mem_map.1 hr
  obtain ⟨i, hi, he⟩ := hst
  have hpl := a.low p hp
  have haway := h p hp
  dsimp only at hi he
  rw [spadLoc_plus hpl] at he
  simp only [spadLoc, Loc.spad.injEq, true_and] at he
  omega

/-- A number there. -/
theorem Wrote.num {s t : State} {l : List (Nat × Nat)} (a : Wrote s t l) {va n : Nat} (hva : Config.localBase ≤ va)
    (h : ∀ p, p ∈ l → va + n ≤ p.1 ∨ p.1 + p.2 ≤ va) : numAt t (spadLoc s va) n = numAt s (spadLoc s va) n := by
  refine congrArg leNat (List.map_congr_left fun i hi => ?_)
  have hin := List.mem_range.1 hi
  rw [spadLoc_plus hva]
  refine a.byte (by omega) fun p hp => ?_
  have haway := h p hp
  omega

/-- Every other memory. -/
theorem Wrote.dev {s t : State} {l : List (Nat × Nat)} (a : Wrote s t l) (b : Nat) : byteAt t (.dev b) = byteAt s (.dev b) := by
  refine a.outside _ rfl fun r hr hst => ?_
  obtain ⟨p, hp, rfl⟩ := List.mem_map.1 hr
  obtain ⟨i, hi, he⟩ := hst
  cases he

/-- One write of the own scratchpad. -/
theorem wrote_writeSpad {s : State} {va : Nat} (bytes : List Byte) (hva : Config.localBase ≤ va) :
    Wrote s (s.setCoreAt (coreOf s.turn) (s.core.writeSpad (va - Config.localBase) bytes)) [(va, bytes.length)] :=
  { carried_setCoreAt (s := s) (x := s.core.writeSpad (va - Config.localBase) bytes) rfl fun w hw => List.mem_of_mem_filter hw with
    dies := rfl, gangs := rfl
    low := fun p hp => by rw [List.mem_singleton.1 hp]; exact hva
    outside := memOutside_of_putAt (putAt_spad s (coreOf s.turn) (va - Config.localBase) bytes) }

/-- The bytes that it writes. -/
theorem byteAt_writeSpad {s : State} {va : Nat} {bytes : List Byte} (hva : Config.localBase ≤ va) {i : Nat} (hi : i < bytes.length) :
    byteAt (s.setCoreAt (coreOf s.turn) (s.core.writeSpad (va - Config.localBase) bytes)) (spadLoc s (va + i)) = bytes.getD i 0 := by
  obtain ⟨hin, -⟩ := putAt_spad s (coreOf s.turn) (va - Config.localBase) bytes
  have hbyte := hin i hi
  rwa [← spadLoc_plus hva]

end Sys2Proof.Machine.Claim
end

section
/-! ## Engine transfers (O54): accesses of the own scratchpad -/

namespace Sys2Proof.Machine.Claim
open Sys2Proof.Machine
set_option Elab.async false

/-! ### Writes -/

theorem engPlace_store_of_spad {s : State} {k va : Nat} (h1 : Config.localBase ≤ va) (h2 : va < Config.localBase + Config.spadBytes) :
    engPlace s k .store va = .ok ({ loc := .spad (coreOf k) (va - Config.localBase) }, s) := by
  have hva : va % 2 ^ 64 = va := by
    simp only [Config.localBase, Config.spadBytes] at h1 h2
    omega
  simp only [engPlace, translateAs, hva, window_of_spad h1 h2]
  rfl

theorem engPut_of_inSpad {s : State} {va : Nat} {bytes : List Byte} (h : inSpad s va bytes.length) (h0 : 0 < bytes.length) :
    engPut s s.turn va bytes = .ok (s.setCoreAt (coreOf s.turn) (s.core.writeSpad (va - Config.localBase) bytes)) := by
  obtain ⟨hlo, hhi, -, hpiece⟩ := h
  have hfree : s.inPiece (coreOf s.turn) (va - Config.localBase) = false := hpiece 0 h0
  simp only [engPut, engPlace_store_of_spad hlo (show va < Config.localBase + Config.spadBytes by omega), writePlace, targetWrite,
    targetWriteStop, hfree, targetPut]
  rfl

/-- Each byte of a range lies in the own scratchpad. -/
theorem inSpad_byte {s : State} {va n i : Nat} (h : inSpad s va n) (hi : i < n) : inSpad s (va + i) 1 :=
  inSpad_part h (Nat.le_add_right va i) (by omega) Nat.one_pos

/-- Bytes written to the own scratchpad one by one. -/
theorem engWrite_of_bytes {s : State} {va : Nat} {bytes : List Byte} (hlo : Config.localBase ≤ va)
    (h : ∀ i, i < bytes.length → inSpad s (va + i) 1) :
    ∃ t, engWrite s.turn va bytes s = .ok t ∧ Wrote s t [(va, bytes.length)] ∧
      ∀ i, i < bytes.length → byteAt t (spadLoc s (va + i)) = bytes.getD i 0 := by
  induction bytes generalizing s va with
  | nil => exact ⟨s, rfl, (Wrote.refl s).grow (fun q hq => by rw [List.mem_singleton.1 hq]; exact hlo) nofun, nofun⟩
  | cons b rest ih =>
    rw [List.length_cons] at h ⊢
    have hfirst : inSpad s va ([b] : List Byte).length := h 0 (Nat.succ_pos _)
    have hput := engPut_of_inSpad hfirst Nat.one_pos
    have hw := wrote_writeSpad (s := s) [b] hlo
    have hb := byteAt_writeSpad (s := s) (bytes := [b]) hlo (i := 0) Nat.one_pos
    generalize s.setCoreAt (coreOf s.turn) (s.core.writeSpad (va - Config.localBase) [b]) = u at hput hw hb
    obtain ⟨t, ht, hwt, hbt⟩ := ih (s := u) (va := va + 1) (by omega) fun i hi => hw.inSpad (by
      have hnext := h (i + 1) (by omega)
      rwa [show va + (i + 1) = va + 1 + i by omega] at hnext)
    rw [hw.turn] at ht
    refine ⟨t, by simp only [engWrite, hput, ht], (hw.trans hwt).grow (fun q hq => by rw [List.mem_singleton.1 hq]; exact hlo) ?_,
      fun i hi => ?_⟩
    · intro p hp
      refine ⟨_, List.mem_singleton.2 rfl, .inr ?_⟩
      simp only [List.cons_append, List.nil_append, List.mem_cons, List.not_mem_nil, or_false] at hp
      rcases hp with rfl | rfl
      · simp
      · simp
        omega
    · cases i with
      | zero =>
        have hkept := hwt.byte (va := va + 0) hlo fun p hp => by rw [List.mem_singleton.1 hp]; exact .inl (Nat.lt_succ_self va)
        rw [hw.spadLoc] at hkept
        exact hkept.trans hb
      | succ i =>
        have hbyte := hbt i (by omega)
        rwa [hw.spadLoc, show va + 1 + i = va + (i + 1) by omega] at hbyte

/-! ### Loads -/

/-- An aligned load of the own scratchpad, where no strip is open. -/
theorem load_of_inSpad {s : State} {va n : Nat} (hs : noStrip s) (h : inSpad s va n) (h0 : 0 < n) (ha : va % n = 0) :
    load s s.turn false n va = .ok (numAt s (spadLoc s va) n, s) := by
  obtain ⟨hlo, hhi, hbad, hpiece⟩ := h
  obtain ⟨-, hstrip, -⟩ := hs
  have hfree : s.inPiece (coreOf s.turn) (va - Config.localBase) = false := hpiece 0 h0
  have hbad' : badWord (s.coreAt (coreOf s.turn)).badSpad (va - Config.localBase) n = false := hbad
  refine load_eq_ok.2 ⟨ha, _, _, _, translateBy_of_spad hlo (by omega) Access.noConfusion, ?_, rfl⟩
  rw [viewPlace_of_strip_nil hstrip]
  simp [readPlace, targetRead, hfree, hbad', readBytes_eq_map, byteAt, spadLoc, Loc.plus]

theorem ofNat_numAt_one (s : State) (l : Loc) : BitVec.ofNat 8 (numAt s l 1) = byteAt s (l.plus 0) := by
  simp [numAt, leNat]

/-- The bytes of a block in the own scratchpad. -/
def blockBytes (s : State) (va n : Nat) : List Byte := (List.range n).map fun i => byteAt s (spadLoc s (va + i))

theorem loadRange_of_inSpad {s : State} {va n : Nat} (hs : noStrip s) (h : ∀ i, i < n → inSpad s (va + i) 1) :
    loadRange s s.turn va n = .ok (blockBytes s va n, s) := by
  unfold blockBytes
  induction n generalizing va with
  | zero => rfl
  | succ n ih =>
    have hfirst : inSpad s va 1 := h 0 (Nat.succ_pos n)
    have hva : va % 2 ^ 64 = va := by
      obtain ⟨h1, h2, -⟩ := hfirst
      simp only [Config.localBase, Config.spadBytes] at h1 h2
      omega
    have hrest := ih (va := va + 1) fun i hi => by
      have hnext := h (i + 1) (by omega)
      rwa [show va + (i + 1) = va + 1 + i by omega] at hnext
    simp only [loadRange, hva, load_of_inSpad hs hfirst Nat.one_pos (Nat.mod_one va), hrest, ofNat_numAt_one,
      spadLoc_plus hfirst.1, List.range_succ_eq_map, List.map_cons, List.map_map]
    simp [Function.comp_def, Nat.add_comm, Nat.add_left_comm]

/-- The fields of a block are the numbers that lie there. -/
theorem leNat_block (s : State) {va n off m : Nat} (hlo : Config.localBase ≤ va) (h : off + m ≤ n) :
    leNat (((blockBytes s va n).drop off).take m) = numAt s (spadLoc s (va + off)) m := by
  unfold blockBytes
  refine congrArg leNat (List.ext_getElem ?_ fun i h1 h2 => ?_)
  · simp only [List.length_take, List.length_drop, List.length_map, List.length_range]
    omega
  · simp [spadLoc_plus (show Config.localBase ≤ va + off by omega), Nat.add_assoc]

theorem unprotect_of_noStrip {s : State} (h : noStrip s) : unprotect s s.turn = s :=
  if_neg (by rw [buffers_of_noStrip h]; exact Bool.false_ne_true)

end Sys2Proof.Machine.Claim
end

section
/-! ## Engine transfers (O54): copies and completions -/

namespace Sys2Proof.Machine.Claim
open Sys2Proof.Machine
set_option Elab.async false

/-! ### Copies (R381) -/

theorem copyStep_of_inSpad {s : State} {dst src c : Nat} (hd : inSpad s dst c) (hs : inSpad s src c) (h0 : 0 < c) :
    ∃ t, copyStep s s.turn dst src c = .ok t ∧ Wrote s t [(dst, c)] ∧
      ∀ i, i < c → byteAt t (spadLoc s (dst + i)) = byteAt s (spadLoc s (src + i)) := by
  have hlen : ((List.range c).map fun i => byteAt s (spadLoc s (src + i))).length = c := by simp
  have hput := engPut_of_inSpad (s := s) (va := dst) (bytes := (List.range c).map fun i => byteAt s (spadLoc s (src + i)))
    (by rw [hlen]; exact hd) (by rw [hlen]; exact h0)
  obtain ⟨hlo, -⟩ := hd
  have hw := wrote_writeSpad (s := s) ((List.range c).map fun i => byteAt s (spadLoc s (src + i))) hlo
  rw [hlen] at hw
  refine ⟨_, by simp only [copyStep, engRead_of_inSpad hs, hput], hw, fun i hi => ?_⟩
  rw [byteAt_writeSpad hlo (by rw [hlen]; exact hi)]
  simp [List.getD_eq_getElem?_getD, hi]

theorem copyPart_of_spad {s : State} {k va left : Nat} (h1 : Config.localBase ≤ va) (h2 : va < Config.localBase + Config.spadBytes)
    (h0 : 0 < left) : 0 < copyPart s k va left ∧ copyPart s k va left ≤ left := by
  simp only [copyPart, engPlace_store_of_spad h1 h2, Bool.false_eq_true, if_false]
  split
  case isTrue h =>
    simp only [Bool.and_eq_true, decide_eq_true_eq] at h
    exact ⟨by decide, h.2⟩
  case isFalse => exact ⟨Nat.one_pos, h0⟩

/-- A copy within the own scratchpad goes through (R381). -/
theorem copyRun_of_inSpad {dst src n : Nat} (ha : apart dst n src n) {fuel : Nat} : ∀ {s : State} {o : Nat}, inSpad s dst n →
    inSpad s src n → o ≤ n → n - o < fuel → ∃ t, copyRun s.turn dst src n fuel o s = (t, n, none) ∧ Wrote s t [(dst + o, n - o)] ∧
      ∀ i, o ≤ i → i < n → byteAt t (spadLoc s (dst + i)) = byteAt s (spadLoc s (src + i)) := by
  induction fuel with
  | zero => exact fun _ _ _ h => absurd h (Nat.not_lt_zero _)
  | succ fuel ih =>
    intro s o hd hs ho hf
    obtain ⟨hlo, hhi, -⟩ := id hd
    obtain ⟨hlo', -⟩ := id hs
    rcases Nat.eq_or_lt_of_le ho with rfl | hlt
    · refine ⟨s, by rw [copyRun, if_pos (Nat.le_refl o)], (Wrote.refl s).grow ?_ nofun, fun i h1 h2 => by omega⟩
      intro q hq
      rw [List.mem_singleton.1 hq]
      exact Nat.le_add_right_of_le hlo
    · obtain ⟨hc0, hc⟩ := copyPart_of_spad (s := s) (k := s.turn) (va := dst + o) (left := n - o) (by omega) (by omega) (by omega)
      generalize hpart : copyPart s s.turn (dst + o) (n - o) = c at hc0 hc
      obtain ⟨u, hu, hw, hb⟩ := copyStep_of_inSpad (s := s) (dst := dst + o) (src := src + o) (c := c)
        (inSpad_part hd (by omega) (by omega) hc0) (inSpad_part hs (by omega) (by omega) hc0) hc0
      obtain ⟨t, ht, hwt, hbt⟩ := ih (s := u) (o := o + c) (hw.inSpad hd) (hw.inSpad hs) (by omega) (by omega)
      rw [hw.turn] at ht
      refine ⟨t, ?_, (hw.trans hwt).grow ?_ ?_, fun i h1 h2 => ?_⟩
      · rw [copyRun, if_neg (by omega)]
        simp only [hpart, hu, ht]
      · intro q hq
        rw [List.mem_singleton.1 hq]
        exact Nat.le_add_right_of_le hlo
      · intro p hp
        refine ⟨_, List.mem_singleton.2 rfl, .inr ?_⟩
        simp only [List.cons_append, List.nil_append, List.mem_cons, List.not_mem_nil, or_false] at hp
        rcases hp with rfl | rfl
        · simp
          omega
        · simp
          omega
      · simp only [hw.spadLoc] at hbt
        by_cases hi : i < o + c
        · have hkept := hwt.byte (va := dst + i) (by omega) fun p hp => by
            rw [List.mem_singleton.1 hp]
            dsimp only
            omega
          have hnew := hb (i - o) (by omega)
          rw [show dst + o + (i - o) = dst + i by omega, show src + o + (i - o) = src + i by omega] at hnew
          rw [hw.spadLoc] at hkept
          exact hkept.trans hnew
        · have hsame := hw.byte (va := src + i) (by omega) fun p hp => by
            rw [List.mem_singleton.1 hp]
            unfold apart at ha
            dsimp only
            omega
          exact (hbt i (by omega) h2).trans hsame

/-! ### Registers that a transfer advances (R376) -/

theorem memOutside_setHartAt (s : State) (k : Nat) (x : Hart) : memOutside s (s.setHartAt k x) [] := fun y hy _ => by
  cases y with
  | regs => cases hy
  | _ => rfl

theorem writeRegs_append (s : State) (k : Nat) (l : List (Reg × Nat)) (p : Reg × Nat) : writeRegs s k (l ++ [p]) =
    (writeRegs s k l).setHartAt k (((writeRegs s k l).hartAt k).setReg p.1 (BitVec.ofNat 64 p.2)) := by
  rw [writeRegs, List.foldl_append]
  rfl

theorem setReg_eq (h : Hart) (r : Reg) (v : Word) : h.setReg r v = { h with s := (h.setReg r v).s } := by
  unfold Hart.setReg
  split <;> rfl

/-- Only harts change. -/
theorem writeRegs_eq (s : State) (k : Nat) (l : List (Reg × Nat)) : ∃ hs, writeRegs s k l = { s with harts := hs } := by
  induction l using List.reverseRecOn with
  | nil => exact ⟨_, rfl⟩
  | append_singleton l p ih =>
    obtain ⟨hs, hl⟩ := ih
    rw [writeRegs_append, hl]
    exact ⟨_, rfl⟩

theorem rested_writeRegs (s : State) (l : List (Reg × Nat)) : Rested s (writeRegs s s.turn l) := by
  induction l using List.reverseRecOn with
  | nil => exact Rested.refl s
  | append_singleton l p ih =>
    have hset := rested_setHartAt (s := writeRegs s s.turn l) (setReg_eq (writeRegs s s.turn l).hart p.1 (BitVec.ofNat 64 p.2))
    rw [State.hart, ih.turn, ← writeRegs_append] at hset
    exact ih.trans hset

theorem untracked_writeRegs {s : State} (h : untracked s) (k : Nat) (l : List (Reg × Nat)) : untracked (writeRegs s k l) := by
  obtain ⟨hs, hl⟩ := writeRegs_eq s k l
  rw [hl]
  exact h

theorem memOutside_writeRegs (s : State) (k : Nat) (l : List (Reg × Nat)) : memOutside s (writeRegs s k l) [] := by
  obtain ⟨hs, hl⟩ := writeRegs_eq s k l
  rw [hl]
  exact memOutside_of_mem rfl rfl

theorem reg_writeRegs (s : State) (l : List (Reg × Nat)) (r : Reg) : (writeRegs s s.turn l).hart.reg r =
    match l.reverse.find? fun p => p.1 = r ∧ r ≠ 0 with | some p => BitVec.ofNat 64 p.2 | none => s.hart.reg r := by
  have hturn := fun l => (rested_writeRegs s l).turn
  induction l using List.reverseRecOn with
  | nil => rfl
  | append_singleton l p ih =>
    rw [State.hart, hturn] at ih ⊢
    rw [writeRegs_append, State.hartAt_setHartAt_self, List.reverse_append]
    simp only [List.reverse_cons, List.reverse_nil, List.nil_append, List.cons_append, List.find?_cons]
    by_cases hp : p.1 = r ∧ r ≠ 0
    · obtain ⟨rfl, h0⟩ := hp
      simp only [h0, ne_eq, not_false_eq_true, and_self, decide_true]
      exact Hart.reg_setReg_self _ _ h0
    · simp only [hp, decide_false]
      rw [← ih]
      by_cases h0 : p.1 = r
      · have hr : r = 0 := by
          by_contra hne
          exact hp ⟨h0, hne⟩
        subst hr
        rfl
      · exact Hart.reg_setReg_of_ne _ _ (Ne.symm h0)

end Sys2Proof.Machine.Claim
end

section
/-! ## Engine transfers (O54): the issue and the end of a transfer -/

namespace Sys2Proof.Machine.Claim
open Sys2Proof.Machine
set_option Elab.async false

/-! ### Completion blocks in the own scratchpad (R377, R378) -/

/-- The bytes a completion writes, by virtual address. -/
def blockSpan (kind : BitVec 4) (va : Nat) : List (Nat × Nat) := if kind.toNat = 0 then [] else [(va + 16, 8)]

theorem blockRange_eq (s : State) (kind : BitVec 4) (va : Nat) :
    blockRange s kind va = (blockSpan kind va).map fun p => (spadLoc s p.1, p.2) := by
  unfold blockRange blockSpan
  split <;> rfl

theorem Carried.blockReady {s t : State} (h : Carried s t) {kind : BitVec 4} {va : Nat} (hb : blockReady s kind va) :
    blockReady t kind va :=
  hb.imp id fun ⟨hk, ha, hin⟩ => ⟨hk, ha, h.inSpad hin⟩

theorem cplIssue_of_block {s : State} {kind : BitVec 4} {va : Nat} (h : blockReady s kind va) (e : VEntry) (total : Nat) :
    cplIssue s s.turn kind.toNat e va total = .ok (s, e) := by
  rcases h with h0 | ⟨h3, ha, hin⟩
  · rw [cplIssue, if_pos h0]
  · obtain ⟨hlo, hhi, -, hpiece⟩ := hin
    have hfree : s.inPiece (coreOf s.turn) (va - Config.localBase) = false := hpiece 0 (by decide)
    have htr : translate s s.turn .store false va = .ok ({ loc := .spad (coreOf s.turn) (va - Config.localBase) }, s) := by
      rw [translate, translateBy_of_spad hlo (by omega) Access.noConfusion]
    have hal : aligned va 32 = .ok () := aligned_eq_ok.2 ha
    simp only [cplIssue, h3, hal, htr, bind, Except.bind, targetWriteStop, hfree]
    rfl

/-- The completion of a transfer that did not fail. -/
theorem signalled_of_block {s : State} {kind : BitVec 4} {va va' : Nat} {e : VEntry} (hs : noStrip s) (hb : blockReady s kind va)
    (hsig : e.signal = some (kind.toNat, va', 0)) (hva : kind.toNat ≠ 0 → va' = va) : let u := signalled s s.turn e
    Wrote s u (blockSpan kind va) ∧ blockDone s u kind va 0 ∧ u.hart = s.hart := by
  intro u
  rcases hb with h0 | ⟨h3, ha, hin⟩
  · have hu : u = s := by simp only [u, signalled, hsig, cplDone, h0, if_true]
    rw [hu, blockSpan, if_pos h0]
    exact ⟨Wrote.refl s, .inl h0, rfl⟩
  · have hne : kind.toNat ≠ 0 := by omega
    rw [hva hne] at hsig
    have hu : u = s.setCoreAt (coreOf s.turn) (s.core.writeSpad (va + 16 - Config.localBase) (leBytes 8 0)) := by
      simp only [u, signalled, hsig, h3]
      exact cplDone_status e hs (by omega) (inSpad_part hin (Nat.le_refl va) (by omega) (by omega))
    obtain ⟨hlo, -⟩ := hin
    have hw := wrote_writeSpad (s := s) (va := va + 16) (leBytes 8 0) (by omega)
    rw [length_leBytes] at hw
    rw [hu, blockSpan, if_neg hne]
    exact ⟨hw, .inr (numAt_of_putAt_leBytes (putAt_spad s _ _ _) (by decide)), rfl⟩

/-! ### The machine that the entry joined -/

theorem memOutside_pushed (s : State) (e : VEntry) : memOutside s (pushed s e) [] := fun x hx hno =>
  (memOutside_setHartAt (s.setCoreAt (coreOf s.turn) { s.core with age := s.core.age + 1 }) s.turn _ x hx hno).trans
    (byteAt_setCoreAt (y := { s.core with age := s.core.age + 1 }) rfl rfl hx)

theorem inSpad_pushed {s : State} {e : VEntry} {va n : Nat} (h : inSpad s va n) : inSpad (pushed s e) va n := by
  have hcore : (pushed s e).core = { s.core with age := s.core.age + 1 } := coreAt_pushed s e
  refine inSpad_congr (s := s) (t := pushed s e) rfl (by rw [hcore]) (fun k => ?_) h
  by_cases hk : k = s.turn
  · subst hk
    rw [hartAt_pushed]
    rfl
  · rw [hartAt_pushed_of_ne _ _ hk]

theorem noStrip_pushed {s : State} {e : VEntry} (h : noStrip s) : noStrip (pushed s e) := by
  have hhart : (pushed s e).hart = _ := hartAt_pushed s e
  rw [noStrip, hhart]
  exact h

theorem untracked_pushed {s : State} {e : VEntry} (h : untracked s) : untracked (pushed s e) := fun p hp => by
  rcases Table.mem_set hp with rfl | hp
  · exact tracks_of_untracked h (coreOf s.turn)
  · exact h p hp

theorem blockReady_pushed {s : State} {e : VEntry} {kind : BitVec 4} {va : Nat} (h : blockReady s kind va) :
    blockReady (pushed s e) kind va :=
  h.imp id fun ⟨hk, ha, hin⟩ => ⟨hk, ha, inSpad_pushed hin⟩

theorem byteAt_pushed (s : State) (e : VEntry) {x : Loc} (hx : isMem x = true) : byteAt (pushed s e) x = byteAt s x :=
  memOutside_pushed s e x hx nofun

theorem numAt_pushed (s : State) (e : VEntry) (va n : Nat) : numAt (pushed s e) (spadLoc s va) n = numAt s (spadLoc s va) n :=
  congrArg leNat (List.map_congr_left fun _ _ => byteAt_pushed s e rfl)

/-! ### The end -/

/-- What the hart's transfer has left in the end (R376). -/
theorem engDone_of_rested {s t u : State} {e : VEntry} (hi : idleQueue s) (howes : e.op.owes = none) (ht : Rested (pushed s e) t)
    (hu : Rested (t.setHartAt s.turn (leftQueue (t.hartAt s.turn))) u) : engDone s u := by
  obtain ⟨-, -, hv, hy, -⟩ := hi
  have hturn : t.turn = s.turn := ht.turn
  have hturn' : u.turn = s.turn := hu.turn.trans hturn
  have hleft : (t.setHartAt s.turn (leftQueue (t.hartAt s.turn))).hart = leftQueue (t.hartAt s.turn) := by
    rw [State.hart, show (t.setHartAt s.turn (leftQueue (t.hartAt s.turn))).turn = s.turn from hturn, State.hartAt_setHartAt_self]
  have hthart : t.hartAt s.turn = { (pushed s e).hartAt s.turn with s := (t.hartAt s.turn).s } := by
    have h := ht.hart
    rw [State.hart, hturn] at h
    exact h
  obtain ⟨x, hx⟩ : ∃ x, u.hart = { s.hart with
      s := x, pc := s.hart.pc + 4, seq := (s.hart.seq + 1) % 2 ^ 32, done := s.hart.done + 1 } := by
    refine ⟨u.hart.s, hu.hart.trans ?_⟩
    rw [hleft, hthart, hartAt_pushed, howes]
    simp only [leftQueue, hv, hy]
    rfl
  refine ⟨?_, fun k hk => ?_, ?_, ?_, ?_, fun c => ?_, hu.parts.trans ht.parts, hu.tasks.trans ht.tasks, hturn'⟩
  · rw [vecHart, hx]
  · have h1 := hu.harts k (by rw [show (t.setHartAt s.turn (leftQueue (t.hartAt s.turn))).turn = s.turn from hturn]; exact hk)
    rw [h1, State.hartAt_setHartAt_of_ne _ _ hk, ht.harts k hk, hartAt_pushed_of_ne _ _ hk]
  · rw [hx]
  · rw [hx]
  · rw [flowSame, hx]
    exact ⟨rfl, rfl, rfl, rfl, rfl, rfl⟩
  · rw [hu.cores c, State.coreAt_setHartAt, ht.cores c]
    split
    case isTrue h => rw [h, coreAt_pushed]
    case isFalse h => rw [coreAt_pushed_of_ne _ _ h]

/-- The machine once the entry has left the queue, its pending registers written. -/
def leftWith (s t : State) (l : List (Reg × Nat)) : State :=
  (writeRegs t s.turn l).setHartAt s.turn (leftQueue ((writeRegs t s.turn l).hartAt s.turn))

theorem leftWith_eq (s t : State) (l : List (Reg × Nat)) : ∃ hs, leftWith s t l = { t with harts := hs } := by
  obtain ⟨hs, hl⟩ := writeRegs_eq t s.turn l
  rw [leftWith, hl]
  exact ⟨_, rfl⟩

section
variable {s t : State} {e : VEntry} (l : List (Reg × Nat)) (ht : Rested (pushed s e) t)
include ht

theorem hart_leftWith : (leftWith s t l).hart = leftQueue (writeRegs t s.turn l).hart := by
  have hturn : (writeRegs t s.turn l).turn = s.turn := by
    rw [← show t.turn = s.turn from ht.turn]
    exact (rested_writeRegs t l).turn
  have hturn' : (leftWith s t l).turn = s.turn := hturn
  rw [State.hart, hturn', State.hart, hturn]
  exact State.hartAt_setHartAt_self ..

theorem rested_leftWith : Rested (pushed s e) (writeRegs t s.turn l) := by
  have hregs := rested_writeRegs t l
  rw [show t.turn = s.turn from ht.turn] at hregs
  exact ht.trans hregs

omit ht in
theorem memOutside_leftWith : memOutside t (leftWith s t l) [] := fun x hx hno =>
  (memOutside_setHartAt (writeRegs t s.turn l) s.turn _ x hx hno).trans (memOutside_writeRegs t s.turn l x hx hno)

theorem turn_leftWith : (leftWith s t l).turn = s.turn := (rested_leftWith l ht).turn

theorem noStrip_leftWith (hs : noStrip s) : noStrip (leftWith s t l) := by
  rw [noStrip, hart_leftWith l ht, State.hart, (rested_leftWith l ht).turn]
  have hkept := (rested_leftWith l ht).noStrip (noStrip_pushed hs)
  rw [noStrip, State.hart, (rested_leftWith l ht).turn] at hkept
  exact hkept

end

theorem inSpad_leftWith {s t : State} {e : VEntry} (l : List (Reg × Nat)) (ht : Carried (pushed s e) t) {va n : Nat}
    (h : inSpad s va n) : inSpad (leftWith s t l) va n := by
  have hpushed : inSpad t va n := ht.inSpad (inSpad_pushed h)
  have hrest := rested_leftWith l ht.toRested
  have hcores : (leftWith s t l).cores = t.cores := by
    obtain ⟨hs, hl⟩ := leftWith_eq s t l
    rw [hl]
  have hturn : (leftWith s t l).turn = t.turn := (turn_leftWith l ht.toRested).trans ht.turn.symm
  refine inSpad_congr (s := t) hturn (by simp only [State.core, State.coreAt, hcores, hturn]) (fun k => ?_) hpushed
  have hpmode : ((writeRegs t s.turn l).hartAt k).pmode = (t.hartAt k).pmode := by rw [hrest.pmode k, ht.pmode k]
  by_cases hk : k = s.turn
  · subst hk
    rw [leftWith, State.hartAt_setHartAt_self]
    exact hpmode
  · rw [leftWith, State.hartAt_setHartAt_of_ne _ _ hk]
    exact hpmode

/-- What a transfer whose completion block lies in the own scratchpad leaves. -/
structure EngEnd (s t u : State) (kind : BitVec 4) (cva : Nat) (regs : List (Reg × Nat)) (l : List (Nat × Nat)) : Prop where
  done : engDone s u
  regs : u.hart.s = (writeRegs t s.turn regs).hart.s
  block : blockDone s u kind cva 0
  outside : memOutside s u (l.map (fun p => (spadLoc s p.1, p.2)) ++ blockRange s kind cva)
  kept : ∀ va, Config.localBase ≤ va → apart va 1 cva 32 → byteAt u (spadLoc s va) = byteAt t (spadLoc s va)

theorem engEnd_of_wrote {s t : State} {e e' : VEntry} {kind : BitVec 4} {cva va' : Nat} {l : List (Nat × Nat)} (hi : idleQueue s)
    (hs : noStrip s) (howes : e.op.owes = none) (ht : Wrote (pushed s e) t l) (regs : List (Reg × Nat)) (hb : blockReady s kind cva)
    (hsig : e'.signal = some (kind.toNat, va', 0)) (hva : kind.toNat ≠ 0 → va' = cva) :
    EngEnd s t (signalled (leftWith s t regs) s.turn e') kind cva regs l := by
  let v := leftWith s t regs
  have hturn : v.turn = s.turn := turn_leftWith regs ht.toRested
  have hloc : ∀ va, spadLoc (leftWith s t regs) va = spadLoc s va := fun va => by rw [spadLoc, hturn]; rfl
  have hloc' : ∀ va, spadLoc (pushed s e) va = spadLoc s va := fun _ => rfl
  have hready : blockReady v kind cva := hb.imp id fun ⟨hk, ha, hin⟩ => ⟨hk, ha, inSpad_leftWith regs ht.toCarried hin⟩
  obtain ⟨hw, hblock, hhart⟩ := signalled_of_block (noStrip_leftWith regs ht.toRested hs) hready hsig hva
  rw [hturn] at hw hblock hhart
  have hmem : memOutside t v [] := memOutside_leftWith regs
  refine ⟨engDone_of_rested hi howes (rested_leftWith regs ht.toRested) hw.toRested, ?_, ?_, ?_, fun va hlo hap => ?_⟩
  · rw [hhart, hart_leftWith regs ht.toRested]
    rfl
  · refine hblock.imp id fun hnum => ?_
    rwa [hloc] at hnum
  · have h2 := ht.outside
    have h4 := hw.outside
    simp only [hloc] at h4
    simp only [hloc'] at h2
    have hall := memOutside_trans (memOutside_trans (memOutside_trans (memOutside_pushed s e) h2) hmem) h4
    rw [blockRange_eq]
    exact memOutside_mono hall fun r hr => by simpa using hr
  · have hkept := hw.byte (va := va) hlo fun p hp => by
      unfold blockSpan at hp
      split at hp
      case isTrue => exact absurd hp List.not_mem_nil
      case isFalse =>
        rw [List.mem_singleton.1 hp]
        unfold apart at hap
        dsimp only
        omega
    rw [hloc] at hkept
    exact hkept.trans (hmem _ rfl nofun)

/-- The registers of a transfer (R376). -/
theorem advanced_of_regs {s t u : State} {e : VEntry} {regs : List (Reg × Nat)} (ht : Carried (pushed s e) t)
    (h : u.hart.s = (writeRegs t s.turn regs).hart.s) : advanced s u regs := fun r => by
  have hreg : u.hart.reg r = (writeRegs t s.turn regs).hart.reg r := by simp only [Hart.reg, h]
  have hstart : t.hart.reg r = s.hart.reg r := by
    have hturn : t.turn = s.turn := ht.turn
    have hpushed : ((pushed s e).hartAt s.turn).reg r = s.hart.reg r := by
      rw [hartAt_pushed]
      rfl
    rw [State.hart, State.hartAt, ht.sameHarts, hturn]
    exact hpushed
  have hwrite := reg_writeRegs t regs r
  rw [show t.turn = s.turn from ht.turn, hstart] at hwrite
  exact hreg.trans hwrite

/-! ### The commit of a transfer -/

/-- A transfer as an entry of the queue (R376). -/
def engEntry (s : State) (fn : Nat) (d a b : Reg) (kind : BitVec 4) : VEntry :=
  { op := .eng fn d a b kind.toNat, maj := 0x33, fn := fn, x := s.hart.reg a, y := s.hart.reg b, z := s.hart.reg d
    stride := s.hart.reg (succReg b) }

theorem begun_eng (s : State) (fn : Nat) (d a b : Reg) (kind : BitVec 4) (o : Bool) :
    begun s (engEntry s fn d a b kind) o = { engEntry s fn d a b kind with
      seq := s.hart.seq, pc := s.hart.pc, rows := s.hart.vrows, vmk := s.hart.vmk, fpctl := s.hart.fpctl, age := s.core.age
      count := s.hart.vl, phase := 1, old := [], opened := o } := by
  rw [begun, committed_of_plain s (e := engEntry s fn d a b kind) rfl]
  rfl

/-- A transfer that commits to an empty queue runs whole (log 3). -/
theorem engForm_done {s t : State} {regs : List (Reg × Nat)} {fn : Nat} {d a b : Reg} {kind : BitVec 4} {Q : VEntry → Prop} (hi : idleQueue s)
    (hrun : ∀ o, let e := begun s (engEntry s fn d a b kind) o
      ∃ e', runEng (pushed s (engEntry s fn d a b kind)) s.turn e fn d a b kind.toNat = .done (writeRegs t s.turn regs) e' ∧
        e'.op = e.op ∧ Q e')
    (ht : Rested (pushed s (engEntry s fn d a b kind)) t) :
    ∃ e', Q e' ∧ engForm fn d a b kind s = .next (signalled (leftWith s t regs) s.turn e') := by
  let e := engEntry s fn d a b kind
  obtain ⟨-, -, hv, hy, hstep, hh, hd⟩ := id hi
  have hop : ∀ o, (begun s e o).op = .eng fn d a b kind.toNat := fun o => by rw [begun_eng]; rfl
  replace ht := rested_leftWith regs ht
  have hended : Ended (writeRegs t s.turn regs) s.turn := by
    generalize writeRegs t s.turn regs = t at ht
    have hhart : t.hartAt s.turn = { (pushed s e).hartAt s.turn with s := (t.hartAt s.turn).s } := by
      have h := ht.hart
      rw [State.hart, ht.turn] at h
      exact h
    have hcore := ht.cores (coreOf s.turn)
    rw [coreAt_pushed] at hcore
    refine ⟨?_, ?_, (congrArg Core.holes hcore).trans hh, (congrArg Core.dbg hcore).trans hd⟩
    · rw [hhart, hartAt_pushed]
      rfl
    · rw [hhart, hartAt_pushed]
      exact hstep
  obtain ⟨e', hQ, hpush⟩ := push_bare (t := writeRegs t s.turn regs) (e := e) (P := Q) hi rfl rfl (fun o => by
    obtain ⟨e', hdone, hop', hQ⟩ := hrun o
    refine ⟨e', ?_, hop'.trans (hop o), hQ⟩
    simp only [runOp, hop]
    rw [runWhole_of_nil (by rw [coreAt_pushed]; exact hd) (by rw [hartAt_pushed]; exact hstep)]
    exact hdone) hended
  refine ⟨e', hQ, ?_⟩
  rw [leftWith, ← hpush, ← commit_of_idle hi]
  rfl

end Sys2Proof.Machine.Claim
end

section
/-! ## Engine transfers (O54): eng.copy -/

namespace Sys2Proof.Machine.Claim
open Sys2Proof.Machine
set_option Elab.async false

/-! ### The checks of a transfer -/

theorem rangesMeet_of_apart {s : State} {a b n : Nat} (ha : inSpad s a n) (hb : inSpad s b n) (h : apart a n b n) :
    rangesMeet a b n = false := by
  obtain ⟨h1, h2, -⟩ := ha
  obtain ⟨h3, h4, -⟩ := hb
  simp only [Config.localBase, Config.spadBytes] at h1 h2 h3 h4
  unfold apart at h
  by_cases hn : n = 0
  · simp [rangesMeet, hn]
  · rw [rangesMeet, decide_eq_false (by omega), decide_eq_false (by omega)]
    exact Bool.and_false _

theorem trackRoom_of_untracked {s : State} (h : untracked s) (k : Nat) (dsts : List Nat) : trackRoom s k dsts = true := by
  refine List.all_eq_true.2 fun p _ => ?_
  rw [tracks_of_untracked h]
  rfl

/-- A transfer whose accesses have all performed (R378). -/
theorem engEnd_none {s : State} (hu : untracked s) (e : VEntry) (kind cva patt elem : Nat) (l : List (Reg × Nat)) (again : VEntry → VEntry) :
    engEnd s s.turn e kind cva 0 patt elem none l again =
      .done (writeRegs s s.turn l) { e.to 0 0 with signal := some (kind, cva, 0) } := by
  rw [engEnd]
  exact engDone_of_untracked (untracked_writeRegs hu s.turn l) s.turn e kind cva (0 * 2 ^ 48)

/-- The states in which a transfer may run. -/
structure EngReady (s : State) : Prop where
  strip : noStrip s
  tracks : untracked s

theorem EngReady.carry {s t : State} (h : EngReady s) (hc : Carried s t) : EngReady t := ⟨hc.noStrip h.strip, hc.tracks h.tracks⟩

theorem engReady_pushed {s : State} {e : VEntry} (hs : noStrip s) (hu : untracked s) : EngReady (pushed s e) :=
  ⟨noStrip_pushed hs, untracked_pushed hu⟩

/-! ### The copy (R381) -/

/-- A copy that has issued from p in q, and that performs, ends. -/
theorem runCopy_done {p q u : State} {e e₁ : VEntry} {d a b : Reg} {kind dst src n : Nat} (hp : untracked p) (hq : EngReady q)
    (hz : e.z.toNat = dst) (hx : e.x.toNat = src) (hy : e.y.toNat = n) (hturn : q.turn = p.turn) (hturn' : u.turn = p.turn)
    (hiss : cplIssue p p.turn kind e e.stride.toNat n = .ok (q, e₁)) (hstride : e₁.stride = e.stride)
    (hmeet : rangesMeet dst src n = false) (hu : copyRun p.turn dst src n (n + 1) 0 q = (u, n, none)) (hut : untracked u) :
    runCopy p p.turn e d a b kind = .done (writeRegs u p.turn [(d, dst + n), (a, src + n), (b, 0)])
      { e₁.to 0 0 with signal := some (kind, e.stride.toNat, 0) } := by
  have hend := engEnd_none hut e₁ kind e.stride.toNat 0 0 [(d, dst + n), (a, src + n), (b, n - n)]
    fun e => { e with z := e.z + BitVec.ofNat 64 n, x := e.x + BitVec.ofNat 64 n, y := BitVec.ofNat 64 (n - n) }
  have hunp : unprotect q p.turn = q := hturn ▸ unprotect_of_noStrip hq.strip
  rw [hturn'] at hend
  simp only [runCopy, hz, hx, hy, hmeet, trackRoom_of_untracked hp, hiss, hstride, hunp, hu, Bool.not_true, Bool.false_eq_true, if_false]
  simp only [Nat.sub_self] at hend ⊢
  exact hend

/-- The ranges of a copy do not meet, and it performs from any state that the issue leaves. -/
theorem copyRun_whole {q : State} {dst src n : Nat} (hd : inSpad q dst n) (hs : inSpad q src n) (hap : apart dst n src n) :
    ∃ u, copyRun q.turn dst src n (n + 1) 0 q = (u, n, none) ∧ Wrote q u [(dst, n)] ∧ copied q u dst src n := by
  obtain ⟨u, hu, hw, hb⟩ := copyRun_of_inSpad hap (fuel := n + 1) (s := q) (o := 0) hd hs (Nat.zero_le n) (Nat.lt_succ_self _)
  exact ⟨u, hu, hw, fun i hi => hb i (Nat.zero_le i) hi⟩

/-- The bytes of a copy, once its completion has followed. -/
theorem copied_of_kept {s t u : State} {e : VEntry} {dst src n : Nat} (hc : copied (pushed s e) t dst src n)
    (hk : ∀ va, dst ≤ va → va < dst + n → byteAt u (spadLoc s va) = byteAt t (spadLoc s va)) : copied s u dst src n := fun i hi =>
  (hk (dst + i) (by omega) (by omega)).trans ((hc i hi).trans (byteAt_pushed s e rfl))

/-- eng.copy with no completion block, or with a status block in the own scratchpad. -/
theorem engCopy_block {s : State} {d a b : Reg} {kind : BitVec 4} (hi : idleQueue s) (hs : noStrip s) (hu : untracked s)
    (hd : inSpad s (s.hart.reg d).toNat (s.hart.reg b).toNat) (hsrc : inSpad s (s.hart.reg a).toNat (s.hart.reg b).toNat)
    (hap : apart (s.hart.reg d).toNat (s.hart.reg b).toNat (s.hart.reg a).toNat (s.hart.reg b).toNat)
    (hb : blockReady s kind (cplAddr s b)) (hcap : apart (s.hart.reg d).toNat (s.hart.reg b).toNat (cplAddr s b) 32) :
    let dst := (s.hart.reg d).toNat
    let src := (s.hart.reg a).toNat
    let n := (s.hart.reg b).toNat
    ∃ t, exec (.engCopy d a b kind) s = .next t ∧ engDone s t ∧
      (advanced s t [(d, dst + n), (a, src + n), (b, 0)] ∧ copied s t dst src n) ∧ blockDone s t kind (cplAddr s b) 0 ∧
      memOutside s t ((spadLoc s dst, n) :: blockRange s kind (cplAddr s b)) := by
  intro dst src n
  let e := engEntry s 0 d a b kind
  have hready := engReady_pushed (e := e) hs hu
  obtain ⟨u, hrun, hw, hc⟩ := copyRun_whole (q := pushed s e) (inSpad_pushed hd) (inSpad_pushed hsrc) hap
  obtain ⟨e', hsig, hexec⟩ := engForm_done (fn := 0) (d := d) (a := a) (b := b) (kind := kind)
    (regs := [(d, dst + n), (a, src + n), (b, 0)]) (Q := fun e' => e'.signal = some (kind.toNat, cplAddr s b, 0)) hi (fun o => by
      rw [begun_eng]
      exact ⟨_, runCopy_done (q := pushed s e) hready.tracks hready rfl rfl rfl rfl hw.turn (cplIssue_of_block (blockReady_pushed hb) _ _) rfl
        (rangesMeet_of_apart hd hsrc hap) hrun (hw.tracks hready.tracks), rfl, rfl⟩) hw.toRested
  have hend := engEnd_of_wrote hi hs (e := e) rfl hw [(d, dst + n), (a, src + n), (b, 0)] hb hsig fun _ => rfl
  refine ⟨_, hexec, hend.done, ⟨advanced_of_regs hw.toCarried hend.regs, ?_⟩, hend.block, hend.outside⟩
  refine copied_of_kept hc fun va h1 h2 => hend.kept va (by have := hd.1; omega) ?_
  unfold apart at hcap ⊢
  omega

end Sys2Proof.Machine.Claim
end

section
/-! ## Engine transfers (O54): eng.copy on a barrier (R393) -/

namespace Sys2Proof.Machine.Claim
open Sys2Proof.Machine
set_option Elab.async false

/-! ### A barrier read back -/

/-- Only the records of barriers change. -/
theorem barSet_eq (s : State) (r : BarRef) (b : Barrier) : ∃ ds gs, barSet s r b = { s with dies := ds, gangs := gs } := by
  unfold barSet
  split
  · exact ⟨_, _, rfl⟩
  · split <;> exact ⟨_, _, rfl⟩

theorem barGet_barSet_self {s : State} {r : BarRef} {b : Barrier} (h : r.die = false → (s.gang? r.own).isSome = true) :
    barGet (barSet s r b) r = b := by
  unfold barGet barSet
  cases hd : r.die with
  | true => simp
  | false =>
    obtain ⟨g, hg⟩ := Option.isSome_iff_exists.1 (h hd)
    simp [hg]

/-- A barrier that counts exists. -/
theorem isSome_of_count {s : State} {r : BarRef} (h : 0 < (barGet s r).count) : r.die = false → (s.gang? r.own).isSome = true := by
  intro hd
  cases hg : s.gang? r.own with
  | some g => rfl
  | none => simp [barGet, hd, hg] at h

theorem barGet_barSet_other (s : State) (r : BarRef) (b : Barrier) : otherBars s (barSet s r b) r := by
  intro q hq
  unfold barGet barSet
  cases hd : r.die with
  | true =>
    cases hqd : q.die with
    | true =>
      by_cases ho : q.own = r.own
      · simp only [ho, if_true, State.dieAt_setDieAt_self]
        exact Table.get_set_of_ne _ _ _ fun hn => hq ⟨hqd.trans hd.symm, ho, hn⟩
      · simp [State.dieAt_setDieAt_of_ne _ _ ho]
    | false => simp
  | false =>
    cases hg : s.gang? r.own with
    | none => simp
    | some g =>
      cases hqd : q.die with
      | true => simp
      | false =>
        by_cases ho : q.own = r.own
        · simp only [ho, hg, Bool.false_eq_true, if_false, State.gang?_setGang_self]
          exact Table.get_set_of_ne _ _ _ fun hn => hq ⟨hqd.trans hd.symm, ho, hn⟩
        · simp [State.gang?_setGang_of_ne _ _ ho]

theorem otherBars_trans {s t u : State} {r : BarRef} (h : otherBars s t r) (h' : otherBars t u r) : otherBars s u r :=
  fun q hq => (h' q hq).trans (h q hq)

/-- What names a barrier rests on few things. -/
theorem barRef_congr {s t : State} {k : Nat} (handle : Nat) (hp : t.parts = s.parts) (hd : ∀ d, (t.dieAt d).fenced = (s.dieAt d).fenced)
    (hc : (t.coreAt (coreOf k)).gang = (s.coreAt (coreOf k)).gang) (hg : ∀ g, (t.gang? g).isSome = (s.gang? g).isSome) :
    barRef t k handle = barRef s k handle := by
  have hpart : t.partOf (coreOf k) = s.partOf (coreOf k) := by simp only [State.partOf, hd, hp]
  have hat : ∀ p, t.partAt p = s.partAt p := fun p => by simp only [State.partAt, hp]
  simp only [barRef, hpart, hat, hc, hg]

theorem fenced_barSet (s : State) (r : BarRef) (b : Barrier) (d : Nat) : ((barSet s r b).dieAt d).fenced = (s.dieAt d).fenced := by
  unfold barSet
  cases r.die with
  | true =>
    by_cases hd : d = r.own
    · subst hd
      simp
    · simp [State.dieAt_setDieAt_of_ne _ _ hd]
  | false => cases s.gang? r.own <;> rfl

theorem isSome_barSet (s : State) (r : BarRef) (b : Barrier) (g : Nat) : ((barSet s r b).gang? g).isSome = (s.gang? g).isSome := by
  unfold barSet
  cases r.die with
  | true => rfl
  | false =>
    cases hg : s.gang? r.own with
    | none => rfl
    | some x =>
      by_cases ho : g = r.own
      · subst ho
        simp [hg]
      · simp [State.gang?_setGang_of_ne _ _ ho]

/-- The bytes of a transfer leave a barrier whose phase is not complete (R391, R393). -/
theorem barFall_of_open {s : State} {r : BarRef} {b : Barrier} {n : Nat} (hb : barGet s r = { b with pend := b.pend + n })
    (h0 : 0 < b.count) (hopen : b.arrived < b.count ∨ 0 < b.pend) : barFall s r n = barSet s r b := by
  have hcount : 0 < (barGet s r).count := by rw [hb]; exact h0
  have hfall : ({ barGet s r with pend := (barGet s r).pend - n } : Barrier) = b := by
    rw [hb, Nat.add_sub_cancel]
  have hself : barGet (barSet s r b) r = b := barGet_barSet_self (isSome_of_count hcount)
  have hwait : ¬ (0 < b.count ∧ b.count ≤ b.arrived ∧ b.pend = 0) := by omega
  simp only [barFall, hfall]
  rw [completePhases, hself]
  exact if_neg hwait

/-! ### What the records of barriers leave -/

theorem rested_of_fields {s t : State} (hturn : t.turn = s.turn) (hp : t.parts = s.parts) (ht : t.tasks = s.tasks) (hh : t.harts = s.harts)
    (hc : t.cores = s.cores) : Rested s t := by
  have hhart : ∀ k, t.hartAt k = s.hartAt k := fun k => by rw [State.hartAt, hh]; rfl
  refine ⟨hturn, hp, ht, ?_, fun k _ => hhart k, fun c => by rw [State.coreAt, hc]; rfl⟩
  rw [State.hart, hturn, hhart]
  rfl

theorem carried_barSet (s : State) (r : BarRef) (b : Barrier) : Carried s (barSet s r b) := by
  obtain ⟨ds, gs, h⟩ := barSet_eq s r b
  rw [h]
  exact { rested_of_fields (s := s) (t := { s with dies := ds, gangs := gs }) rfl rfl rfl rfl rfl with
    sameHarts := rfl, badSpad := fun _ h => h, tracks := id, cap := rfl, sectors := rfl, patts := rfl, badDev := fun _ h => h }

theorem memOutside_barSet (s : State) (r : BarRef) (b : Barrier) : memOutside s (barSet s r b) [] := by
  obtain ⟨ds, gs, h⟩ := barSet_eq s r b
  rw [h]
  exact memOutside_of_mem rfl rfl

theorem wrote_drainRepl (s : State) : Wrote s s.drainRepl [] :=
  { rested_of_fields (s := s) (t := s.drainRepl) rfl rfl rfl rfl rfl with
    sameHarts := rfl, badSpad := fun _ h => h, tracks := id, cap := rfl, sectors := rfl, patts := rfl, badDev := fun _ h => h
    dies := rfl, gangs := rfl, low := nofun
    outside := fun x hx _ => by cases x with
      | regs => cases hx
      | _ => rfl }

/-! ### The issue and the completion (R377, R378, R393) -/

theorem cplIssue_bar {s : State} {va n : Nat} {r : BarRef} {e : VEntry} (hs : noStrip s) (ha : va % 32 = 0) (hin : inSpad s va 32)
    (hpend : e.pend = none) (hr : barRef s s.turn (numAt s (spadLoc s va) 8) = .ok r) (hb : (barGet s r).broken = false)
    (h0 : 0 < (barGet s r).count) (hn : (barGet s r).pend + n < 2 ^ 48) :
    cplIssue s s.turn 2 e va n = .ok (barSet s r { barGet s r with pend := (barGet s r).pend + n },
      { e with pend := some (numAt s (spadLoc s va) 8, n) }) := by
  obtain ⟨hlo, hhi, -, hpiece⟩ := id hin
  have hfree : s.inPiece (coreOf s.turn) (va - Config.localBase) = false := hpiece 0 (by decide)
  have htr : translate s s.turn .store false va = .ok ({ loc := .spad (coreOf s.turn) (va - Config.localBase) }, s) := by
    rw [translate, translateBy_of_spad hlo (by omega) Access.noConfusion]
  have hal : aligned va 32 = .ok () := aligned_eq_ok.2 ha
  have hload := load_of_inSpad hs (inSpad_part (m := 8) hin (Nat.le_refl va) (by omega) (by decide)) (by decide) (by omega)
  have huse : barUse s (numAt s (spadLoc s va) 8) = .ok r := by
    have hne : (barGet s r).count ≠ 0 := by omega
    simp [barUse, hr, hb, hne]
  have hroom : ¬ 2 ^ 48 ≤ (barGet s r).pend + n := by omega
  have hbar : cplBar s s.turn va n = .ok (r, numAt s (spadLoc s va) 8) := by
    simp only [cplBar, hload, huse, bind, Except.bind, if_neg hroom]
  simp only [cplIssue, hal, htr, bind, Except.bind, targetWriteStop, hfree, hpend, hbar]
  rfl

theorem cplDone_bar {s : State} {va n handle : Nat} {r : BarRef} {b : Barrier} {e : VEntry} (hs : noStrip s) (ha : va % 32 = 0)
    (hin : inSpad s va 32) (hpend : e.pend = some (handle, n)) (hr : barRef s s.turn handle = .ok r)
    (hb : barGet s r = { b with pend := b.pend + n }) (h0 : 0 < b.count) (hopen : b.arrived < b.count ∨ 0 < b.pend) :
    cplDone s s.turn 2 e va 0 =
      barSet (s.setCoreAt (coreOf s.turn) (s.core.writeSpad (va + 16 - Config.localBase) (leBytes 8 0))).drainRepl r b := by
  let t : State := s.setCoreAt (coreOf s.turn) (s.core.writeSpad (va + 16 - Config.localBase) (leBytes 8 0))
  have hstore := store_of_inSpad 0 hs (inSpad_part (x := va + 16) (m := 8) hin (by omega) (by omega) (by decide)) (by decide) (by omega)
  have hgang : (t.coreAt (coreOf s.turn)).gang = (s.coreAt (coreOf s.turn)).gang := by
    rw [show t.coreAt (coreOf s.turn) = _ from State.coreAt_setCoreAt_self ..]
    rfl
  have hr' : barRef t s.turn handle = .ok r := (barRef_congr (s := s) (t := t) handle rfl (fun _ => rfl) hgang fun _ => rfl).trans hr
  have hfall : barFall t.drainRepl r n = barSet t.drainRepl r b := barFall_of_open (s := t.drainRepl) hb h0 hopen
  have hto : (barRef t s.turn handle).toOption = some r := by rw [hr']; rfl
  simp only [t] at hto
  simp only [cplDone, hstore, State.attempt, hpend, Option.bind_some, hto]
  exact hfall

theorem barGet_congr {s t : State} (hd : t.dies = s.dies) (hg : t.gangs = s.gangs) (r : BarRef) : barGet t r = barGet s r := by
  simp only [barGet, State.dieAt, State.gang?, hd, hg]

theorem Carried.hart_eq {s t : State} (h : Carried s t) : t.hart = s.hart := by
  rw [State.hart, State.hartAt, h.sameHarts, h.turn]
  rfl

theorem isMem_plus (l : Loc) (i : Nat) : isMem (l.plus i) = isMem l := by cases l <;> rfl

/-- A number that lies where nothing has changed. -/
theorem numAt_of_same {s t : State} (h : memOutside s t []) (l : Loc) (n : Nat) (hl : isMem l = true) : numAt t l n = numAt s l n :=
  congrArg leNat (List.map_congr_left fun i _ => h _ ((isMem_plus l i).trans hl) nofun)

/-- What the completion on a barrier leaves (R378, R393). -/
structure BarSignalled (s t : State) (va : Nat) (r : BarRef) (b : Barrier) : Prop extends Carried s t where
  block : numAt t (spadLoc s (va + 16)) 8 = 0
  bar : barGet t r = b
  others : otherBars s t r
  outside : memOutside s t [(spadLoc s (va + 16), 8)]

theorem barSignalled_of_open {s : State} {va n handle : Nat} {r : BarRef} {b : Barrier} {e : VEntry} (hs : noStrip s) (ha : va % 32 = 0)
    (hin : inSpad s va 32) (hpend : e.pend = some (handle, n)) (hr : barRef s s.turn handle = .ok r)
    (hb : barGet s r = { b with pend := b.pend + n }) (h0 : 0 < b.count) (hopen : b.arrived < b.count ∨ 0 < b.pend) :
    BarSignalled s (cplDone s s.turn 2 e va 0) va r b := by
  have hwrite := wrote_writeSpad (s := s) (va := va + 16) (leBytes 8 0) (by have := hin.1; omega)
  have hnum : numAt _ (spadLoc s (va + 16)) 8 = 0 :=
    numAt_of_putAt_leBytes (putAt_spad s (coreOf s.turn) (va + 16 - Config.localBase) (leBytes 8 0)) (by decide)
  rw [length_leBytes] at hwrite
  rw [cplDone_bar hs ha hin hpend hr hb h0 hopen]
  generalize hw : s.setCoreAt (coreOf s.turn) (s.core.writeSpad (va + 16 - Config.localBase) (leBytes 8 0)) = w at hwrite ⊢
  replace hnum : numAt w (spadLoc s (va + 16)) 8 = 0 := hw ▸ hnum
  have hdrain := hwrite.trans (wrote_drainRepl w)
  have hwbar : ∀ r, barGet w.drainRepl r = barGet s r := barGet_congr hdrain.dies hdrain.gangs
  have hset := memOutside_barSet w.drainRepl r b
  refine { hdrain.toCarried.trans (carried_barSet w.drainRepl r b) with block := ?_, bar := ?_, others := ?_, outside := ?_ }
  · rw [← hnum]
    exact numAt_of_same (memOutside_trans (wrote_drainRepl w).outside hset) (spadLoc s (va + 16)) 8 rfl
  · exact barGet_barSet_self (isSome_of_count (s := w.drainRepl) (by rw [hwbar, hb]; exact h0))
  · exact otherBars_trans (t := w.drainRepl) (fun b _ => hwbar b) (barGet_barSet_other w.drainRepl r b)
  · exact memOutside_mono (memOutside_trans hdrain.outside hset) fun p hp => by simpa using hp

/-- The barrier of a copy once its entry has left the queue. -/
theorem bar_leftWith {s q t : State} {e : VEntry} {r : BarRef} {b : Barrier} (regs : List (Reg × Nat))
    (hq : q = barSet (pushed s e) r b) (hqt : Carried q t) (hdies : t.dies = q.dies) (hgangs : t.gangs = q.gangs)
    (h0 : 0 < (barGet s r).count) : barGet (leftWith s t regs) r = b ∧ otherBars s (leftWith s t regs) r ∧
      ∀ handle, barRef (leftWith s t regs) s.turn handle = barRef s s.turn handle := by
  have hPq : Carried (pushed s e) q := hq ▸ carried_barSet ..
  have ht := hPq.trans hqt
  obtain ⟨hs', hv⟩ := leftWith_eq s t regs
  have hvdies : (leftWith s t regs).dies = q.dies := (congrArg State.dies hv).trans hdies
  have hvgangs : (leftWith s t regs).gangs = q.gangs := (congrArg State.gangs hv).trans hgangs
  have hqbar : ∀ r, barGet (pushed s e) r = barGet s r := barGet_congr rfl rfl
  refine ⟨?_, fun x hx => ?_, fun handle => barRef_congr (s := s) _ ?_ (fun d => ?_) ?_ fun g => ?_⟩
  · rw [barGet_congr hvdies hvgangs, hq]
    exact barGet_barSet_self (isSome_of_count (s := pushed s e) (by rw [hqbar]; exact h0))
  · rw [barGet_congr hvdies hvgangs, hq]
    exact (barGet_barSet_other (pushed s e) r _ x hx).trans (hqbar x)
  · exact (congrArg State.parts hv).trans ht.parts
  · rw [State.dieAt, hvdies, hq]
    exact fenced_barSet (pushed s e) r _ d
  · have hcore := (rested_leftWith regs ht.toRested).cores (coreOf s.turn)
    rw [coreAt_pushed] at hcore
    have hgang : (Core.rest ((leftWith s t regs).coreAt (coreOf s.turn))).gang = _ := congrArg Core.gang hcore
    exact hgang
  · rw [State.gang?, hvgangs, hq]
    exact isSome_barSet (pushed s e) r _ g

/-- eng.copy that counts its bytes on a barrier (R393). -/
theorem engCopy_barrier {s : State} {d a b : Reg} {r : BarRef} (hi : idleQueue s) (hs : noStrip s) (hu : untracked s)
    (hd : inSpad s (s.hart.reg d).toNat (s.hart.reg b).toNat) (hsrc : inSpad s (s.hart.reg a).toNat (s.hart.reg b).toNat)
    (hap : apart (s.hart.reg d).toNat (s.hart.reg b).toNat (s.hart.reg a).toNat (s.hart.reg b).toNat)
    (ha : cplAddr s b % 32 = 0) (hin : inSpad s (cplAddr s b) 32)
    (hcap : apart (s.hart.reg d).toNat (s.hart.reg b).toNat (cplAddr s b) 32)
    (hr : barRef s s.turn (numAt s (spadLoc s (cplAddr s b)) 8) = .ok r) (hb : (barGet s r).broken = false)
    (h0 : 0 < (barGet s r).count) (hn : (barGet s r).pend + (s.hart.reg b).toNat < 2 ^ 48)
    (hopen : (barGet s r).arrived < (barGet s r).count ∨ 0 < (barGet s r).pend) :
    let dst := (s.hart.reg d).toNat
    let src := (s.hart.reg a).toNat
    let n := (s.hart.reg b).toNat
    ∃ t, exec (.engCopy d a b 2) s = .next t ∧ engDone s t ∧
      (advanced s t [(d, dst + n), (a, src + n), (b, 0)] ∧ copied s t dst src n) ∧ blockDone s t 2 (cplAddr s b) 0 ∧
      shape (barGet t r) = shape (barGet s r) ∧ otherBars s t r ∧
      memOutside s t [(spadLoc s dst, n), (spadLoc s (cplAddr s b + 16), 8)] := by
  intro dst src n
  let e := engEntry s 0 d a b 2
  let cva := cplAddr s b
  let regs : List (Reg × Nat) := [(d, dst + n), (a, src + n), (b, 0)]
  let q := barSet (pushed s e) r { barGet s r with pend := (barGet s r).pend + n }
  have hready := engReady_pushed (e := e) hs hu
  have hgang : ((pushed s e).coreAt (coreOf s.turn)).gang = (s.coreAt (coreOf s.turn)).gang := by
    rw [coreAt_pushed]
    rfl
  have hr' : barRef (pushed s e) s.turn (numAt (pushed s e) (spadLoc (pushed s e) cva) 8) = .ok r := by
    rw [show numAt (pushed s e) (spadLoc (pushed s e) cva) 8 = _ from numAt_pushed s e cva 8]
    exact (barRef_congr (s := s) (t := pushed s e) _ rfl (fun _ => rfl) hgang fun _ => rfl).trans hr
  have hq : Carried (pushed s e) q := carried_barSet ..
  obtain ⟨u, hrun, hw, hc⟩ := copyRun_whole (q := q) (hq.inSpad (inSpad_pushed hd)) (hq.inSpad (inSpad_pushed hsrc)) hap
  rw [show q.turn = s.turn from hq.turn] at hrun
  have hPu : Carried (pushed s e) u := hq.trans hw.toCarried
  obtain ⟨e', ⟨hsig, hpend⟩, hexec⟩ := engForm_done (fn := 0) (d := d) (a := a) (b := b) (kind := 2) (regs := regs)
    (Q := fun e' => e'.signal = some (2, cva, 0) ∧ e'.pend = some (numAt s (spadLoc s cva) 8, n)) hi (fun o => by
      rw [begun_eng]
      refine ⟨_, runCopy_done (p := pushed s e) (q := q) hready.tracks (hready.carry hq) rfl rfl rfl hq.turn hPu.turn
        (cplIssue_bar hready.strip ha (inSpad_pushed hin) rfl hr' hb h0 hn) rfl (rangesMeet_of_apart hd hsrc hap) hrun
        (hPu.tracks hready.tracks), rfl, rfl, ?_⟩
      exact congrArg (fun h => some (h, n)) (numAt_pushed s e cva 8)) hPu.toRested
  refine ⟨_, hexec, ?_⟩
  obtain ⟨hbar, hothers, href⟩ := bar_leftWith (e := e) regs rfl hw.toCarried hw.dies hw.gangs h0
  have hturn := turn_leftWith regs hPu.toRested
  have hend := barSignalled_of_open (s := leftWith s u regs) (e := e') (noStrip_leftWith regs hPu.toRested hs) ha
    (inSpad_leftWith regs hPu hin) hpend (by rw [hturn, href]; exact hr) hbar h0 hopen
  have hsignalled : signalled (leftWith s u regs) s.turn e' = cplDone (leftWith s u regs) (leftWith s u regs).turn 2 e' cva 0 := by
    simp only [signalled, hsig, hturn]
  rw [← hsignalled] at hend
  have hloc : ∀ va, spadLoc (leftWith s u regs) va = spadLoc s va := fun va => by rw [spadLoc, hturn]; rfl
  have hregs : (signalled (leftWith s u regs) s.turn e').hart.s = (writeRegs u s.turn regs).hart.s := by
    rw [hend.hart_eq, hart_leftWith regs hPu.toRested]
    rfl
  have hlast : memOutside u (signalled (leftWith s u regs) s.turn e') [(spadLoc s (cva + 16), 8)] := by
    have hout := hend.outside
    rw [hloc] at hout
    exact memOutside_mono (memOutside_trans (memOutside_leftWith regs) hout) fun p hp => by simpa using hp
  have hfirst : memOutside s u [(spadLoc s dst, n)] := by
    have hout := hw.outside
    simp only [hq.spadLoc] at hout
    have hloc' : ∀ va, spadLoc (pushed s e) va = spadLoc s va := fun _ => rfl
    simp only [hloc'] at hout
    exact memOutside_mono (memOutside_trans (memOutside_trans (memOutside_pushed s e) (memOutside_barSet (pushed s e) r _)) hout)
      fun p hp => by simpa using hp
  have hcopied : copied (pushed s e) u dst src n := fun i hi' => by
    have hbyte := hc i hi'
    rw [hq.spadLoc, hq.spadLoc] at hbyte
    exact hbyte.trans (memOutside_barSet (pushed s e) r _ _ rfl nofun)
  refine ⟨engDone_of_rested hi rfl (rested_leftWith regs hPu.toRested) hend.toRested,
    ⟨advanced_of_regs hPu hregs, copied_of_kept hcopied fun va h1 h2 => ?_⟩,
    .inr (hloc _ ▸ hend.block), congrArg shape hend.bar, otherBars_trans hothers hend.others,
    memOutside_mono (memOutside_trans hfirst hlast) fun p hp => by simpa using hp⟩
  refine hlast _ rfl fun p hp => ?_
  rw [List.mem_singleton.1 hp]
  rintro ⟨i, hi', he⟩
  have hlo := hd.1
  have hlo' := hin.1
  rw [spadLoc_plus (by omega)] at he
  simp only [spadLoc, Loc.spad.injEq, true_and] at he
  unfold apart at hcap
  omega

end Sys2Proof.Machine.Claim
end

section
/-! ## Engine transfers (O54): translations, and eng.copy on a future -/

namespace Sys2Proof.Machine.Claim
open Sys2Proof.Machine
set_option Elab.async false

/-! ### An access finds its plinth without harts and cores (R94, R96) -/

/-- The machine with other harts and cores. -/
def withUnits (s : State) (hs : Table Hart) (cs : Table Core) : State := { s with harts := hs, cores := cs }

section
variable (s : State) (hs : Table Hart) (cs : Table Core)

theorem setRegs_withUnits (m : MemSys) : (withUnits s hs cs).setRegs m = withUnits (s.setRegs m) hs cs := by
  simp only [State.setRegs, show (withUnits s hs cs).viewNow = s.viewNow from rfl]
  split <;> rfl

theorem noteCopied_withUnits (f : Nat → Bool) : noteCopied (withUnits s hs cs) f = withUnits (noteCopied s f) hs cs := by
  unfold noteCopied
  rw [show (withUnits s hs cs).mem = s.mem from rfl]
  generalize List.filter _ s.mem.bad = ps
  induction ps generalizing s with
  | nil => rfl
  | cons p ps ih => exact ih (s.note (mediaTrap 5 0 (p.1 * 64)))

theorem walkEnd_withUnits : walkEnd (withUnits s hs cs) = withUnits (walkEnd s) hs cs := by
  simp only [walkEnd, show (withUnits s hs cs).mem = s.mem from rfl, setRegs_withUnits]
  rfl

theorem moveDone_withUnits (g : Nat) : moveDone (withUnits s hs cs) g = withUnits (moveDone s g) hs cs := by
  simp only [moveDone, show (withUnits s hs cs).mem = s.mem from rfl, noteCopied_withUnits, setRegs_withUnits, walkEnd_withUnits]
  split
  · split <;> rfl
  · split <;> rfl

theorem finishMoves_withUnits (g n : Nat) : finishMoves g n (withUnits s hs cs) = withUnits (finishMoves g n s) hs cs := by
  induction n generalizing s with
  | zero => rfl
  | succ n ih =>
    simp only [finishMoves, show (withUnits s hs cs).mem = s.mem from rfl, moveDone_withUnits, ih]
    split <;> rfl

theorem reach_withUnits (r a : Nat) : (withUnits s hs cs).reach r a = withUnits (s.reach r a) hs cs := by
  have hview : (withUnits s hs cs).viewOf r = s.viewOf r := rfl
  simp only [State.reach, show (withUnits s hs cs).mem = s.mem from rfl, hview, finishMoves_withUnits]
  split
  · rfl
  · rw [show (withUnits (finishMoves (a / 4096) 513 s) hs cs).mem = (finishMoves (a / 4096) 513 s).mem from rfl]
    split <;> rfl

end

theorem pushed_eq_withUnits (s : State) (e : VEntry) : pushed s e = withUnits s (pushed s e).harts (pushed s e).cores := rfl

/-! ### A translation that the core keeps (R23) -/

theorem reach_free (s : State) (r a : Nat) : (s.reach r a).free = s.free := by
  obtain ⟨m, l, w, hreach⟩ := reach_memOnly s r a
  rw [hreach]

theorem reachAll_free (s : State) (r : Nat) (as : List Nat) : (s.reachAll r as).free = s.free := by
  unfold State.reachAll
  induction as generalizing s with
  | nil => rfl
  | cons a as ih =>
    rw [List.foldl_cons, ih, reach_free]

theorem reachTables_free (s : State) (r part : Nat) (ptbase : Word) (va : Nat) : (s.reachTables r part ptbase va).free = s.free := by
  unfold State.reachTables
  split
  · rfl
  · exact reachAll_free ..

/-- A lookup that leaves the machine as it is found a translation that the core keeps. -/
theorem lookup_kept {s : State} {k va : Nat} {acc : Access} {e : TlbEntry} {t : State} (h : lookup s k acc false va = .ok (e, t))
    (ht : t.free = s.free) : t = s ∧ ∃ part, s.partOf (coreOf k) = some part ∧
      ((s.coreAt (coreOf k)).tlb.find? fun e => e.serves s part (bits (s.hartAt k).ptbase.toNat 63 52) va && e.bank == va / 2 ^ 16 % 8) = some e := by
  simp only [lookup, Bool.false_eq_true, if_false] at h
  split at h
  · cases h
  next part hpart =>
    split at h
    next e' hfind =>
      cases h
      exact ⟨rfl, part, hpart, hfind⟩
    · split at h
      · cases h
      · cases h
        have hfree := reachTables_free s (coreOf k) part (s.hartAt k).ptbase va
        have hdrawn : (s.reachTables (coreOf k) part (s.hartAt k).ptbase va).free + 1 = s.free := ht
        omega

theorem lookup_of_kept {s : State} {k va part : Nat} {e : TlbEntry} (acc : Access) (hp : s.partOf (coreOf k) = some part)
    (h : ((s.coreAt (coreOf k)).tlb.find? fun e => e.serves s part (bits (s.hartAt k).ptbase.toNat 63 52) va && e.bank == va / 2 ^ 16 % 8) = some e) :
    lookup s k acc false va = .ok (e, s) := by
  simp only [lookup, hp, Bool.false_eq_true, if_false, h]

/-- The same translation serves the machine that an entry has joined. -/
theorem lookup_pushed {s t : State} {e : VEntry} {x : TlbEntry} {acc : Access} {va : Nat}
    (h : lookup s s.turn acc false va = .ok (x, t)) (ht : t.free = s.free) :
    t = s ∧ lookup (pushed s e) s.turn acc false va = .ok (x, pushed s e) := by
  obtain ⟨hts, part, hpart, hfind⟩ := lookup_kept h ht
  refine ⟨hts, lookup_of_kept acc hpart ?_⟩
  rw [coreAt_pushed, hartAt_pushed]
  exact hfind

theorem window_pushed (s : State) (e : VEntry) (va : Nat) : window (pushed s e) s.turn va = window s s.turn va := by
  have hgang : (pushed s e).gangOf (coreOf s.turn) = s.gangOf (coreOf s.turn) := by
    rw [State.gangOf, coreAt_pushed]
    rfl
  rw [window, hgang]
  rfl

theorem translate_pushed {s : State} {e : VEntry} {p : Place} {acc : Access} {va : Nat}
    (h : translate s s.turn acc false va = .ok (p, s)) : translate (pushed s e) s.turn acc false va = .ok (p, pushed s e) := by
  obtain ⟨x, h⟩ := translateBy_of_translate h
  have hpriv : ((pushed s e).hartAt s.turn).priv = (s.hartAt s.turn).priv := by
    rw [hartAt_pushed]
    rfl
  simp only [translateBy, translateAs, lookupBy, List.find?_nil] at h
  simp only [translate, translateBy, translateAs, lookupBy, List.find?_nil, window_pushed]
  split at h
  · cases h
  next q hq =>
    split at h
    · cases h
    next hacc =>
      cases h
      simp only [hacc]
      rfl
  next hnone =>
    split at h
    · cases h
    next y t hl =>
      split at h
      · cases h
      next hrights =>
        split at h
        · cases h
        next p' hplace =>
          simp only [Except.ok.injEq, Prod.mk.injEq] at h
          obtain ⟨rfl, rfl, h⟩ := h
          have hfree : t.free = s.free := by
            split at h
            case h_1 a ha => rw [← h, reach_free]
            case h_2 => rw [h]
          obtain ⟨rfl, hlp⟩ := lookup_pushed (e := e) hl hfree
          simp only [hlp, hpriv, hrights, hplace]
          split at h
          case h_1 a ha =>
            rw [pushed_eq_withUnits, reach_withUnits, h]
          case h_2 => rfl

/-! ### eng.copy that resolves a future (R378) -/

theorem partOf_pushed (s : State) (e : VEntry) (c : Nat) : (pushed s e).partOf c = s.partOf c := rfl

theorem cplIssue_future {s : State} {x e : VEntry} {p : Place} {va total : Nat} (ha : va % 32 = 0)
    (ht : translate s s.turn .store false va = .ok (p, s)) (hp : plainPlace s p 32) :
    cplIssue (pushed s x) s.turn 1 e va total = .ok (pushed s x, e) := by
  obtain ⟨hserves, a, hloc, -⟩ := hp
  simp only [serves, hloc] at hserves
  obtain ⟨hkind, -, hcap, howns, -, -⟩ := hserves
  have hstop : targetWriteStop (pushed s x) s.turn p va = none := by
    simp only [targetWriteStop, hloc, partOf_pushed]
    exact devStop_eq_none (s := pushed s x) hcap howns
  have hal : aligned va 32 = .ok () := aligned_eq_ok.2 ha
  simp [cplIssue, hal, translate_pushed (e := x) ht, hloc, hkind, hstop, bind, Except.bind]

/-- eng.copy that resolves a future: its completion is the one that ENG_COMPLETION makes of the machine the copy leaves. -/
theorem engCopy_future {s : State} {d a b : Reg} {p : Place} (hi : idleQueue s) (hs : noStrip s) (hu : untracked s)
    (hd : inSpad s (s.hart.reg d).toNat (s.hart.reg b).toNat) (hsrc : inSpad s (s.hart.reg a).toNat (s.hart.reg b).toNat)
    (hap : apart (s.hart.reg d).toNat (s.hart.reg b).toNat (s.hart.reg a).toNat (s.hart.reg b).toNat)
    (ha : cplAddr s b % 32 = 0) (ht : translate s s.turn .store false (cplAddr s b) = .ok (p, s)) (hp : plainPlace s p 32) :
    let dst := (s.hart.reg d).toNat
    let src := (s.hart.reg a).toNat
    let n := (s.hart.reg b).toNat
    ∃ t w w', exec (.engCopy d a b 1) s = .next t ∧ copied s w dst src n ∧ memOutside s w [(spadLoc s dst, n)] ∧
      exec (.engCompletion s.turn 1 (BitVec.ofNat 64 (cplAddr s b)) 0) w = .next w' ∧ memSame w' t := by
  intro dst src n
  let e := engEntry s 0 d a b 1
  let regs : List (Reg × Nat) := [(d, dst + n), (a, src + n), (b, 0)]
  have hready := engReady_pushed (e := e) hs hu
  obtain ⟨u, hrun, hw, hc⟩ := copyRun_whole (q := pushed s e) (inSpad_pushed hd) (inSpad_pushed hsrc) hap
  obtain ⟨e', hsig, hexec⟩ := engForm_done (fn := 0) (d := d) (a := a) (b := b) (kind := 1) (regs := regs)
    (Q := fun e' => e'.signal = some (1, cplAddr s b, 0)) hi (fun o => by
      rw [begun_eng]
      exact ⟨_, runCopy_done (q := pushed s e) hready.tracks hready rfl rfl rfl rfl hw.turn (cplIssue_future ha ht hp) rfl
        (rangesMeet_of_apart hd hsrc hap) hrun (hw.tracks hready.tracks), rfl, rfl⟩) hw.toRested
  have hleft : memOutside u (leftWith s u regs) [] := memOutside_leftWith regs
  have hblock : (BitVec.ofNat 64 (cplAddr s b)).toNat = cplAddr s b := by simp [cplAddr]
  refine ⟨_, leftWith s u regs, cplDone (leftWith s u regs) s.turn 1 { op := .eng 0 0 0 0 1 } (cplAddr s b) 0, hexec,
    copied_of_kept hc fun va _ _ => hleft _ rfl nofun, ?_, ?_, fun x _ => ?_⟩
  · have hout := memOutside_trans (memOutside_trans (memOutside_pushed s e) hw.outside) hleft
    simp only [show ∀ va, spadLoc (pushed s e) va = spadLoc s va from fun _ => rfl] at hout
    exact memOutside_mono hout fun q hq => by simpa using hq
  · rw [show exec (.engCompletion s.turn 1 (BitVec.ofNat 64 (cplAddr s b)) 0) (leftWith s u regs) =
      .next (cplDone (leftWith s u regs) s.turn 1 { op := .eng 0 0 0 0 1 } (BitVec.ofNat 64 (cplAddr s b)).toNat 0) from rfl, hblock]
  · simp only [signalled, hsig]
    rfl

end Sys2Proof.Machine.Claim
end

section
/-! ## Engine transfers (O54): eng.mcast -/

namespace Sys2Proof.Machine.Claim
open Sys2Proof.Machine
set_option Elab.async false

/-! ### The block (R382) -/

theorem leNat_eq_zero {l : List Byte} (h : ∀ b, b ∈ l → b = 0) : leNat l = 0 := by
  induction l with
  | nil => rfl
  | cons b l ih =>
    rw [leNat, h b List.mem_cons_self, ih fun c hc => h c (List.mem_cons_of_mem b hc)]
    rfl

/-- A field whose bytes are all zero. -/
theorem numAt_eq_zero {s : State} {va n : Nat} (hlo : Config.localBase ≤ va) (h : ∀ i, i < n → numAt s (spadLoc s (va + i)) 1 = 0) :
    numAt s (spadLoc s va) n = 0 := by
  refine leNat_eq_zero fun b hb => ?_
  obtain ⟨i, hi, rfl⟩ := List.mem_map.1 hb
  have hbyte := ofNat_numAt_one s (spadLoc s (va + i))
  rw [h i (List.mem_range.1 hi), spadLoc_plus (by omega)] at hbyte
  rw [spadLoc_plus hlo]
  exact hbyte.symm

theorem mcastOf_block {s : State} {va : Nat} {dests : List Nat} (hlo : Config.localBase ≤ va)
    (h1 : 1 ≤ dests.length) (h12 : dests.length ≤ 12) (hn : numAt s (spadLoc s (va + 0)) 1 = dests.length)
    (hpad : numAt s (spadLoc s (va + 1)) 1 = 0) (hfail : numAt s (spadLoc s (va + 2)) 2 = 0) (hpad' : numAt s (spadLoc s (va + 4)) 4 = 0)
    (hoff : numAt s (spadLoc s (va + 8)) 8 = 0) (hend : ∀ o, o < 16 → numAt s (spadLoc s (va + (112 + o))) 1 = 0)
    (hdests : ∀ k, k < dests.length → numAt s (spadLoc s (va + (16 + 8 * k))) 8 = dests.getD k 0) :
    mcastOf (blockBytes s va 128) = some { ndest := dests.length, dfail := 0, offset := 0, dests := dests } := by
  have hend' : numAt s (spadLoc s (va + 112)) 16 = 0 := numAt_eq_zero (by omega) fun i hi => by rw [Nat.add_assoc]; exact hend i hi
  have hlist : (List.range dests.length).map (fun i => leNat (((blockBytes s va 128).drop (16 + 8 * i)).take 8)) = dests := by
    refine List.ext_getElem (by simp) fun i hi hi' => ?_
    rw [List.getElem_map, List.getElem_range, leNat_block s hlo (by omega), hdests i hi', List.getD_eq_getElem _ _ hi']
  have hfield := fun (off m : Nat) (h : off + m ≤ 128) => leNat_block s (va := va) (n := 128) (off := off) (m := m) hlo h
  have hcount : ¬ dests = [] := List.ne_nil_of_length_pos h1
  simp only [mcastOf, hfield 0 1 (by decide), hfield 1 1 (by decide), hfield 2 2 (by decide), hfield 4 4 (by decide), hfield 8 8 (by decide),
    hfield 112 16 (by decide), hn, hpad, hfail, hpad', hoff, hend', hlist]
  simp [hcount, h12]

/-- Destinations with their numbers. -/
def numbered (dests : List Nat) : List (Nat × Nat) := dests.zipIdx.map fun p => (p.2, p.1)

theorem numbered_map_snd (dests : List Nat) : (numbered dests).map Prod.snd = dests := by
  rw [numbered, List.map_map]
  exact List.zipIdx_map_fst 0 dests

theorem mem_numbered {dests : List Nat} {x : Nat} : x ∈ dests ↔ ∃ p, p ∈ numbered dests ∧ p.2 = x := by
  conv_lhs => rw [← numbered_map_snd dests]
  exact List.mem_map

/-- A block with no failed destination sends its copies to all of them. -/
theorem live_whole (n : Nat) (dests : List Nat) :
    ({ ndest := n, dfail := 0, offset := 0, dests := dests } : Mcast).live = numbered dests := by
  simp [Mcast.live, numbered]

theorem anyMeet_eq_false {n : Nat} {l : List Nat} (h : l.Pairwise fun a b => rangesMeet a b n = false) : anyMeet n l = false := by
  induction l with
  | nil => rfl
  | cons a l ih =>
    obtain ⟨hhead, htail⟩ := List.pairwise_cons.1 h
    rw [anyMeet, ih htail, Bool.or_false, List.any_eq_false]
    exact fun b hb => by simp [hhead b hb]

/-! ### The copies -/

/-- The copies of a multicast within the own scratchpad go through. -/
theorem mcastRun_of_inSpad {src n : Nat} {l : List (Nat × Nat)} : ∀ {s : State}, inSpad s src n →
    (∀ p, p ∈ l → inSpad s p.2 n ∧ apart p.2 n src n) → l.Pairwise (fun p q => apart p.2 n q.2 n) →
    ∃ t, mcastRun s.turn src n l s = (t, []) ∧ Wrote s t (l.map fun p => (p.2, n)) ∧ ∀ p, p ∈ l → copied s t p.2 src n := by
  induction l with
  | nil => exact fun {s} _ _ _ => ⟨s, rfl, Wrote.refl s, nofun⟩
  | cons p l ih =>
    intro s hs hl hp
    obtain ⟨hhead, htail⟩ := List.pairwise_cons.1 hp
    obtain ⟨hd, hap⟩ := hl p List.mem_cons_self
    obtain ⟨u, hu, hw, hc⟩ := copyRun_whole hd hs hap
    obtain ⟨t, ht, hwt, hct⟩ := ih (hw.inSpad hs)
      (fun q hq => (hl q (List.mem_cons_of_mem p hq)).imp hw.inSpad id) htail
    rw [hw.turn] at ht
    refine ⟨t, by simp [mcastRun, hu, ht], hw.trans hwt, fun q hq i hi => ?_⟩
    obtain ⟨hlo, -⟩ := hd
    obtain ⟨hlo', -⟩ := hs
    rcases List.mem_cons.1 hq with rfl | hq
    · have hkept := hwt.byte (va := q.2 + i) (by omega) fun r hr => by
        obtain ⟨x, hx, rfl⟩ := List.mem_map.1 hr
        have hfar := hhead x hx
        unfold apart at hfar
        dsimp only
        omega
      rw [hw.spadLoc] at hkept
      exact hkept.trans (hc i hi)
    · have hbyte := hct q hq i hi
      have hsrc := hw.byte (va := src + i) (by omega) fun r hr => by
        rw [List.mem_singleton.1 hr]
        unfold apart at hap
        dsimp only
        omega
      rw [hw.spadLoc, hw.spadLoc] at hbyte
      exact hbyte.trans hsrc

theorem runMcast_done {p u : State} {e : VEntry} {d a b : Reg} {kind va src n : Nat} {bytes : List Byte} {dests : List Nat}
    (hp : EngReady p) (hut : untracked u) (hz : e.z.toNat = va) (hx : e.x.toNat = src) (hy : e.y.toNat = n) (hturn : u.turn = p.turn)
    (hva : va % 128 = 0) (hload : loadRange p p.turn va 128 = .ok (bytes, p))
    (hblock : mcastOf bytes = some { ndest := dests.length, dfail := 0, offset := 0, dests := dests })
    (hmeet : anyMeet n (src :: dests) = false)
    (hiss : cplIssue p p.turn kind e e.stride.toNat (n * dests.length) = .ok (p, e))
    (hrun : mcastRun p.turn src n (numbered dests) p = (u, [])) :
    runMcast p p.turn e d a b kind = .done (writeRegs u p.turn [(a, src + n), (b, 0)])
      { e.to 0 0 with signal := some (kind, if kind = 0 then 0 else e.stride.toNat, 0) } := by
  have hend := fun (kind cva : Nat) => engEnd_none hut e kind cva 0 0 [(a, src + n), (b, 0)]
  simp only [hturn] at hend
  have hmeet' : anyMeet n (src :: dests.map (· + 0)) = false := by simpa using hmeet
  by_cases hk : kind = 0
  · subst hk
    simp only [runMcast, hz, hx, hy, hva, hload, hblock, hmeet', trackRoom_of_untracked hp.tracks, hiss, live_whole,
      unprotect_of_noStrip hp.strip, hrun]
    simpa using hend 0 0 _
  · simp only [runMcast, hz, hx, hy, hva, hload, hblock, hmeet', trackRoom_of_untracked hp.tracks, hiss, live_whole,
      unprotect_of_noStrip hp.strip, hrun, hk, if_false]
    simpa using hend kind e.stride.toNat _

/-- What eng.mcast asks of its block and its ranges. -/
structure McastReady (s : State) (va src n cva : Nat) (dests : List Nat) : Prop where
  aligned : va % 128 = 0
  block : inSpad s va 128
  some : 1 ≤ dests.length
  few : dests.length ≤ 12
  count : numAt s (spadLoc s (va + 0)) 1 = dests.length
  pad : numAt s (spadLoc s (va + 1)) 1 = 0
  fail : numAt s (spadLoc s (va + 2)) 2 = 0
  pad' : numAt s (spadLoc s (va + 4)) 4 = 0
  offset : numAt s (spadLoc s (va + 8)) 8 = 0
  tail : ∀ o, o < 16 → numAt s (spadLoc s (va + (112 + o))) 1 = 0
  each : ∀ k, k < dests.length → numAt s (spadLoc s (va + (16 + 8 * k))) 8 = dests.getD k 0
  source : inSpad s src n
  away : ∀ x, x ∈ dests → inSpad s x n ∧ apart x n src n ∧ apart x n cva 32
  distinct : dests.Pairwise fun x y => apart x n y n

theorem McastReady.anyMeet {s : State} {va src n cva : Nat} {dests : List Nat} (h : McastReady s va src n cva dests) :
    anyMeet n (src :: dests) = false := by
  refine anyMeet_eq_false (List.pairwise_cons.2 ⟨fun x hx => ?_, h.distinct.imp_of_mem fun hx hy hap => ?_⟩)
  · obtain ⟨hin, hap, -⟩ := h.away x hx
    exact rangesMeet_of_apart h.source hin (Or.symm hap)
  · exact rangesMeet_of_apart (h.away _ hx).1 (h.away _ hy).1 hap

/-- eng.mcast (R382). -/
theorem engMcast_of_ready {s : State} {d a b : Reg} {kind : BitVec 4} {dests : List Nat} (hi : idleQueue s) (hs : noStrip s) (hu : untracked s)
    (h : McastReady s (s.hart.reg d).toNat (s.hart.reg a).toNat (s.hart.reg b).toNat (cplAddr s b) dests)
    (hb : blockReady s kind (cplAddr s b)) :
    let src := (s.hart.reg a).toNat
    let n := (s.hart.reg b).toNat
    ∃ t, exec (.engMcast d a b kind) s = .next t ∧ engDone s t ∧ advanced s t [(a, src + n), (b, 0)] ∧
      (∀ x, x ∈ dests → copied s t x src n) ∧ blockDone s t kind (cplAddr s b) 0 ∧
      memOutside s t (dests.map (fun x => (spadLoc s x, n)) ++ blockRange s kind (cplAddr s b)) := by
  intro src n
  let e := engEntry s 1 d a b kind
  have hready := engReady_pushed (e := e) hs hu
  have hnum := fun o k => numAt_pushed s e ((s.hart.reg d).toNat + o) k
  have hmap : (numbered dests).map (fun p => (p.2, n)) = dests.map fun x => (x, n) := by
    conv_rhs => rw [← numbered_map_snd dests, List.map_map]
    rfl
  have hmem : ∀ p, p ∈ numbered dests → p.2 ∈ dests := fun p hp => mem_numbered.2 ⟨p, hp, rfl⟩
  have hpairs : (numbered dests).Pairwise fun p q => apart p.2 n q.2 n := by
    have hdist := h.distinct
    rwa [← numbered_map_snd dests, List.pairwise_map] at hdist
  obtain ⟨u, hrun, hw, hc⟩ := mcastRun_of_inSpad (s := pushed s e) (src := src) (n := n) (l := numbered dests)
    (inSpad_pushed h.source) (fun p hp => ⟨inSpad_pushed (h.away _ (hmem p hp)).1, (h.away _ (hmem p hp)).2.1⟩) hpairs
  have hblock := mcastOf_block (s := pushed s e) (va := (s.hart.reg d).toNat) (dests := dests) h.block.1 h.some h.few ((hnum 0 1).trans h.count)
    ((hnum 1 1).trans h.pad) ((hnum 2 2).trans h.fail) ((hnum 4 4).trans h.pad') ((hnum 8 8).trans h.offset)
    (fun o ho => (hnum _ 1).trans (h.tail o ho)) fun k hk => (hnum _ 8).trans (h.each k hk)
  have hload := loadRange_of_inSpad hready.strip fun i hi => inSpad_byte (inSpad_pushed (e := e) h.block) hi
  obtain ⟨e', hsig, hexec⟩ := engForm_done (fn := 1) (d := d) (a := a) (b := b) (kind := kind)
    (regs := [(a, src + n), (b, 0)]) (Q := fun e' => e'.signal = some (kind.toNat, if kind.toNat = 0 then 0 else cplAddr s b, 0)) hi (fun o => by
      rw [begun_eng]
      exact ⟨_, runMcast_done (d := d) hready (hw.tracks hready.tracks) rfl rfl rfl hw.turn h.aligned hload hblock h.anyMeet
        (cplIssue_of_block (blockReady_pushed hb) _ _) hrun, rfl, rfl⟩) hw.toRested
  rw [hmap] at hw
  have hend := engEnd_of_wrote hi hs (e := e) rfl hw [(a, src + n), (b, 0)] hb hsig fun hk => if_neg hk
  refine ⟨_, hexec, hend.done, advanced_of_regs hw.toCarried hend.regs, fun x hx => ?_, hend.block, ?_⟩
  · obtain ⟨hin, -, hcap⟩ := h.away x hx
    obtain ⟨p, hp, rfl⟩ := mem_numbered.1 hx
    refine copied_of_kept (hc p hp) fun va h1 h2 => hend.kept va (by have := hin.1; omega) ?_
    unfold apart at hcap ⊢
    omega
  · have hout := hend.outside
    simp only [List.map_map, Function.comp_def] at hout
    exact hout

end Sys2Proof.Machine.Claim
end

section
/-! ## Engine transfers (O54): eng.gather -/

namespace Sys2Proof.Machine.Claim
open Sys2Proof.Machine
set_option Elab.async false

/-! ### Moves of granules make no codeword unreadable (R97) -/

/-- A codeword that was readable stays so. -/
def BadKept (s t : State) : Prop := ∀ n, Table.find? s.mem.bad n = none → Table.find? t.mem.bad n = none

theorem BadKept.refl (s : State) : BadKept s s := fun _ h => h

theorem BadKept.trans {s t u : State} (a : BadKept s t) (b : BadKept t u) : BadKept s u := fun n h => b n (a n h)

theorem find?_markCopied {bad : Table BadWord} (f : Nat → Bool) {n : Nat} (h : Table.find? bad n = none) :
    Table.find? (markCopied bad f) n = none := by
  induction bad with
  | nil => rfl
  | cons p rest ih =>
    obtain ⟨k, v⟩ := p
    rw [Table.find?] at h
    rw [markCopied, List.map_cons, Table.find?]
    split at h
    · cases h
    next hk =>
      rw [if_neg hk]
      exact ih h

theorem mem_noteCopied (s : State) (f : Nat → Bool) : (noteCopied s f).mem = s.mem := by
  obtain ⟨l, h⟩ := noteCopied_eq s f
  rw [h]

theorem bad_setRegs (s : State) (m : MemSys) : (s.setRegs m).mem.bad = m.bad := by
  simp only [State.setRegs]
  split <;> rfl

theorem badKept_walkEnd (s : State) : BadKept s (walkEnd s) := fun n h => by
  rw [walkEnd]
  exact (congrArg (Table.find? · n) (bad_setRegs s _)).trans h

theorem badKept_moveDone (s : State) (g : Nat) : BadKept s (moveDone s g) := fun n h => by
  simp only [moveDone]
  split
  · split
    · rw [bad_setRegs]
      exact h
    · rw [bad_setRegs]
      exact find?_markCopied (fun k => decide (k < s.mem.staged)) h
  · split
    · refine badKept_walkEnd _ n ?_
      rw [bad_setRegs]
      exact find?_markCopied (· == g) h
    · rw [bad_setRegs]
      exact find?_markCopied (· == g) h

theorem badKept_finishMoves (g m : Nat) (s : State) : BadKept s (finishMoves g m s) := by
  induction m generalizing s with
  | zero => exact .refl s
  | succ m ih =>
    rw [finishMoves]
    split
    · exact (badKept_moveDone s _).trans (ih _)
    · exact .refl s

theorem badKept_reach (s : State) (r a : Nat) : BadKept s (s.reach r a) := by
  simp only [State.reach]
  split
  · exact .refl s
  · split
    · exact badKept_finishMoves _ _ _
    · exact badKept_finishMoves (a / 4096) 513 s

/-- An access that reaches its plinth changes nothing that a transfer reads. -/
theorem wrote_reach (s : State) (r a : Nat) : Wrote s (s.reach r a) [] := by
  have hmem := (reach_same s r a).mem
  have hbad := badKept_reach s r a
  obtain ⟨m, l, w, h⟩ := reach_memOnly s r a
  rw [h] at hmem hbad ⊢
  exact { rested_of_fields (s := s) (t := { s with mem := m, noted := l, stew := w }) rfl rfl rfl rfl rfl with
    sameHarts := rfl, badSpad := fun _ h => h, tracks := id, cap := hmem.cap, sectors := hmem.sectors, patts := hmem.patts, badDev := hbad
    dies := rfl, gangs := rfl, low := nofun
    outside := fun x hx _ => by
      cases x with
      | dev b => exact congrArg (Memory.read1 · b) hmem.dev
      | spad c o => rfl
      | sdm c o => rfl
      | remote p b => exact congrArg (fun q => Memory.read1 (Table.get [] q p) b) hmem.peers
      | host b => exact congrArg (Memory.read1 · b) hmem.host
      | regs b => cases hx }

/-! ### Elements of a pattern (R73, R74) -/

/-- Device memory that serves a partition without decryption (R22, R36, R209, R220). -/
structure Readable (s : State) (part a : Nat) : Prop where
  cap : a < s.mem.cap * 4096
  owns : s.owns part a = true
  bad : Table.find? s.mem.bad (a / 64) = none
  sector : Table.find? s.mem.sectors (a / 512) = none ∨ Table.find? s.mem.sectors (a / 512) = some .plain

theorem Readable.carry {s t : State} {part a : Nat} (h : Readable s part a) (hc : Carried s t) : Readable t part a where
  cap := by rw [hc.cap]; exact h.cap
  owns := by rw [State.owns, State.partAt, hc.parts]; exact h.owns
  bad := hc.badDev _ h.bad
  sector := by rw [hc.sectors]; exact h.sector

theorem readable_of_serves {s : State} {k a n : Nat} (h : serves s k { loc := .dev a } n) : Readable s ((s.partOf (coreOf k)).getD 0) a :=
  let ⟨_, _, hcap, how, hbad, hsec⟩ := h
  ⟨hcap, how, hbad, hsec⟩

theorem Readable.devRead {s : State} {part a n : Nat} (h : Readable s part a) (hn : n ∣ 64) (ha : n ∣ a) (va : Nat) :
    devRead s part false a n va = .ok ((List.range n).map fun i => byteAt s (.dev (a + i))) := by
  have hword : readWord s part false a n va = .ok (Memory.readBytes s.mem.dev a n) := by
    rcases h.sector with hsec | hsec <;> simp [readWord, h.bad, hsec]
  simp [Machine.devRead, pieces_of_dvd hn ha, readWords, hword, readBytes_eq_map, byteAt]

/-- The address of element i, counted down the columns from the first one. -/
def elemOf (p : Pattern) (rows cf i : Nat) : Nat := p.base + i % rows * p.pitch + (cf + i / rows) * 2 ^ p.esize

theorem pattRead_of_readable {s : State} {k part rows cf i : Nat} {p : Pattern} (henc : p.enc = false) (hesize : p.esize ≤ 4)
    (hcol : cf + i / rows < p.cols) (hlimit : elemOf p rows cf i + 2 ^ p.esize ≤ p.limit) (hal : elemOf p rows cf i % 2 ^ p.esize = 0)
    (h : Readable s part (elemOf p rows cf i)) :
    ∃ t, pattRead s k part p (i % rows) (cf + i / rows) =
      .ok ((List.range (2 ^ p.esize)).map fun j => byteAt s (.dev (elemOf p rows cf i + j)), t) ∧
      Wrote s t [] := by
  have hw := wrote_reach s (gatherUnit (plinthOf s.mem (elemOf p rows cf i))) (elemOf p rows cf i)
  have hr := h.carry hw.toCarried
  have hin : (decide (p.cols ≤ cf + i / rows) || decide (p.limit < elemOf p rows cf i + 2 ^ p.esize)) = false := by
    rw [decide_eq_false (by omega), decide_eq_false (by omega)]
    rfl
  have hdvd : 2 ^ p.esize ∣ 64 := (Nat.pow_dvd_pow_iff_le_right (by decide)).2 (show p.esize ≤ 6 by omega)
  have hbytes := hr.devRead hdvd (Nat.dvd_of_mod_eq_zero hal) 0
  simp only [hw.dev] at hbytes
  have hstop := fun evac => devStop_eq_none (va := 0) (evac := evac) hr.cap hr.owns
  refine ⟨_, ?_, hw⟩
  unfold elemOf at *
  simp only [pattRead, hin, henc, hstop, hbytes, Bool.false_eq_true, if_false]

/-- The elements of a gather that a partition may read. -/
structure GatherReady (s : State) (part : Nat) (p : Pattern) (rows cf n : Nat) : Prop where
  enc : p.enc = false
  esize : p.esize ≤ 4
  col : ∀ i, i < n → cf + i / rows < p.cols
  limit : ∀ i, i < n → elemOf p rows cf i + 2 ^ p.esize ≤ p.limit
  aligned : ∀ i, i < n → elemOf p rows cf i % 2 ^ p.esize = 0
  readable : ∀ i, i < n → Readable s part (elemOf p rows cf i)

theorem GatherReady.carry {s t : State} {part : Nat} {p : Pattern} {rows cf n : Nat} (h : GatherReady s part p rows cf n) (hc : Carried s t) :
    GatherReady t part p rows cf n :=
  { h with readable := fun i hi => (h.readable i hi).carry hc }

/-- The elements of a gather, written one after the other (R383). -/
theorem gatherRun_of_ready {part : Nat} {p : Pattern} {rows cf dst n m : Nat} : ∀ {s : State} {j : Nat}, GatherReady s part p rows cf n →
    inSpad s dst (n * 2 ^ p.esize) → j + m = n → ∃ t, gatherRun s.turn part p dst rows cf m j s = (t, none) ∧
      Wrote s t [(dst + j * 2 ^ p.esize, m * 2 ^ p.esize)] ∧ ∀ i k, j ≤ i → i < n → k < 2 ^ p.esize →
        byteAt t (spadLoc s (dst + i * 2 ^ p.esize + k)) = byteAt s (.dev (elemOf p rows cf i + k)) := by
  induction m with
  | zero =>
    intro s j _ hd hj
    obtain ⟨hlo, -⟩ := hd
    refine ⟨s, rfl, (Wrote.refl s).grow (fun q hq => ?_) nofun, fun i k h1 h2 _ => by omega⟩
    rw [List.mem_singleton.1 hq]
    exact Nat.le_add_right_of_le hlo
  | succ m ih =>
    intro s j h hd hj
    obtain ⟨hlo, -⟩ := id hd
    have hjn : j < n := by omega
    have hspan := fun i (hi : i < n) => Nat.mul_le_mul_right (2 ^ p.esize) (Nat.succ_le_of_lt hi)
    simp only [Nat.succ_mul] at hspan
    obtain ⟨u, hu, hw⟩ := pattRead_of_readable (k := s.turn) h.enc h.esize (h.col j hjn) (h.limit j hjn) (h.aligned j hjn) (h.readable j hjn)
    have hlen : ((List.range (2 ^ p.esize)).map fun i => byteAt s (.dev (elemOf p rows cf j + i))).length = 2 ^ p.esize := by simp
    obtain ⟨v, hv, hwv, hbv⟩ := engWrite_of_bytes (s := u) (va := dst + j * 2 ^ p.esize) (by omega)
      (bytes := (List.range (2 ^ p.esize)).map fun i => byteAt s (.dev (elemOf p rows cf j + i))) fun i hi => by
        rw [hlen] at hi
        have hbyte := inSpad_byte (i := j * 2 ^ p.esize + i) hd (by have := hspan j hjn; omega)
        rw [← Nat.add_assoc] at hbyte
        exact hw.inSpad hbyte
    rw [hlen] at hwv hbv
    have hwsv := hw.trans hwv
    obtain ⟨t, ht, hwt, hbt⟩ := ih (s := v) (j := j + 1) (h.carry hwsv.toCarried) (hwsv.inSpad hd) (by omega)
    rw [hw.turn] at hv
    rw [hwsv.turn] at ht
    refine ⟨t, by simp only [gatherRun, hu, hv, ht], (hwsv.trans hwt).grow (fun q hq => ?_) fun q hq => ⟨_, List.mem_singleton.2 rfl, .inr ?_⟩,
      fun i k h1 h2 hk => ?_⟩
    · rw [List.mem_singleton.1 hq]
      exact Nat.le_add_right_of_le hlo
    · simp only [List.nil_append, List.cons_append, List.mem_cons, List.not_mem_nil, or_false, Nat.succ_mul] at hq ⊢
      rcases hq with rfl | rfl <;> dsimp only <;> omega
    · have hrest := fun hi => hbt i k hi h2 hk
      simp only [hwsv.spadLoc] at hrest
      rcases Nat.eq_or_lt_of_le h1 with rfl | hlt
      · have hnew := hbv k hk
        have hkept := hwt.byte (va := dst + j * 2 ^ p.esize + k) (by omega) fun q hq => by
          rw [List.mem_singleton.1 hq, Nat.succ_mul]
          dsimp only
          omega
        rw [hw.spadLoc] at hnew
        rw [hwsv.spadLoc] at hkept
        refine hkept.trans (hnew.trans ?_)
        simp [List.getD_eq_getElem?_getD, hk]
      · exact (hrest hlt).trans (hwsv.dev _)

/-! ### The end of a gather -/

/-- The fill record of a gather (R66). -/
theorem wrote_addFill {s : State} {start va : Nat} (len digest : Nat) (hs : start % 2 ^ 64 = va) (h1 : Config.localBase ≤ va)
    (h2 : va < Config.localBase + Config.spadBytes) : Wrote s (addFill s s.turn start len digest) [] := by
  let x : Core := { s.core with fills := ((va - Config.localBase, va - Config.localBase + len, digest) :: s.core.fills).take Config.fillRecords }
  have hfill : addFill s s.turn start len digest = s.setCoreAt (coreOf s.turn) x := by
    simp only [addFill, spadOf, hs, window_of_spad h1 h2]
    rfl
  rw [hfill]
  exact { carried_setCoreAt (s := s) (x := x) rfl fun _ h => h with
    dies := rfl, gangs := rfl, low := nofun, outside := fun _ hx _ => byteAt_setCoreAt (y := x) rfl rfl hx }

theorem pattFor_carry {s t : State} (h : Carried s t) (part i : Nat) : pattFor t part i = pattFor s part i := by
  have hpart : t.partAt part = s.partAt part := by rw [State.partAt, h.parts, State.partAt]
  have hpatt : ∀ n, t.pattAt n = s.pattAt n := fun n => by rw [State.pattAt, h.patts, State.pattAt]
  rw [pattFor, hpart, hpatt, pattFor]

/-- The operands of a gather (R383). -/
structure GatherSpec (x rows cf cl : Nat) : Prop where
  first : x / 2 ^ 16 % 2 ^ 16 = cf
  last : x / 2 ^ 32 % 2 ^ 16 = cl
  top : x / 2 ^ 48 = 0
  pad : x / 2 ^ 6 % 2 ^ 10 = 0
  some : 0 < rows
  few : rows < 2 ^ 32
  le : cf ≤ cl

theorem GatherSpec.advanced {x rows cf cl : Nat} (h : GatherSpec x rows cf cl) :
    setBits x 31 16 (cf + (cl + 1 - cf)) = x % 64 + (cl + 1) % 2 ^ 16 * 2 ^ 16 + cl * 2 ^ 32 := by
  obtain ⟨rfl, rfl, htop, hpad, -, -, hle⟩ := h
  rw [Nat.add_sub_cancel' (by omega)]
  simp only [setBits, bits]
  omega

theorem runGather_done {p t u : State} {e : VEntry} {d a : Reg} {kind x rows dst cf cl part : Nat} {pt : Pattern}
    (hp : EngReady p) (hut : untracked u) (hz : e.z.toNat = dst) (hx : e.x.toNat = x) (hy : e.y.toNat = rows) (haux : e.aux = 0)
    (hturn : u.turn = p.turn) (hpart : (p.partOf (coreOf p.turn)).getD 0 = part) (hspec : GatherSpec x rows cf cl)
    (hpatt : pattFor p part (x % 64) = some pt) (hpatt' : pattFor t part (x % 64) = some pt)
    (hiss : cplIssue p p.turn kind e e.stride.toNat (rows * (cl + 1 - cf) * 2 ^ pt.esize) = .ok (p, e))
    (hrun : gatherRun p.turn part pt dst rows cf (rows * (cl + 1 - cf)) 0 p = (t, none))
    (hfill : addFill t p.turn (dst + 2 ^ 64) (rows * (cl + 1 - cf) * 2 ^ pt.esize) pt.digest = u) :
    runGather p p.turn e d a kind = .done (writeRegs u p.turn
        [(d, dst + rows * (cl + 1 - cf) * 2 ^ pt.esize), (a, x % 64 + (cl + 1) % 2 ^ 16 * 2 ^ 16 + cl * 2 ^ 32)])
      { e.to 0 0 with signal := some (kind, e.stride.toNat, 0) } := by
  have hend := fun patt elem regs again => engEnd_none hut e kind e.stride.toNat patt elem regs again
  simp only [hturn] at hend
  have hcf : bits x 31 16 = cf := hspec.first
  have hcl : bits x 47 32 = cl := hspec.last
  have htop : bits x 63 48 = 0 := by rw [bits, hspec.top, Nat.zero_mod]
  have hpad : bits x 15 6 = 0 := hspec.pad
  have hlow : bits x 5 0 = x % 64 := by simp [bits]
  have hok : ¬ (bits x 63 48 ≠ 0 ∨ bits x 15 6 ≠ 0 ∨ 2 ^ 32 ≤ rows ∨ rows = 0 ∨ cl < cf) := by
    obtain ⟨-, -, -, -, hsome, hfew, hle⟩ := hspec
    omega
  simp only [runGather, hx, hy, hz, hcf, hcl, hlow, hpart, if_neg hok, hpatt, hpatt', hiss, unprotect_of_noStrip hp.strip, hrun, haux,
    Nat.zero_mul, Nat.zero_mod, Nat.sub_zero, Nat.add_zero, hfill, hspec.advanced, Nat.zero_div, Option.map_none,
    Nat.mul_comm (cl + 1 - cf) rows]
  exact hend ..

/-- eng.gather (R383). -/
theorem engGather_of_ready {s : State} {d a b : Reg} {kind : BitVec 4} {cf cl : Nat} {p : Pattern} (hi : idleQueue s) (hs : noStrip s)
    (hu : untracked s) (hspec : GatherSpec (s.hart.reg a).toNat (s.hart.reg b).toNat cf cl)
    (hpatt : pattFor s s.part ((s.hart.reg a).toNat % 64) = some p)
    (h : GatherReady s s.part p (s.hart.reg b).toNat cf ((s.hart.reg b).toNat * (cl + 1 - cf)))
    (hd : inSpad s (s.hart.reg d).toNat ((s.hart.reg b).toNat * (cl + 1 - cf) * 2 ^ p.esize)) (hb : blockReady s kind (cplAddr s b))
    (hcap : apart (s.hart.reg d).toNat ((s.hart.reg b).toNat * (cl + 1 - cf) * 2 ^ p.esize) (cplAddr s b) 32) :
    let dst := (s.hart.reg d).toNat
    let x := (s.hart.reg a).toNat
    let rows := (s.hart.reg b).toNat
    let size := 2 ^ p.esize
    let n := rows * (cl + 1 - cf)
    ∃ t, exec (.engGather d a b kind) s = .next t ∧ engDone s t ∧
      advanced s t [(d, dst + n * size), (a, x % 64 + (cl + 1) % 2 ^ 16 * 2 ^ 16 + cl * 2 ^ 32)] ∧
      (∀ i k, i < n → k < size → byteAt t (spadLoc s (dst + i * size + k)) = byteAt s (.dev (elemOf p rows cf i + k))) ∧
      blockDone s t kind (cplAddr s b) 0 ∧ memOutside s t ((spadLoc s dst, n * size) :: blockRange s kind (cplAddr s b)) := by
  intro dst x rows size n
  let e := engEntry s 2 d a b kind
  let regs : List (Reg × Nat) := [(d, dst + n * size), (a, x % 64 + (cl + 1) % 2 ^ 16 * 2 ^ 16 + cl * 2 ^ 32)]
  have hready := engReady_pushed (e := e) hs hu
  have hgather : GatherReady (pushed s e) s.part p rows cf n :=
    { h with readable := fun i hi => let ⟨hcap, howns, hbad, hsec⟩ := h.readable i hi; ⟨hcap, howns, hbad, hsec⟩ }
  obtain ⟨t, hrun, hw, hbytes⟩ := gatherRun_of_ready (dst := dst) hgather (inSpad_pushed hd) (Nat.zero_add n)
  have hpos : 0 < n * size := Nat.mul_pos (Nat.mul_pos hspec.some (by have := hspec.le; omega)) (Nat.two_pow_pos _)
  obtain ⟨hlo, hhi, -⟩ := id hd
  have hwf := wrote_addFill (s := t) (start := dst + 2 ^ 64) (va := dst) (n * size) p.digest
    (by have : dst < 2 ^ 64 := (s.hart.reg d).isLt; omega) hlo (show dst < Config.localBase + Config.spadBytes by
      have : dst + n * size ≤ Config.localBase + Config.spadBytes := hhi
      omega)
  rw [hw.turn] at hwf
  generalize hfill : addFill t (pushed s e).turn (dst + 2 ^ 64) (n * size) p.digest = u at hwf
  have hwu := hw.trans hwf
  rw [Nat.zero_mul, Nat.add_zero, List.append_nil] at hwu
  obtain ⟨e', hsig, hexec⟩ := engForm_done (fn := 2) (d := d) (a := a) (b := b) (kind := kind)
    (regs := regs) (Q := fun e' => e'.signal = some (kind.toNat, cplAddr s b, 0)) hi (fun o => by
      rw [begun_eng]
      exact ⟨_, runGather_done hready (hwu.tracks hready.tracks) rfl rfl rfl rfl hwu.turn rfl hspec hpatt
        ((pattFor_carry hw.toCarried ..).trans hpatt) (cplIssue_of_block (blockReady_pushed hb) _ _) hrun hfill, rfl, rfl⟩) hwu.toRested
  have hend := engEnd_of_wrote hi hs (e := e) rfl hwu regs hb hsig fun _ => rfl
  refine ⟨_, hexec, hend.done, advanced_of_regs hwu.toCarried hend.regs, fun i k hi hk => ?_, hend.block, hend.outside⟩
  have hspan := Nat.mul_le_mul_right size (Nat.succ_le_of_lt hi)
  rw [Nat.succ_mul] at hspan
  have hkept := hend.kept (dst + i * size + k) (by omega) (by
    have hcap' : apart dst (n * size) (cplAddr s b) 32 := hcap
    unfold apart at hcap' ⊢
    omega)
  have hfill' := hwf.byte (va := dst + i * size + k) (by omega) nofun
  rw [hw.spadLoc] at hfill'
  exact hkept.trans (hfill'.trans ((hbytes i k (Nat.zero_le i) hi hk).trans (byteAt_pushed s e rfl)))

end Sys2Proof.Machine.Claim
end

section
/-! ## Engine transfers (O54): eng.patt -/

namespace Sys2Proof.Machine.Claim
open Sys2Proof.Machine
set_option Elab.async false

theorem rested_setPattAt (s : State) (n : Nat) (x : Pattern) : Rested s (s.setPattAt n x) := rested_of_fields rfl rfl rfl rfl rfl

theorem memOutside_setPattAt (s : State) (n : Nat) (x : Pattern) : memOutside s (s.setPattAt n x) [] := fun y hy _ => by
  cases y with
  | regs b => cases hy
  | _ => rfl

/-- An eng.patt whose run writes an entry (R384). -/
theorem engPatt_end {s : State} {d a : Reg} {n : Nat} {x : Pattern} (hi : idleQueue s)
    (hrun : ∀ o, let e := begun s (engEntry s 3 d a 0 0) o
      runPatt (pushed s (engEntry s 3 d a 0 0)) s.turn e = .done ((pushed s (engEntry s 3 d a 0 0)).setPattAt n x) (e.to 0 0)) :
    ∃ t, exec (.engPatt d a) s = .next t ∧ engDone s t ∧ t.hart.s = s.hart.s ∧ memSame s t ∧
      ∀ m, t.pattAt m = if m = n then x else s.pattAt m := by
  let e := engEntry s 3 d a 0 0
  let u := (pushed s e).setPattAt n x
  have ht : Rested (pushed s e) u := rested_setPattAt ..
  obtain ⟨e', hsig, hexec⟩ := engForm_done (fn := 3) (d := d) (a := a) (b := 0) (kind := 0) (t := u) (regs := [])
    (Q := fun e' => e'.signal = none) hi (fun o => ⟨_, hrun o, rfl, by rw [begun_eng]; rfl⟩) ht
  have hsignal : signalled (leftWith s u []) s.turn e' = leftWith s u [] := by simp only [signalled, hsig]
  rw [hsignal] at hexec
  refine ⟨_, hexec, engDone_of_rested hi rfl ht (Rested.refl _), ?_, fun y hy => ?_, fun m => ?_⟩
  · have hpushed : (u.hartAt s.turn).s = s.hart.s := by
      rw [show u.hartAt s.turn = (pushed s e).hartAt s.turn from rfl, hartAt_pushed]
    rw [hart_leftWith [] ht]
    exact hpushed
  · have hwrite := memOutside_trans (memOutside_pushed s e) (memOutside_setPattAt (pushed s e) n x)
    have hall := memOutside_trans hwrite (memOutside_leftWith (s := s) [])
    exact hall y hy nofun
  · rw [show (leftWith s u []).pattAt m = u.pattAt m from rfl]
    split
    next h => rw [h, State.pattAt_setPattAt_self]
    next h => exact State.pattAt_setPattAt_of_ne (pushed s e) x h

/-- eng.patt that clears an entry. -/
theorem runPatt_clear {s : State} {k : Nat} {e : VEntry} (hlt : e.z.toNat < 64)
    (hin : e.z.toNat < (s.partAt ((s.partOf (coreOf k)).getD 0)).pattCount) (hx : e.x.toNat = 0) :
    let n := (s.partAt ((s.partOf (coreOf k)).getD 0)).pattBase + e.z.toNat
    runPatt s k e = .done (s.setPattAt n { s.pattAt n with valid := false }) (e.to 0 0) := by
  simp only [runPatt, if_neg (Nat.not_le.2 hlt), if_neg (Nat.not_le.2 hin), hx, if_true]

/-- The image of a pattern entry in the own scratchpad (R72, R384). -/
structure PattImage (s : State) (va : Nat) : Prop where
  aligned : va % 8 = 0
  inside : inSpad s va 32
  esize : numAt s (spadLoc s (va + 22)) 1 ≤ 4
  pitch : numAt s (spadLoc s (va + 16)) 4 % 2 ^ numAt s (spadLoc s (va + 22)) 1 = 0
  cols : 0 < numAt s (spadLoc s (va + 20)) 2
  digest : 0 < numAt s (spadLoc s (va + 24)) 2
  fits : numAt s (spadLoc s (va + 20)) 2 * 2 ^ numAt s (spadLoc s (va + 22)) 1 ≤ numAt s (spadLoc s (va + 16)) 4
  pad8 : numAt s (spadLoc s (va + 8)) 8 = 0
  pad23 : numAt s (spadLoc s (va + 23)) 1 = 0
  pad26 : numAt s (spadLoc s (va + 26)) 6 = 0

theorem PattImage.pushed {s : State} {va : Nat} (h : PattImage s va) (e : VEntry) : PattImage (pushed s e) va := by
  have hnum := fun va n => numAt_pushed s e va n
  obtain ⟨h1, h2, h3, h4, h5, h6, h7, h8, h9, h10⟩ := h
  simp only [← hnum] at h3 h4 h5 h6 h7 h8 h9 h10
  exact ⟨h1, inSpad_pushed h2, h3, h4, h5, h6, h7, h8, h9, h10⟩

/-- The entry that an image and the translation of its base give. -/
def pattEntry (s : State) (va part dev : Nat) (x : TlbEntry) : Pattern :=
  { base := dev, limit := x.pbase + 2 ^ x.lg, pitch := numAt s (spadLoc s (va + 16)) 4, cols := numAt s (spadLoc s (va + 20)) 2
    esize := numAt s (spadLoc s (va + 22)) 1, valid := true, enc := x.enc, digest := numAt s (spadLoc s (va + 24)) 2, part := part }

theorem PattImage.imageOk {s : State} {va : Nat} (h : PattImage s va) : imageOk (blockBytes s va 32) = true := by
  have hfield := fun (off m : Nat) (hle : off + m ≤ 32) => leNat_block s (va := va) (n := 32) (off := off) (m := m) h.inside.1 hle
  simp only [Machine.imageOk, hfield 8 8 (by decide), hfield 16 4 (by decide), hfield 20 2 (by decide), hfield 22 1 (by decide),
    hfield 23 1 (by decide), hfield 24 2 (by decide), hfield 26 6 (by decide), h.pad8, h.pad23, h.pad26, h.pitch]
  simp [h.esize, h.fits, Nat.pos_iff_ne_zero.1 h.cols, Nat.pos_iff_ne_zero.1 h.digest]

theorem capStop_eq_none {s : State} {part a va : Nat} {evac : Bool} (hcap : a < s.mem.cap * 4096) : capStop s part evac a va = none := by
  have hle : ¬ s.mem.cap * 4096 ≤ a := Nat.not_le.mpr hcap
  simp [capStop, State.closed, State.capped, State.inBand, hle]

/-- eng.patt that writes an entry. -/
theorem runPatt_write {s : State} {e : VEntry} {x : TlbEntry} {dev va : Nat} (hs : noStrip s) (hlt : e.z.toNat < 64)
    (hin : e.z.toNat < (s.partAt s.part).pattCount) (hx : e.x.toNat = va) (h : PattImage s va)
    (hwindow : window s s.turn (numAt s (spadLoc s (va + 0)) 8) = none)
    (hl : lookup s s.turn .load false (numAt s (spadLoc s (va + 0)) 8) = .ok (x, s))
    (hr : rightsStop x .load ((s.hartAt s.turn).priv == .user) (numAt s (spadLoc s (va + 0)) 8) = none)
    (hp : placeOf x (numAt s (spadLoc s (va + 0)) 8) = .ok { loc := .dev dev, kind := x.kind, enc := x.enc }) (hcap : dev < s.mem.cap * 4096)
    (hk : x.kind < 2) :
    runPatt s s.turn e = .done (s.setPattAt ((s.partAt s.part).pattBase + e.z.toNat) (pattEntry s va s.part dev x)) (e.to 0 0) := by
  have hload := loadRange_of_inSpad hs fun i hi => inSpad_byte h.inside hi
  have hfield := fun (off m : Nat) (hle : off + m ≤ 32) => leNat_block s (va := va) (n := 32) (off := off) (m := m) h.inside.1 hle
  have hva : ¬ va = 0 := by
    have hlo := h.inside.1
    simp only [Config.localBase] at hlo
    omega
  have hal : ¬ va % 8 ≠ 0 := not_not.2 h.aligned
  rw [State.part] at hin ⊢
  simp only [runPatt, if_neg (Nat.not_le.2 hlt), if_neg (Nat.not_le.2 hin), hx, if_neg hva, if_neg hal, hload, h.imageOk, hfield 0 8 (by decide),
    hfield 16 4 (by decide), hfield 20 2 (by decide), hfield 22 1 (by decide), hfield 24 2 (by decide), hwindow, hl, hr, hp,
    capStop_eq_none hcap, if_neg (Nat.not_le.2 hk), Bool.not_true, Bool.false_eq_true, if_false]
  rfl

/-- eng.patt with no image (R384). -/
theorem engPatt_clear {s : State} {d a : Reg} (hi : idleQueue s) (hlt : (s.hart.reg d).toNat < 64)
    (hin : (s.hart.reg d).toNat < (s.partAt s.part).pattCount) (hva : (s.hart.reg a).toNat = 0) :
    ∃ t, exec (.engPatt d a) s = .next t ∧ engDone s t ∧ t.hart.s = s.hart.s ∧ memSame s t ∧
      ∀ n, t.pattAt n = if n = (s.partAt s.part).pattBase + (s.hart.reg d).toNat then { s.pattAt n with valid := false } else s.pattAt n := by
  obtain ⟨t, hexec, hdone, hregs, hmem, hpatt⟩ := engPatt_end (d := d) (a := a) (n := (s.partAt s.part).pattBase + (s.hart.reg d).toNat)
    (x := { s.pattAt ((s.partAt s.part).pattBase + (s.hart.reg d).toNat) with valid := false }) hi fun o => by
      rw [begun_eng]
      exact runPatt_clear hlt hin hva
  refine ⟨t, hexec, hdone, hregs, hmem, fun n => (hpatt n).trans ?_⟩
  split
  next h => rw [h]
  next => rfl

/-- eng.patt with an image (R384). -/
theorem engPatt_write {s : State} {d a : Reg} {x : TlbEntry} {dev : Nat} (hi : idleQueue s) (hs : noStrip s) (hlt : (s.hart.reg d).toNat < 64)
    (hin : (s.hart.reg d).toNat < (s.partAt s.part).pattCount) (h : PattImage s (s.hart.reg a).toNat)
    (hwindow : window s s.turn (numAt s (spadLoc s ((s.hart.reg a).toNat + 0)) 8) = none)
    (hl : lookup s s.turn .load false (numAt s (spadLoc s ((s.hart.reg a).toNat + 0)) 8) = .ok (x, s))
    (hr : rightsStop x .load (s.hart.priv == .user) (numAt s (spadLoc s ((s.hart.reg a).toNat + 0)) 8) = none)
    (hp : placeOf x (numAt s (spadLoc s ((s.hart.reg a).toNat + 0)) 8) = .ok { loc := .dev dev, kind := x.kind, enc := x.enc })
    (hcap : dev < s.mem.cap * 4096) (hk : x.kind < 2) :
    ∃ t, exec (.engPatt d a) s = .next t ∧ engDone s t ∧ t.hart.s = s.hart.s ∧ memSame s t ∧
      ∀ n, t.pattAt n = if n = (s.partAt s.part).pattBase + (s.hart.reg d).toNat then pattEntry s (s.hart.reg a).toNat s.part dev x
        else s.pattAt n := by
  refine engPatt_end hi fun o => ?_
  let e := engEntry s 3 d a 0 0
  have hnum := fun va n => numAt_pushed s e va n
  have hentry : pattEntry (pushed s e) (s.hart.reg a).toNat s.part dev x = pattEntry s (s.hart.reg a).toNat s.part dev x := by
    unfold pattEntry
    simp only [show ∀ va, spadLoc (pushed s e) va = spadLoc s va from fun _ => rfl, hnum]
  have hpriv : ((pushed s e).hartAt s.turn).priv = s.hart.priv := by
    rw [hartAt_pushed]
  rw [begun_eng, ← hentry]
  refine runPatt_write (s := pushed s e) (noStrip_pushed hs) hlt hin rfl (h.pushed e) ?_ ?_ ?_ ?_ hcap hk
  all_goals rw [show numAt (pushed s e) (spadLoc (pushed s e) _) 8 = _ from hnum _ 8]
  · exact (window_pushed s e _).trans hwindow
  · exact (lookup_pushed hl rfl).2
  · rw [show (pushed s e).turn = s.turn from rfl, hpriv]
    exact hr
  · exact hp

end Sys2Proof.Machine.Claim
end

section
/-! ## Engine transfers (O54): eng.coll -/

namespace Sys2Proof.Machine.Claim
open Sys2Proof.Machine
set_option Elab.async false

/-! ### One step of a reduction (R385) -/

theorem wrapT_eq_ofInt (t : Ty) (x : Int) : wrapT t x = (BitVec.ofInt t.width x).toNat := by
  rw [wrapT, wrapNat, BitVec.toNat_ofInt]

theorem ofInt_val (sg : Bool) {w : Nat} (x : BitVec w) : BitVec.ofInt w (val sg x) = x := by
  cases sg with
  | true => exact BitVec.ofInt_toInt
  | false => exact (BitVec.ofInt_natCast w x.toNat).trans (by simp)

theorem intBin_add (t : Ty) (a b : Nat) : intBin .add t a b = (BitVec.ofNat t.width a + BitVec.ofNat t.width b).toNat := by
  rw [intBin, wrapT_eq_ofInt, BitVec.ofInt_add, intVal_eq_val, intVal_eq_val, ofInt_val, ofInt_val]

theorem intVal_lt (t : Ty) (a b : Nat) : intVal t a < intVal t b ↔
    (if t.isSigned then (BitVec.ofNat t.width a).slt (BitVec.ofNat t.width b) else (BitVec.ofNat t.width a).ult (BitVec.ofNat t.width b)) = true := by
  rw [intVal_eq_val, intVal_eq_val]
  cases t.isSigned with
  | true => simp [val, BitVec.slt]
  | false =>
    simp only [val, BitVec.ult, Bool.false_eq_true, if_false, decide_eq_true_eq]
    exact Int.ofNat_lt

/-- The two operands in one step of a reduction, as the claim gives it. -/
def reduceOp (fn : BinFn) (t : Ty) (v w : Nat) : Nat :=
  if t.isInt then ((intFn2 fn t.isSigned (BitVec.ofNat t.width v) (BitVec.ofNat t.width w)).getD 0).toNat
  else if fn = .add then (addT t .rne v w).1 else (minMaxT t (fn == .max) v w).1

theorem intFn2_min (sg : Bool) {w : Nat} (x y : BitVec w) : intFn2 .min sg x y = some (if (if sg then y.slt x else y.ult x) then y else x) := rfl

theorem intFn2_max (sg : Bool) {w : Nat} (x y : BitVec w) : intFn2 .max sg x y = some (if (if sg then x.slt y else x.ult y) then y else x) := rfl

theorem collOp_eq_reduceOp {fn : BinFn} {c : Nat} (h : (fn, c) ∈ [(BinFn.add, 0), (BinFn.min, 1), (BinFn.max, 2)]) (t : Ty) (v w : Nat) :
    collOp t c v w = reduceOp fn t v w := by
  simp only [List.mem_cons, Prod.mk.injEq, List.not_mem_nil, or_false] at h
  rcases h with ⟨rfl, rfl⟩ | ⟨rfl, rfl⟩ | ⟨rfl, rfl⟩
  · simp only [collOp, reduceOp, intBin_add]
    rfl
  · simp only [collOp, reduceOp, intBin, intVal_lt, intFn2_min, Option.getD_some, apply_ite BitVec.toNat, BitVec.toNat_ofNat]
    rfl
  · simp only [collOp, reduceOp, intBin, intVal_lt, intFn2_max, Option.getD_some, apply_ite BitVec.toNat, BitVec.toNat_ofNat]
    rfl

/-! ### The reduction -/

/-- The value that bytes make. -/
theorem numAt_of_bytes {t : State} {l : Loc} {bytes : List Byte} (h : ∀ i, i < bytes.length → byteAt t (l.plus i) = bytes.getD i 0) :
    numAt t l bytes.length = leNat bytes := by
  have hbytes : ((List.range bytes.length).map fun i => byteAt t (l.plus i)) = bytes :=
    (List.map_congr_left fun i hi => h i (List.mem_range.1 hi)).trans (map_getD_range bytes)
  rw [numAt, hbytes]

/-- Bytes of a number written to the own scratchpad. -/
theorem engWrite_of_num {s : State} {va n : Nat} (v : Nat) (h : inSpad s va n) :
    ∃ t, engWrite s.turn va (leBytes n v) s = .ok t ∧ Wrote s t [(va, n)] ∧ numAt t (spadLoc s va) n = v % 256 ^ n := by
  obtain ⟨hlo, -⟩ := id h
  obtain ⟨t, ht, hw, hb⟩ := engWrite_of_bytes (s := s) (va := va) (bytes := leBytes n v) hlo fun i hi =>
    inSpad_byte h (by rwa [length_leBytes] at hi)
  have hnum := numAt_of_bytes (t := t) (l := spadLoc s va) (bytes := leBytes n v) fun i hi => by
    rw [spadLoc_plus hlo]
    exact hb i hi
  rw [length_leBytes, leNat_leBytes] at hnum
  rw [length_leBytes] at hw
  exact ⟨t, ht, hw, hnum⟩

/-- What a reduction reads: the addresses of the ranks' elements, and the elements. -/
structure CollInputs (s : State) (x : Coll) (src : Nat → Nat) (v : Nat → Nat → Nat) : Prop where
  group : inSpad s x.group (16 * x.nrank)
  base : ∀ r, r < x.nrank → numAt s (spadLoc s (x.group + 16 * r)) 8 = src r
  range : ∀ r, r < x.nrank → inSpad s (src r) (x.count * x.ty.size)
  elem : ∀ r i, r < x.nrank → i < x.count → numAt s (spadLoc s (src r + i * x.ty.size)) x.ty.size = v r i

/-- A write away from the addresses and the elements. -/
theorem CollInputs.carry {s t : State} {x : Coll} {src : Nat → Nat} {v : Nat → Nat → Nat} {va n : Nat} (h : CollInputs s x src v)
    (hw : Wrote s t [(va, n)]) (hgroup : ∀ r, r < x.nrank → apart (x.group + 16 * r) 8 va n)
    (hsrc : ∀ r, r < x.nrank → apart (src r) (x.count * x.ty.size) va n) : CollInputs t x src v where
  group := hw.inSpad h.group
  base := fun r hr => by
    have hfar := hgroup r hr
    have hlo := h.group.1
    rw [hw.spadLoc, hw.num (by omega) fun p hp => by rw [List.mem_singleton.1 hp]; exact hfar]
    exact h.base r hr
  range := fun r hr => hw.inSpad (h.range r hr)
  elem := fun r i hr hi => by
    have hfar := hsrc r hr
    have hlo := (h.range r hr).1
    have hspan := Nat.mul_le_mul_right x.ty.size (Nat.succ_le_of_lt hi)
    rw [Nat.succ_mul] at hspan
    rw [hw.spadLoc, hw.num (by omega) fun p hp => by
      rw [List.mem_singleton.1 hp]
      unfold apart at hfar
      dsimp only
      omega]
    exact h.elem r i hr hi

section
variable {s : State} {x : Coll} {src : Nat → Nat} {v : Nat → Nat → Nat} (h : CollInputs s x src v)
include h

/-- The reads of a rank's element. -/
theorem CollInputs.read {r i : Nat} (hr : r < x.nrank) (hi : i < x.count) (hsize : 0 < x.ty.size) :
    engNat s s.turn (x.group + 16 * r) 8 = .ok (src r, s) ∧ engNat s s.turn (src r + i * x.ty.size) x.ty.size = .ok (v r i, s) := by
  have hspan := Nat.mul_le_mul_right x.ty.size (Nat.succ_le_of_lt hi)
  rw [Nat.succ_mul] at hspan
  rw [engNat_of_inSpad (inSpad_part h.group (by omega) (by omega) (by decide)), h.base r hr,
    engNat_of_inSpad (inSpad_part (h.range r hr) (by omega) (by omega) hsize), h.elem r i hr hi]
  exact ⟨rfl, rfl⟩

theorem collElem_of_some {i : Nat} (hi : i < x.count) (hsize : 0 < x.ty.size) {l : List Nat} (hl : ∀ r, r ∈ l → r < x.nrank) (a : Nat) :
    collElem s.turn x i l (some a) s = .ok (l.foldl (fun acc r => collOp x.ty x.op acc (v r i)) a, s) := by
  induction l generalizing a with
  | nil => rfl
  | cons r l ih =>
    obtain ⟨hbase, helem⟩ := h.read (hl r List.mem_cons_self) hi hsize
    simp only [collElem, hbase, helem, bind, Except.bind]
    exact ih (fun q hq => hl q (List.mem_cons_of_mem r hq)) _

/-- Element i of the result. -/
theorem collElem_whole {i : Nat} (hi : i < x.count) (hsize : 0 < x.ty.size) (hr : 0 < x.nrank) :
    collElem s.turn x i (List.range x.nrank) none s =
      .ok ((List.range (x.nrank - 1)).foldl (fun acc r => collOp x.ty x.op acc (v (r + 1) i)) (v 0 i), s) := by
  obtain ⟨m, hm⟩ : ∃ m, x.nrank = m + 1 := ⟨x.nrank - 1, by omega⟩
  obtain ⟨hbase, helem⟩ := h.read hr hi hsize
  have hrest := collElem_of_some h hi hsize (l := (List.range m).map Nat.succ) (fun r hr => by
    obtain ⟨q, hq, rfl⟩ := List.mem_map.1 hr
    rw [hm]
    exact Nat.succ_lt_succ (List.mem_range.1 hq)) (v 0 i)
  rw [hm, List.range_succ_eq_map, Nat.add_sub_cancel]
  simp only [collElem, hbase, helem, bind, Except.bind, hrest, List.foldl_map]

end

/-- The elements from i on, written one after the other (R385). -/
theorem collRun_of_inputs {x : Coll} {src : Nat → Nat} {v : Nat → Nat → Nat} (hsize : 0 < x.ty.size) (hr : 0 < x.nrank)
    (hgroup : apart x.dst (x.count * x.ty.size) x.group (16 * x.nrank))
    (hsrc : ∀ r, r < x.nrank → apart (src r) (x.count * x.ty.size) x.dst (x.count * x.ty.size)) {m : Nat} :
    ∀ {s : State} {i : Nat}, CollInputs s x src v → inSpad s x.dst (x.count * x.ty.size) → i + m = x.count →
    ∃ t, collRun s.turn x m i s = (t, none) ∧ Wrote s t [(x.dst + i * x.ty.size, m * x.ty.size)] ∧ ∀ j, i ≤ j → j < x.count →
      numAt t (spadLoc s (x.dst + j * x.ty.size)) x.ty.size =
        ((List.range (x.nrank - 1)).foldl (fun acc r => collOp x.ty x.op acc (v (r + 1) j)) (v 0 j)) % 256 ^ x.ty.size := by
  induction m with
  | zero =>
    intro s i _ hd hi
    have hlo := hd.1
    refine ⟨s, rfl, (Wrote.refl s).grow (fun q hq => ?_) nofun, fun j h1 h2 => by omega⟩
    rw [List.mem_singleton.1 hq]
    exact Nat.le_add_right_of_le hlo
  | succ m ih =>
    intro s i h hd hi
    have hlo := hd.1
    have hic : i < x.count := by omega
    have hspan := fun i (hi : i < x.count) => Nat.mul_le_mul_right x.ty.size (Nat.succ_le_of_lt hi)
    simp only [Nat.succ_mul] at hspan
    have hi' := hspan i hic
    have helem := collElem_whole h hic hsize hr
    obtain ⟨u, hu, hw, hnum⟩ := engWrite_of_num (s := s)
      ((List.range (x.nrank - 1)).foldl (fun acc r => collOp x.ty x.op acc (v (r + 1) i)) (v 0 i))
      (inSpad_part (x := x.dst + i * x.ty.size) (m := x.ty.size) hd (by omega) (by omega) hsize)
    obtain ⟨t, ht, hwt, hbt⟩ := ih (i := i + 1) (h.carry hw (fun r hr => by unfold apart at hgroup ⊢; omega) fun r hr => by
      have hfar := hsrc r hr
      unfold apart at hfar ⊢
      omega) (hw.inSpad hd) (by omega)
    rw [hw.turn] at ht
    refine ⟨t, by simp only [collRun, helem, hu, ht], (hw.trans hwt).grow (fun q hq => ?_) fun q hq => ⟨_, List.mem_singleton.2 rfl, .inr ?_⟩,
      fun j h1 h2 => ?_⟩
    · rw [List.mem_singleton.1 hq]
      exact Nat.le_add_right_of_le hlo
    · simp only [List.cons_append, List.nil_append, List.mem_cons, List.not_mem_nil, or_false, Nat.succ_mul] at hq ⊢
      rcases hq with rfl | rfl <;> dsimp only <;> omega
    · simp only [hw.spadLoc] at hbt
      rcases Nat.eq_or_lt_of_le h1 with rfl | hlt
      · have hkept := hwt.num (va := x.dst + i * x.ty.size) (n := x.ty.size) (by omega) fun q hq => by
          rw [List.mem_singleton.1 hq, Nat.succ_mul]
          exact .inl (by dsimp only; omega)
        rw [hw.spadLoc] at hkept
        exact hkept.trans hnum
      · exact hbt j hlt h2

end Sys2Proof.Machine.Claim
end

section
/-! ## Engine transfers (O54): the issue of eng.coll -/

namespace Sys2Proof.Machine.Claim
open Sys2Proof.Machine
set_option Elab.async false

/-! ### The block (R385) -/

/-- The collective that a block in the own scratchpad describes. -/
def collAt (s : State) (va : Nat) : Coll :=
  { src := numAt s (spadLoc s (va + 0)) 8, dst := numAt s (spadLoc s (va + 8)) 8, count := numAt s (spadLoc s (va + 16)) 4
    ty := Ty.ofCode (numAt s (spadLoc s (va + 20)) 1), op := numAt s (spadLoc s (va + 21)) 1, nrank := numAt s (spadLoc s (va + 22)) 1
    rank := numAt s (spadLoc s (va + 23)) 1, group := numAt s (spadLoc s (va + 24)) 8, seq := numAt s (spadLoc s (va + 32)) 4
    cpl := numAt s (spadLoc s (va + 56)) 8 }

theorem collAt_pushed (s : State) (e : VEntry) (va : Nat) : collAt (pushed s e) va = collAt s va := by
  simp only [collAt, show ∀ va, spadLoc (pushed s e) va = spadLoc s va from fun _ => rfl, numAt_pushed]

/-- The fields of a collective's block are in range. -/
structure CollBlock (s : State) (va kind : Nat) : Prop where
  aligned : va % 64 = 0
  inside : inSpad s va 64
  positive : 0 < (collAt s va).count
  few : (collAt s va).count ≤ 2 ^ 24
  type : numAt s (spadLoc s (va + 20)) 1 ∈ [2, 3, 6, 7, 8, 9]
  op : (collAt s va).op ≤ 2
  ranks : 2 ≤ (collAt s va).nrank
  ranks' : (collAt s va).nrank ≤ 64
  rank : (collAt s va).rank < (collAt s va).nrank
  seq : (collAt s va).seq ≠ 0
  pad : ∀ o, o < 20 → numAt s (spadLoc s (va + (36 + o))) 1 = 0
  cpl : kind = 0 → (collAt s va).cpl = 0

theorem CollBlock.pushed {s : State} {va kind : Nat} (h : CollBlock s va kind) (e : VEntry) : CollBlock (pushed s e) va kind := by
  have hnum := fun va n => numAt_pushed s e va n
  obtain ⟨h1, h2, h3, h4, h5, h6, h7, h8, h9, h10, h11, h12⟩ := h
  simp only [← collAt_pushed s e, ← hnum] at h3 h4 h5 h6 h7 h8 h9 h10 h11 h12
  exact ⟨h1, inSpad_pushed h2, h3, h4, h5, h6, h7, h8, h9, h10, h11, h12⟩

theorem CollBlock.collOf {s : State} {va kind : Nat} (h : CollBlock s va kind) : collOf kind (blockBytes s va 64) = some (collAt s va) := by
  have hlo := h.inside.1
  have hfield := fun (off m : Nat) (hle : off + m ≤ 64) => leNat_block s (va := va) (n := 64) (off := off) (m := m) hlo hle
  have hpad : numAt s (spadLoc s (va + 36)) 20 = 0 := numAt_eq_zero (by omega) fun i hi => by rw [Nat.add_assoc]; exact h.pad i hi
  have hsome := h.positive
  have hfew := h.few
  have hop := h.op
  have hranks := h.ranks
  have hranks' := h.ranks'
  have hrank := h.rank
  have hseq := h.seq
  have hcpl := h.cpl
  have htype : ([2, 3, 6, 7, 8, 9] : List Nat).contains (numAt s (spadLoc s (va + 20)) 1) = true := List.contains_iff_mem.2 h.type
  simp only [collAt] at hsome hfew hop hranks hranks' hrank hseq hcpl
  simp only [Machine.collOf, hfield 0 8 (by decide), hfield 8 8 (by decide), hfield 16 4 (by decide), hfield 20 1 (by decide),
    hfield 21 1 (by decide), hfield 22 1 (by decide), hfield 23 1 (by decide), hfield 24 8 (by decide), hfield 32 4 (by decide),
    hfield 36 20 (by decide), hfield 56 8 (by decide), hpad, htype]
  refine if_neg ?_
  simp only [Bool.or_eq_true, Bool.and_eq_true, decide_eq_true_eq, bne_iff_ne, Bool.not_true, Bool.false_eq_true, ne_eq, not_true,
    or_false]
  omega

/-- Types of a reduction take whole bytes. -/
theorem size_of_collType {c : Nat} (h : c ∈ [2, 3, 6, 7, 8, 9]) :
    0 < (Ty.ofCode c).size ∧ 256 ^ (Ty.ofCode c).size = 2 ^ (Ty.ofCode c).width := by
  simp only [List.mem_cons, List.not_mem_nil, or_false] at h
  rcases h with rfl | rfl | rfl | rfl | rfl | rfl <;> decide

/-! ### The run -/

/-- The entry of a collective that has set its flag. -/
def waitingEntry (s : State) (e : VEntry) (x : Coll) (bytes : List Byte) : VEntry :=
  { e with aux := s.reftime, block := bytes, entered := true, spans := x.spans s s.turn }

theorem runColl_done {p q u : State} {e : VEntry} {kind va : Nat} {bytes : List Byte} {x : Coll} (hs : noStrip p) (hut : untracked u)
    (hblock : e.block = []) (hx : e.x.toNat = va) (hturn : u.turn = p.turn) (hturn' : q.turn = p.turn) (hal : va % 64 = 0)
    (hload : loadRange p p.turn va 64 = .ok (bytes, p)) (hcoll : collOf kind bytes = some x)
    (hmeet : rangesMeet x.src x.dst (x.count * x.ty.size) = false) (hiss : cplIssue p p.turn kind e x.cpl (x.count * x.ty.size) = .ok (p, e))
    (hflag : engWrite p.turn (x.group + 16 * x.rank + 8) (leBytes 8 x.seq) p.drainRepl = .ok q)
    (hready : collReady q p.turn x (List.range x.nrank) = .ok true) (hrun : collRun p.turn x x.count 0 q = (u, none)) :
    ∃ e', runColl p p.turn e kind = .done (writeRegs u p.turn []) e' ∧ e'.op = e.op ∧ e'.signal = some (kind, x.cpl, 0) := by
  have hend := fun e => engEnd_none hut e kind x.cpl 0 0 [] (·.park)
  simp only [hturn] at hend
  refine ⟨{ (waitingEntry q e x bytes).to 0 0 with signal := some (kind, x.cpl, 0) }, ?_, rfl, rfl⟩
  simp only [runColl, hblock, collStart, hx, hal, hload, hcoll, hmeet, hiss, unprotect_of_noStrip hs, hflag, collGo, hready, hrun]
  rw [← hend, waitingEntry, hturn']
  simp

end Sys2Proof.Machine.Claim
end

section
/-! ## Engine transfers (O54): eng.coll, and the whole of O54 -/

namespace Sys2Proof.Machine.Claim
open Sys2Proof.Machine
set_option Elab.async false

/-- A number that the completion leaves. -/
theorem EngEnd.num {s t u : State} {kind : BitVec 4} {cva : Nat} {regs : List (Reg × Nat)} {l : List (Nat × Nat)}
    (h : EngEnd s t u kind cva regs l) {va n : Nat} (hva : Config.localBase ≤ va) (hap : apart va n cva 32) :
    numAt u (spadLoc s va) n = numAt t (spadLoc s va) n := by
  refine congrArg leNat (List.map_congr_left fun i hi => ?_)
  have hin := List.mem_range.1 hi
  rw [spadLoc_plus hva]
  refine h.kept _ (by omega) ?_
  unfold apart at hap ⊢
  omega

/-- The address of a rank's elements, and an element of it (R385). -/
def rankSrc (s : State) (x : Coll) (r : Nat) : Nat := numAt s (spadLoc s (x.group + 16 * r)) 8
def rankElem (s : State) (x : Coll) (r i : Nat) : Nat := numAt s (spadLoc s (rankSrc s x r + i * x.ty.size)) x.ty.size

/-- The address of the flag that a collective sets. -/
def flagOf (x : Coll) : Nat := x.group + 16 * x.rank + 8

/-- The ranges of a collective lie in the own scratchpad and apart, and every other rank has set its flag. -/
structure CollPlaced (s : State) (x : Coll) : Prop where
  src : inSpad s x.src (x.count * x.ty.size)
  dst : inSpad s x.dst (x.count * x.ty.size)
  meet : apart x.src (x.count * x.ty.size) x.dst (x.count * x.ty.size)
  group : inSpad s x.group (16 * x.nrank)
  groupAway : apart x.dst (x.count * x.ty.size) x.group (16 * x.nrank)
  cplAway : apart x.dst (x.count * x.ty.size) x.cpl 32
  flags : ∀ r, r < x.nrank → r ≠ x.rank → x.seq ≤ numAt s (spadLoc s (x.group + 16 * r + 8)) 8
  range : ∀ r, r < x.nrank → inSpad s (rankSrc s x r) (x.count * x.ty.size)
  srcAway : ∀ r, r < x.nrank → apart (rankSrc s x r) (x.count * x.ty.size) x.dst (x.count * x.ty.size)
  srcFlag : ∀ r, r < x.nrank → apart (rankSrc s x r) (x.count * x.ty.size) (flagOf x) 8
  flagAway : apart x.cpl 32 (flagOf x) 8

theorem CollPlaced.inputs {s : State} {x : Coll} (h : CollPlaced s x) : CollInputs s x (rankSrc s x) (rankElem s x) :=
  ⟨h.group, fun _ _ => rfl, h.range, fun _ _ _ _ => rfl⟩

theorem rankSrc_pushed (s : State) (e : VEntry) (x : Coll) : rankSrc (pushed s e) x = rankSrc s x := funext fun _ => numAt_pushed ..

theorem CollPlaced.pushed {s : State} {x : Coll} (h : CollPlaced s x) (e : VEntry) : CollPlaced (pushed s e) x where
  src := inSpad_pushed h.src
  dst := inSpad_pushed h.dst
  meet := h.meet
  group := inSpad_pushed h.group
  groupAway := h.groupAway
  cplAway := h.cplAway
  flags := fun r hr hne => (h.flags r hr hne).trans_eq (numAt_pushed s e _ 8).symm
  range := fun r hr => by
    rw [rankSrc_pushed]
    exact inSpad_pushed (h.range r hr)
  srcAway := fun r hr => by
    rw [rankSrc_pushed]
    exact h.srcAway r hr
  srcFlag := fun r hr => by
    rw [rankSrc_pushed]
    exact h.srcFlag r hr
  flagAway := h.flagAway

theorem rankElem_pushed (s : State) (e : VEntry) (x : Coll) : rankElem (pushed s e) x = rankElem s x :=
  funext fun r => funext fun i => by
    rw [rankElem, rankSrc_pushed]
    exact numAt_pushed ..

/-- Element i of the result, before it is cut to the type. -/
def collValue (s : State) (x : Coll) (i : Nat) : Nat :=
  (List.range (x.nrank - 1)).foldl (fun acc r => collOp x.ty x.op acc (rankElem s x (r + 1) i)) (rankElem s x 0 i)

/-- The flag of a collective, and then the reduction (R385). -/
theorem collective_of_placed {s : State} {x : Coll} (h : CollPlaced s x) (hsize : 0 < x.ty.size) (hrank : x.rank < x.nrank)
    (hseq : x.seq < 2 ^ 64) : ∃ q u, engWrite s.turn (flagOf x) (leBytes 8 x.seq) s.drainRepl = .ok q ∧ q.turn = s.turn ∧
      collReady q s.turn x (List.range x.nrank) = .ok true ∧ collRun s.turn x x.count 0 q = (u, none) ∧
      Wrote s u [(x.dst, x.count * x.ty.size), (flagOf x, 8)] ∧ numAt u (spadLoc s (flagOf x)) 8 = x.seq ∧
      ∀ i, i < x.count → numAt u (spadLoc s (x.dst + i * x.ty.size)) x.ty.size = collValue s x i % 256 ^ x.ty.size := by
  have hd := wrote_drainRepl s
  have hinputs := h.inputs
  have hflag : inSpad s (flagOf x) 8 := inSpad_part h.group (by unfold flagOf; omega) (by unfold flagOf; omega) (by decide)
  obtain ⟨q, hq, hwq, hnum⟩ := engWrite_of_num (s := s.drainRepl) x.seq (hd.inSpad hflag)
  have hw := hd.trans hwq
  rw [List.nil_append] at hw
  have hlo := h.group.1
  have hlo' := h.dst.1
  have hself : numAt q (spadLoc s (flagOf x)) 8 = x.seq := hnum.trans (Nat.mod_eq_of_lt hseq)
  have hready : collReady q q.turn x (List.range x.nrank) = .ok true := by
    rw [collReady_of_inSpad (hw.inSpad h.group) fun r hr => List.mem_range.1 hr]
    refine congrArg Except.ok (List.all_eq_true.2 fun r hr => decide_eq_true ?_)
    rw [hw.spadLoc]
    by_cases hr' : r = x.rank
    · subst hr'
      exact hself.ge
    · rw [hw.num (va := x.group + 16 * r + 8) (by omega) fun p hp => by
        rw [List.mem_singleton.1 hp]
        unfold flagOf
        dsimp only
        omega]
      exact h.flags r (List.mem_range.1 hr) hr'
  have hinq := hinputs.carry hw (fun r hr => by unfold apart flagOf; omega) h.srcFlag
  obtain ⟨u, hu, hwu, hvalues⟩ := collRun_of_inputs hsize (by omega) h.groupAway h.srcAway hinq (hw.inSpad h.dst) (Nat.zero_add _)
  simp only [Nat.zero_mul, Nat.add_zero, hw.spadLoc] at hwu hvalues
  rw [hw.turn] at hready hu
  refine ⟨q, u, hq, hw.turn, hready, hu, (hw.trans hwu).grow (fun p hp => ?_) fun p hp => ⟨p, ?_, .inr ⟨Nat.le_refl _, Nat.le_refl _⟩⟩, ?_,
    fun i hi => hvalues i (Nat.zero_le i) hi⟩
  · simp only [List.mem_cons, List.not_mem_nil, or_false] at hp
    rcases hp with rfl | rfl
    · exact hlo'
    · exact hflag.1
  · simp only [List.cons_append, List.nil_append, List.mem_cons, List.not_mem_nil, or_false] at hp ⊢
    exact hp.symm
  · have hkept := hwu.num (va := flagOf x) (n := 8) hflag.1 fun p hp => by
      rw [List.mem_singleton.1 hp]
      have hfar := h.groupAway
      unfold apart at hfar
      unfold flagOf
      dsimp only
      omega
    rw [hw.spadLoc] at hkept
    exact hkept.trans hself

/-- eng.coll whose ranks have all set their flags (R385). -/
theorem engColl_of_placed {s : State} {a : Reg} {kind : BitVec 4} {x : Coll} (hi : idleQueue s) (hs : noStrip s) (hu : untracked s)
    (hblock : CollBlock s (s.hart.reg a).toNat kind.toNat) (hx : collAt s (s.hart.reg a).toNat = x) (hb : blockReady s kind x.cpl)
    (h : CollPlaced s x) :
    ∃ u, exec (.engColl a kind) s = .next u ∧ engDone s u ∧ u.hart.s = s.hart.s ∧ numAt u (spadLoc s (flagOf x)) 8 = x.seq ∧
      (∀ i, i < x.count → numAt u (spadLoc s (x.dst + i * x.ty.size)) x.ty.size = collValue s x i % 2 ^ x.ty.width) ∧
      blockDone s u kind x.cpl 0 ∧
      memOutside s u ((spadLoc s x.dst, x.count * x.ty.size) :: (spadLoc s (flagOf x), 8) :: blockRange s kind x.cpl) := by
  let e := engEntry s 4 0 a 0 kind
  have hready := engReady_pushed (e := e) hs hu
  obtain ⟨hsize, hpow⟩ : 0 < x.ty.size ∧ 256 ^ x.ty.size = 2 ^ x.ty.width := by
    rw [← hx]
    exact size_of_collType hblock.type
  have hseq : x.seq < 2 ^ 64 := by
    rw [← hx]
    exact Nat.lt_of_lt_of_le (leNat_lt _) (by simp)
  obtain ⟨q, u, hflag, hturn, hcoll, hrun, hw, hnum, hvalues⟩ := collective_of_placed (h.pushed e) hsize (hx ▸ hblock.rank) hseq
  have hload := loadRange_of_inSpad hready.strip fun i hi => inSpad_byte (inSpad_pushed (e := e) hblock.inside) hi
  have hof := (hblock.pushed e).collOf
  rw [collAt_pushed, hx] at hof
  obtain ⟨e', hsig, hexec⟩ := engForm_done (fn := 4) (d := 0) (a := a) (b := 0) (kind := kind) (regs := [])
    (Q := fun e' => e'.signal = some (kind.toNat, x.cpl, 0)) hi (fun o => by
      rw [begun_eng]
      exact runColl_done hready.strip (hw.tracks hready.tracks) rfl rfl hw.turn hturn hblock.aligned hload hof
        (rangesMeet_of_apart h.src h.dst h.meet) (cplIssue_of_block (blockReady_pushed hb) _ _) hflag hcoll hrun) hw.toRested
  have hend := engEnd_of_wrote hi hs (e := e) rfl hw [] hb hsig fun _ => rfl
  have hregs : (writeRegs u s.turn []).hart.s = s.hart.s := by
    rw [show writeRegs u s.turn [] = u from rfl, hw.hart_eq, State.hart, show (pushed s e).turn = s.turn from rfl, hartAt_pushed]
  refine ⟨_, hexec, hend.done, hend.regs.trans hregs, ?_, fun i hi => ?_, hend.block, hend.outside⟩
  · rw [hend.num (by have := h.group.1; unfold flagOf; omega) (Or.symm h.flagAway)]
    exact hnum
  · have hspan := Nat.mul_le_mul_right x.ty.size (Nat.succ_le_of_lt hi)
    rw [Nat.succ_mul] at hspan
    rw [hend.num (by have := h.dst.1; omega) (by
      have hfar : apart x.dst (x.count * x.ty.size) x.cpl 32 := h.cplAway
      unfold apart at hfar ⊢
      omega), ← hpow]
    have hvalue := hvalues i hi
    rw [show collValue (pushed s e) x i = collValue s x i by rw [collValue, rankElem_pushed]; rfl] at hvalue
    exact hvalue

/-! ### The claim -/

/-- The entry that a gather names. -/
theorem pattFor_of_valid {s : State} {part i : Nat} (hi : i < (s.partAt part).pattCount)
    (hv : (s.pattAt ((s.partAt part).pattBase + i)).valid = true) (hp : (s.pattAt ((s.partAt part).pattBase + i)).part = part) :
    pattFor s part i = some (s.pattAt ((s.partAt part).pattBase + i)) := by
  simp [pattFor, hi, hv, hp]

/-- The reduction in the words of the claim. -/
theorem collValue_eq {s : State} {x : Coll} {fn : BinFn} (h : (fn, x.op) ∈ [(BinFn.add, 0), (BinFn.min, 1), (BinFn.max, 2)]) (i : Nat) :
    collValue s x i =
      (List.range (x.nrank - 1)).foldl (fun acc r => reduceOp fn x.ty acc (rankElem s x (r + 1) i)) (rankElem s x 0 i) := by
  simp only [collValue, collOp_eq_reduceOp h]

/-- Settles O54: every form commits to an empty queue and runs whole. What a transfer writes of the own scratchpad is collected as ranges
(`Wrote`), and the completion that follows it leaves those ranges alone. -/
theorem engineTransfers : Obligations.EngineTransfers := by
  unfold Obligations.EngineTransfers
  refine ⟨?copy, ?mcast, ?gather, ?patt, ?coll⟩
  case copy =>
    intro s d a b kind _ ⟨hi, _⟩ hs hu dst src n cva hd hsrc hap ends
    refine ⟨fun hb hcap => engCopy_block hi hs hu hd hsrc hap hb hcap, ?_, ?_⟩
    · rintro r rfl ha hin hcap hr hb h0 hn hopen
      exact engCopy_barrier hi hs hu hd hsrc hap ha hin hcap hr hb h0 hn hopen
    · rintro p rfl ha ht hp
      exact engCopy_future hi hs hu hd hsrc hap ha ht hp
  case mcast =>
    intro s d a b kind dests _ ⟨hi, _⟩ hs hu va src n cva f hva hin h1 h12 hcount hpad hfail hpad' hoff htail heach hsrc haway hdist hb
    exact engMcast_of_ready hi hs hu ⟨hva, hin, h1, h12, hcount, hpad, hfail, hpad', hoff, htail, heach, hsrc, haway, hdist⟩ hb
  case gather =>
    intro s d a b kind _ ⟨hi, _⟩ hs hu dst x rows cf cl part p size n el cva htop hpad h0 hfew hle hcount hvalid hpart henc hcols hesize hel
      hd hb hcap
    have hspec : GatherSpec x rows cf cl := ⟨rfl, rfl, htop, hpad, h0, hfew, hle⟩
    refine engGather_of_ready hi hs hu hspec (pattFor_of_valid hcount hvalid hpart) ?_ hd hb hcap
    refine ⟨henc, hesize, fun i hi => ?_, fun i hi => (hel i hi).2.1, fun i hi => (hel i hi).1, fun i hi => readable_of_serves (hel i hi).2.2⟩
    have hcol : i / rows < cl + 1 - cf := Nat.div_lt_of_lt_mul hi
    show cf + i / rows < p.cols
    omega
  case patt =>
    intro s d a ⟨hi, _⟩ hs i va part f hlt hin
    refine ⟨fun hva => engPatt_clear hi hlt hin hva, ?_⟩
    intro e dev hva hblock hesize hpitch hcols hdigest hfits h8 h23 h26 hwindow hl hr hp hcap hk
    exact engPatt_write hi hs hlt hin ⟨hva, hblock, hesize, hpitch, hcols, hdigest, hfits, h8, h23, h26⟩ hwindow hl hr hp hcap hk
  case coll =>
    rintro s a kind fn t _ ⟨hi, _⟩ hs hu va f dst n ranks group src x op cva flag hva hin h0 hfew htype rfl hfn h2 h64 hrank hseq hpad hcpl hb
      hsrc hmeet hdst hgroup hgroupAway hcplAway hflags hsrcs hflagAway
    have hcva : cva = f 56 8 := by
      by_cases hk : kind = 0
      · exact (if_pos hk).trans (hcpl hk).symm
      · exact if_neg hk
    have hop : f 21 1 ≤ 2 := by
      simp only [List.mem_cons, Prod.mk.injEq, List.not_mem_nil, or_false] at hfn
      omega
    have hblock : CollBlock s va kind.toNat := ⟨hva, hin, h0, hfew, htype, hop, h2, h64, hrank, hseq, hpad,
      fun hk => hcpl (BitVec.eq_of_toNat_eq hk)⟩
    rw [hcva] at hb hcplAway hflagAway ⊢
    have hplaced : CollPlaced s (collAt s va) := ⟨hsrc, hdst, hmeet, hgroup, hgroupAway, hcplAway, hflags, fun r hr => (hsrcs r hr).1,
      fun r hr => (hsrcs r hr).2.1, fun r hr => (hsrcs r hr).2.2, hflagAway⟩
    obtain ⟨u, hexec, hdone, hregs, hflag, hvalues, hend, hout⟩ := engColl_of_placed hi hs hu hblock rfl hb hplaced
    refine ⟨u, hexec, hdone, hregs, hflag, fun i hi => (hvalues i hi).trans ?_, hend, hout⟩
    rw [collValue_eq hfn]
    rfl

end Sys2Proof.Machine.Claim
end

section
/-! ## The machine at reset (O1) -/

namespace Sys2Proof.Machine.Claim
open Sys2Proof.Machine
set_option Elab.async false

/-- No hart is listed at reset: every slot holds the hart of an empty one. -/
theorem hartAt_reset (k : Nat) : State.reset.hartAt k = {} := rfl

theorem reg_default (r : Reg) : ({} : Hart).reg r = 0 := by
  rw [Hart.reg]
  split
  · rfl
  · exact Vector.getElem_replicate _

/-- No memory lists a byte at reset (log 2). -/
theorem byteAt_reset {l : Loc} (h : isMem l = true) : byteAt State.reset l = 0 := by
  cases l with
  | regs a => cases h
  | dev | spad | sdm | remote | host => rfl

/-- Partition 0 alone exists at reset (R421). -/
theorem partAt_reset (p : Nat) : State.reset.partAt p = if p = 0 then Partition.first else {} := by
  simp only [State.partAt, State.reset, Table.get, eq_comm]

/-- Settles O1: reset lists nothing but partition 0, and every register map's field has its default. -/
theorem resetLeaves : Obligations.ResetLeaves := by
  unfold Obligations.ResetLeaves
  refine ⟨fun k => ?_, fun k r => ?_, fun _ => rfl, fun l hl => byteAt_reset hl, fun p => ?_, rfl, rfl, rfl, rfl, rfl, rfl, rfl,
    fun _ => ⟨rfl, rfl, rfl⟩⟩
  · rw [hartAt_reset]
  · rw [hartAt_reset, reg_default]
  · rw [partAt_reset]
    split
    · next h => simp [h, Partition.first]
    · next h => simp [h]

end Sys2Proof.Machine.Claim
end

section
/-! ## Fences (O27)

A buffered store that its target accepts merges its bytes into memory (`commitStore_of_lands`) and leaves every target as ready for the
next one as it was, so that a strip commits store by store (`foldl_commitStore`). -/

namespace Sys2Proof.Machine.Claim
open Sys2Proof.Machine
set_option Elab.async false

/-! ### What a byte depends on -/

/-- A byte of memory reads the same where no memory and no core changed. -/
theorem byteAt_of_memories (s t : State) (hd : t.mem.dev = s.mem.dev) (hh : t.mem.host = s.mem.host) (hp : t.mem.peers = s.mem.peers)
    (hc : t.cores = s.cores) {x : Loc} (hx : isMem x = true) : byteAt t x = byteAt s x := by
  cases x with
  | regs a => cases hx
  | dev a => rw [byteAt, hd, byteAt]
  | host a => rw [byteAt, hh, byteAt]
  | remote p a => rw [byteAt, hp, byteAt]
  | spad c o => rw [byteAt, State.coreAt, hc, byteAt, State.coreAt]
  | sdm c o => rw [byteAt, State.coreAt, hc, byteAt, State.coreAt]

/-! ### A store merged into a place (R103) -/

theorem target_plus (l : Loc) (i : Nat) : (l.plus i).target = l.target := by cases l <;> rfl

theorem addr_plus (l : Loc) (i : Nat) : (l.plus i).addr = l.addr + i := by cases l <;> rfl

theorem eq_plus_of_target {l x : Loc} (ht : l.target = x.target) (ha : l.addr ≤ x.addr) : x = l.plus (x.addr - l.addr) := by
  cases l <;> cases x <;> simp_all [Loc.target, Loc.addr, Loc.plus]

theorem placeBytes_eq_map {s : State} {p : Place} (h : isMem p.loc = true) (n : Nat) :
    placeBytes s p n = (List.range n).map fun i => byteAt s (p.loc.plus i) := by
  obtain ⟨loc, kind, enc⟩ := p
  cases loc with
  | regs a => cases h
  | dev | spad | sdm | remote | host => exact readBytes_eq_map ..

theorem length_merged {s : State} {b : StripStore} (h : isMem b.place.loc = true) : (b.merged s).length = b.bytes.length := by
  simp [StripStore.merged, placeBytes_eq_map h]

theorem getD_merged {s : State} {b : StripStore} (h : isMem b.place.loc = true) {i : Nat} (hi : i < b.bytes.length) :
    (b.merged s).getD i 0 = mergeByte (byteAt s (b.place.loc.plus i)) (b.bytes.getD i 0) b.mask := by
  simp [StripStore.merged, placeBytes_eq_map h, List.getD_eq_getElem?_getD, hi]

/-- The bytes that a place takes from a buffered store are those that the hart's own loads saw there (R103, R105). -/
theorem byteAt_of_merged {s t : State} {b : StripStore} (hb : isMem b.place.loc = true) (h : putAt s t b.place.loc (b.merged s)) {x : Loc}
    (hx : isMem x = true) : byteAt t x = b.over x (byteAt s x) := by
  obtain ⟨hin, hout⟩ := h
  rw [length_merged hb] at hin hout
  by_cases hs : stored b.place.loc b.bytes.length x
  · obtain ⟨i, hi, rfl⟩ := hs
    have hcover : (b.place.loc.target == (b.place.loc.plus i).target && b.place.loc.addr ≤ (b.place.loc.plus i).addr &&
        (b.place.loc.plus i).addr < b.place.loc.addr + b.bytes.length) = true := by
      simp [target_plus, addr_plus, hi]
    rw [hin i hi, getD_merged hb hi, StripStore.over, if_pos hcover, addr_plus, Nat.add_sub_cancel_left]
  · rw [hout x hx hs, StripStore.over, if_neg]
    intro hcover
    simp only [Bool.and_eq_true, beq_iff_eq, decide_eq_true_eq] at hcover
    obtain ⟨⟨ht, hlo⟩, hhi⟩ := hcover
    exact hs ⟨_, by omega, eq_plus_of_target ht hlo⟩

/-! ### A plain write within a readable codeword (R220, R442) -/

theorem rewriteBad_of_readable {bad : Table BadWord} {n : Nat} (h : Table.find? bad n = none) (whole : Bool) :
    rewriteBad bad n 1 whole = bad := by
  have hnone : (bad.any fun p => n ≤ p.1 && p.1 < n + 1) = false := by
    induction bad with
    | nil => rfl
    | cons p rest ih =>
      rw [Table.find?] at h
      split at h
      · cases h
      · rw [List.any_cons, ih h, Bool.or_false]
        simp
        omega
  simp only [rewriteBad, hnone, Bool.false_eq_true, if_false]

theorem pieces_of_fit {a n : Nat} (h : a % 64 + n ≤ 64) (h0 : n ≠ 0) : pieces 64 a n = [(a, n)] := by
  have hone : (a % 64 + n + 64 - 1) / 64 = 1 := by omega
  rw [pieces, if_neg h0, hone]
  simp only [List.range_one, List.map_cons, List.map_nil, List.cons.injEq, and_true, Prod.mk.injEq]
  omega

/-- What a write within one plain, readable codeword leaves: its bytes, every codeword as readable, every sector as plain as before. -/
theorem devWrite_of_readable {m : MemSys} {part a : Nat} {bytes : List Byte} (hfit : a % 64 + bytes.length ≤ 64)
    (hbad : Table.find? m.bad (a / 64) = none) (hsec : plainSector m (a / 512)) :
    ∃ sectors past, devWrite m part false a bytes =
        .ok { m with dev := Memory.writeBytes m.dev a bytes, sectors := sectors, past := past } ∧
      ∀ n, plainSector m n → plainSector { m with sectors := sectors } n := by
  by_cases h0 : bytes = []
  · subst h0
    exact ⟨_, _, rfl, fun _ h => h⟩
  have hall : (bytes.drop (a - a)).take bytes.length = bytes := by simp
  refine ⟨Table.set m.sectors (a / 512) .plain, m.past ++ (List.range bytes.length).map fun i => (a + i, Memory.read1 m.dev (a + i)), ?_,
    fun n hn => ?_⟩
  · simp only [devWrite, Bool.false_eq_true, if_false, pieces_of_fit hfit (mt List.length_eq_zero_iff.1 h0), writeUnits, hall]
    rcases hsec with hsec | hsec <;>
      · simp only [writeUnit, hsec, Bool.false_eq_true, if_false, rewriteBad_of_readable hbad]
  · by_cases h : n = a / 512
    · subst h
      exact .inr (Table.find?_set_self _ _ _)
    · rw [plainSector, Table.find?_set_of_ne _ _ h]
      exact hn

/-! ### One buffered store takes its instant -/

/-- What a committed store leaves but for its bytes: every hart, the retirement registers, and each target as ready as before. -/
structure Landed (s t : State) : Prop where
  frame : ∃ cs m, t = { s with cores := cs, mem := m }
  phase : t.mem.phase = s.mem.phase
  was : t.mem.was = s.mem.was
  lands : ∀ b, lands s b → lands t b

theorem Landed.refl (s : State) : Landed s s := ⟨⟨_, _, rfl⟩, rfl, rfl, fun _ => id⟩

theorem Landed.trans {s t u : State} (a : Landed s t) (b : Landed t u) : Landed s u where
  frame := by
    obtain ⟨_, _, rfl⟩ := a.frame
    obtain ⟨_, _, rfl⟩ := b.frame
    exact ⟨_, _, rfl⟩
  phase := b.phase.trans a.phase
  was := b.was.trans a.was
  lands x h := b.lands x (a.lands x h)

theorem Landed.maps {s t : State} (h : Landed s t) (hm : mapsAgree s) : mapsAgree t := by
  rw [mapsAgree, h.phase, h.was]
  exact hm

/-- Device memory that stays as readable and as plain takes the same stores. -/
theorem landed_mem {s : State} {m : MemSys} (hphase : m.phase = s.mem.phase) (hwas : m.was = s.mem.was) (hcap : m.cap = s.mem.cap)
    (hbad : m.bad = s.mem.bad) (hsec : ∀ n, plainSector s.mem n → plainSector m n) : Landed s { s with mem := m } where
  frame := ⟨_, _, rfl⟩
  phase := hphase
  was := hwas
  lands b h := by
    obtain ⟨⟨loc, kind, enc⟩, mask, bytes, page, ordered⟩ := b
    cases loc with
    | dev a =>
      obtain ⟨hfit, hkind, henc, hlow, how, hgood, hplain⟩ := h
      exact ⟨hfit, hkind, henc, hcap ▸ hlow, how, hbad ▸ hgood, hsec _ hplain⟩
    | spad c o => exact h
    | sdm c o => exact h
    | remote => exact h.elim
    | host => exact h.elim
    | regs => exact h.elim

theorem landed_setCoreAt (s : State) (c : Nat) (x : Core) : Landed s (s.setCoreAt c x) :=
  ⟨⟨_, _, rfl⟩, rfl, rfl, fun b h => by
    obtain ⟨⟨loc, kind, enc⟩, mask, bytes, page, ordered⟩ := b
    cases loc <;> exact h⟩

theorem landed_drainRepl (s : State) : Landed s s.drainRepl := landed_mem (m := { s.mem with repl := [] }) rfl rfl rfl rfl fun _ => id

theorem byteAt_drainRepl (s : State) {x : Loc} (hx : isMem x = true) : byteAt s.drainRepl x = byteAt s x :=
  byteAt_of_memories s s.drainRepl rfl rfl rfl rfl hx

theorem lands_isMem {s : State} {b : StripStore} (h : lands s b) : isMem b.place.loc = true := by
  obtain ⟨⟨loc, kind, enc⟩, mask, bytes, page, ordered⟩ := b
  cases loc with
  | dev | spad | sdm => rfl
  | remote => exact h.elim
  | host => exact h.elim
  | regs => exact h.elim

/-- No target that accepts a store stops it (R22, R36, R87, R213). -/
theorem targetWriteStop_of_lands {s : State} {b : StripStore} (h : lands s b) : targetWriteStop s s.turn b.place 0 = none := by
  obtain ⟨⟨loc, kind, enc⟩, mask, bytes, page, ordered⟩ := b
  cases loc with
  | dev a =>
    obtain ⟨-, -, -, hcap, how, -⟩ := h
    exact devStop_eq_none hcap how
  | spad c o => exact if_neg (by rw [show s.inPiece c o = false from h]; exact Bool.false_ne_true)
  | sdm c o => rfl
  | remote => exact h.elim
  | host => exact h.elim
  | regs => exact h.elim

/-- A target that accepts a store merges it and stays as it was. -/
theorem targetPut_of_lands {s : State} {b : StripStore} (h : lands s b) {bytes : List Byte} (hlen : bytes.length = b.bytes.length) :
    ∃ t, targetPut s s.turn b.place .store bytes = .ok t ∧ Landed s t ∧ putAt s t b.place.loc bytes := by
  obtain ⟨⟨loc, kind, enc⟩, mask, own, page, ordered⟩ := b
  cases loc with
  | dev a =>
    obtain ⟨hfit, rfl, rfl, -, -, hbad, hsec⟩ := h
    obtain ⟨sectors, past, hw, hplain⟩ :=
      devWrite_of_readable (part := (s.partOf (coreOf s.turn)).getD 0) (bytes := bytes) (hlen ▸ hfit) hbad hsec
    let m := { s.mem with dev := Memory.writeBytes s.mem.dev a bytes, sectors := sectors, past := past }
    exact ⟨{ s with mem := m }, by simp only [targetPut, hw]; rfl, landed_mem (m := m) rfl rfl rfl rfl hplain, putAt_dev (m := m) rfl rfl rfl⟩
  | spad c o => exact ⟨_, rfl, landed_setCoreAt .., putAt_spad s c o bytes⟩
  | sdm c o => exact ⟨_, rfl, landed_setCoreAt .., putAt_sdm s c o bytes⟩
  | remote => exact h.elim
  | host => exact h.elim
  | regs => exact h.elim

theorem landed_settleRepl (s : State) (k : Nat) : Landed s (settleRepl s k) := by
  unfold settleRepl
  split
  · exact landed_drainRepl s
  · exact .refl s

theorem byteAt_settleRepl (s : State) (k : Nat) {x : Loc} (hx : isMem x = true) : byteAt (settleRepl s k) x = byteAt s x := by
  unfold settleRepl
  split
  · exact byteAt_drainRepl s hx
  · rfl

theorem settleRepl_turn (s : State) (k : Nat) : (settleRepl s k).turn = s.turn := by
  unfold settleRepl
  split <;> rfl

/-- An access on its way to its target (R94). -/
def reached (s : State) (k : Nat) (l : Loc) : State := match l with | .dev a => s.reach (coreOf k) a | _ => s

theorem reached_idle {s : State} (h : mapsAgree s) (k : Nat) (l : Loc) : reached s k l = s := by
  obtain ⟨hphase, hwas⟩ := h
  cases l with
  | dev a => exact reach_idle hphase hwas _ _
  | spad | sdm | remote | host | regs => rfl

/-- A store whose target lets it in and performs it. -/
theorem commitStore_of_put {s t : State} {k : Nat} {b : StripStore} (hr : reached s k b.place.loc = s)
    (hs : targetWriteStop s k b.place 0 = none)
    (hp : targetPut (if b.ordered = true then settleRepl s k else s) k b.place .store
      (b.merged (if b.ordered = true then settleRepl s k else s)) = .ok t) : commitStore k s b = t := by
  unfold commitStore
  extract_lets u
  have hu : u = s := hr
  clear_value u
  subst hu
  simp only [hs]
  split
  · next he => exact Except.ok.inj (he.symm.trans hp)
  · next he => exact absurd (he.symm.trans hp) nofun

/-- A buffered store that its target accepts merges its bytes there (R103, R114). -/
theorem commitStore_of_lands {s : State} {b : StripStore} (hm : mapsAgree s) (h : lands s b) :
    Landed s (commitStore s.turn s b) ∧ ∀ x, isMem x = true → byteAt (commitStore s.turn s b) x = b.over x (byteAt s x) := by
  have hmem := lands_isMem h
  obtain ⟨u, hu, hl, hsame, hturn⟩ : ∃ u, (if b.ordered = true then settleRepl s s.turn else s) = u ∧ Landed s u ∧
      (∀ {x}, isMem x = true → byteAt u x = byteAt s x) ∧ u.turn = s.turn := by
    split
    · exact ⟨_, rfl, landed_settleRepl s _, fun hx => byteAt_settleRepl s _ hx, settleRepl_turn s _⟩
    · exact ⟨_, rfl, .refl s, fun _ => rfl, rfl⟩
  obtain ⟨t, ht, hput, hbytes⟩ := targetPut_of_lands (hl.lands b h) (bytes := b.merged u) (length_merged hmem)
  rw [hturn, ← hu] at ht
  rw [commitStore_of_put (reached_idle hm _ _) (targetWriteStop_of_lands h) ht]
  exact ⟨hl.trans hput, fun x hx => hsame hx ▸ byteAt_of_merged hmem hbytes hx⟩

/-! ### The strip (R114) -/

theorem foldl_commitStore {s : State} (l : List StripStore) (hm : l ≠ [] → mapsAgree s) (h : ∀ b, b ∈ l → lands s b) :
    Landed s (l.foldl (commitStore s.turn) s) ∧
      ∀ x, isMem x = true → byteAt (l.foldl (commitStore s.turn) s) x = stripByte l x (byteAt s x) := by
  induction l generalizing s with
  | nil => exact ⟨.refl s, fun _ _ => rfl⟩
  | cons b l ih =>
    have hmaps := hm (List.cons_ne_nil b l)
    obtain ⟨hl, hbytes⟩ := commitStore_of_lands hmaps (h b List.mem_cons_self)
    have hturn : (commitStore s.turn s b).turn = s.turn := by
      obtain ⟨_, _, heq⟩ := hl.frame
      rw [heq]
    obtain ⟨hl', hbytes'⟩ := ih (fun _ => hl.maps hmaps) fun c hc => hl.lands c (h c (List.mem_cons_of_mem b hc))
    rw [hturn] at hl' hbytes'
    refine ⟨hl.trans hl', fun x hx => (hbytes' x hx).trans ?_⟩
    rw [hbytes x hx]
    rfl

/-- The hart whose strip has committed. -/
def emptied (h : Hart) : Hart := { h with strip := [], used := 0 }

theorem inPiece_emptied (s : State) (c o : Nat) : (s.setHart (emptied s.hart)).inPiece c o = s.inPiece c o := by
  have hmode : ∀ k, ((s.setHart (emptied s.hart)).hartAt k).pmode = (s.hartAt k).pmode := fun k => by
    by_cases hk : k = s.turn
    · subst hk
      rw [State.setHart, State.hartAt_setHartAt_self]
      rfl
    · rw [State.setHart, State.hartAt_setHartAt_of_ne _ _ hk]
  simp only [State.inPiece, hmode]

theorem lands_emptied {s : State} {b : StripStore} (h : lands s b) : lands (s.setHart (emptied s.hart)) b := by
  obtain ⟨⟨loc, kind, enc⟩, mask, bytes, page, ordered⟩ := b
  cases loc with
  | dev a => exact h
  | spad c o => exact (inPiece_emptied s c o).trans h
  | sdm c o => exact h
  | remote => exact h.elim
  | host => exact h.elim
  | regs => exact h.elim

/-- The commit of a strip whose stores are accepted: memory takes them, and the hart's buffer is empty. -/
theorem commitStrip_of_lands {s : State} (h : stripLands s) :
    (∃ cs m, commitStrip s s.turn = { s.setHart (emptied s.hart) with cores := cs, mem := m }) ∧
      (commitStrip s s.turn).mem.phase = s.mem.phase ∧ stripStored s (commitStrip s s.turn) := by
  obtain ⟨hm, hl⟩ := h
  obtain ⟨hland, hbytes⟩ := foldl_commitStore (s := s.setHart (emptied s.hart)) s.hart.strip hm fun b hb => lands_emptied (hl b hb)
  have hsame : ∀ {x}, isMem x = true → byteAt (s.setHart (emptied s.hart)) x = byteAt s x :=
    byteAt_of_memories s (s.setHart (emptied s.hart)) rfl rfl rfl rfl
  exact ⟨hland.frame, hland.phase, fun x hx => (hbytes x hx).trans (by rw [hsame hx])⟩

theorem commitStrip_of_noStrip {s : State} (h : noStrip s) : commitStrip s s.turn = s.setHart (emptied s.hart) := by
  obtain ⟨-, hs, -⟩ := h
  have hs' : (s.hartAt s.turn).strip = [] := hs
  rw [commitStrip, hs']
  rfl

/-! ### Fences (R121, R389) -/

/-- A state that differs from another in the executing hart, cores and memories alone, with the strip's stores in memory. -/
structure Fenced (s t : State) (h : Hart) : Prop where
  frame : ∃ cs m, t = { s.setHart h with cores := cs, mem := m }
  stored : stripStored s t
  same : noStrip s → t.cores = s.cores ∧ ∃ r, t.mem = { s.mem with repl := r }

theorem Fenced.hart {s t : State} {h : Hart} (f : Fenced s t h) : t.hart = h := by
  obtain ⟨_, _, rfl⟩ := f.frame
  exact State.hart_setHart s h

theorem Fenced.hartsSame {s t : State} {h : Hart} (f : Fenced s t h) : hartsSame s t := by
  obtain ⟨_, _, rfl⟩ := f.frame
  exact fun k hk => State.hartAt_setHartAt_of_ne s h hk

theorem Fenced.memSame {s t : State} {h : Hart} (f : Fenced s t h) (hn : noStrip s) : memSame s t := fun x hx => by
  obtain ⟨hc, r, hm⟩ := f.same hn
  cases x with
  | regs a => cases hx
  | dev | host | remote => simp only [byteAt, hm]
  | spad | sdm => simp only [byteAt, State.coreAt, hc]

theorem Fenced.restSame {s t : State} {h : Hart} (f : Fenced s t h) (hn : noStrip s) : restSame s t := by
  obtain ⟨hc, r, hm⟩ := f.same hn
  refine ⟨f.hartsSame, fun c => by simp only [State.coreAt, hc], by rw [hm]; rfl, ?_⟩
  obtain ⟨_, _, rfl⟩ := f.frame
  exact ⟨rfl, rfl, rfl, rfl, rfl, rfl, rfl, rfl, rfl, rfl, rfl, rfl⟩

theorem fenced_commitStrip {s : State} (h : stripLands s) : Fenced s (commitStrip s s.turn) (emptied s.hart) where
  frame := (commitStrip_of_lands h).1
  stored := (commitStrip_of_lands h).2.2
  same hn := by
    rw [commitStrip_of_noStrip hn]
    exact ⟨rfl, _, rfl⟩

/-- The REPL stores whose instants a fence waits for are no bytes of memory. -/
theorem Fenced.settle {s t : State} {h : Hart} (f : Fenced s t h) (r : List ReplUpdate) :
    Fenced s { t with mem := { t.mem with repl := r } } h where
  frame := by
    obtain ⟨_, _, rfl⟩ := f.frame
    exact ⟨_, _, rfl⟩
  stored x hx := (byteAt_of_memories t { t with mem := { t.mem with repl := r } } rfl rfl rfl rfl hx).trans (f.stored x hx)
  same hn := by
    obtain ⟨hc, _, hm⟩ := f.same hn
    exact ⟨hc, r, by rw [hm]⟩

theorem setHartAt_twice (s : State) (k : Nat) (h h' : Hart) : (s.setHartAt k h).setHartAt k h' = s.setHartAt k h' := by
  have hset : ∀ m : Table Hart, Table.set (Table.set m k h) k h' = Table.set m k h' := fun m => by
    induction m with
    | nil => simp [Table.set]
    | cons p rest ih =>
      obtain ⟨j, v⟩ := p
      simp only [Table.set]
      grind [Table.set]
  simp only [State.setHartAt, hset]

theorem Fenced.setHart {s t : State} {h : Hart} (f : Fenced s t h) (h' : Hart) : Fenced s (t.setHart h') h' where
  frame := by
    obtain ⟨cs, m, rfl⟩ := f.frame
    refine ⟨cs, m, ?_⟩
    exact congrArg (fun u : State => { u with cores := cs, mem := m }) (setHartAt_twice s s.turn h h')
  stored x hx := (byteAt_of_memories t (t.setHart h') rfl rfl rfl rfl hx).trans (f.stored x hx)
  same hn := f.same hn

theorem settleAtomics_eq (s : State) (k : Nat) : settleAtomics s k = { s with mem := { s.mem with
    repl := if ∃ u, u ∈ s.mem.repl ∧ u.hart = k ∧ u.atomic = true then [] else s.mem.repl } } := by
  have hany : (s.mem.repl.any fun u => u.hart == k && u.atomic) = true ↔ ∃ u, u ∈ s.mem.repl ∧ u.hart = k ∧ u.atomic = true := by
    simp
  rw [settleAtomics]
  split
  · next h => rw [if_pos (hany.1 h)]; rfl
  · next h => rw [if_neg (mt hany.2 h)]

/-- The hart after a fence. -/
def pastFence (h : Hart) : Hart := stepped (emptied h) 0 0

/-- fence: the strip, then the die instants (R114, R121, R127). -/
theorem fence_of_stripLands {s : State} {settle : State → State} {r : State → List ReplUpdate} (h : stripLands s)
    (hr : ∀ u, settle u = { u with mem := { u.mem with repl := r u } }) :
    Fenced s (fence settle s) (pastFence s.hart) ∧ (fence settle s).mem.repl = r (commitStrip s s.turn) := by
  have hf := (fenced_commitStrip h).settle (r (commitStrip s s.turn))
  have hnext : (emptied s.hart).next = pastFence s.hart := setReg_next (emptied s.hart) 0 0
  simp only [fence, hr, finish]
  rw [hf.hart, hnext]
  exact ⟨hf.setHart _, rfl⟩

theorem repl_commitStrip {s : State} (h : noStrip s) : (commitStrip s s.turn).mem.repl = s.mem.repl := by
  rw [commitStrip_of_noStrip h]
  rfl

theorem fence_drain {s : State} (h : stripLands s) :
    Fenced s (fence State.drainRepl s) (pastFence s.hart) ∧ (fence State.drainRepl s).mem.repl = [] :=
  fence_of_stripLands h (r := fun _ => []) fun _ => rfl

theorem fence_atomics {s : State} (h : stripLands s) :
    Fenced s (fence (settleAtomics · s.turn) s) (pastFence s.hart) ∧
      (noStrip s → (fence (settleAtomics · s.turn) s).mem.repl =
        if ∃ u, u ∈ s.mem.repl ∧ u.hart = s.turn ∧ u.atomic = true then [] else s.mem.repl) := by
  obtain ⟨hf, hr⟩ := fence_of_stripLands h fun u => settleAtomics_eq u s.turn
  refine ⟨hf, fun hn => hr.trans ?_⟩
  rw [repl_commitStrip hn]

/-- fen.all: one of device scope or wider marks the record of writes for the hart's next jump (R117). -/
theorem fenAll_of_stripLands {s : State} (h : stripLands s) (n : BitVec 3) : ∃ t, exec (.fenAll n) s = .next t ∧
    Fenced s t { pastFence s.hart with fenced := if 4 ≤ n.toNat then t.mem.past.length else s.hart.fenced } ∧ t.mem.repl = [] := by
  obtain ⟨hf, hr⟩ := fence_drain h
  by_cases hn : 4 ≤ n.toNat
  · refine ⟨_, congrArg Host.Outcome.next (if_pos hn), ?_, hr⟩
    rw [hf.hart, if_pos hn]
    exact hf.setHart _
  · refine ⟨_, congrArg Host.Outcome.next (if_neg hn), ?_, hr⟩
    rw [if_neg hn]
    exact hf

/-- fen.phase on an even phase that has been reached (R102). -/
theorem fenPhase_of_stripLands {s : State} (d : Reg) {a : Reg} (h : stripLands s) (heven : s.mem.phase % 2 = 0)
    (hreach : (s.mem.phase + 2 ^ 32 - (s.hart.reg a).toNat % 2 ^ 32) % 2 ^ 32 < 2 ^ 31) : ∃ t, exec (.fenPhase d a) s = .next t ∧
    Fenced s t (stepped (emptied s.hart) d (BitVec.ofNat 64 s.mem.phase)) ∧ t.mem.repl = [] := by
  have hf := (fenced_commitStrip h).settle []
  obtain ⟨-, hphase, -⟩ := commitStrip_of_lands h
  refine ⟨writeReg (commitStrip s s.turn).drainRepl d (BitVec.ofNat 64 (commitStrip s s.turn).mem.phase),
    if_pos (show s.mem.phase % 2 = 0 ∧ _ from ⟨heven, hreach⟩), ?_, rfl⟩
  have hhart : (commitStrip s s.turn).drainRepl.hart = emptied s.hart := hf.hart
  rw [writeReg, finish, hhart, setReg_next, hphase]
  exact hf.setHart _

theorem fenPhase_waits {s : State} (d : Reg) {a : Reg} (h : ¬ (s.mem.phase % 2 = 0 ∧
    (s.mem.phase + 2 ^ 32 - (s.hart.reg a).toNat % 2 ^ 32) % 2 ^ 32 < 2 ^ 31)) :
    exec (.fenPhase d a) s =
      .next (withTurn s { s.hart with slot := .waiting, wait := .phase ((s.hart.reg a).toNat % 2 ^ 32) }) :=
  if_neg h

/-! ### The obligation -/

/-- What every fence claims, once it is known which state it leaves. -/
theorem fences_claim {s t : State} {i : Instr} {stores : Bool} {n : BitVec 3} (he : exec i s = .next t)
    (hf : Fenced s t { pastFence s.hart with fenced := if i = .fenAll n ∧ 4 ≤ n.toNat then t.mem.past.length else s.hart.fenced })
    (hs : stores = true → t.mem.repl = []) (hl : stores = false → noStrip s → t.mem.repl =
      if ∃ u, u ∈ s.mem.repl ∧ u.hart = s.turn ∧ u.atomic = true then [] else s.mem.repl) :
    ∃ t, exec i s = .next t ∧ hartsSame s t ∧ stripStored s t ∧
      t.hart = stepped { s.hart with
        strip := [], used := 0
        fenced := if i = .fenAll n ∧ 4 ≤ n.toNat then t.mem.past.length else s.hart.fenced } 0 0 ∧
      (stores = true → t.mem.repl = []) ∧
      (noStrip s → memSame s t ∧ restSame s t ∧ (stores = false →
        t.mem.repl = if ∃ u, u ∈ s.mem.repl ∧ u.hart = s.turn ∧ u.atomic = true then [] else s.mem.repl)) :=
  ⟨t, he, hf.hartsSame, hf.stored, hf.hart, hs, fun hn => ⟨hf.memSame hn, hf.restSame hn, fun h => hl h hn⟩⟩

theorem Fenced.unmarked {s t : State} {i : Instr} {n : BitVec 3} (hf : Fenced s t (pastFence s.hart)) (hi : i ≠ .fenAll n) :
    Fenced s t { pastFence s.hart with fenced := if i = .fenAll n ∧ 4 ≤ n.toNat then t.mem.past.length else s.hart.fenced } := by
  rw [if_neg fun h => hi h.1]
  exact hf

/-- Settles O27: every fence commits the strip store by store and drops the REPL stores that it covers; fen.all marks the record besides. -/
theorem fencesAndPhase : Obligations.FencesAndPhase := by
  unfold Obligations.FencesAndPhase
  refine ⟨fun i stores s n hi hl => ?_, fun s d a _ => ⟨fun heven hreach hl => ?_, fenPhase_waits d⟩⟩
  · rcases hi with ⟨rfl, rfl⟩ | ⟨rfl, rfl⟩ | ⟨rfl, rfl⟩ | ⟨rfl, rfl⟩
    · obtain ⟨t, he, hf, hr⟩ := fenAll_of_stripLands hl n
      exact fences_claim he (by simpa using hf) (fun _ => hr) nofun
    · obtain ⟨hf, hr⟩ := fence_atomics hl
      exact fences_claim (t := fence (settleAtomics · s.turn) s) rfl (hf.unmarked nofun) nofun fun _ => hr
    · obtain ⟨hf, hr⟩ := fence_drain hl
      exact fences_claim (t := fence State.drainRepl s) rfl (hf.unmarked nofun) (fun _ => hr) nofun
    · obtain ⟨hf, hr⟩ := fence_drain hl
      exact fences_claim (t := fence State.drainRepl s) rfl (hf.unmarked nofun) (fun _ => hr) nofun
  · obtain ⟨t, he, hf, hr⟩ := fenPhase_of_stripLands d hl heven hreach
    exact ⟨t, he, hf.hartsSame, hf.stored, hf.hart, hr, fun hn => ⟨hf.memSame hn, hf.restSame hn⟩⟩

end Sys2Proof.Machine.Claim
end

section
/-! ## A plinth that fails, and a stack that is dropped (O58)

A message goes to the host's ring and, where a partition has named one, to its device ring, which lies in device memory: `Messaged`
says what that leaves. -/

namespace Sys2Proof.Machine.Claim
open Sys2Proof.Machine
set_option Elab.async false

/-! ### What a write of device memory leaves -/

theorem writeUnit_rest {m m' : MemSys} {part a : Nat} {enc : Bool} {bytes : List Byte} (h : writeUnit m part enc a bytes = .ok m') :
    MemSys.rest m' = MemSys.rest m := by
  unfold writeUnit at h
  simp only at h
  split at h
  · split at h <;> cases h
    rfl
  · split at h <;> cases h
    rfl
  · cases h
    rfl
  · cases h
    rfl
  · cases h
    rfl

theorem devWrite_rest {m m' : MemSys} {part a : Nat} {enc : Bool} {bytes : List Byte} (h : devWrite m part enc a bytes = .ok m') :
    MemSys.rest m' = MemSys.rest m := by
  have units : ∀ (l : List (Nat × Nat)) {m : MemSys}, writeUnits part enc a bytes l m = .ok m' → MemSys.rest m' = MemSys.rest m := by
    intro l
    induction l with
    | nil =>
      intro m h
      cases h
      rfl
    | cons p rest ih =>
      intro m h
      unfold writeUnits at h
      split at h
      · cases h
      · next hunit => exact (ih h).trans (writeUnit_rest hunit)
  exact units _ h

/-! ### Messages that reach no doorbell (R417, R418) -/

/-- What messages leave: harts, tasks and cores, the retirement registers, the rings' places; device memory where no partition has a ring
there. -/
structure Messaged (s t : State) : Prop where
  frame : ∃ m ps l f w, t = { s with mem := m, parts := ps, noted := l, free := f, stew := w }
  rest : MemSys.rest t.mem = MemSys.rest s.mem
  rings : ∀ p, (t.partAt p).dmbase = (s.partAt p).dmbase ∧ (t.partAt p).dmfut = (s.partAt p).dmfut
  dev : (∀ p, (s.partAt p).dmbase = 0) → t.mem.dev = s.mem.dev

theorem Messaged.refl (s : State) : Messaged s s := ⟨⟨_, _, _, _, _, rfl⟩, rfl, fun _ => ⟨rfl, rfl⟩, fun _ => rfl⟩

theorem Messaged.trans {s t u : State} (a : Messaged s t) (b : Messaged t u) : Messaged s u where
  frame := by
    obtain ⟨_, _, _, _, _, rfl⟩ := a.frame
    obtain ⟨_, _, _, _, _, rfl⟩ := b.frame
    exact ⟨_, _, _, _, _, rfl⟩
  rest := b.rest.trans a.rest
  rings p := by
    obtain ⟨hb, hf⟩ := a.rings p
    obtain ⟨hb', hf'⟩ := b.rings p
    exact ⟨hb'.trans hb, hf'.trans hf⟩
  dev h := (b.dev fun p => (a.rings p).1.trans (h p)).trans (a.dev h)

/-- A register that no message touches. -/
theorem Messaged.same {α : Type} {s t : State} (h : Messaged s t) (f : MemSys → α) (hf : ∀ m, f (MemSys.rest m) = f m) :
    f t.mem = f s.mem := (hf _).symm.trans ((congrArg f h.rest).trans (hf _))

theorem Messaged.maps {s t : State} (h : Messaged s t) (hm : mapsAgree s) : mapsAgree t := by
  rw [mapsAgree, h.same MemSys.phase fun _ => rfl, h.same MemSys.was fun _ => rfl]
  exact hm

theorem Messaged.harts {s t : State} (h : Messaged s t) : t.harts = s.harts := by
  obtain ⟨_, _, _, _, _, rfl⟩ := h.frame
  rfl

theorem Messaged.tasks {s t : State} (h : Messaged s t) : t.tasks = s.tasks := by
  obtain ⟨_, _, _, _, _, rfl⟩ := h.frame
  rfl

/-- A partition's entry that keeps its ring. -/
theorem messaged_setPartAt {s : State} {p : Nat} {x : Partition} (hb : x.dmbase = (s.partAt p).dmbase)
    (hf : x.dmfut = (s.partAt p).dmfut) : Messaged s (s.setPartAt p x) where
  frame := ⟨_, _, _, _, _, rfl⟩
  rest := rfl
  rings q := by
    by_cases hq : q = p
    · subst hq
      rw [State.partAt_setPartAt_self]
      exact ⟨hb, hf⟩
    · rw [State.partAt_setPartAt_of_ne _ _ hq]
      exact ⟨rfl, rfl⟩
  dev _ := rfl

theorem messaged_host (s : State) (host : Memory) : Messaged s { s with mem := { s.mem with host := host } } :=
  ⟨⟨_, _, _, _, _, rfl⟩, rfl, fun _ => ⟨rfl, rfl⟩, fun _ => rfl⟩

theorem messaged_sendHost (s : State) (part : Nat) (msg : List Byte) (isKill : Bool) : Messaged s (sendHost s part msg isKill) := by
  simp only [sendHost]
  split
  · exact .refl s
  · split
    · exact (messaged_host s _).trans (messaged_setPartAt rfl rfl)
    · split <;> exact messaged_setPartAt rfl rfl

/-- With no move under way the steward finds its ring without a step of the walk (R94). -/
theorem findRing_idle {s t : State} {part pa : Nat} {p : Place} (hm : mapsAgree s) (h : findRing s part pa = .ok (p, t)) : t = s := by
  obtain ⟨hphase, hwas⟩ := hm
  simp only [findRing, reachTables2_idle hphase hwas, reach_idle hphase hwas] at h
  split at h
  · cases h
  · cases h
  · split at h
    · cases h
    · split at h
      · cases h
      · cases h
        rfl

/-- The write of one message to a device ring (R418). -/
theorem messaged_ring {s : State} {part pa : Nat} (msg : List Byte) (hm : mapsAgree s) (hd : ∃ p, (s.partAt p).dmbase ≠ 0) :
    Messaged s (s.attempt do
      let (q, s) ← findRing s part pa
      writeAt s part q 0 msg) := by
  cases hfind : findRing s part pa with
  | error st => exact ⟨⟨_, _, _, _, _, rfl⟩, rfl, fun _ => ⟨rfl, rfl⟩, fun _ => rfl⟩
  | ok r =>
    obtain ⟨q, t⟩ := r
    obtain rfl := findRing_idle hm hfind
    change Messaged t (t.attempt (writeAt t part q 0 msg))
    unfold writeAt
    cases hw : devWrite t.mem part q.enc (q.devAddr + 0) msg with
    | error st => exact ⟨⟨_, _, _, _, _, rfl⟩, rfl, fun _ => ⟨rfl, rfl⟩, fun _ => rfl⟩
    | ok m =>
      obtain ⟨p, hp⟩ := hd
      exact ⟨⟨_, _, _, _, _, rfl⟩, devWrite_rest hw, fun _ => ⟨rfl, rfl⟩, fun h => absurd (h p) hp⟩

theorem messaged_sendDevice {s : State} {part : Nat} (msg : List Byte) (isKill : Bool) (hm : mapsAgree s)
    (hf : (s.partAt part).dmbase = 0 ∨ (s.partAt part).dmfut = 0) : Messaged s (sendDevice s part msg isKill) := by
  simp only [sendDevice]
  split
  · exact .refl s
  next hbase =>
    have hfut := hf.resolve_left hbase
    split
    · have hring := messaged_ring (part := part) (pa := (s.partAt part).dmbase + (s.partAt part).dmhead * 64) msg hm ⟨part, hbase⟩
      unfold putDevice
      extract_lets pa t p u
      have hput : Messaged s u := hring.trans (messaged_setPartAt rfl rfl)
      have hzero : p.dmfut = 0 := (hring.rings part).2.trans hfut
      rw [if_pos hzero]
      exact hput
    · split <;> exact messaged_setPartAt rfl rfl

theorem messaged_send {s : State} {part : Nat} (msg : List Byte) (isKill : Bool) (hm : mapsAgree s)
    (hf : (s.partAt part).dmbase = 0 ∨ (s.partAt part).dmfut = 0) : Messaged s (send s part msg isKill) := by
  have hhost := messaged_sendHost s part msg isKill
  obtain ⟨hb, hd⟩ := hhost.rings part
  exact hhost.trans (messaged_sendDevice msg isKill (hhost.maps hm) (by rwa [hb, hd]))

/-- The health message to every partition (R424). -/
theorem messaged_sendHealth {s : State} (hm : mapsAgree s) (hf : ∀ p, p < 4 → (s.partAt p).dmbase = 0 ∨ (s.partAt p).dmfut = 0) :
    Messaged s (sendHealth s) := by
  have step : ∀ (l : List Nat) (msg : List Byte) (t : State), (∀ p, p ∈ l → p < 4) → Messaged s t →
      Messaged s (l.foldl (fun u p => send u p msg false) t) := by
    intro l msg
    induction l with
    | nil => exact fun t _ h => h
    | cons p l ih =>
      intro t hl h
      obtain ⟨hb, hd⟩ := h.rings p
      refine ih _ (fun q hq => hl q (List.mem_cons_of_mem p hq)) (h.trans (messaged_send msg false (h.maps hm) ?_))
      rw [hb, hd]
      exact hf p (hl p List.mem_cons_self)
  exact step _ _ _ (fun p hp => (mem_liveParts.1 hp).1) ⟨⟨_, _, _, _, _, rfl⟩, rfl, fun _ => ⟨rfl, rfl⟩, fun _ => rfl⟩

/-! ### PLINTH_FAILING (R86) -/

/-- The stacks that wait once another one has asked. -/
def waiting (m : MemSys) (x : Nat) : List Nat :=
  if m.live.testBit x = true ∧ x ∉ m.queued ∧ m.leaving ≠ some x then m.queued ++ [x] else m.queued

theorem queueStack_eq (s : State) (x : Nat) : queueStack s x = { s with mem := { s.mem with queued := waiting s.mem x } } := by
  have hcond : (s.mem.live.testBit x && !s.mem.queued.contains x && s.mem.leaving != some x) = true ↔
      s.mem.live.testBit x = true ∧ x ∉ s.mem.queued ∧ s.mem.leaving ≠ some x := by
    simp [and_assoc]
  unfold queueStack waiting
  split
  · next h => rw [if_pos (hcond.1 h)]
  · next h => rw [if_neg (mt hcond.2 h)]

/-- The flags of a plinth, before anyone is told. -/
def flaggedPlinth (s : State) (x : Nat) : State :=
  { s with mem := { s.mem with failing := s.mem.failing ||| 2 ^ x, reported := s.mem.reported ||| 2 ^ x } }

/-- The machine once a raised flag is reported: a new one is told to everyone (R86, R424). -/
def reported (s : State) (x : Nat) : State :=
  if s.mem.failing.testBit x = true then flaggedPlinth s x else sendHealth (flaggedPlinth s x)

theorem raiseFailing_eq_reported (s : State) (x : Nat) :
    raiseFailing s x = if 2 ≤ liveCount (reported s x) then queueStack (reported s x) x else reported s x := rfl

theorem messaged_reported {s : State} (x : Nat) (hm : mapsAgree s)
    (hf : ∀ p, p < 4 → (s.partAt p).dmbase = 0 ∨ (s.partAt p).dmfut = 0) : Messaged (flaggedPlinth s x) (reported s x) := by
  unfold reported
  split
  · exact .refl _
  · exact messaged_sendHealth hm hf

/-- A flag raised: the plinth is marked, everyone is told, and the stack waits where another one lives. -/
theorem raiseFailing_eq {s : State} (x : Nat) (hm : mapsAgree s) (hf : ∀ p, p < 4 → (s.partAt p).dmbase = 0 ∨ (s.partAt p).dmfut = 0) :
    raiseFailing s x = { reported s x with mem := { (reported s x).mem with
      queued := if 2 ≤ liveCount s then waiting s.mem x else s.mem.queued } } := by
  have hmsg := messaged_reported x hm hf
  have hlive : (reported s x).mem.live = s.mem.live := hmsg.same MemSys.live fun _ => rfl
  have hqueued : (reported s x).mem.queued = s.mem.queued := hmsg.same MemSys.queued fun _ => rfl
  have hleaving : (reported s x).mem.leaving = s.mem.leaving := hmsg.same MemSys.leaving fun _ => rfl
  have hcount : liveCount (reported s x) = liveCount s := congrArg (popcount · 8) hlive
  have hwait : waiting (reported s x).mem x = waiting s.mem x := by simp only [waiting, hlive, hqueued, hleaving]
  rw [raiseFailing_eq_reported, hcount, queueStack_eq, hwait]
  split
  · rfl
  · rw [← hqueued]

/-- PLINTH_FAILING, in the words of the claim. -/
theorem plinthFailing_leaves {s : State} (x : Fin 8) (hm : mapsAgree s)
    (hf : ∀ p, p < 4 → (s.partAt p).dmbase = 0 ∨ (s.partAt p).dmfut = 0) :
    ∃ t, exec (.plinthFailing x) s = .next t ∧ t.mem.failing = s.mem.failing ||| 2 ^ x.val ∧
      t.mem.reported = s.mem.reported ||| 2 ^ x.val ∧ t.harts = s.harts ∧ t.tasks = s.tasks ∧
      (∀ b, byteAt t (.dev b) = byteAt s (.dev b) ∨ ∃ p, (s.partAt p).dmbase ≠ 0) ∧
      t.mem.queued = if 2 ≤ liveCount s ∧ s.mem.live.testBit x.val = true ∧ x.val ∉ s.mem.queued ∧ s.mem.leaving ≠ some x.val then
        s.mem.queued ++ [x.val] else s.mem.queued := by
  have hmsg := messaged_reported x.val hm hf
  refine ⟨_, congrArg Host.Outcome.next (raiseFailing_eq x.val hm hf), hmsg.same MemSys.failing fun _ => rfl,
    hmsg.same MemSys.reported fun _ => rfl, hmsg.harts, hmsg.tasks, fun b => ?_, ?_⟩
  · by_cases hd : ∃ p, (s.partAt p).dmbase ≠ 0
    · exact .inr hd
    · exact .inl (congrArg (Memory.read1 · b) (hmsg.dev fun p => not_not.1 fun hp => hd ⟨p, hp⟩))
  · dsimp only
    rw [ite_and, waiting]

/-! ### RETIRE_DROP (R87, R88) -/

/-- The registers of a dropped stack (R81, R83). -/
def droppedRegs (s : State) (x : Nat) : MemSys :=
  { s.mem with
    cap := (liveCount s - 1) * Config.granulesPerStack, queued := s.mem.queued.tail, leaving := some x, returned := 0
    front := (liveCount s - 1) * Config.granulesPerStack, dropAt := s.reftime }

theorem setRegs_eq (s : State) (m : MemSys) :
    ∃ version was, s.setRegs m = { s with mem := { m with version := version, was := was } } := by
  simp only [State.setRegs]
  split
  · exact ⟨_, _, rfl⟩
  · exact ⟨_, _, rfl⟩

theorem mayDrop_iff (s : State) (x : Nat) : mayDrop s x = true ↔ s.mem.queued.head? = some x ∧ s.mem.leaving = none ∧ s.mem.phase % 2 = 0 ∧
    2 ≤ liveCount s ∧ s.stew.replay = false := by
  simp [mayDrop, and_assoc]

theorem length_noticeBody (s : State) (x : Nat) {rs : List (Nat × Nat)} (more : Bool) (h : rs.length ≤ 4) :
    (noticeBody s x rs more).length = 56 := by
  have hranges : (rs.flatMap fun r => leBytes 8 (r.1 % 2 ^ 36 * 2 ^ 28 + r.2)).length = 8 * rs.length := by
    simp [List.length_flatMap, Nat.mul_comm]
  simp only [noticeBody, List.length_append, length_leBytes, hranges, List.length_replicate]
  omega

/-- The fields of a notice (R417). -/
theorem noticeBody_fields {s : State} {x : Nat} {rs : List (Nat × Nat)} (hx : x < 8) (h : rs.length ≤ 4) (hc : s.mem.cap < 2 ^ 40)
    (hp : s.mem.phase < 2 ^ 32) :
    ∀ f, f ∈ [(0, 1, x), (1, 1, rs.length), (2, 1, 0), (8, 8, s.mem.cap * 4096), (16, 4, s.mem.phase)] →
      f.1 + f.2.1 ≤ (noticeBody s x rs false).length ∧ field (noticeBody s x rs false) f.1 f.2.1 = f.2.2 := by
  simp only [List.forall_mem_cons, length_noticeBody s x false h]
  simp only [noticeBody, List.append_assoc]
  simp
  omega

/-- The one notice of a partition of which the band holds at most four ranges. -/
theorem notices_of_few (s : State) (x : Nat) {rs : List (Nat × Nat)} (h : rs.length ≤ 4) :
    notices s x (rs.length / 4 + 1) rs = [message 1 (noticeBody s x rs false)] := by
  have hmore : ¬ 4 < rs.length := by omega
  simp [notices, hmore, List.take_of_length_le h]

theorem told_of_same {s u t : State} {p kind : Nat} {fields : List (Nat × Nat × Nat)} (hparts : u.parts = s.parts) (hsame : memSame s u)
    (h : told u t p kind fields) : told s t p kind fields := by
  have hpart : u.partAt p = s.partAt p := by rw [State.partAt, hparts, State.partAt]
  simp only [told, ringSlot, hpart, hparts] at h ⊢
  obtain ⟨hkind, hfields, hout, hset⟩ := h
  exact ⟨hkind, hfields, fun x hx ho => (hout x hx ho).trans (hsame x hx), hset⟩

/-- The machine whose registers the drop has set, before anyone is told (R87). -/
def dropped (s : State) (x : Nat) : State := s.setRegs (droppedRegs s x)

theorem dropped_eq (s : State) (x : Nat) :
    ∃ version was, dropped s x = { s with mem := { droppedRegs s x with version := version, was := was } } := setRegs_eq s _

/-- RETIRE_DROP tells each partition of the ranges that it holds in the band. -/
theorem retireDrop_tells {s : State} {x : Fin 8} (h : mayDrop s x.val = true) : exec (.retireDrop x) s =
    .next ((liveParts (dropped s x.val)).foldl (fun t p =>
      (notices t x.val ((bandRanges s p ((liveCount s - 1) * Config.granulesPerStack * 4096) (s.mem.cap * 4096)).length / 4 + 1)
        (bandRanges s p ((liveCount s - 1) * Config.granulesPerStack * 4096) (s.mem.cap * 4096))).foldl
          (fun t m => send t p m false) t) (dropped s x.val)) :=
  congrArg Host.Outcome.next (if_neg (by rw [h]; decide))

theorem retireDrop_idle {s : State} {x : Fin 8} (h : ¬ mayDrop s x.val = true) : exec (.retireDrop x) s = .next s :=
  congrArg Host.Outcome.next (if_pos (by simpa using h))

/-- The notice that partition 0 finds in its ring (R88, R417). -/
theorem retireDrop_told {s : State} {x : Fin 8} {rs : List (Nat × Nat)} (h : mayDrop s x.val = true) (hl : liveParts s = [0])
    (hr : ringReady s 0) (hfew : rs.length ≤ 4) (hcap : (liveCount s - 1) * Config.granulesPerStack < 2 ^ 40) (hphase : s.mem.phase < 2 ^ 32)
    (hrs : bandRanges s 0 ((liveCount s - 1) * Config.granulesPerStack * 4096) (s.mem.cap * 4096) = rs) :
    ∃ t, exec (.retireDrop x) s = .next t ∧ t.harts = s.harts ∧ t.tasks = s.tasks ∧
      t.mem.cap = (liveCount s - 1) * Config.granulesPerStack ∧ t.mem.leaving = some x.val ∧ t.mem.queued = s.mem.queued.tail ∧
      told s t 0 1 [(0, 1, x.val), (1, 1, rs.length), (2, 1, 0), (8, 8, (liveCount s - 1) * Config.granulesPerStack * 4096),
        (16, 4, s.mem.phase)] := by
  obtain ⟨version, was, hd⟩ := dropped_eq s x.val
  have hexec := retireDrop_tells h
  rw [hd] at hexec
  generalize hu : ({ s with mem := { droppedRegs s x.val with version := version, was := was } } : State) = u at hexec
  have hlive : liveParts u = [0] := by rw [← hu]; exact hl
  have hring : ringReady u 0 := by rw [← hu]; exact hr
  have hsame : memSame s u := fun y hy => byteAt_of_memories s u (by rw [← hu]; rfl) (by rw [← hu]; rfl) (by rw [← hu]; rfl) (by rw [← hu]) hy
  have hcap' : u.mem.cap = (liveCount s - 1) * Config.granulesPerStack := by rw [← hu]; rfl
  have hphase' : u.mem.phase = s.mem.phase := by rw [← hu]; rfl
  have htold := told_putHost (s := u) (p := 0) (kind := 1) (by decide) (length_noticeBody u x.val false hfew).le
    (noticeBody_fields x.isLt hfew (hcap'.symm ▸ hcap) (hphase'.symm ▸ hphase))
  rw [hcap', hphase'] at htold
  refine ⟨putHost u 0 (message 1 (noticeBody u x.val rs false)), ?_, ?_, ?_, hcap', ?_, ?_, told_of_same (by rw [← hu]) hsame htold⟩
  · simp only [hexec, hlive, List.foldl_cons, List.foldl_nil, hrs, notices_of_few u x.val hfew, send_of_ringReady hring]
  · rw [← hu]; rfl
  · rw [← hu]; rfl
  · rw [← hu]; rfl
  · rw [← hu]; rfl

end Sys2Proof.Machine.Claim
end

section
/-! ## The band is emptied, and the walk (O58) -/

namespace Sys2Proof.Machine.Claim
open Sys2Proof.Machine
set_option Elab.async false

/-! ### A partition gives the band back (R88) -/

/-- An access table cut off at a ceiling covers what it covered below it. -/
theorem covered_cutRanges {top x : Nat} (rs : List (Nat × Nat)) : (∃ r, r ∈ cutRanges top rs ∧ r.1 ≤ x ∧ x < r.1 + r.2) ↔
    x < top ∧ ∃ r, r ∈ rs ∧ r.1 ≤ x ∧ x < r.1 + r.2 := by
  simp only [cutRanges, List.mem_filterMap]
  constructor
  · rintro ⟨_, ⟨r, hr, hcut⟩, hlo, hhi⟩
    split at hcut
    · cases hcut
    · cases hcut
      dsimp only at hlo hhi
      exact ⟨by omega, r, hr, hlo, by omega⟩
  · rintro ⟨hx, r, hr, hlo, hhi⟩
    exact ⟨(r.1, min r.2 (top - r.1)), ⟨r, hr, if_neg (by omega)⟩, hlo, by dsimp only; omega⟩

/-- What a returned band leaves: the table cut off at CAP, and the return noted. -/
theorem giveBack_leaves (s : State) (part : Nat) : let t := giveBack s part
    t.mem.returned = s.mem.returned ||| 2 ^ part ∧
    t = { s with parts := Table.set s.parts part (t.partAt part), mem := { s.mem with returned := t.mem.returned } } ∧
    t.partAt part = { s.partAt part with ranges := (t.partAt part).ranges } ∧
    ∀ x, (∃ r, r ∈ (t.partAt part).ranges ∧ r.1 ≤ x ∧ x < r.1 + r.2) ↔
      x < s.mem.cap / 2 ^ 14 ∧ ∃ r, r ∈ (s.partAt part).ranges ∧ r.1 ≤ x ∧ x < r.1 + r.2 := by
  have hpart : (giveBack s part).partAt part = { s.partAt part with ranges := cutRanges (s.mem.cap / 2 ^ 14) (s.partAt part).ranges } :=
    Table.get_set_self _ _ _ _
  refine ⟨rfl, ?_, by rw [hpart], fun x => ?_⟩
  · rw [hpart]
    rfl
  · rw [hpart]
    exact covered_cutRanges _

/-- A partition that has yet to return the band of a stack that is leaving. -/
def mayReturn (s : State) (part : Nat) : Prop :=
  s.mem.leaving.isSome = true ∧ s.mem.phase % 2 = 0 ∧ (s.partAt part).live = true

theorem mayReturn_iff (s : State) (part : Nat) :
    (s.mem.leaving.isSome && s.mem.phase % 2 == 0 && (s.partAt part).live) = true ↔ mayReturn s part := by
  simp [mayReturn, and_assoc]

theorem rangeReturn_idle {s : State} {part : Fin 4} (h : ¬ mayReturn s part.val) : exec (.rangeReturn part) s = .next s :=
  congrArg Host.Outcome.next (if_neg (mt (mayReturn_iff s part.val).1 h))

theorem rangeReturn_returns {s : State} {part : Fin 4} (h : mayReturn s part.val) :
    exec (.rangeReturn part) s = .next (giveBack s part.val) :=
  congrArg Host.Outcome.next (if_pos ((mayReturn_iff s part.val).2 h))

theorem partitionDeadline_idle {s : State} {part : Fin 4} (h : ¬ mayReturn s part.val ∨ s.mem.returned.testBit part.val = true ∨
    s.reftime < s.mem.dropAt + s.mem.deadline) : exec (.partitionDeadline part) s = .next s := by
  refine congrArg Host.Outcome.next (if_neg fun hc => ?_)
  simp only [Bool.and_eq_true, beq_iff_eq, decide_eq_true_eq, Bool.not_eq_true', mayReturn] at hc h
  obtain ⟨⟨⟨⟨hl, ht⟩, hp⟩, hv⟩, hr⟩ := hc
  rcases h with h | h | h
  · exact h ⟨hl, hp, hv⟩
  · rw [hr] at h
    cases h
  · omega

theorem partitionDeadline_returns {s : State} {part : Fin 4} (h : mayReturn s part.val) (hr : s.mem.returned.testBit part.val = false)
    (ht : s.mem.dropAt + s.mem.deadline ≤ s.reftime) (hn : ∀ p, p ∈ s.tasks → p.2.part ≠ part.val) :
    exec (.partitionDeadline part) s = .next (giveBack s part.val) := by
  obtain ⟨hl, hp, hv⟩ := h
  refine congrArg Host.Outcome.next ((if_pos (by simp [hl, hp, hv, hr, ht])).trans ?_)
  rw [resetPartition_of_no_tasks hn]

/-! ### WALK_START (R89) -/

/-- Every partition has returned the band, and no walk is under way. -/
def mayWalk (s : State) : Prop := s.mem.phase % 2 = 0 ∧ ∀ p, p ∈ liveParts s → s.mem.returned.testBit p = true

theorem mayWalk_iff (s : State) :
    (s.mem.phase % 2 == 0 && (liveParts s).all s.mem.returned.testBit && !bandBusy s) = true ↔ mayWalk s ∧ bandBusy s = false := by
  simp [mayWalk, List.all_eq_true]

/-- The registers at the start of a walk (R82, R83, R89). -/
def walkRegs (s : State) (x : Nat) : MemSys :=
  { s.mem with
    phase := (s.mem.phase + 1) % 2 ^ 32, oldLive := s.mem.live, live := s.mem.live &&& (0xFF ^^^ 2 ^ x)
    step := 1, stage := 0, infl := 0, moved := [], front := (liveCount s - 1) * Config.granulesPerStack, replays := 0 }

theorem walkStart_idle {s : State} (h : s.mem.leaving = none ∨ ¬ mayWalk s ∨ bandBusy s = true) : exec .walkStart s = .next s := by
  refine congrArg Host.Outcome.next ?_
  split
  · next x hx =>
    refine if_neg fun hc => ?_
    obtain ⟨hw, hb⟩ := (mayWalk_iff s).1 hc
    rcases h with h | h | h
    · rw [hx] at h
      cases h
    · exact h hw
    · rw [hb] at h
      cases h
  · rfl

theorem walkStart_eq {s : State} {x : Nat} (hx : s.mem.leaving = some x) (hw : mayWalk s) (hb : bandBusy s = false) :
    exec .walkStart s = .next (s.setRegs (walkRegs s x)) := by
  refine congrArg Host.Outcome.next ?_
  rw [hx]
  exact if_pos ((mayWalk_iff s).2 ⟨hw, hb⟩)

/-- A stack leaves the live mask, and no other does. -/
theorem testBit_without (live : Nat) {x i : Nat} (hi : i < 8) : (live &&& (0xFF ^^^ 2 ^ x)).testBit i = (live.testBit i && i != x) := by
  have hff : (0xFF : Nat).testBit i = true := by
    rw [show (0xFF : Nat) = 2 ^ 8 - 1 from rfl, Nat.testBit_two_pow_sub_one]
    exact decide_eq_true hi
  rw [Nat.testBit_and, Nat.testBit_xor, hff, Nat.testBit_two_pow]
  by_cases h : x = i
  · subst h
    simp
  · simp [h, Ne.symm h]

/-! ### Moves (R90, R93) -/

/-- A front whose own granule has not moved stays. -/
theorem fallFront_stays (n : Nat) {front : Nat} {moved : List Nat} (h : front - 1 ∉ moved) : fallFront n (front, moved) = (front, moved) := by
  cases n with
  | zero => rfl
  | succ n =>
    rw [fallFront]
    exact if_neg fun hc => h (by simpa using hc.2)

/-- The front falls over the one granule that has moved. -/
theorem fallFront_one {front : Nat} (h : 0 < front) : fallFront 1 (front, [front - 1]) = (front - 1, []) := by
  simp [fallFront, h]

/-- The registers after a move that leaves the front at `r.1` and the granules `r.2` behind it (R90). -/
def movedRegs (m : MemSys) (g : Nat) (r : Nat × List Nat) : MemSys :=
  { m with
    bad := markCopied m.bad (· == g), front := r.1, moved := r.2, infl := m.infl - (m.front - r.1)
    step := if r.1 ≤ m.staged then 3 else m.step }

/-- A move of step 2 or 3, which ends the walk where the front has reached 0. -/
theorem moveDone_of_walk {s : State} (g : Nat) (h : s.mem.step ≠ 1) : let r := fallFront (s.mem.moved.length + 1) (s.mem.front, g :: s.mem.moved)
    moveDone s g = if r.1 = 0 then walkEnd ((noteCopied s (· == g)).setRegs (movedRegs s.mem g r))
      else (noteCopied s (· == g)).setRegs (movedRegs s.mem g r) := by
  simp only [moveDone, h, if_false]
  rfl

/-- What such a move leaves where the walk goes on. -/
theorem moved_eq (s : State) (g : Nat) (r : Nat × List Nat) : ∃ noted version was,
    (noteCopied s (· == g)).setRegs (movedRegs s.mem g r) =
      { s with noted := noted, mem := { movedRegs s.mem g r with version := version, was := was } } := by
  obtain ⟨l, hl⟩ := noteCopied_eq s (· == g)
  obtain ⟨version, was, h⟩ := setRegs_eq { s with noted := l } (movedRegs s.mem g r)
  exact ⟨l, version, was, by rw [hl, h]⟩

/-- The registers at the end of a walk (R93). -/
def endRegs (m : MemSys) : MemSys :=
  { m with
    phase := (m.phase + 1) % 2 ^ 32, oldLive := m.live, step := 0, infl := 0, stage := 0, moved := [], front := m.cap, leaving := none }

theorem walkEnd_eq (s : State) : ∃ version was, walkEnd s = { s with
    mem := { endRegs s.mem with version := version, was := was }
    stew := { s.stew with retiredStacks := match s.mem.leaving with
      | some x => s.stew.retiredStacks ||| 2 ^ x | none => s.stew.retiredStacks } } := by
  obtain ⟨version, was, h⟩ := setRegs_eq s (endRegs s.mem)
  refine ⟨version, was, ?_⟩
  have hend : walkEnd s = { s.setRegs (endRegs s.mem) with stew := { s.stew with
      retiredStacks := match s.mem.leaving with | some x => s.stew.retiredStacks ||| 2 ^ x | none => s.stew.retiredStacks } } := rfl
  rw [hend, h]

theorem memSame_of_moves {s t : State} (h : SameButTlb s t) (hc : t.cores = s.cores) : memSame s t := fun _ hx =>
  byteAt_of_memories s t h.mem.dev h.mem.host h.mem.peers hc hx

theorem replays_moveDone (s : State) (g : Nat) : (moveDone s g).mem.replays = s.mem.replays := by
  have regs : ∀ (u : State) (m : MemSys), (u.setRegs m).mem.replays = m.replays := fun u m => by
    obtain ⟨_, _, h⟩ := setRegs_eq u m
    rw [h]
  by_cases hs : s.mem.step = 1
  · simp only [moveDone, hs, if_true]
    split <;> exact regs _ _
  · rw [moveDone_of_walk g hs]
    split
    · obtain ⟨_, _, h⟩ := walkEnd_eq ((noteCopied s (· == g)).setRegs
        (movedRegs s.mem g (fallFront (s.mem.moved.length + 1) (s.mem.front, g :: s.mem.moved))))
      rw [h]
      exact regs _ _
    · exact regs _ _

/-- No move touches a hart or a byte that a program can name (R92). -/
theorem moveDone_keeps (s : State) (g : Nat) :
    (moveDone s g).harts = s.harts ∧ memSame s (moveDone s g) ∧ (moveDone s g).mem.replays = s.mem.replays := by
  obtain ⟨_, _, _, h⟩ := moveDone_memOnly s g
  exact ⟨by rw [h], memSame_of_moves (moveDone_same s g) (by rw [h]), replays_moveDone s g⟩

/-- In step 1 the staging area takes the next granule, and the last one ends the step (R90). -/
theorem moveDone_of_staging {s : State} (h : s.mem.step = 1) (g : Nat) : (moveDone s g).mem.stage = s.mem.stage + 1 ∧
    (moveDone s g).mem.front = s.mem.front ∧ (moveDone s g).mem.phase = s.mem.phase ∧
    (moveDone s g).mem.step = if s.mem.stage + 1 < s.mem.staged then 1 else 2 := by
  have hdone : moveDone s g = if s.mem.stage + 1 < s.mem.staged then
      (noteCopied s (· == g)).setRegs { s.mem with stage := s.mem.stage + 1 }
    else (noteCopied s (· == g)).setRegs
      { s.mem with stage := s.mem.stage + 1, step := 2, bad := markCopied s.mem.bad (· < s.mem.staged) } := if_pos h
  rw [hdone]
  split
  · obtain ⟨_, _, hm⟩ := setRegs_mem (noteCopied s (· == g)) { s.mem with stage := s.mem.stage + 1 }
    rw [hm]
    exact ⟨rfl, rfl, rfl, h⟩
  · obtain ⟨_, _, hm⟩ := setRegs_mem (noteCopied s (· == g))
      { s.mem with stage := s.mem.stage + 1, step := 2, bad := markCopied s.mem.bad (· < s.mem.staged) }
    rw [hm]
    exact ⟨rfl, rfl, rfl, rfl⟩

theorem mem_flying {m : MemSys} {n g : Nat} : g ∈ m.flying n ↔ ∃ off, off < n ∧ g = m.front - 1 - off ∧ g ∉ m.moved := by
  simp only [MemSys.flying, List.mem_filter, List.mem_map, List.mem_range]
  constructor
  · rintro ⟨⟨off, hoff, rfl⟩, hmoved⟩
    exact ⟨off, hoff, rfl, by simpa using hmoved⟩
  · rintro ⟨off, hoff, rfl, hmoved⟩
    exact ⟨⟨off, hoff, rfl⟩, by simpa using hmoved⟩

/-- The walker with its moves in flight, of which one is about to end. -/
def inFlight (s : State) (n : Nat) : State := { s.setRegs { s.mem with infl := n } with free := s.free + 1 }

theorem inFlight_eq (s : State) (n : Nat) :
    ∃ version was, inFlight s n = { s with free := s.free + 1, mem := { s.mem with infl := n, version := version, was := was } } := by
  obtain ⟨version, was, h⟩ := setRegs_eq s { s.mem with infl := n }
  exact ⟨version, was, by rw [inFlight, h]⟩

/-- GRANULE_MOVE in steps 2 and 3: with no move in flight nothing, else the end of one of them. -/
theorem granuleMove_of_walk {s : State} (hp : s.mem.phase % 2 = 1) (hs : s.mem.step ≠ 1) :
    let n := s.mem.window (Config.movesStarted s.free)
    (s.mem.flying n = [] ∧ exec .granuleMove s = .next s) ∨
      ∃ g, g ∈ s.mem.flying n ∧ exec .granuleMove s = .next (moveDone (inFlight s n) g) := by
  intro n
  have hexec : exec .granuleMove s = .next (match (s.mem.flying n)[Config.moveEnding s.free % (s.mem.flying n).length]? with
      | some g => moveDone (inFlight s n) g | none => s) := by
    refine congrArg Host.Outcome.next ?_
    rw [if_neg (by omega), if_neg hs]
    rfl
  by_cases hnil : s.mem.flying n = []
  · refine .inl ⟨hnil, ?_⟩
    rw [hexec, hnil]
    rfl
  · have hlt := Nat.mod_lt (Config.moveEnding s.free) (List.length_pos_iff.2 hnil)
    refine .inr ⟨_, List.getElem_mem hlt, ?_⟩
    rw [hexec, List.getElem?_eq_getElem hlt]

/-- What the end of a move in flight leaves of the registers. -/
theorem move_ends {s : State} {g : Nat} (hs : s.mem.step ≠ 1) (n : Nat) (t : State) (ht : t = moveDone (inFlight s n) g) :
    (g ≠ s.mem.front - 1 → s.mem.front ≠ 0 → s.mem.front - 1 ∉ s.mem.moved →
      t.mem.front = s.mem.front ∧ t.mem.infl = n ∧ g ∈ t.mem.moved) ∧
    (g = s.mem.front - 1 → s.mem.moved = [] → 1 < s.mem.front → t.mem.front = s.mem.front - 1 ∧
      t.mem.phase = s.mem.phase ∧ t.mem.infl = n - 1 ∧ t.mem.leaving = s.mem.leaving ∧
      t.mem.step = if s.mem.front - 1 ≤ s.mem.staged then 3 else s.mem.step) ∧
    (g = s.mem.front - 1 → s.mem.front = 1 → s.mem.moved = [] → t.mem.phase = (s.mem.phase + 1) % 2 ^ 32 ∧
      t.mem.oldLive = s.mem.live ∧ t.mem.step = 0 ∧ t.mem.stage = 0 ∧ t.mem.front = s.mem.cap ∧ t.mem.leaving = none ∧
      ∀ x, s.mem.leaving = some x → t.stew.retiredStacks = s.stew.retiredStacks ||| 2 ^ x) := by
  obtain ⟨version, was, hu⟩ := inFlight_eq s n
  rw [hu] at ht
  have hdone := moveDone_of_walk (s := { s with free := s.free + 1, mem := { s.mem with infl := n, version := version, was := was } }) g hs
  dsimp only at hdone
  obtain ⟨noted, version', was', hmoved⟩ :=
    moved_eq { s with free := s.free + 1, mem := { s.mem with infl := n, version := version, was := was } } g
      (fallFront (s.mem.moved.length + 1) (s.mem.front, g :: s.mem.moved))
  rw [hmoved] at hdone
  refine ⟨fun hg h0 hfront => ?_, fun hg hnone hlt => ?_, fun hg hone hnone => ?_⟩
  · have hstay : fallFront (s.mem.moved.length + 1) (s.mem.front, g :: s.mem.moved) = (s.mem.front, g :: s.mem.moved) :=
      fallFront_stays _ (by simp [Ne.symm hg, hfront])
    rw [hstay, if_neg h0] at hdone
    rw [ht, hdone]
    exact ⟨rfl, by simp [movedRegs], List.mem_cons_self⟩
  · have hfall : fallFront (s.mem.moved.length + 1) (s.mem.front, g :: s.mem.moved) = (s.mem.front - 1, []) := by
      rw [hnone, hg]
      exact fallFront_one (by omega)
    rw [hfall, if_neg (show ¬ s.mem.front - 1 = 0 by omega)] at hdone
    rw [ht, hdone]
    have hpos : s.mem.front - (s.mem.front - 1) = 1 := by omega
    exact ⟨rfl, rfl, congrArg (n - ·) hpos, rfl, rfl⟩
  · have hfall : fallFront (s.mem.moved.length + 1) (s.mem.front, g :: s.mem.moved) = (0, []) := by
      rw [hnone, hg, hone]
      exact fallFront_one Nat.one_pos
    rw [hfall, if_pos rfl] at hdone
    obtain ⟨_, _, hend⟩ := walkEnd_eq
      { s with free := s.free + 1, noted := noted
               mem := { movedRegs { s.mem with infl := n, version := version, was := was } g (0, []) with version := version', was := was' } }
    rw [hend] at hdone
    rw [ht, hdone]
    exact ⟨rfl, rfl, rfl, rfl, rfl, rfl, fun x hx => by simp only [movedRegs, hx]⟩

/-- The walker's choice of moves in flight touches no hart and no byte. -/
theorem inFlight_keeps (s : State) (n : Nat) :
    (inFlight s n).harts = s.harts ∧ memSame s (inFlight s n) ∧ (inFlight s n).mem.replays = s.mem.replays := by
  obtain ⟨_, _, h⟩ := inFlight_eq s n
  exact ⟨by rw [h], fun _ hx => byteAt_of_memories s (inFlight s n) (by rw [h]) (by rw [h]) (by rw [h]) (by rw [h]) hx, by rw [h]⟩

theorem granuleMove_stops {s : State} (h : s.mem.phase % 2 = 0) : exec .granuleMove s = .next s := congrArg Host.Outcome.next (if_pos h)

theorem granuleMove_of_staging {s : State} (hp : s.mem.phase % 2 = 1) (hs : s.mem.step = 1) :
    exec .granuleMove s = .next (moveDone s s.mem.stage) :=
  congrArg Host.Outcome.next ((if_neg (by omega)).trans (if_pos hs))

/-! ### The obligation -/

/-- What the start of a walk leaves, in the words of the claim. -/
theorem walkStart_leaves {s : State} {x : Nat} (hx : s.mem.leaving = some x) (hw : mayWalk s) (hb : bandBusy s = false) :
    ∃ t, exec .walkStart s = .next t ∧ t.mem.phase = (s.mem.phase + 1) % 2 ^ 32 ∧
      (∀ i, i < 8 → t.mem.live.testBit i = (s.mem.live.testBit i && i != x)) ∧ t.mem.oldLive = s.mem.live ∧ t.mem.step = 1 ∧
      t.mem.stage = 0 ∧ t.mem.infl = 0 ∧ t.mem.replays = 0 ∧ t.mem.front = (liveCount s - 1) * Config.granulesPerStack ∧
      t.harts = s.harts ∧ t.mem.dev = s.mem.dev ∧ t.mem.cap = s.mem.cap ∧ t.mem.leaving = some x := by
  obtain ⟨_, _, h⟩ := setRegs_eq s (walkRegs s x)
  refine ⟨_, walkStart_eq hx hw hb, ?_⟩
  rw [h]
  exact ⟨rfl, fun i hi => testBit_without _ hi, rfl, rfl, rfl, rfl, rfl, rfl, rfl, rfl, rfl, hx⟩

/-- Settles O58: each event by its own lemmas. -/
theorem retirementEvents : Obligations.RetirementEvents := by
  unfold Obligations.RetirementEvents
  refine ⟨fun s x => ⟨⟨_, rfl⟩, plinthFailing_leaves x,
      ⟨fun h => ?idle, fun h hn => ?quiet, fun rs h hl hr hfew hcap hphase hrs => ?told⟩, granuleMove_stops⟩,
    fun s part => ⟨fun h => ?_, fun h => ?_, fun h => ?_, fun h hr ht hn => ?_⟩,
    fun s => ⟨walkStart_idle, fun x hx hw hb _ => walkStart_leaves hx hw hb⟩, fun s hp => ?move⟩
  case idle => exact retireDrop_idle (mt (mayDrop_iff s x.val).1 h)
  case quiet => exact retireDrop_eq ((mayDrop_iff s x.val).2 h) hn
  case told => exact retireDrop_told ((mayDrop_iff s x.val).2 h) hl hr hfew hcap hphase hrs
  · exact ⟨rangeReturn_idle h, partitionDeadline_idle (.inl h)⟩
  · exact ⟨_, rangeReturn_returns h, giveBack_leaves s part.val⟩
  · exact partitionDeadline_idle (.inr h)
  · exact ⟨_, partitionDeadline_returns h hr ht hn, giveBack_leaves s part.val⟩
  case move =>
    intro low left window flying
    by_cases hs : s.mem.step = 1
    · obtain ⟨hharts, hsame, hreplays⟩ := moveDone_keeps s s.mem.stage
      exact ⟨_, granuleMove_of_staging hp hs, hharts, hsame, hreplays, fun _ => moveDone_of_staging hs _, absurd hs, absurd hs⟩
    · rcases granuleMove_of_walk hp hs with ⟨hnil, hexec⟩ | ⟨g, hg, hexec⟩
      · have hnone : ∀ g, ¬ flying g := fun g hg => List.not_mem_nil (hnil ▸ mem_flying.2 hg)
        exact ⟨s, hexec, rfl, fun _ _ => rfl, rfl, fun h => absurd h hs, fun _ _ => rfl, fun _ ⟨g, hg⟩ => absurd hg (hnone g)⟩
      · obtain ⟨hharts, hsame, hreplays⟩ := moveDone_keeps (inFlight s window) g
        obtain ⟨hharts', hsame', hreplays'⟩ := inFlight_keeps s window
        have hfly : flying g := mem_flying.1 hg
        obtain ⟨hinside, htop, hend⟩ := move_ends (g := g) hs window _ rfl
        have hzero : g ≠ s.mem.front - 1 → s.mem.front ≠ 0 := fun hne h0 => hne (by obtain ⟨off, -, hoff, -⟩ := hfly; omega)
        exact ⟨_, hexec, hharts.trans hharts', fun x hx => (hsame x hx).trans (hsame' x hx), hreplays.trans hreplays', fun h => absurd h hs,
          fun _ hno => absurd hfly (hno g), fun _ _ => ⟨g, hfly, fun hne => hinside hne (hzero hne), htop, hend⟩⟩

end Sys2Proof.Machine.Claim
end

section
/-! ## Management commands: the block, the checks and the answer (O60) -/

namespace Sys2Proof.Machine.Claim
open Sys2Proof.Machine
set_option Elab.async false

/-! ### An event of a command (R425) -/

/-- Whether an event's challenge carries both signatures of the vendor key. -/
def vendorOf (i : Instr) : Bool :=
  match i with
  | .unlock _ _ vendor => vendor
  | _ => false

theorem exec_takeCommand {i : Instr} {c : Command} {op : CmdOp} (hc : commandOf i = some c) (ha : asksFor i = some op) (s : State) :
    exec i s = .next (takeCommand s c op (vendorOf i)) := by
  cases i with
  | retire | partCreate | partDestroy | reset | quote | unlockChallenge | unlock | record =>
    cases hc
    cases ha
    rfl
  | _ => cases hc

theorem takeCommand_of_none_waiting {s : State} {c : Command} (hp : c.port = none) (hb : s.stew.cmdBusy = false) (op : CmdOp) (vendor : Bool) :
    takeCommand s c op vendor = s := by
  rw [takeCommand, if_pos (by rw [hp, hb]; rfl)]

theorem takeCommand_of_other {s : State} {c : Command} {op other : CmdOp} (h : parseCommand c s = some other) (hne : other ≠ op)
    (vendor : Bool) : takeCommand s c op vendor = s := by
  rw [takeCommand, h]
  simp only [if_neg hne, ite_self]

theorem logged_of_quiet {s : State} (h : s.stew.recording = false) (c : Command) (vendor : Bool) : takeCommand.logged c vendor s = s := by
  rw [takeCommand.logged]
  cases c.port with
  | none => rfl
  | some b => exact arrives_of_quiet h _

theorem takeCommand_of_arrived {s : State} {c : Command} {op : CmdOp} (ha : arrived s c)
    (hp : ∀ other, parseCommand c s = some other → other = op) (vendor : Bool) :
    takeCommand s c op vendor = runCommand s c vendor := by
  obtain ⟨hbusy, hrec⟩ := ha
  have hwaits : ¬ (c.port.isNone && !s.stew.cmdBusy) = true := by
    simp only [Bool.and_eq_true, Bool.not_eq_true', Option.isNone_iff_eq_none]
    rintro ⟨hn, hb⟩
    rw [hbusy hn] at hb
    cases hb
  rw [takeCommand, if_neg hwaits, logged_of_quiet hrec]
  cases h : parseCommand c s with
  | none => rfl
  | some other => exact if_pos (hp other h)

/-! ### The checks (R427) -/

theorem runCommand_malformed {s : State} {c : Command} (h : parseCommand c s = none) (vendor : Bool) :
    runCommand s c vendor = writeResult s c 3 [] := by
  rw [runCommand, h]

theorem runCommand_unsigned {s : State} {c : Command} {op : CmdOp} (h : parseCommand c s = some op) (hs : c.signed = false) (vendor : Bool) :
    runCommand s c vendor = writeResult s c 1 [] := by
  simp only [runCommand, h, hs]
  rfl

theorem runCommand_stale {s : State} {c : Command} {op : CmdOp} (h : parseCommand c s = some op) (hs : c.signed = true)
    (hq : cmdNum s c 8 8 ≤ s.stew.lastSeq) (vendor : Bool) : runCommand s c vendor = writeResult s c 2 [] := by
  have hq' : leNat (Machine.blockBytes c s 8 8) ≤ s.stew.lastSeq := hq
  simp only [runCommand, h, hs, if_pos hq']
  rfl

/-- What an accepted command leaves, and its result where it has one: in replay every command but QUOTE is refused. -/
def commandOutcome (op : CmdOp) (vendor : Bool) (a : State) : State × Option (List Byte) :=
  if a.stew.replay && !(match op with | .quote _ => true | _ => false) then (a, none) else runManaged op vendor a

theorem commandOutcome_of_live {a : State} (h : a.stew.replay = false) (op : CmdOp) (vendor : Bool) :
    commandOutcome op vendor a = runManaged op vendor a :=
  if_neg (by rw [h, Bool.false_and]; decide)

theorem commandOutcome_of_replay {a : State} {op : CmdOp} (h : a.stew.replay = true) (hn : ∀ n, op ≠ .quote n) (vendor : Bool) :
    commandOutcome op vendor a = (a, none) := by
  cases op with
  | quote n => exact (hn n rfl).elim
  | _ => exact if_pos (by rw [h]; rfl)

/-- The answer to a command that ran. -/
def writeOutcome (c : Command) (r : State × Option (List Byte)) : State :=
  match r.2 with
  | none => writeResult r.1 c 4 []
  | some result => writeResult r.1 c 0 result

/-- A command that passes its checks runs on the accepted state. -/
theorem runCommand_checked {s : State} {c : Command} {op : CmdOp} (h : parseCommand c s = some op) (hs : c.signed = true)
    (hq : s.stew.lastSeq < cmdNum s c 8 8) (vendor : Bool) :
    runCommand s c vendor = writeOutcome c (commandOutcome op vendor (accepted s c)) := by
  have hq' : ¬ leNat (Machine.blockBytes c s 8 8) ≤ s.stew.lastSeq := Nat.not_le.2 hq
  rw [runCommand, h]
  exact (if_neg (by rw [hs]; decide)).trans (if_neg hq')

/-! ### The answer (R427) -/

/-- Through the management port the block is the same in every state. -/
theorem blockBytes_of_port {c : Command} (h : c.port.isSome = true) (s t : State) (off n : Nat) :
    Machine.blockBytes c t off n = Machine.blockBytes c s off n := by
  obtain ⟨b, hb⟩ := Option.isSome_iff_exists.1 h
  simp only [Machine.blockBytes, hb]

theorem writeResult_of_port {c : Command} (h : c.port.isSome = true) (s t : State) (status : Nat) (result : List Byte) :
    writeResult t c status result = answered t (Machine.blockBytes c s 8 8) status result := by
  rw [← blockBytes_of_port h s t]
  obtain ⟨b, hb⟩ := Option.isSome_iff_exists.1 h
  simp only [writeResult, hb, answered, resultBlock, List.append_assoc]

theorem length_blockBytes_of_host {c : Command} (h : c.port = none) (s : State) (off n : Nat) : (Machine.blockBytes c s off n).length = n := by
  simp only [Machine.blockBytes, h, Memory.length_readBytes]

/-- Two writes side by side are one. -/
theorem read1_writeBytes_append (m : Memory) (a : Nat) (x y : List Byte) (k : Nat) :
    Memory.read1 (Memory.writeBytes (Memory.writeBytes m (a + x.length) y) a x) k = Memory.read1 (Memory.writeBytes m a (x ++ y)) k := by
  have hout : ∀ (l : List Byte) (b : Nat), b ≤ k → k < b + l.length → ∀ m, Memory.read1 (Memory.writeBytes m b l) k = l.getD (k - b) 0 := by
    intro l b h1 h2 m
    rw [← Memory.read1_writeBytes_at m b (k - b) l (by omega), Nat.add_sub_cancel' h1]
  by_cases hlo : k < a
  · rw [Memory.read1_writeBytes_outside _ _ _ _ (.inl hlo), Memory.read1_writeBytes_outside _ _ _ _ (.inl (by omega)),
      Memory.read1_writeBytes_outside _ _ _ _ (.inl hlo)]
  · by_cases hx : k < a + x.length
    · rw [hout x a (by omega) hx, hout (x ++ y) a (by omega) (by rw [List.length_append]; omega),
        List.getD_append _ _ _ _ (by omega)]
    · rw [Memory.read1_writeBytes_outside _ _ _ _ (.inr (by omega))]
      by_cases hy : k < a + x.length + y.length
      · rw [hout y _ (by omega) hy, hout (x ++ y) a (by omega) (by rw [List.length_append]; omega),
          List.getD_append_right _ _ _ _ (by omega), Nat.sub_sub]
      · rw [Memory.read1_writeBytes_outside _ _ _ _ (.inr (by omega)),
          Memory.read1_writeBytes_outside _ _ _ _ (.inr (by rw [List.length_append]; omega))]

theorem length_resultBlock_nil {seq : List Byte} (h : seq.length = 8) (status : Nat) : (resultBlock seq status []).length = 64 := by
  simp [resultBlock, h]

/-- On the host link the result lies in the host's memory, and no command is outstanding any more. -/
theorem writeResult_of_host {c : Command} (h : c.port = none) (s : State) (status : Nat) :
    (∀ k, k < 64 → byteAt (writeResult s c status []) (.host (cmdNum s c 16 8 + k)) =
      (resultBlock (Machine.blockBytes c s 8 8) status []).getD k 0) ∧
    memOutside s (writeResult s c status []) [(.host (cmdNum s c 16 8), 64)] ∧
    writeResult s c status [] = { s with
      mem := { s.mem with host := (writeResult s c status []).mem.host }, stew := { s.stew with cmdBusy := false } } := by
  have hseq := length_blockBytes_of_host h s 8 8
  have heq : writeResult s c status [] = { s with
      mem := { s.mem with host := (writeResult s c status []).mem.host }, stew := { s.stew with cmdBusy := false } } := by
    simp only [writeResult, h]
  have hread : ∀ k, Memory.read1 (writeResult s c status []).mem.host k =
      Memory.read1 (Memory.writeBytes s.mem.host (cmdNum s c 16 8) (resultBlock (Machine.blockBytes c s 8 8) status [])) k := by
    intro k
    rw [resultBlock, List.append_assoc, List.append_assoc, List.append_assoc, ← read1_writeBytes_append, hseq]
    simp only [writeResult, h, List.append_assoc]
    rfl
  have hlen := length_resultBlock_nil hseq status
  refine ⟨fun k hk => (hread _).trans (Memory.read1_writeBytes_at _ _ _ _ (by omega)), fun x hx hout => ?_, heq⟩
  cases x with
  | host a =>
    refine (hread a).trans (Memory.read1_writeBytes_outside _ _ _ _ ?_)
    by_contra hin
    exact hout _ List.mem_cons_self ⟨a - cmdNum s c 16 8, by omega, by simp [Loc.plus]; omega⟩
  | regs a => cases hx
  | dev a | remote p a | spad c o | sdm c o => rw [heq]; rfl

/-! ### How a command is answered -/

/-- The answer of a status without a result: a message of the management port, or a result block in the host's memory. -/
def Answers (i : Instr) (s : State) (c : Command) (status : Nat) : Prop :=
  (c.port.isSome = true → exec i s = .next (answered s (Machine.blockBytes c s 8 8) status [])) ∧
  (c.port = none → ∃ t, exec i s = .next t ∧
    (∀ k, k < 64 → byteAt t (.host (cmdNum s c 16 8 + k)) = (resultBlock (Machine.blockBytes c s 8 8) status []).getD k 0) ∧
    memOutside s t [(.host (cmdNum s c 16 8), 64)] ∧
    t = { s with mem := { s.mem with host := t.mem.host }, stew := { s.stew with cmdBusy := false } })

theorem answers_of_writeResult {i : Instr} {s : State} {c : Command} {status : Nat} (h : exec i s = .next (writeResult s c status [])) :
    Answers i s c status :=
  ⟨fun hp => by rw [h, writeResult_of_port hp s], fun hp => ⟨_, h, writeResult_of_host hp s status⟩⟩

theorem recording_accepted {s : State} {c : Command} {op : CmdOp} (h : good s c op) : (accepted s c).stew.recording = false := by
  obtain ⟨-, hrec, -⟩ := h
  exact hrec

section
variable {i : Instr} {s : State} {c : Command} {op : CmdOp} (hc : commandOf i = some c) (ha : asksFor i = some op)
include hc ha

theorem exec_command_of_arrived (harr : arrived s c) (hp : ∀ other, parseCommand c s = some other → other = op) :
    exec i s = .next (runCommand s c (vendorOf i)) := by
  rw [exec_takeCommand hc ha, takeCommand_of_arrived harr hp]

theorem command_malformed (harr : arrived s c) (h : parseCommand c s = none) : Answers i s c 3 :=
  answers_of_writeResult (by
    rw [exec_command_of_arrived hc ha harr fun other ho => (by rw [h] at ho; cases ho), runCommand_malformed h])

theorem command_unsigned (harr : arrived s c) (h : parseCommand c s = some op) (hs : c.signed = false) : Answers i s c 1 :=
  answers_of_writeResult (by
    rw [exec_command_of_arrived hc ha harr fun other ho => Option.some.inj (ho.symm.trans h), runCommand_unsigned h hs])

theorem command_stale (harr : arrived s c) (h : parseCommand c s = some op) (hs : c.signed = true) (hq : cmdNum s c 8 8 ≤ s.stew.lastSeq) :
    Answers i s c 2 :=
  answers_of_writeResult (by
    rw [exec_command_of_arrived hc ha harr fun other ho => Option.some.inj (ho.symm.trans h), runCommand_stale h hs hq])

theorem exec_good (h : good s c op) : exec i s = .next (runCommand s c (vendorOf i)) := by
  obtain ⟨hport, hrec, hp, -, -⟩ := h
  refine exec_command_of_arrived hc ha ⟨fun hn => ?_, hrec⟩ fun other ho => Option.some.inj (ho.symm.trans hp)
  rw [hn] at hport
  cases hport

theorem command_of_replay (h : good s c op) (hr : s.stew.replay = true) (hn : ∀ n, op ≠ .quote n) : exec i s = .next (refused s c) := by
  rw [exec_good hc ha h]
  obtain ⟨hport, -, hp, hs, hq⟩ := h
  rw [runCommand_checked hp hs hq, commandOutcome_of_replay (show (accepted s c).stew.replay = true from hr) hn]
  exact congrArg Host.Outcome.next (writeResult_of_port hport s _ 4 [])

/-- A good command that the device's state lets run is answered with its result. -/
theorem command_answered (h : good s c op) (hr : s.stew.replay = false) {t : State} {result : List Byte}
    (hrun : runManaged op (vendorOf i) (accepted s c) = (t, some result)) :
    exec i s = .next (answered t (Machine.blockBytes c s 8 8) 0 result) := by
  rw [exec_good hc ha h]
  obtain ⟨hport, -, hp, hs, hq⟩ := h
  rw [runCommand_checked hp hs hq, commandOutcome_of_live (show (accepted s c).stew.replay = false from hr), hrun]
  exact congrArg Host.Outcome.next (writeResult_of_port hport s _ _ _)

/-- A good command that the device's state refuses. -/
theorem command_refused (h : good s c op) (hr : s.stew.replay = false) {t : State}
    (hrun : runManaged op (vendorOf i) (accepted s c) = (t, none)) :
    exec i s = .next (answered t (Machine.blockBytes c s 8 8) 4 []) := by
  rw [exec_good hc ha h]
  obtain ⟨hport, -, hp, hs, hq⟩ := h
  rw [runCommand_checked hp hs hq, commandOutcome_of_live (show (accepted s c).stew.replay = false from hr), hrun]
  exact congrArg Host.Outcome.next (writeResult_of_port hport s _ _ _)

end

end Sys2Proof.Machine.Claim
end

section
/-! ## What a command block asks for (O60) -/

namespace Sys2Proof.Machine.Claim
open Sys2Proof.Machine
set_option Elab.async false

/-- The operation of an opcode, by its payload (R426). -/
def payloadOp (c : Command) (s : State) (opcode plen : Nat) : Option CmdOp :=
  let num := cmdNum s c
  match opcode with
  | 1 => if plen = 8 ∧ num 64 1 < 8 ∧ num 65 7 = 0 then some (.retire (num 64 1)) else none
  | 2 => partOp num plen
  | 3 => if plen = 8 ∧ num 64 1 < 4 ∧ num 65 7 = 0 then some (.reset (num 64 1)) else none
  | 4 => if plen = 32 then some (.quote (Machine.blockBytes c s 64 32)) else none
  | 5 => if plen = 0 then some .challenge else if plen = 16640 then some (.unlock (Machine.blockBytes c s 64 32)) else none
  | 6 => if plen = 0 then some .record else none
  | _ => none

/-- What makes a block malformed whatever its opcode (R427 step 1). -/
def blockBad (c : Command) (s : State) : Bool :=
  cmdNum s c 2 2 != 0 || cmdNum s c 24 40 != 0 || decide (16640 < cmdNum s c 4 4) ||
    !(match c.port with | some b => decide (64 + cmdNum s c 4 4 ≤ b.length) | none => cmdNum s c 16 8 % 64 == 0)

theorem parseCommand_eq (c : Command) (s : State) :
    parseCommand c s = if blockBad c s then none else payloadOp c s (cmdNum s c 0 2) (cmdNum s c 4 4) := rfl

theorem payloadOp_of_no_opcode {opcode : Nat} (h : opcode ∉ [1, 2, 3, 4, 5, 6]) (c : Command) (s : State) (plen : Nat) :
    payloadOp c s opcode plen = none := by
  match opcode with
  | 0 => rfl
  | 1 | 2 | 3 | 4 | 5 | 6 => exact (h (by decide)).elim
  | n + 7 => rfl

/-- A block with reserved bytes that are not zero, or with another opcode, is malformed. -/
theorem parseCommand_malformed {s : State} {c : Command}
    (h : cmdNum s c 2 2 ≠ 0 ∨ cmdNum s c 24 40 ≠ 0 ∨ cmdNum s c 0 2 ∉ [1, 2, 3, 4, 5, 6]) : parseCommand c s = none := by
  rw [parseCommand_eq]
  rcases h with h | h | h
  · exact if_pos (by simp [blockBad, h])
  · exact if_pos (by simp [blockBad, h])
  · rw [payloadOp_of_no_opcode h, ite_self]

/-- A block by its table, whose payload is not too long, is read by its opcode. -/
theorem parseCommand_of_blockIs {s : State} {c : Command} {opcode plen seq result : Nat} (h : blockIs s c opcode plen seq result)
    (hlen : plen ≤ 16640) : parseCommand c s = payloadOp c s opcode plen := by
  obtain ⟨hop, hres, hplen, -, hresult, hzero, hfit⟩ := h
  have hgood : blockBad c s = false := by
    simp only [blockBad, hres, hplen, hzero, hresult, bne_self_eq_false, Bool.false_or, Bool.or_eq_false_iff, Bool.not_eq_false',
      decide_eq_false_iff_not]
    refine ⟨by omega, ?_⟩
    cases hp : c.port with
    | none => simpa only [hp, beq_iff_eq] using hfit
    | some b => simpa only [hp, decide_eq_true_eq] using hfit
  rw [parseCommand_eq, hgood, hop, hplen]
  rfl

/-! ### PART (R426) -/

theorem partOp_destroy {num : Nat → Nat → Nat} (h1 : num 64 1 = 2) (h2 : num 65 1 < 4) (h3 : num 66 6 = 0) (h4 : num 88 2 = 0)
    (h5 : num 90 6 = 0) : partOp num 32 = some (.destroy (num 65 1)) := by
  have h2' : ¬ 3 < num 65 1 := by omega
  simp [partOp, h1, h2', h3, h4, h5]

/-- The two halves of a range's entry. -/
theorem bits_of_range {a b : Nat} (ha : a < 2 ^ 14) (hb : b < 2 ^ 14) :
    bits (a + b * 2 ^ 16) 13 0 = a ∧ bits (a + b * 2 ^ 16) 29 16 = b ∧ bits (a + b * 2 ^ 16) 15 14 = 0 ∧ bits (a + b * 2 ^ 16) 63 30 = 0 := by
  simp only [bits]
  omega

theorem partOp_create {num : Nat → Nat → Nat} {ranges : List (Nat × Nat)} (hn1 : 1 ≤ ranges.length) (hn2 : ranges.length ≤ 16)
    (h1 : num 64 1 = 1) (h2 : num 65 1 < 4) (h3 : num 66 6 = 0) (h4 : num 88 2 = ranges.length) (h5 : num 90 6 = 0)
    (hr : ∀ k r, ranges[k]? = some r → r.1 < 2 ^ 14 ∧ r.2 < 2 ^ 14 ∧ num (96 + 8 * k) 8 = r.1 + r.2 * 2 ^ 16) :
    partOp num (32 + 8 * ranges.length) = some (.create (num 65 1) (num 72 8) (num 80 8) ranges) := by
  have h2' : ¬ 3 < num 65 1 := by omega
  have hbits : ∀ k (hk : k < ranges.length), bits (num (96 + 8 * k) 8) 13 0 = ranges[k].1 ∧ bits (num (96 + 8 * k) 8) 29 16 = ranges[k].2 ∧
      bits (num (96 + 8 * k) 8) 15 14 = 0 ∧ bits (num (96 + 8 * k) 8) 63 30 = 0 := by
    intro k hk
    obtain ⟨ha, hb, hnum⟩ := hr k _ (List.getElem?_eq_getElem hk)
    rw [hnum]
    exact bits_of_range ha hb
  have hlist : ((List.range ranges.length).map fun i => (bits (num (96 + 8 * i) 8) 13 0, bits (num (96 + 8 * i) 8) 29 16)) = ranges := by
    refine List.ext_getElem (by simp) fun k _ hk => ?_
    obtain ⟨ha, hb, -, -⟩ := hbits k hk
    simp only [List.getElem_map, List.getElem_range, ha, hb]
  have hany : ((List.range ranges.length).any fun i => bits (num (96 + 8 * i) 8) 15 14 != 0 || bits (num (96 + 8 * i) 8) 63 30 != 0) = false := by
    simp only [List.any_eq_false, List.mem_range]
    intro k hk
    obtain ⟨-, -, ha, hb⟩ := hbits k hk
    simp only [ha, hb]
    decide
  simp only [partOp, h1, h3, h4, h5, h2', hlist, hany]
  simp [hn1, hn2]

end Sys2Proof.Machine.Claim
end

section
/-! ## Ports and ranges that change hands (O60) -/

namespace Sys2Proof.Machine.Claim
open Sys2Proof.Machine
set_option Elab.async false

/-! ### Ports (R36, R420, R421) -/

/-- The states agree but for the fabric ports. -/
def PortsOnly (s t : State) : Prop := t = { s with mem := { s.mem with ports := t.mem.ports } }

theorem PortsOnly.refl (s : State) : PortsOnly s s := rfl

theorem PortsOnly.trans {s t u : State} (a : PortsOnly s t) (b : PortsOnly t u) : PortsOnly s u := by
  unfold PortsOnly at *
  rw [b, a]

theorem portsOnly_setPortAt (s : State) (n : Nat) (x : Port) : PortsOnly s (s.setPortAt n x) := rfl

theorem portsOnly_foldl {α : Type} {f : State → α → State} (h : ∀ s a, PortsOnly s (f s a)) (l : List α) (s : State) :
    PortsOnly s (l.foldl f s) := by
  induction l generalizing s with
  | nil => exact .refl s
  | cons a l ih => exact (h s a).trans (ih _)

theorem portsOnly_assignPorts (s : State) (ports : Nat) (part : Option Nat) : PortsOnly s (assignPorts s ports part) :=
  portsOnly_foldl (fun s n => portsOnly_setPortAt s n _) _ s

theorem portsOnly_loadPolicers (s : State) : PortsOnly s (loadPolicers s) :=
  portsOnly_foldl (fun s (p : Nat × Nat × Nat) => portsOnly_setPortAt s p.1 _) _ s

/-- A port in the hands of a partition, or of none. -/
def owned (s : State) (part : Option Nat) (x : Port) : Port := { x with part := part, windows := windowsOf s part }

theorem windowsOf_setPortAt (s : State) (n : Nat) (x : Port) (part : Option Nat) : windowsOf (s.setPortAt n x) part = windowsOf s part := by
  cases part <;> rfl

theorem portAt_assign (part : Option Nat) {l : List Nat} (hl : l.Nodup) (s : State) (n : Nat) :
    (l.foldl (fun s n => s.setPortAt n { s.portAt n with part := part, windows := windowsOf s part }) s).portAt n =
      if n ∈ l then owned s part (s.portAt n) else s.portAt n := by
  induction l generalizing s with
  | nil => rfl
  | cons m l ih =>
    obtain ⟨hm, hl⟩ := List.nodup_cons.1 hl
    rw [List.foldl_cons, ih hl, owned, windowsOf_setPortAt]
    by_cases hn : n = m
    · subst hn
      rw [if_neg hm, if_pos List.mem_cons_self, State.portAt_setPortAt_self]
      rfl
    · rw [State.portAt_setPortAt_of_ne _ _ hn]
      simp only [List.mem_cons, hn, false_or]
      rfl

theorem portAt_assignPorts (s : State) (ports : Nat) (part : Option Nat) {n : Nat} (hn : n < 64) :
    (assignPorts s ports part).portAt n = if ports.testBit n then owned s part (s.portAt n) else s.portAt n := by
  rw [assignPorts, portAt_assign part (List.nodup_range.filter _)]
  simp only [List.mem_filter, List.mem_range, hn, true_and]

/-! ### Ranges (R421) -/

/-- Whether a codeword's or a sector's key lies in some ranges. -/
def inRanges (rs : List (Nat × Nat)) (x : Nat) : Prop := ∃ r, r ∈ rs ∧ r.1 * 2 ^ 26 ≤ x ∧ x < (r.1 + r.2) * 2 ^ 26

theorem inRanges_cons (r : Nat × Nat) (rs : List (Nat × Nat)) (x : Nat) :
    inRanges (r :: rs) x ↔ (r.1 * 2 ^ 26 ≤ x ∧ x < (r.1 + r.2) * 2 ^ 26) ∨ inRanges rs x := by
  simp only [inRanges, List.mem_cons, exists_eq_or_imp]

theorem find?_filter_key {α : Type} (keep : Nat → Bool) (m : Table α) (i : Nat) :
    Table.find? (List.filter (fun p => keep p.1) m) i = if keep i then Table.find? m i else none := by
  induction m with
  | nil => simp
  | cons c m ih =>
    obtain ⟨k, v⟩ := c
    by_cases hk : keep k
    · rw [List.filter_cons_of_pos (by exact hk), Table.find?, ih, Table.find?]
      by_cases hi : k = i
      · subst hi
        simp [hk]
      · simp [hi]
    · rw [List.filter_cons_of_neg (by exact hk), ih, Table.find?]
      by_cases hi : k = i
      · subst hi
        simp [hk]
      · simp [hi]

/-- The states agree but for device memory and the marks on it, and some ranges of it read as zero, without a mark. -/
structure Zeroed (s t : State) (rs : List (Nat × Nat)) : Prop where
  rest : t = { s with mem := { s.mem with dev := t.mem.dev, bad := t.mem.bad, sectors := t.mem.sectors, repl := t.mem.repl } }
  byte : ∀ x, inRanges rs x → byteAt t (.dev x) = 0
  other : ∀ x, ¬ inRanges rs x → byteAt t (.dev x) = byteAt s (.dev x)
  bad : ∀ w, (inRanges rs (w * 64) → Table.find? t.mem.bad w = none) ∧
    (¬ inRanges rs (w * 64) → Table.find? t.mem.bad w = Table.find? s.mem.bad w)
  sectors : ∀ w, (inRanges rs (w * 512) → Table.find? t.mem.sectors w = none) ∧
    (¬ inRanges rs (w * 512) → Table.find? t.mem.sectors w = Table.find? s.mem.sectors w)

theorem Zeroed.nil (s : State) : Zeroed s s [] where
  rest := rfl
  byte := fun _ ⟨_, hr, _⟩ => absurd hr List.not_mem_nil
  other := fun _ _ => rfl
  bad := fun _ => ⟨fun ⟨_, hr, _⟩ => absurd hr List.not_mem_nil, fun _ => rfl⟩
  sectors := fun _ => ⟨fun ⟨_, hr, _⟩ => absurd hr List.not_mem_nil, fun _ => rfl⟩

/-- Where a key is kept by a range that is zeroed. -/
theorem find?_outside {α : Type} (m : Table α) (n lo hi w : Nat) :
    Table.find? (List.filter (fun p => p.1 * n < lo || hi ≤ p.1 * n) m) w =
      if lo ≤ w * n ∧ w * n < hi then none else Table.find? m w := by
  rw [find?_filter_key (fun k => decide (k * n < lo) || decide (hi ≤ k * n)) m w]
  by_cases h : lo ≤ w * n ∧ w * n < hi
  · rw [if_pos h, if_neg (by simp; omega)]
  · rw [if_neg h, if_pos (by simp; omega)]

theorem byteAt_zeroRange (s : State) (r : Nat × Nat) (x : Nat) : byteAt (zeroRange s r) (.dev x) =
    if r.1 * 2 ^ 26 ≤ x ∧ x < (r.1 + r.2) * 2 ^ 26 then 0 else byteAt s (.dev x) :=
  Memory.read1_clear ..

theorem bad_zeroRange (s : State) (r : Nat × Nat) (w : Nat) : Table.find? (zeroRange s r).mem.bad w =
    if r.1 * 2 ^ 26 ≤ w * 64 ∧ w * 64 < (r.1 + r.2) * 2 ^ 26 then none else Table.find? s.mem.bad w :=
  find?_outside ..

theorem sectors_zeroRange (s : State) (r : Nat × Nat) (w : Nat) : Table.find? (zeroRange s r).mem.sectors w =
    if r.1 * 2 ^ 26 ≤ w * 512 ∧ w * 512 < (r.1 + r.2) * 2 ^ 26 then none else Table.find? s.mem.sectors w :=
  find?_outside ..

/-- A value that one range clears and the others clear or keep. -/
theorem cleared_cons {α : Type} {r : Nat × Nat} {rs : List (Nat × Nat)} {x : Nat} {a b c z : α}
    (hb : b = if r.1 * 2 ^ 26 ≤ x ∧ x < (r.1 + r.2) * 2 ^ 26 then z else a)
    (hc : (inRanges rs x → c = z) ∧ (¬ inRanges rs x → c = b)) :
    (inRanges (r :: rs) x → c = z) ∧ (¬ inRanges (r :: rs) x → c = a) := by
  obtain ⟨hin, hout⟩ := hc
  rw [inRanges_cons]
  by_cases hrs : inRanges rs x
  · exact ⟨fun _ => hin hrs, fun hn => (hn (.inr hrs)).elim⟩
  · rw [hout hrs, hb]
    exact ⟨fun h => if_pos (h.resolve_right hrs), fun hn => if_neg fun h => hn (.inl h)⟩

theorem zeroed_foldl (rs : List (Nat × Nat)) (s : State) : Zeroed s (rs.foldl zeroRange s) rs := by
  induction rs generalizing s with
  | nil => exact .nil s
  | cons r rs ih =>
    rw [List.foldl_cons]
    have h := ih (zeroRange s r)
    generalize rs.foldl zeroRange (zeroRange s r) = t at h
    have hbyte := fun x => cleared_cons (byteAt_zeroRange s r x) ⟨h.byte x, h.other x⟩
    exact {
      rest := h.rest
      byte := fun x => (hbyte x).1
      other := fun x => (hbyte x).2
      bad := fun w => cleared_cons (bad_zeroRange s r w) (h.bad w)
      sectors := fun w => cleared_cons (sectors_zeroRange s r w) (h.sectors w) }

end Sys2Proof.Machine.Claim
end

section
/-! ## What the commands do (O60) -/

namespace Sys2Proof.Machine.Claim
open Sys2Proof.Machine
set_option Elab.async false

/-! ### RETIRE (R425) -/

def mayRetire (s : State) (x : Nat) : Prop :=
  s.mem.live.testBit x = true ∧ 2 ≤ ((List.range 8).filter fun i => s.mem.live.testBit i).length ∧ s.mem.leaving ≠ some x

theorem retireStack_refused {s : State} {x : Nat} (h : ¬ mayRetire s x) : retireStack s x = (s, none) := if_neg h

theorem retireStack_queues {s : State} {x : Nat} (h : mayRetire s x) : retireStack s x =
    (if x ∈ s.mem.queued then s else { s with mem := { s.mem with queued := s.mem.queued ++ [x] } }, some []) := by
  refine (if_pos h).trans ?_
  obtain ⟨hlive, -, hleaving⟩ := h
  have hbne : (s.mem.leaving != some x) = true := bne_iff_ne.2 hleaving
  rw [queueStack, hlive, hbne, Bool.true_and, Bool.and_true]
  by_cases hx : x ∈ s.mem.queued
  · rw [if_pos hx, if_neg (by simpa using hx)]
  · rw [if_neg hx, if_pos (by simpa using hx)]

/-! ### PART (R421, R426) -/

/-- No other partition holds a cluster, a port or a range of these. -/
def freeFor (s : State) (part cl ports : Nat) (ranges : List (Nat × Nat)) : Prop :=
  ∀ p, p < 4 → p ≠ part → (s.partAt p).live = true → (s.partAt p).clusters &&& cl = 0 ∧
    (s.partAt p).ports &&& ports = 0 ∧ ∀ r x, r ∈ (s.partAt p).ranges → x ∈ ranges → ¬ (r.1 < x.1 + x.2 ∧ x.1 < r.1 + r.2)

theorem heldByOther_eq_false_iff (s : State) (part cl ports : Nat) (ranges : List (Nat × Nat)) :
    heldByOther s part cl ports ranges = false ↔ freeFor s part cl ports ranges := by
  simp only [heldByOther, List.any_eq_false, mem_liveParts, Bool.and_eq_true, Bool.or_eq_true, bne_iff_ne, List.any_eq_true,
    decide_eq_true_eq, freeFor, and_imp, not_and, not_or, not_exists, ne_eq, not_not]
  refine forall_congr' fun p => forall_congr' fun _ => ⟨fun h hne hl => ?_, fun h hl hne => ?_⟩
  · obtain ⟨⟨h1, h2⟩, h3⟩ := h hl hne
    exact ⟨h1, h2, fun r x hr hx h4 h5 => h3 r hr x hx h4 h5⟩
  · obtain ⟨h1, h2, h3⟩ := h hne hl
    exact ⟨⟨h1, h2⟩, fun r hr x hx h4 h5 => h3 r x hr hx h4 h5⟩

/-- The partition that PART creates (log 6). -/
def newPart (part cl ports : Nat) (ranges : List (Nat × Nat)) : Partition :=
  { live := true, clusters := cl, ranges := ranges, ports := ports, pattBase := 16 * part, pattCount := 16, barBase := 8 * part, barCount := 8 }

theorem createPart_refused {s : State} {part cl ports : Nat} {ranges : List (Nat × Nat)}
    (h : part = 0 ∨ (s.partAt part).live = true ∨ ¬ freeFor s part cl ports ranges) : createPart s part cl ports ranges = (s, none) := by
  rw [← heldByOther_eq_false_iff, Bool.not_eq_false] at h
  exact if_pos h

theorem createPart_creates {s : State} {part cl ports : Nat} {ranges : List (Nat × Nat)} (hp : part ≠ 0)
    (hl : (s.partAt part).live = false) (hf : freeFor s part cl ports ranges) : createPart s part cl ports ranges =
      (assignPorts (s.setPartAt part (newPart part cl ports ranges)) ports (some part), some []) := by
  refine if_neg ?_
  rw [← heldByOther_eq_false_iff] at hf
  simp only [hp, hl, hf]
  decide

/-- The machine but for a partition and the ports. -/
theorem assignPorts_setPartAt_leaves (s : State) (part ports : Nat) (x : Partition) (owner : Option Nat) :
    let t := assignPorts (s.setPartAt part x) ports owner
    t.stew = s.stew ∧ t.parts = Table.set s.parts part x ∧ t.partAt part = x ∧ t.harts = s.harts ∧ t.tasks = s.tasks ∧ memSame s t ∧
    t.mem.bad = s.mem.bad ∧ t.mem.sectors = s.mem.sectors := by
  have h := portsOnly_assignPorts (s.setPartAt part x) ports owner
  generalize assignPorts (s.setPartAt part x) ports owner = t at h
  have hparts : t.parts = Table.set s.parts part x := by rw [h]; rfl
  exact ⟨by rw [h]; rfl, hparts, by rw [State.partAt, hparts, Table.get_set_self], by rw [h]; rfl, by rw [h]; rfl,
    fun y hy => byteAt_of_memories s t (by rw [h]; rfl) (by rw [h]; rfl) (by rw [h]; rfl) (by rw [h]; rfl) hy, by rw [h]; rfl, by rw [h]; rfl⟩

theorem createPart_leaves (s : State) (part cl ports : Nat) (ranges : List (Nat × Nat)) :
    let t := assignPorts (s.setPartAt part (newPart part cl ports ranges)) ports (some part)
    t.stew = s.stew ∧ t.parts = Table.set s.parts part (t.partAt part) ∧ (t.partAt part).live = true ∧
    (t.partAt part).clusters = cl ∧ (t.partAt part).ranges = ranges ∧ (t.partAt part).ports = ports ∧
    t.harts = s.harts ∧ t.tasks = s.tasks ∧ memSame s t ∧
    ∀ n, n < 64 → t.portAt n = if ports.testBit n then { s.portAt n with
      part := some part
      windows := (ranges.take 16).map fun r => { base := r.1 * 2 ^ 26, len := r.2 * 2 ^ 26, r := true, w := true } } else s.portAt n := by
  intro t
  obtain ⟨hstew, hparts, hpart, hharts, htasks, hmem, -, -⟩ :=
    assignPorts_setPartAt_leaves s part ports (newPart part cl ports ranges) (some part)
  have hwin : windowsOf (s.setPartAt part (newPart part cl ports ranges)) (some part) =
      (ranges.take 16).map fun r => { base := r.1 * 2 ^ 26, len := r.2 * 2 ^ 26, r := true, w := true } := by
    simp only [windowsOf, State.partAt_setPartAt_self, newPart]
  refine ⟨hstew, by rw [hpart]; exact hparts, by rw [hpart]; rfl, by rw [hpart]; rfl, by rw [hpart]; rfl, by rw [hpart]; rfl, hharts, htasks,
    hmem, fun n hn => ?_⟩
  rw [portAt_assignPorts _ _ _ hn, owned, hwin]
  rfl

theorem destroyPart_refused {s : State} {part : Nat} (h : part = 0 ∨ (s.partAt part).live = false) : destroyPart s part = (s, none) :=
  if_pos (by simpa using h)

theorem destroyPart_destroys {s : State} {part : Nat} (hp : part ≠ 0) (hl : (s.partAt part).live = true)
    (ht : ∀ x, x ∈ s.tasks → x.2.part ≠ part) : destroyPart s part =
      (assignPorts (((s.partAt part).ranges.foldl zeroRange s).setPartAt part {}) (s.partAt part).ports none, some []) := by
  refine (if_neg (by simp [hp, hl])).trans ?_
  rw [resetPartition_of_no_tasks ht]

theorem destroyPart_leaves (s : State) (part : Nat) : let p := s.partAt part
    let t := assignPorts ((p.ranges.foldl zeroRange s).setPartAt part {}) p.ports none
    t.stew = s.stew ∧ t.parts = Table.set s.parts part {} ∧ t.harts = s.harts ∧ t.tasks = s.tasks ∧
    (∀ x, byteAt t (.dev x) = if (∃ r, r ∈ p.ranges ∧ r.1 * 2 ^ 26 ≤ x ∧ x < (r.1 + r.2) * 2 ^ 26) then 0 else byteAt s (.dev x)) ∧
    (∀ w, Table.find? t.mem.bad w = none ∨ (Table.find? t.mem.bad w = Table.find? s.mem.bad w ∧ ¬ inRanges p.ranges (w * 64))) ∧
    (∀ w, Table.find? t.mem.sectors w = none ∨
      (Table.find? t.mem.sectors w = Table.find? s.mem.sectors w ∧ ¬ inRanges p.ranges (w * 512))) ∧
    ∀ n, n < 64 → t.portAt n = if p.ports.testBit n then { s.portAt n with part := none, windows := [] } else s.portAt n := by
  intro p t
  have hz := zeroed_foldl p.ranges s
  have htdef : t = assignPorts ((p.ranges.foldl zeroRange s).setPartAt part {}) p.ports none := rfl
  clear_value t
  generalize p.ranges.foldl zeroRange s = z at hz htdef
  obtain ⟨hstew, hparts, -, hharts, htasks, hmem, hbad, hsectors⟩ := assignPorts_setPartAt_leaves z part p.ports {} none
  rw [← htdef] at hstew hparts hharts htasks hmem hbad hsectors
  obtain ⟨hrest, hbyte, hother, hzbad, hzsectors⟩ := hz
  refine ⟨hstew.trans (by rw [hrest]), hparts.trans (by rw [hrest]), hharts.trans (by rw [hrest]), htasks.trans (by rw [hrest]), fun x => ?_,
    fun w => ?_, fun w => ?_, fun n hn => ?_⟩
  · rw [hmem _ rfl]
    split_ifs with hx
    · exact hbyte x hx
    · exact hother x hx
  · rw [hbad]
    by_cases hw : inRanges p.ranges (w * 64)
    · exact .inl ((hzbad w).1 hw)
    · exact .inr ⟨(hzbad w).2 hw, hw⟩
  · rw [hsectors]
    by_cases hw : inRanges p.ranges (w * 512)
    · exact .inl ((hzsectors w).1 hw)
    · exact .inr ⟨(hzsectors w).2 hw, hw⟩
  · have hport : (z.setPartAt part {}).portAt n = s.portAt n := by rw [hrest]; rfl
    rw [htdef, portAt_assignPorts _ _ _ hn, hport]
    rfl

/-! ### RESET (R425) -/

theorem resetPart_refused {s : State} {part : Nat} (h : (s.partAt part).live = false) : resetPart s part = (s, none) :=
  if_neg (by rw [h]; decide)

theorem resetPart_live {s : State} {part : Nat} (h : (s.partAt part).live = true) : resetPart s part = (resetPartition s part, some []) :=
  if_pos h

theorem resetPartition_of_one_gang {s : State} {part id : Nat} {t : Task} (hs : s.tasks = [(id, t)]) (hp : t.part = part)
    (hr : t.st = .running) : resetPartition s part = killGang s id .partition none := by
  have hfilter : (s.tasks.filter fun p => p.2.part == part) = [(id, t)] := by rw [hs]; simp [hp]
  have htask : s.task? id = some t := by rw [State.task?, hs]; exact if_pos rfl
  rw [resetPartition, hfilter, List.foldl_cons, List.foldl_nil, killTask, htask]
  simp only [hr]
  rfl

theorem gangKill_without_hart (s : State) (id : Nat) (r : KillReason) : exec (.gangKill id ⟨r, none⟩) s = .next (killGang s id r none) := rfl

/-! ### Draws (R411) -/

theorem drawEntropy_of_quiet {s : State} (hr : s.stew.replay = false) (hrec : s.stew.recording = false) (n : Nat) :
    drawEntropy s n = (freeBytes s n, { s with free := s.free + n }) := by
  rw [drawEntropy, hr]
  exact congrArg (Prod.mk _) (arrives_of_quiet (s := { s with free := s.free + n }) hrec _)

theorem quote_of_quiet {s : State} (hr : s.stew.replay = false) (hrec : s.stew.recording = false) (n : List Byte) :
    quote s n = ({ s with free := s.free + 32, stew := { s.stew with quotes := s.stew.quotes + 1 } }, some (quoteBytes s n (freeBytes s 32))) := by
  rw [quote, drawEntropy_of_quiet hr hrec]

theorem giveChallenge_of_quiet {s : State} (hr : s.stew.replay = false) (hrec : s.stew.recording = false) :
    giveChallenge s = ({ s with free := s.free + 32, stew := { s.stew with challenge := some (freeBytes s 32) } }, some (freeBytes s 32)) := by
  rw [giveChallenge, drawEntropy_of_quiet hr hrec]

end Sys2Proof.Machine.Claim
end

section
/-! ## Package reset and the stages of boot (O60) -/

namespace Sys2Proof.Machine.Claim
open Sys2Proof.Machine
set_option Elab.async false

/-! ### The stages of the chain (R423) -/

theorem stageFault_eq_none_iff (c : StageCheck) (least : Nat) :
    stageFault c least = none ↔ c.rsa = true ∧ c.slh = true ∧ least ≤ c.version := by
  simp only [stageFault]
  cases c.rsa <;> cases c.slh <;> simp

/-- What the stages from a number on leave of the steward. -/
def stewardStages : Nat → List StageCheck → Steward → Steward
  | _, [], w => w
  | n, c :: rest, w =>
    let v := { w with measured := w.measured ++ [(n, c.digest)]
                      reports := w.reports ++ ((stageFault c w.minVersion).map fun f => (n, f)).toList }
    if (stageFault c w.minVersion).isSome then { v with booted := false } else stewardStages (n + 1) rest v

theorem bootStages_eq (n : Nat) (l : List StageCheck) (s : State) : bootStages n l s = { s with stew := stewardStages n l s.stew } := by
  induction l generalizing n s with
  | nil => rfl
  | cons c l ih =>
    rw [bootStages, stewardStages]
    split_ifs with h
    · rfl
    · exact ih _ _

theorem stewardStages_of_pass {c : StageCheck} {w : Steward} (h : stageFault c w.minVersion = none) (n : Nat) (rest : List StageCheck) :
    stewardStages n (c :: rest) w = stewardStages (n + 1) rest { w with measured := w.measured ++ [(n, c.digest)] } := by
  rw [stewardStages, h]
  exact (if_neg (by decide)).trans (by rw [Option.map_none, Option.toList_none, List.append_nil])

theorem stewardStages_of_fault {c : StageCheck} {w : Steward} {f : BootFault} (h : stageFault c w.minVersion = some f) (n : Nat)
    (rest : List StageCheck) : stewardStages n (c :: rest) w =
      { w with booted := false, measured := w.measured ++ [(n, c.digest)], reports := w.reports ++ [(n, f)] } := by
  rw [stewardStages, h]
  exact if_pos rfl

theorem step_of_stopped {s : State} (hp : s.powered = true) (hb : s.stew.booted = false) : step s = .fault .bootStopped := by
  rw [step, if_neg (by rw [hp]; decide), if_pos hb]

/-! ### The machine as a package reset leaves it (R217, R423) -/

/-- The stacks that have retired, with one whose walk the reset ends. -/
def retiredAt (s : State) : Nat :=
  s.stew.retiredStacks ||| (match s.mem.leaving with | some x => if s.mem.phase % 2 = 1 then 2 ^ x else 0 | none => 0)

/-- A core as a reset leaves it: what has failed of it is known from the boot record (R216). -/
def restartedCore (c : Core) : Core := { lanesFailed := c.lanesFailed, rowsFailed := c.rowsFailed, colsFailed := c.colsFailed }

/-- The machine that a package reset leaves, with a steward and with ports; `whole`: one partition owns all. -/
def restarted (s : State) (whole : Bool) (stew : Steward) (ports : Table Port) : State :=
  { State.reset with
    pace := s.pace, free := s.free, inbox := s.inbox, cores := s.cores.map fun p => (p.1, restartedCore p.2)
    parts := [(0, if whole then Partition.whole else Partition.first)]
    mem := { packageMem s.mem (retiredAt s) with ports := ports }
    stew := stew }

/-- The steward as the chain begins. -/
def bootSteward (s : State) (replay : Option (List Arrival)) (chain : BootChain) (images : List LoadRequest) : Steward :=
  { retiredStacks := retiredAt s, recording := s.stew.armed, replay := replay.isSome, script := replay.getD []
    log := if s.stew.armed = true then [{ tick := 0, what := .boot images }] else []
    chain := chain, images := images, minVersion := s.stew.minVersion, fused := s.stew.fused, targets := s.stew.fused
    policers := s.stew.policers }

/-- The steward right after the reset. -/
def resetSteward (s : State) (replay : Option (List Arrival)) : Steward :=
  { retiredStacks := retiredAt s, recording := s.stew.armed, replay := replay.isSome, script := replay.getD []
    chain := s.stew.chain, images := s.stew.images, minVersion := s.stew.minVersion
    fused := s.stew.fused, targets := s.stew.fused, policers := s.stew.policers }

/-- The machine before its ports are set. -/
def unported (s : State) (replay : Option (List Arrival)) : State := restarted s replay.isSome (resetSteward s replay) []

theorem packageState_def (s : State) (replay : Option (List Arrival)) : packageState s replay =
    loadPolicers (if replay.isSome then assignPorts (unported s replay) (2 ^ 64 - 1) (some 0) else unported s replay) := rfl

theorem packageState_eq (s : State) (replay : Option (List Arrival)) : packageState s replay =
    restarted s replay.isSome (resetSteward s replay) (packageState s replay).mem.ports := by
  have h : PortsOnly (unported s replay) (packageState s replay) := by
    rw [packageState_def]
    refine PortsOnly.trans ?_ (portsOnly_loadPolicers _)
    split
    · exact portsOnly_assignPorts ..
    · exact .refl _
  exact h

theorem arrives_restarted (s : State) (whole : Bool) (w : Steward) (ports : Table Port) (a : Arrived) :
    (restarted s whole w ports).arrives a = restarted s whole
      { w with log := if w.recording = true then w.log ++ [{ tick := 0, what := a }] else w.log } ports := by
  rw [State.arrives]
  have hrec : (restarted s whole w ports).stew.recording = w.recording := rfl
  have htime : (restarted s whole w ports).reftime = 0 := Nat.zero_div _
  rw [hrec, htime]
  split
  · rfl
  · rfl

/-- The stages run on a machine whose steward has noted what it boots, and has logged it where it records. -/
theorem bootStages_packageState (s : State) (replay : Option (List Arrival)) (chain : BootChain) (images : List LoadRequest)
    (l : List StageCheck) :
    bootStages 0 l (State.arrives { packageState s replay with stew := { (packageState s replay).stew with chain := chain, images := images } }
      (.boot images)) = restarted s replay.isSome (stewardStages 0 l (bootSteward s replay chain images)) (packageState s replay).mem.ports := by
  have h := packageState_eq s replay
  generalize (packageState s replay).mem.ports = ports at h ⊢
  have hstew : { packageState s replay with stew := { (packageState s replay).stew with chain := chain, images := images } } =
      restarted s replay.isSome { resetSteward s replay with chain := chain, images := images } ports := by
    rw [h]
    rfl
  rw [hstew, arrives_restarted, bootStages_eq]
  rfl

/-- A package reset without images. -/
theorem packageReset_eq (s : State) (replay : Option (List Arrival)) (chain : BootChain) : exec (.packageReset replay chain []) s =
    .next (restarted s replay.isSome (stewardStages 0 [chain.rom, chain.firmware, chain.hypervisor] (bootSteward s replay chain []))
      (packageState s replay).mem.ports) := by
  change Host.Outcome.next (boot (packageState s replay) chain []) = _
  simp only [boot, List.foldl_nil, ite_self, bootStages_packageState]

/-! ### What it leaves -/

theorem get_map {α β : Type} (f : α → β) (m : Table α) (d : α) (i : Nat) :
    Table.get (f d) (List.map (fun p => (p.1, f p.2)) m) i = f (Table.get d m i) := by
  induction m with
  | nil => rfl
  | cons c m ih =>
    simp only [List.map_cons, Table.get, ih]
    split <;> rfl

theorem coreAt_restarted (s : State) (whole : Bool) (w : Steward) (ports : Table Port) (c : Nat) :
    (restarted s whole w ports).coreAt c = restartedCore (s.coreAt c) :=
  get_map restartedCore s.cores {} c

/-- The stacks that are live after a reset (R82, R93). -/
theorem testBit_liveAfter (retired i : Nat) : (0xFF &&& (0xFF ^^^ retired)).testBit i = (decide (i < 8) && !retired.testBit i) := by
  have hff : Nat.testBit 0xFF i = decide (i < 8) := Nat.testBit_two_pow_sub_one 8 i
  rw [Nat.testBit_and, Nat.testBit_xor, hff]
  cases decide (i < 8) <;> cases retired.testBit i <;> rfl

theorem popcount_liveAfter (retired : Nat) :
    popcount (0xFF &&& (0xFF ^^^ retired)) 8 = ((List.range 8).filter fun i => !retired.testBit i).length := by
  refine congrArg List.length (List.filter_congr fun i hi => ?_)
  rw [testBit_liveAfter, decide_eq_true (List.mem_range.1 hi), Bool.true_and]

theorem restarted_mem (s : State) (whole : Bool) (w : Steward) (ports : Table Port) : let t := restarted s whole w ports
    t.mem.dev = s.mem.dev ∧ t.mem.host = s.mem.host ∧ t.mem.phase = 0 ∧ t.mem.step = 0 ∧ t.mem.repl = [] ∧
    (∀ x, t.mem.leaving = some x ↔ s.mem.leaving = some x ∧ x < 8 ∧ (retiredAt s).testBit x = false) ∧ t.mem.queued = s.mem.queued ∧
    t.mem.failing = s.mem.failing ∧ t.mem.reported = s.mem.reported ∧
    (∀ i, i < 8 → t.mem.live.testBit i = !(retiredAt s).testBit i) ∧ t.mem.oldLive = t.mem.live ∧
    t.mem.cap = min s.mem.cap (((List.range 8).filter fun i => !(retiredAt s).testBit i).length * Config.granulesPerStack) ∧
    t.mem.front = t.mem.cap := by
  refine ⟨rfl, rfl, rfl, rfl, rfl, fun x => ?_, rfl, rfl, rfl, fun i hi => ?_, rfl, ?_, rfl⟩
  · refine (Option.filter_eq_some_iff ..).trans (and_congr_right fun _ => ?_)
    rw [testBit_liveAfter]
    simp
  · exact (testBit_liveAfter _ _).trans (by rw [decide_eq_true hi, Bool.true_and])
  · rw [← popcount_liveAfter]
    rfl

theorem portAt_of_one_policer {s : State} {n r d : Nat} (h : s.stew.policers = [(n, (r, d))]) (replay : Option (List Arrival)) :
    let p := Table.get {} (packageState s replay).mem.ports n
    p.rate = r ∧ p.loaded = r ∧ p.depth = d := by
  have hload : ∀ t : State, t.stew.policers = [(n, (r, d))] → loadPolicers t =
      t.setPortAt n { t.portAt n with rate := r, loaded := r, depth := d, tokens := d } := by
    intro t ht
    rw [loadPolicers, ht]
    rfl
  have hpol : ∀ t, PortsOnly (unported s replay) t → t.stew.policers = [(n, (r, d))] := by
    intro t ht
    rw [ht]
    exact h
  have hset : ∃ t : State, packageState s replay = t.setPortAt n { t.portAt n with rate := r, loaded := r, depth := d, tokens := d } := by
    rw [packageState_def]
    split
    · exact ⟨_, hload _ (hpol _ (portsOnly_assignPorts ..))⟩
    · exact ⟨_, hload _ (hpol _ (.refl _))⟩
  obtain ⟨t, ht⟩ := hset
  have hport : (packageState s replay).portAt n = { t.portAt n with rate := r, loaded := r, depth := d, tokens := d } := by
    rw [ht, State.portAt_setPortAt_self]
  intro p
  have hp : p = (packageState s replay).portAt n := rfl
  rw [hp, hport]
  exact ⟨rfl, rfl, rfl⟩

/-- STEWARD_WATCHDOG is a package reset that boots what was booted before (R429). -/
theorem stewardWatchdog_eq (s : State) : exec .stewardWatchdog s =
    if s.reftime < s.stew.acked + 2 ^ 30 then .next s else exec (.packageReset none s.stew.chain s.stew.images) s :=
  apply_ite Host.Outcome.next _ _ _

end Sys2Proof.Machine.Claim
end

section
/-! ## The image of a partition at boot (O60) -/

namespace Sys2Proof.Machine.Claim
open Sys2Proof.Machine
set_option Elab.async false

/-! ### Placement of a task that has not run -/

/-- A pass whose one queued task finds room places it (R173). -/
theorem pass_places {s : State} {die cls id : Nat} {t : Task} {cores : List Nat} (hf : (s.dieAt die).fenced = false) (hcls : cls < 4)
    (hq : queueOf s die cls = [id]) (hothers : ∀ c, c ≠ cls → queueOf s die c = []) (hsaved : t.saved = [])
    (htry : tryPlace s die cls = some (placeTask (dequeue s die cls) id t cores)) :
    pass s die = placeTask (dequeue s die cls) id t cores := by
  obtain ⟨w, x, hmem, hdeq, hx, -⟩ := dequeue_head hq
  obtain ⟨hdies, -, -⟩ := placeTask_leaves (dequeue s die cls) id hsaved cores
  generalize placeTask (dequeue s die cls) id t cores = u at htry hdies
  have hempty : queuesEmpty u die := fun c => by
    have hdie : u.dieAt die = x := by
      rw [State.dieAt, hdies, hdeq]
      exact State.dieAt_setDieAt_self w die x
    have hqueue : queueOf u die c = queueOf (setQueue s die cls []) die c := by
      rw [← hmem.queueOf, queueOf, hdie, hx, queueOf]
    rw [hqueue, queueOf_setQueue]
    split
    · rfl
    · next hne => exact hothers c hne
  rw [pass, if_neg (by rw [hf]; decide)]
  refine foldl_of_once (List.mem_range.2 hcls) List.nodup_range (fun c _ hc => passClass_of_empty (hothers c hc) _) ?_
    fun c _ => passClass_of_empty (hempty c) _
  have hfuel : [id].length + 8 = 8 + 1 := rfl
  rw [hq, hfuel, passClass, htry]
  exact passClass_of_empty (hempty cls) 8

/-- A placement writes harts, cores, gangs and the task. -/
theorem placeTask_keeps (s : State) (id : Nat) {t : Task} (h : t.saved = []) (cores : List Nat) :
    (placeTask s id t cores).mem = s.mem ∧ (placeTask s id t cores).stew = s.stew ∧ (placeTask s id t cores).parts = s.parts := by
  have hplace : ∀ s0 : State, Rehosted s0 (cores.zipIdx.foldl (fun s p => placeCore s t id p.2 p.1) s0) :=
    foldl_rehosted fun s p _ => placeCore_rehosted s h id p.2 p.1
  let g : Gang := { task := id, cores := cores, part := t.part, cls := t.cls, nv := t.nv, nh := t.nh, np := t.np, array := t.start.array
                    bars := match s.gang? id with | some g => g.bars | none => [], placed := s.placements }
  obtain ⟨hs, cs, heq⟩ := hplace { s.setGang id g with placements := s.placements + 1 }
  have hall : placeTask s id t cores = ({ s.setGang id g with placements := s.placements + 1, harts := hs, cores := cs } : State).setTask id
      { t with st := .running, saved := [] } := congrArg (fun u : State => u.setTask id { t with st := .running, saved := [] }) heq
  rw [hall]
  exact ⟨rfl, rfl, rfl⟩

theorem hartAt_setHarts_of_ne {core gang k : Nat} {hs : List (Nat × Hart)} (h : ∀ p, p ∈ hs → k ≠ core * 8 + p.1) (s : State) :
    (setHarts s core gang hs).hartAt k = s.hartAt k :=
  List.foldlRecOn (motive := fun u : State => u.hartAt k = s.hartAt k) hs _ rfl fun _ hu p hp =>
    (State.hartAt_setHartAt_of_ne _ _ (h p hp)).trans hu

/-- The first slot of a core takes the first vector hart (R146). -/
theorem startHarts_cons {t : Task} (h : 1 ≤ t.nv) (hfit : t.np + t.nh ≤ 4) (code k : Nat) :
    ∃ rest, startHarts t code k = (0, startHart t code .vector (k * t.nv)) :: rest ∧ ∀ p, p ∈ rest → p.1 ≠ 0 := by
  have hrange : List.range t.nv = 0 :: (List.range (t.nv - 1)).map Nat.succ := by
    rw [← List.range_succ_eq_map, Nat.sub_add_cancel h]
  rw [startHarts, hrange, List.map_cons, List.cons_append, List.cons_append]
  refine ⟨_, rfl, fun p hp => ?_⟩
  simp only [List.mem_append, List.mem_map, List.mem_range] at hp
  rcases hp with (⟨m, ⟨a, -, rfl⟩, rfl⟩ | ⟨m, -, rfl⟩) | ⟨m, hm, rfl⟩
  · exact Nat.succ_ne_zero a
  · dsimp only
    omega
  · dsimp only
    omega

/-- A hart of a placed gang: which one, and since when (R12, R429). -/
def placedHart (s : State) (id : Nat) (h : Hart) : Hart := { h with gang := some id, retired := s.reftime }

theorem hartAt_placeCore_first (s : State) {t : Task} (hs : t.saved = []) (h : 1 ≤ t.nv) (hfit : t.np + t.nh ≤ 4) (id k core : Nat) :
    (placeCore s t id k core).hartAt (core * 8) = placedHart s id (startHart t s.mem.past.length .vector (k * t.nv)) := by
  obtain ⟨rest, hrest, hne⟩ := startHarts_cons h hfit s.mem.past.length k
  have hnone : t.saved[k]? = none := by rw [hs]; rfl
  simp only [placeCore, hnone, hrest]
  refine (hartAt_setHarts_of_ne (hs := rest) (fun p hp => ?_) _).trans (State.hartAt_setHartAt_self ..)
  have := hne p hp
  omega

theorem hartAt_placeCore_other (s : State) {t : Task} (hs : t.saved = []) (id k : Nat) {core : Nat} (hc : core ≠ 0) :
    (placeCore s t id k core).hartAt 0 = s.hartAt 0 := by
  have hnone : t.saved[k]? = none := by rw [hs]; rfl
  simp only [placeCore, hnone]
  exact hartAt_setHarts_of_ne (fun p _ => by omega) _

/-- Hart 0 of a gang on the first cores of cluster 0 is the gang's first vector hart (R146). -/
theorem hartAt_placeTask_first (s : State) (id : Nat) {t : Task} (hs : t.saved = []) (h : 1 ≤ t.nv) (hfit : t.np + t.nh ≤ 4) {n : Nat}
    (hn : 1 ≤ n) : (placeTask s id t (List.range n)).hartAt 0 = placedHart s id (startHart t s.mem.past.length .vector 0) := by
  obtain ⟨m, rfl⟩ := Nat.exists_eq_add_of_le' hn
  simp only [placeTask, List.range_succ_eq_map, List.zipIdx_cons, List.foldl_cons]
  refine Eq.trans (List.foldlRecOn (motive := fun u : State => u.hartAt 0 = _) _ _ rfl fun u hu p hp => ?_)
    ((hartAt_placeCore_first _ hs h hfit id 0 0).trans ?_)
  · have hp' := List.fst_mem_of_mem_zipIdx hp
    obtain ⟨a, -, ha⟩ := List.mem_map.1 hp'
    exact (hartAt_placeCore_other u hs id p.2 (by omega)).trans hu
  · rw [Nat.zero_mul]
    rfl

end Sys2Proof.Machine.Claim
end

section
/-! ## The first task of an image (O60) -/

namespace Sys2Proof.Machine.Claim
open Sys2Proof.Machine
set_option Elab.async false

/-! ### The task (R443) -/

/-- The first task of an image. -/
def firstTask (r : LoadRequest) : Task :=
  { desc := 0, phys := 0, enc := false, part := r.part, die := r.die, cls := r.cls, cores := r.cores, nv := r.nv, nh := r.nh, np := r.np
    entry := r.entry, arg := r.arg, future := 0, start := { ptbase := r.ptbase, tvecS := r.tvec, supervisor := true }, st := .ready }

/-- A partition's first task has no QNEXT. -/
theorem setQnext_of_supervisor {s : State} {id : Nat} {t : Task} (h : s.task? id = some t) (hs : t.start.supervisor = true) (next : Word) :
    setQnext s id next = s := by
  simp only [setQnext, h, if_pos hs]

theorem readTask_of_supervisor {s : State} {id : Nat} {t : Task} (h : s.task? id = some t) (hs : t.start.supervisor = true) :
    s.readTask id = some t := by
  simp only [State.readTask, h, Option.map_some, hs, Bool.true_or, if_true]

/-- It joins an empty queue of its die. -/
theorem enqueue_first {s : State} {die cls id : Nat} {t : Task} (hq : queueOf s die cls = []) (ht : s.task? id = some t)
    (hs : t.start.supervisor = true) : enqueue s die cls id false = setQueue s die cls [id] := by
  simp only [enqueue, hq, List.nil_append, List.getLast?_nil]
  exact setQnext_of_supervisor (s := setQueue s die cls [id]) ht hs 0

theorem dequeue_first {s : State} {die cls id : Nat} {t : Task} (hq : queueOf s die cls = [id]) (ht : s.task? id = some t)
    (hs : t.start.supervisor = true) : ∃ x, dequeue s die cls = s.setDieAt die x := by
  have hnext : setQnext (setQueue s die cls []) id 0 = setQueue s die cls [] := setQnext_of_supervisor (s := setQueue s die cls []) ht hs 0
  simp only [dequeue, hq, hnext]
  exact ⟨_, congrArg (fun l => { s with dies := l }) (table_set_set s.dies die _ _)⟩

/-! ### Cores that are free after a reset -/

/-- Partition 0 alone exists, with the clusters of die 0 (R421). -/
def aloneFirst (s : State) : Prop := ∃ p, s.parts = [(0, p)] ∧ p.live = true ∧ p.clusters = 0xFF

/-- A core without a gang and without a lane group out of service. -/
def wholeCore (c : Core) : Prop := c.gang = none ∧ c.lanesFailed = 0

/-- A machine without tasks whose cores are whole and free. -/
structure Idle (s : State) : Prop where
  tasks : s.tasks = []
  dies : s.dies = []
  first : aloneFirst s
  cores : ∀ c, wholeCore (s.coreAt c)

theorem Idle.queueOf {s : State} (h : Idle s) (die cls : Nat) : queueOf s die cls = [] := by
  rw [Machine.queueOf, State.dieAt, h.dies]
  rfl

theorem usable_of_wholeCore {s : State} {r : LoadRequest} {n : Nat} (hp : aloneFirst s) (hc : wholeCore (s.coreAt n))
    (hf : (s.dieAt 0).fenced = false) (hr : r.part = 0) (hn : n < 12) : usable s (firstTask r) n = true := by
  obtain ⟨p, hparts, hlive, hclusters⟩ := hp
  obtain ⟨hgang, hlanes⟩ := hc
  have hcluster : clusterOf n = 0 := Nat.div_eq_of_lt hn
  have hdie : dieOf n = 0 := Nat.div_eq_of_lt (by omega)
  have hpart : s.partOf n = some 0 := by
    rw [State.partOf, hdie, if_neg (by rw [hf]; decide), hparts, hcluster]
    simp [hlive, hclusters]
  have hwidth : (s.coreAt n).lanes = 32 := by
    rw [Core.lanes, hlanes]
    decide
  simp only [usable, canUse, hgang, hwidth, hpart, firstTask, hr]
  rfl

theorem freeCores_of_usable {s : State} {t : Task} (h : ∀ n, n < 12 → usable s t n = true) : freeCores s t 0 = List.range 12 := by
  rw [freeCores, Nat.zero_mul]
  simp only [Nat.zero_add, List.map_id']
  exact List.filter_eq_self.2 fun n hn => h n (List.mem_range.1 hn)

/-! ### Loading (R423, R443) -/

/-- The machine once an image's bytes are in device memory and its task waits. -/
def staged (s : State) (r : LoadRequest) (m : MemSys) : State :=
  setQueue (({ s with mem := m } : State).setPartAt r.part { s.partAt r.part with root2 := r.root2 } |>.setTask 1 (firstTask r)) 0 r.cls [1]

theorem poke_of_plainRange {s : State} {a : Nat} {bytes : List Byte} (h : plainRange s a bytes.length) :
    ∃ m, s.poke a bytes = { s with mem := m } ∧ Filled s.mem m a a (a + bytes.length) bytes := by
  obtain ⟨m, hw, hf⟩ := devWrite_of_plainRange (part := 0) h
  exact ⟨m, by rw [State.poke, hw], hf⟩

theorem loadImage_staged {s : State} (h : Idle s) {r : LoadRequest} {a : Nat} {bytes : List Byte} (hd : r.die = 0)
    (hb : r.bytes = [(a, bytes)]) (hp : plainRange s a bytes.length) :
    ∃ m, Filled s.mem m a a (a + bytes.length) bytes ∧ loadImage s r = pass (staged s r m) 0 := by
  obtain ⟨m, hpoke, hf⟩ := poke_of_plainRange hp
  refine ⟨m, hf, ?_⟩
  let u : State := ({ s with mem := m } : State).setPartAt r.part { s.partAt r.part with root2 := r.root2 }
  have hlen : u.tasks.length + 1 = 1 := by rw [show u.tasks = [] from h.tasks]; rfl
  have htask : (u.setTask 1 (firstTask r)).task? 1 = some (firstTask r) := Table.find?_set_self _ _ _
  have henq : enqueue (u.setTask 1 (firstTask r)) 0 r.cls 1 false = staged s r m := enqueue_first (h.queueOf 0 r.cls) htask rfl
  have hall : loadImage s r = pass (enqueue (u.setTask (u.tasks.length + 1) (firstTask r)) r.die r.cls (u.tasks.length + 1) false) r.die := by
    simp only [loadImage, hb, List.foldl_cons, List.foldl_nil, hpoke]
    rfl
  rw [hall, hlen, hd, henq]

/-- The machine that an image's first task runs on. -/
theorem pass_staged {s : State} (h : Idle s) {r : LoadRequest} (m : MemSys) (hr : r.part = 0) (hcls : r.cls < 4) (hc : r.cores ≤ 12) :
    ∃ x, pass (staged s r m) 0 = placeTask ((staged s r m).setDieAt 0 x) 1 (firstTask r) (List.range r.cores) := by
  have htask : (staged s r m).task? 1 = some (firstTask r) := Table.find?_set_self _ _ _
  have hqueue : ∀ c, queueOf (staged s r m) 0 c = if c = r.cls then [1] else [] := fun c => by
    rw [staged, queueOf_setQueue, ← h.queueOf 0 c]
    rfl
  have hq : queueOf (staged s r m) 0 r.cls = [1] := by rw [hqueue, if_pos rfl]
  have hdie : ((staged s r m).dieAt 0).fenced = false := by
    rw [staged, setQueue, State.dieAt_setDieAt_self, State.dieAt]
    change (Table.get {} s.dies 0).fenced = false
    rw [h.dies]
    rfl
  have hidle : ∀ n, n < 12 → usable (staged s r m) (firstTask r) n = true := fun n hn => by
    have hcore : (staged s r m).coreAt n = s.coreAt n := rfl
    refine usable_of_wholeCore ?_ (hcore ▸ h.cores n) hdie hr hn
    obtain ⟨p, hparts, hlive, hclusters⟩ := h.first
    refine ⟨{ p with root2 := r.root2 }, ?_, hlive, hclusters⟩
    change Table.set s.parts r.part { s.partAt r.part with root2 := r.root2 } = _
    rw [State.partAt, hparts, hr]
    rfl
  have hfree := freeCores_of_usable hidle
  have htry := tryPlace_of_placeable (cl := 0) hq (readTask_of_supervisor htask rfl) rfl rfl
    (by rw [hfree, List.length_range]; exact hc) (fun c hc => absurd hc (Nat.not_lt_zero c))
  rw [hfree, List.take_range, Nat.min_eq_left (show (firstTask r).cores ≤ 12 from hc)] at htry
  obtain ⟨x, hx⟩ := dequeue_first hq htask rfl
  refine ⟨x, ?_⟩
  rw [← hx]
  exact pass_places hdie hcls hq (fun c hne => by rw [hqueue, if_neg hne]) rfl htry

/-- What the first task of an image finds (R443). -/
def runsFirst (t : State) (r : LoadRequest) : Prop :=
  (t.partAt 0).root2 = r.root2 ∧ let h := t.hartAt 0
    h.slot = .running ∧ h.kind = .vector ∧ h.priv = .supervisor ∧ h.pc = r.entry ∧ h.reg 10 = r.arg ∧ h.reg 11 = 0 ∧
    h.ptbase = r.ptbase ∧ h.sbank.tvec = r.tvec

theorem loadImage_runs {s : State} (h : Idle s) {r : LoadRequest} {a : Nat} {bytes : List Byte} (hr : r.part = 0) (hd : r.die = 0)
    (hb : r.bytes = [(a, bytes)]) (hp : plainRange s a bytes.length) (hcls : r.cls < 4) (hc1 : 1 ≤ r.cores) (hc : r.cores ≤ 12)
    (hnv : 1 ≤ r.nv) (hfit : r.np + r.nh ≤ 4) :
    (loadImage s r).stew = s.stew ∧ (∀ i, i < bytes.length → byteAt (loadImage s r) (.dev (a + i)) = bytes.getD i 0) ∧
      runsFirst (loadImage s r) r := by
  obtain ⟨m, ⟨hread, -⟩, hload⟩ := loadImage_staged h hd hb hp
  obtain ⟨x, hpass⟩ := pass_staged h m hr hcls hc
  obtain ⟨hmem, hstew, hparts⟩ := placeTask_keeps ((staged s r m).setDieAt 0 x) 1 (t := firstTask r) rfl (List.range r.cores)
  have hhart := hartAt_placeTask_first ((staged s r m).setDieAt 0 x) 1 (t := firstTask r) rfl hnv hfit hc1
  rw [← hpass, ← hload] at hmem hstew hparts hhart
  generalize loadImage s r = u at hmem hstew hparts hhart
  refine ⟨hstew, fun i hi => ?_, ?_⟩
  · rw [byteAt, hmem]
    refine (hread (a + i)).trans ?_
    rw [if_pos (by omega), Nat.add_sub_cancel_left]
  · have hroot : (u.partAt 0).root2 = r.root2 := by
      rw [State.partAt, hparts]
      change (Table.get {} (Table.set s.parts r.part { s.partAt r.part with root2 := r.root2 }) 0).root2 = _
      rw [hr, Table.get_set_self]
    refine ⟨hroot, ?_⟩
    rw [hhart]
    exact ⟨rfl, rfl, rfl, rfl, rfl, rfl, rfl, rfl⟩

/-! ### The image at boot (R423) -/

/-- The steward once the chain of a package without a minimum version has passed. -/
def chainPassed (s : State) (images : List LoadRequest) : Steward :=
  { bootSteward s none {} images with measured := [(0, []), (1, []), (2, [])] }

theorem stewardStages_of_no_minimum {s : State} (h : s.stew.minVersion = 0) (images : List LoadRequest) :
    stewardStages 0 [({} : BootChain).rom, ({} : BootChain).firmware, ({} : BootChain).hypervisor] (bootSteward s none {} images) =
      chainPassed s images := by
  have hpass : stageFault {} (bootSteward s none {} images).minVersion = none := by
    change stageFault {} s.stew.minVersion = none
    rw [h]
    rfl
  rw [stewardStages_of_pass hpass, stewardStages_of_pass (by exact hpass), stewardStages_of_pass (by exact hpass)]
  rfl

/-- The machine that meets an image. -/
def beforeImage (s : State) (r : LoadRequest) : State := restarted s false (chainPassed s [r]) (packageState s none).mem.ports

theorem packageReset_image {s : State} (h : s.stew.minVersion = 0) (r : LoadRequest) :
    exec (.packageReset none {} [r]) s = .next (bootImage (beforeImage s r) r) := by
  change Host.Outcome.next (boot (packageState s none) {} [r]) = _
  simp only [boot, bootStages_packageState, stewardStages_of_no_minimum h]
  rfl

theorem idle_restarted {s : State} (h : ∀ c, (s.coreAt c).lanesFailed = 0) (w : Steward) (ports : Table Port) :
    Idle (restarted s false w ports) where
  tasks := rfl
  dies := rfl
  first := ⟨Partition.first, rfl, rfl, rfl⟩
  cores := fun c => by
    rw [coreAt_restarted]
    exact ⟨rfl, h c⟩

theorem loads_beforeImage {s : State} {r : LoadRequest} (hr : r.part = 0) :
    loads (beforeImage s r) r = true ↔ ¬ ∃ x, x ∈ r.patts ∧ 16 ≤ x := by
  have hpart : (beforeImage s r).partAt r.part = Partition.first := by rw [hr]; rfl
  simp only [loads, hpart, Partition.first, Bool.true_and, List.all_eq_true, decide_eq_true_eq, not_exists, not_and, Nat.not_le]

/-- An image that fails its check, or whose pattern indices do not fit, is measured and not loaded. -/
theorem bootImage_of_fault {s : State} {r : LoadRequest} (hr : r.part = 0)
    (h : (∃ x, x ∈ r.patts ∧ 16 ≤ x) ∨ stageFault r.check (beforeImage s r).stew.minVersion ≠ none) :
    bootImage (beforeImage s r) r = measure (beforeImage s r) (3 + r.part) r.check := by
  refine if_neg ?_
  rw [Bool.and_eq_true, Option.isNone_iff_eq_none, loads_beforeImage hr]
  rintro ⟨hn, hp⟩
  exact h.elim hp fun hf => hf hn

theorem bootImage_of_pass {s : State} {r : LoadRequest} (hr : r.part = 0)
    (h : ¬ ((∃ x, x ∈ r.patts ∧ 16 ≤ x) ∨ stageFault r.check (beforeImage s r).stew.minVersion ≠ none)) :
    bootImage (beforeImage s r) r = loadImage (measure (beforeImage s r) (3 + r.part) r.check) r := by
  refine if_pos ?_
  rw [not_or, ne_eq, not_not] at h
  rw [Bool.and_eq_true, Option.isNone_iff_eq_none, loads_beforeImage hr]
  exact ⟨h.2, h.1⟩

/-- The steward once the image of partition 0 has been measured. -/
def imageMeasured (s : State) (r : LoadRequest) : Steward :=
  { chainPassed s [r] with
    measured := [(0, []), (1, []), (2, []), (3, r.check.digest)]
    reports := ((stageFault r.check s.stew.minVersion).map fun f => (3, f)).toList }

theorem measure_beforeImage {s : State} {r : LoadRequest} (hr : r.part = 0) : measure (beforeImage s r) (3 + r.part) r.check =
    restarted s false (imageMeasured s r) (packageState s none).mem.ports := by
  rw [hr]
  rfl

theorem packageReset_image_leaves {s : State} {r : LoadRequest} {a : Nat} {bytes : List Byte} (hmin : s.stew.minVersion = 0)
    (hr : r.part = 0) (hb : r.bytes = [(a, bytes)]) (hd : r.die = 0) (hcls : r.cls < 4) (hc1 : 1 ≤ r.cores) (hc : r.cores ≤ 12)
    (hnv : 1 ≤ r.nv) (hfit : r.np + r.nh ≤ 4) (hp : plainRange s a bytes.length) (hlanes : ∀ c, (s.coreAt c).lanesFailed = 0) :
    ∃ t, exec (.packageReset none {} [r]) s = .next t ∧ t.stew.booted = true ∧
      t.stew.measured = [(0, []), (1, []), (2, []), (3, r.check.digest)] ∧
      t.stew.reports = ((stageFault r.check 0).map fun f => (3, f)).toList ∧
      if (∃ x, x ∈ r.patts ∧ 16 ≤ x) ∨ stageFault r.check 0 ≠ none then t.tasks = [] ∧ t.harts = [] ∧ t.mem.dev = s.mem.dev else
      (∀ i, i < bytes.length → byteAt t (.dev (a + i)) = bytes.getD i 0) ∧ runsFirst t r := by
  refine ⟨_, packageReset_image hmin r, ?_⟩
  have hstew : (imageMeasured s r).booted = true ∧ (imageMeasured s r).measured = [(0, []), (1, []), (2, []), (3, r.check.digest)] ∧
      (imageMeasured s r).reports = ((stageFault r.check 0).map fun f => (3, f)).toList :=
    ⟨rfl, rfl, congrArg (fun least => ((stageFault r.check least).map fun f => (3, f)).toList) hmin⟩
  obtain ⟨hbooted, hmeasured, hreports⟩ := hstew
  have hleast : (beforeImage s r).stew.minVersion = 0 := hmin
  by_cases hfault : (∃ x, x ∈ r.patts ∧ 16 ≤ x) ∨ stageFault r.check 0 ≠ none
  · rw [if_pos hfault, bootImage_of_fault hr (by rw [hleast]; exact hfault), measure_beforeImage hr]
    exact ⟨hbooted, hmeasured, hreports, rfl, rfl, rfl⟩
  · rw [if_neg hfault, bootImage_of_pass hr (by rw [hleast]; exact hfault), measure_beforeImage hr]
    obtain ⟨hsame, hbytes, hruns⟩ := loadImage_runs
      (idle_restarted hlanes (imageMeasured s r) (packageState s none).mem.ports) hr hd hb hp hcls hc1 hc hnv hfit
    rw [hsame]
    exact ⟨hbooted, hmeasured, hreports, hbytes, hruns⟩

end Sys2Proof.Machine.Claim
end

section
/-! ## The statement of the management commands (O60) -/

namespace Sys2Proof.Machine.Claim
open Sys2Proof.Machine
set_option Elab.async false

/-! ### A block by its table (R426) -/

theorem parse_of_payload {s : State} {c : Command} {opcode plen seq result : Nat} {op : CmdOp} (h : blockIs s c opcode plen seq result)
    (hlen : plen ≤ 16640) (hop : payloadOp c s opcode plen = some op) : parseCommand c s = some op :=
  (parseCommand_of_blockIs h hlen).trans hop

theorem parse_retire {s : State} {c : Command} {seq result : Nat} (h : blockIs s c 1 8 seq result) (hx : cmdNum s c 64 1 < 8)
    (hz : cmdNum s c 65 7 = 0) : parseCommand c s = some (.retire (cmdNum s c 64 1)) :=
  parse_of_payload h (by decide) (if_pos ⟨rfl, hx, hz⟩)

theorem parse_reset {s : State} {c : Command} {seq result : Nat} (h : blockIs s c 3 8 seq result) (hx : cmdNum s c 64 1 < 4)
    (hz : cmdNum s c 65 7 = 0) : parseCommand c s = some (.reset (cmdNum s c 64 1)) :=
  parse_of_payload h (by decide) (if_pos ⟨rfl, hx, hz⟩)

theorem parse_create {s : State} {c : Command} {seq result : Nat} {ranges : List (Nat × Nat)}
    (h : blockIs s c 2 (32 + 8 * ranges.length) seq result) (hn1 : 1 ≤ ranges.length) (hn2 : ranges.length ≤ 16) (h1 : cmdNum s c 64 1 = 1)
    (h2 : cmdNum s c 65 1 < 4) (h3 : cmdNum s c 66 6 = 0) (h4 : cmdNum s c 88 2 = ranges.length) (h5 : cmdNum s c 90 6 = 0)
    (hr : ∀ k r, ranges[k]? = some r → r.1 < 2 ^ 14 ∧ r.2 < 2 ^ 14 ∧ cmdNum s c (96 + 8 * k) 8 = r.1 + r.2 * 2 ^ 16) :
    parseCommand c s = some (.create (cmdNum s c 65 1) (cmdNum s c 72 8) (cmdNum s c 80 8) ranges) :=
  parse_of_payload h (by omega) (partOp_create hn1 hn2 h1 h2 h3 h4 h5 hr)

theorem parse_destroy {s : State} {c : Command} {seq result : Nat} (h : blockIs s c 2 32 seq result) (h1 : cmdNum s c 64 1 = 2)
    (h2 : cmdNum s c 65 1 < 4) (h3 : cmdNum s c 66 6 = 0) (h4 : cmdNum s c 88 2 = 0) (h5 : cmdNum s c 90 6 = 0) :
    parseCommand c s = some (.destroy (cmdNum s c 65 1)) :=
  parse_of_payload h (by decide) (partOp_destroy h1 h2 h3 h4 h5)

/-! ### Good commands (R425) -/

section
variable {s : State} {c : Command} (hr : s.stew.replay = false)
include hr

theorem quote_answers {n : List Byte} (h : good s c (.quote n)) : exec (.quote c n) s =
    .next (answered { accepted s c with free := s.free + 32, stew := { (accepted s c).stew with quotes := s.stew.quotes + 1 } }
      (Machine.blockBytes c s 8 8) 0 (quoteBytes (accepted s c) n (freeBytes s 32))) :=
  command_answered rfl rfl h hr (quote_of_quiet (s := accepted s c) hr (recording_accepted h) n)

theorem retire_refuses {x : Fin 8} (h : good s c (.retire x.val)) (hm : ¬ mayRetire s x.val) : exec (.retire c x) s = .next (refused s c) :=
  command_refused rfl rfl h hr (retireStack_refused (s := accepted s c) hm)

theorem retire_queues {x : Fin 8} (h : good s c (.retire x.val)) (hm : mayRetire s x.val) : exec (.retire c x) s =
    .next (done s c (if x.val ∈ s.mem.queued then accepted s c
      else { accepted s c with mem := { s.mem with queued := s.mem.queued ++ [x.val] } })) :=
  command_answered rfl rfl h hr (retireStack_queues (s := accepted s c) hm)

theorem partCreate_refuses {part : Fin 4} {cl ports : Nat} {ranges : List (Nat × Nat)} (h : good s c (.create part.val cl ports ranges))
    (hm : part.val = 0 ∨ (s.partAt part.val).live = true ∨ ¬ freeFor s part.val cl ports ranges) :
    exec (.partCreate c part cl ports ranges) s = .next (refused s c) :=
  command_refused rfl rfl h hr (createPart_refused (s := accepted s c) hm)

theorem partCreate_creates {part : Fin 4} {cl ports : Nat} {ranges : List (Nat × Nat)} (h : good s c (.create part.val cl ports ranges))
    (hp : part.val ≠ 0) (hl : (s.partAt part.val).live = false) (hf : freeFor s part.val cl ports ranges) :
    exec (.partCreate c part cl ports ranges) s = .next (done s c
      (assignPorts ((accepted s c).setPartAt part.val (newPart part.val cl ports ranges)) ports (some part.val))) :=
  command_answered rfl rfl h hr (createPart_creates (s := accepted s c) hp hl hf)

theorem partDestroy_refuses {part : Fin 4} (h : good s c (.destroy part.val)) (hm : part.val = 0 ∨ (s.partAt part.val).live = false) :
    exec (.partDestroy c part) s = .next (refused s c) :=
  command_refused rfl rfl h hr (destroyPart_refused (s := accepted s c) hm)

theorem partDestroy_destroys {part : Fin 4} (h : good s c (.destroy part.val)) (hp : part.val ≠ 0) (hl : (s.partAt part.val).live = true)
    (ht : ∀ x, x ∈ s.tasks → x.2.part ≠ part.val) : exec (.partDestroy c part) s = .next (done s c
      (assignPorts (((s.partAt part.val).ranges.foldl zeroRange (accepted s c)).setPartAt part.val {}) (s.partAt part.val).ports none)) :=
  command_answered rfl rfl h hr (destroyPart_destroys (s := accepted s c) hp hl ht)

theorem reset_refuses {part : Fin 4} (h : good s c (.reset part.val)) (hl : (s.partAt part.val).live = false) :
    exec (.reset c part) s = .next (refused s c) :=
  command_refused rfl rfl h hr (resetPart_refused (s := accepted s c) hl)

theorem reset_runs {part : Fin 4} (h : good s c (.reset part.val)) (hl : (s.partAt part.val).live = true) :
    exec (.reset c part) s = .next (done s c (resetPartition (accepted s c) part.val)) :=
  command_answered rfl rfl h hr (resetPart_live (s := accepted s c) hl)

theorem unlockChallenge_gives (h : good s c .challenge) : exec (.unlockChallenge c) s =
    .next (answered { accepted s c with free := s.free + 32, stew := { (accepted s c).stew with challenge := some (freeBytes s 32) } }
      (Machine.blockBytes c s 8 8) 0 (freeBytes s 32)) :=
  command_answered rfl rfl h hr (giveChallenge_of_quiet (s := accepted s c) hr (recording_accepted h))

/-- A challenge is good for one UNLOCK, whether it opens the debug units or not (R428). -/
theorem unlock_spends {l : List Byte} (vendor : Bool) (h : good s c (.unlock l)) :
    let spent : State := { accepted s c with stew := { (accepted s c).stew with challenge := none } }
    exec (.unlock c l vendor) s = .next (if vendor = true ∧ s.stew.challenge = some l
      then done s c { spent with stew := { spent.stew with unlocked := true } } else answered spent (Machine.blockBytes c s 8 8) 4 []) := by
  intro spent
  by_cases hv : vendor = true ∧ s.stew.challenge = some l
  · have hrun : Machine.unlock (accepted s c) l vendor = ({ spent with stew := { spent.stew with unlocked := true } }, some []) :=
      if_pos (by simpa [accepted] using hv)
    rw [if_pos hv]
    exact command_answered rfl rfl h hr hrun
  · have hrun : Machine.unlock (accepted s c) l vendor = (spent, none) := if_neg (by simpa [accepted] using hv)
    rw [if_neg hv]
    exact command_refused rfl rfl h hr hrun

theorem record_arms (h : good s c .record) :
    exec (.record c) s = .next (done s c { accepted s c with stew := { (accepted s c).stew with armed := true } }) :=
  command_answered rfl rfl h hr rfl

end

/-- The machine once RECORD has armed the recording (R411). -/
def recordArmed (s : State) (c : Command) : State := { accepted s c with stew := { (accepted s c).stew with armed := true } }

theorem record_of_host {s : State} {c : Command} (hs : c.signed = true) (hb : s.stew.cmdBusy = true) (hrec : s.stew.recording = false)
    (hr : s.stew.replay = false) (hp : parseCommand c s = some .record) (hq : s.stew.lastSeq < cmdNum s c 8 8) :
    exec (.record c) s = .next (writeResult (recordArmed s c) c 0 []) := by
  rw [exec_command_of_arrived (i := .record c) rfl rfl ⟨fun _ => hb, hrec⟩ fun other ho => Option.some.inj (ho.symm.trans hp),
    runCommand_checked hp hs hq, commandOutcome_of_live (show (accepted s c).stew.replay = false from hr)]
  rfl

/-- Where the block lies does not change, so that the answer is written as the block asks. -/
theorem recordArmed_answers {s : State} {c : Command} (hc : c.port = none) : let t := writeResult (recordArmed s c) c 0 []
    (∀ k, k < 64 → byteAt t (.host (cmdNum s c 16 8 + k)) = (resultBlock (Machine.blockBytes c s 8 8) 0 []).getD k 0) ∧
    memOutside s t [(.host (cmdNum s c 16 8), 64)] ∧ t = { s with
      mem := { s.mem with host := t.mem.host }
      stew := { s.stew with cmdBusy := false, armed := true, lastSeq := cmdNum s c 8 8 } } := by
  have hblock : ∀ off n, Machine.blockBytes c (recordArmed s c) off n = Machine.blockBytes c s off n := fun off n => by
    simp only [Machine.blockBytes, hc]
    rfl
  have hnum : cmdNum (recordArmed s c) c 16 8 = cmdNum s c 16 8 := congrArg leNat (hblock 16 8)
  obtain ⟨hbytes, hout, heq⟩ := writeResult_of_host hc (recordArmed s c) 0
  rw [hnum] at hbytes hout
  rw [hblock] at hbytes
  exact ⟨hbytes, fun x hx ho => (hout x hx ho).trans (byteAt_of_memories s (recordArmed s c) rfl rfl rfl rfl hx), heq⟩

/-! ### The stages of boot (R423) -/

section
variable {s : State} {replay : Option (List Arrival)} {chain : BootChain}

theorem stages_pass (h1 : stageFault chain.rom s.stew.minVersion = none) (h2 : stageFault chain.firmware s.stew.minVersion = none)
    (h3 : stageFault chain.hypervisor s.stew.minVersion = none) (images : List LoadRequest) :
    stewardStages 0 [chain.rom, chain.firmware, chain.hypervisor] (bootSteward s replay chain images) =
      { bootSteward s replay chain images with
        measured := [(0, chain.rom.digest), (1, chain.firmware.digest), (2, chain.hypervisor.digest)] } := by
  rw [stewardStages_of_pass (by exact h1), stewardStages_of_pass (by exact h2), stewardStages_of_pass (by exact h3)]
  rfl

theorem stages_stop_at_rom {f : BootFault} (h1 : stageFault chain.rom s.stew.minVersion = some f) (images : List LoadRequest) :
    stewardStages 0 [chain.rom, chain.firmware, chain.hypervisor] (bootSteward s replay chain images) =
      { bootSteward s replay chain images with booted := false, measured := [(0, chain.rom.digest)], reports := [(0, f)] } := by
  rw [stewardStages_of_fault (f := f) (by exact h1)]
  rfl

theorem stages_stop_at_firmware {f : BootFault} (h1 : stageFault chain.rom s.stew.minVersion = none)
    (h2 : stageFault chain.firmware s.stew.minVersion = some f) (images : List LoadRequest) :
    stewardStages 0 [chain.rom, chain.firmware, chain.hypervisor] (bootSteward s replay chain images) =
      { bootSteward s replay chain images with
        booted := false, measured := [(0, chain.rom.digest), (1, chain.firmware.digest)], reports := [(1, f)] } := by
  rw [stewardStages_of_pass (by exact h1), stewardStages_of_fault (f := f) (by exact h2)]
  rfl

theorem stages_stop_at_hypervisor {f : BootFault} (h1 : stageFault chain.rom s.stew.minVersion = none)
    (h2 : stageFault chain.firmware s.stew.minVersion = none) (h3 : stageFault chain.hypervisor s.stew.minVersion = some f)
    (images : List LoadRequest) :
    stewardStages 0 [chain.rom, chain.firmware, chain.hypervisor] (bootSteward s replay chain images) =
      { bootSteward s replay chain images with
        booted := false
        measured := [(0, chain.rom.digest), (1, chain.firmware.digest), (2, chain.hypervisor.digest)], reports := [(2, f)] } := by
  rw [stewardStages_of_pass (by exact h1), stewardStages_of_pass (by exact h2), stewardStages_of_fault (f := f) (by exact h3)]
  rfl

end

/-! ### The statement -/

/-- Settles O60: an event of a command is one run of the steward's table, and boot is a fold over the stages and the images. -/
theorem managementEvents : Obligations.ManagementEvents := by
  unfold Obligations.ManagementEvents
  refine ⟨fun i s c op hc ha => ⟨fun hp hb => ?noneWaits, fun other ho hne => ?otherEvent, fun harr =>
      ⟨command_malformed hc ha harr, command_unsigned hc ha harr, command_stale hc ha harr⟩⟩,
    fun s c seq result => ⟨parseCommand_malformed, parse_retire, fun ranges => parse_create, parse_destroy, parse_reset,
      fun h => parse_of_payload h (by decide) rfl, fun h => parse_of_payload h (by decide) rfl, fun h => parse_of_payload h (by decide) rfl,
      fun h => parse_of_payload h (by decide) rfl⟩,
    fun i s c op => command_of_replay,
    fun s c hr => ⟨fun n => quote_answers hr, fun x h => ⟨retire_refuses hr h, retire_queues hr h⟩, fun part cl ports ranges h =>
        ⟨partCreate_refuses hr h, ?creates⟩,
      fun part h => ⟨partDestroy_refuses hr h, ?destroys⟩, fun part h => ⟨reset_refuses hr h, ?resetsNone, ?resetsGang⟩, unlockChallenge_gives hr,
      fun l vendor => unlock_spends hr vendor, record_arms hr⟩,
    fun s c hc hs hb hrec hr hp hq => ?record, fun s replay chain => ?packageReset, fun s x => stageFault_eq_none_iff x _, stewardWatchdog_eq,
    fun s r a bytes hmin harmed hr hb hd hcls hc1 hc hnv hnv4 hfit hp hlanes =>
      packageReset_image_leaves hmin hr hb hd hcls hc1 hc hnv hfit hp hlanes⟩
  case noneWaits => rw [exec_takeCommand hc ha, takeCommand_of_none_waiting hp hb]
  case otherEvent => rw [exec_takeCommand hc ha, takeCommand_of_other ho hne]
  case creates =>
    intro hp hl hf
    obtain ⟨hstew, hparts, hlive, hcl, hranges, hports, hharts, htasks, hmem, hport⟩ :=
      createPart_leaves (accepted s c) part.val cl ports ranges
    exact ⟨_, partCreate_creates hr h hp hl hf, hstew, hparts, hlive, hcl, hranges, hports, hharts, htasks,
      fun x hx => (hmem x hx).trans (byteAt_of_memories s (accepted s c) rfl rfl rfl rfl hx), hport⟩
  case destroys => exact fun hp hl ht => ⟨_, partDestroy_destroys hr h hp hl ht, destroyPart_leaves (accepted s c) part.val⟩
  case resetsNone =>
    intro hl ht
    rw [reset_runs hr h hl, resetPartition_of_no_tasks (s := accepted s c) ht]
  case resetsGang =>
    exact fun id t hl htasks hpart hst => ⟨_, reset_runs hr h hl,
      (gangKill_without_hart ..).trans (congrArg Host.Outcome.next (resetPartition_of_one_gang (s := accepted s c) htasks hpart hst).symm)⟩
  case record => exact ⟨_, record_of_host hs hb hrec hr hp hq, recordArmed_answers hc⟩
  case packageReset =>
    obtain ⟨hdev, hhost, hphase, hstep, hrepl, hleaving, hqueued, hfailing, hreported, hlive, hold, hcap, hfront⟩ :=
      restarted_mem s replay.isSome (stewardStages 0 [chain.rom, chain.firmware, chain.hypervisor] (bootSteward s replay chain []))
        (packageState s replay).mem.ports
    refine ⟨_, packageReset_eq s replay chain, fun _ => rfl, rfl, rfl, rfl, rfl, coreAt_restarted s _ _ _, hdev, hhost, hphase, hstep, hrepl,
      hleaving, hqueued, hfailing, hreported, hlive, hold, hcap, hfront, fun n r d h => portAt_of_one_policer h replay,
      fun h1 h2 h3 => stages_pass h1 h2 h3 [], fun f h1 => ?_, fun f h1 h2 => ?_, fun f h1 h2 h3 => ?_⟩
    · have hstew := stages_stop_at_rom (replay := replay) h1 []
      exact ⟨hstew, step_of_stopped rfl (congrArg Steward.booted hstew)⟩
    · have hstew := stages_stop_at_firmware (replay := replay) h1 h2 []
      exact ⟨hstew, step_of_stopped rfl (congrArg Steward.booted hstew)⟩
    · have hstew := stages_stop_at_hypervisor (replay := replay) h1 h2 h3 []
      exact ⟨hstew, step_of_stopped rfl (congrArg Steward.booted hstew)⟩

end Sys2Proof.Machine.Claim
end
